-- ==== Sys2Proof/Word.lean ====
section
/-!
DEFINITION. The word types of the Chrofin C4 and their plainest arithmetic.
Bit 0 is the least significant bit and multi-byte values are little-endian (00_scope R8).
-/
namespace Sys2Proof

/-- One byte. -/
abbrev Byte := BitVec 8
/-- A 32-bit register lane or instruction word (09 R245, 08 R222). -/
abbrev W32 := BitVec 32
/-- A 64-bit scalar register or generic address (01 R10). -/
abbrev W64 := BitVec 64

/-- A list of lanes as a 32-bit mask, bit L for original lane L (05 R150). -/
abbrev Lanes := BitVec 32

/-- Sparse data by key in one canonical form: keys strictly rising, no entry equal to the default. -/
abbrev Cells (w : Nat) := List (Nat × BitVec w)

end Sys2Proof
end

