-- ==== Sys2Proof/Syntax.lean ====
section
/-!
DEFINITION. The instructions of the Chrofin C4: one constructor per row of spec/opcode_table.json. The first 249 are
instruction words (09 R254 to R266), whose arguments are the word's own fields. The other 77 are the module's events,
which have no word: what an event happens to, or the input that arrives with it, is an `EvArg`, which the state holds
while the event is performed (Machine/State.lean).
-/
namespace Sys2Proof

/-- What a home slice or home ALU does with a request (02 R60). -/
inductive HomeOp where
  | read | write | add | min | max | and | or | xor | exch | cas | inc
  deriving DecidableEq, Repr

/-- Where the old value of a home request goes: a lane register of an operation in flight (02 R67). -/
structure Reply where
  blk : Nat
  wp : Nat
  id : Nat
  lane : Nat
  reg : Nat
  deriving DecidableEq, Repr

/-- A request on its way to its home slice (02 R57, R60, R79). `ty` is a TYPE code of 09 R258, `cmp` the compare
value of a compare-and-swap. -/
structure HomeReq where
  asid : Nat
  user : Bool
  va : W64
  op : HomeOp
  ty : BitVec 4
  val : W64
  cmp : W64
  reply : Option Reply
  deriving DecidableEq, Repr

/-- A remote access: the queue pair and its port, the key of the region and the virtual address (01 R43, 03 R116). -/
structure Remote where
  qp : Nat
  port : Nat
  key : Nat
  va : W64
  deriving DecidableEq, Repr

/-- A region to be registered (01 R43): permissions are read, write and atomic in bits 0 to 2. -/
structure RegionReq where
  key : Nat
  asid : Nat
  base : W64
  length : Nat
  perm : BitVec 3
  deriving DecidableEq, Repr

/-- A firmware image with its two signatures (19 R439). -/
structure FwImage where
  bytes : List Byte
  ecdsa : List Byte
  lms : List Byte
  deriving DecidableEq, Repr

/-- The request that a loss notice names (16 R425). -/
inductive Loss where
  | access (blk wp id : Nat)      -- a lane read in flight
  | element (id : Nat)            -- a collector operation, by its identifier
  | copyRow (id : Nat)            -- the row a copy is moving
  | packet (q : Nat)              -- a front-end packet access
  | remote (qp : Nat)             -- a remote access
  | message (cluster : Nat)       -- an active message on its way to a cluster
  deriving DecidableEq, Repr

/-- What an event happens to, or the input that arrives with it. -/
inductive EvArg where
  | none
  | unit (n : Nat)                                   -- a queue, core, cluster, die, port, grid, copy, walk or pool
  | pair (a b : Nat)                                 -- a warp of a block; an entry of a controller; a priority of a port
  | triple (a b c : Nat)                             -- a split-table entry or operation of a warp; a node's queue
  | lanes (blk wp id : Nat) (l : Lanes)              -- the lanes of an operation whose reply lands
  | pull (blk wp x r : Nat)                          -- a register, or a returning narrow warp, of an export
  | flag (n : Nat) (b : Bool)                        -- a switch and its new value
  | entry (c e : Nat) (b : Bool)                     -- a migration entry's EN; a pause of a priority
  | value (n : Nat) (v : W64)                        -- a device register offset or a wake register, and the value written
  | link (n : Nat) (rel acq : BitVec 16) (bound : Bool)
  | quotas (q0 q1 q2 : Nat)
  | bytes (b : List Byte)                            -- a creation record, a nonce
  | image (i : FwImage)
  | region (r : RegionReq)
  | outage (da db lost : Nat) (dead : Bool)          -- the dies of a dead link, the requests lost on it, no route left
  | loss (l : Loss)
  | remoteBytes (r : Remote) (b : List Byte)
  | remoteLen (r : Remote) (n : Nat)
  | remoteAdd (r : Remote) (v : W64)
  | remoteCas (r : Remote) (cmp v : W64)
  | send (qpn : BitVec 24) (msg : List Byte)
  | walk (asid : Nat) (va : W64)
  | home (r : HomeReq)
  deriving DecidableEq, Repr

/-- The instructions and events. The constructors with fields come first. -/
inductive Instr where
  /-- `add`, R307: Per-lane add of a and b in the mode's type, written to d. -/
  | add (d : BitVec 8) (a : BitVec 8) (b : BitVec 8)
  /-- `sub`, R307: Per-lane subtract a minus b in the mode's type. -/
  | sub (d : BitVec 8) (a : BitVec 8) (b : BitVec 8)
  /-- `mul`, R307: Per-lane multiply of a and b. -/
  | mul (d : BitVec 8) (a : BitVec 8) (b : BitVec 8)
  /-- `mulhi`, R307: High half of the exact integer product of a and b. -/
  | mulhi (d : BitVec 8) (a : BitVec 8) (b : BitVec 8)
  /-- `fma`, R307: d := a × b + d with one rounding. -/
  | fma (d : BitVec 8) (a : BitVec 8) (b : BitVec 8)
  /-- `fms`, R307: d := a × b − d with one rounding. -/
  | fms (d : BitVec 8) (a : BitVec 8) (b : BitVec 8)
  /-- `fnma`, R307: d := d − a × b with one rounding. -/
  | fnma (d : BitVec 8) (a : BitVec 8) (b : BitVec 8)
  /-- `min`, R307: Per-lane minimum of a and b. -/
  | min (d : BitVec 8) (a : BitVec 8) (b : BitVec 8)
  /-- `max`, R307: Per-lane maximum of a and b. -/
  | max (d : BitVec 8) (a : BitVec 8) (b : BitVec 8)
  /-- `abd`, R307: Per-lane absolute difference of a and b. -/
  | abd (d : BitVec 8) (a : BitVec 8) (b : BitVec 8)
  /-- `and`, R308: Per-lane bitwise and. -/
  | and (d : BitVec 8) (a : BitVec 8) (b : BitVec 8)
  /-- `or`, R308: Per-lane bitwise or. -/
  | or (d : BitVec 8) (a : BitVec 8) (b : BitVec 8)
  /-- `xor`, R308: Per-lane bitwise exclusive or. -/
  | xor (d : BitVec 8) (a : BitVec 8) (b : BitVec 8)
  /-- `andn`, R308: Per-lane a AND NOT b. -/
  | andn (d : BitVec 8) (a : BitVec 8) (b : BitVec 8)
  /-- `shl`, R308: Per-lane left shift by b modulo the width. -/
  | shl (d : BitVec 8) (a : BitVec 8) (b : BitVec 8)
  /-- `shr`, R308: Per-lane right shift, arithmetic or logical by type. -/
  | shr (d : BitVec 8) (a : BitVec 8) (b : BitVec 8)
  /-- `rot`, R308: Per-lane rotate left by b modulo the width. -/
  | rot (d : BitVec 8) (a : BitVec 8) (b : BitVec 8)
  /-- `sel`, R313: Selects a or b per lane by the lane guard predicate. -/
  | sel (d : BitVec 8) (a : BitVec 8) (b : BitVec 8)
  /-- `ceq`, R316: Writes predicate d with a == b per lane. -/
  | ceq (p : BitVec 3) (a : BitVec 8) (b : BitVec 8)
  /-- `cne`, R316: Writes predicate d with a != b per lane, true for NaN. -/
  | cne (p : BitVec 3) (a : BitVec 8) (b : BitVec 8)
  /-- `clt`, R316: Writes predicate d with a < b per lane. -/
  | clt (p : BitVec 3) (a : BitVec 8) (b : BitVec 8)
  /-- `cle`, R316: Writes predicate d with a ≤ b per lane. -/
  | cle (p : BitVec 3) (a : BitVec 8) (b : BitVec 8)
  /-- `cgt`, R316: Writes predicate d with a > b per lane. -/
  | cgt (p : BitVec 3) (a : BitVec 8) (b : BitVec 8)
  /-- `cge`, R316: Writes predicate d with a ≥ b per lane. -/
  | cge (p : BitVec 3) (a : BitVec 8) (b : BitVec 8)
  /-- `cun`, R316: Writes predicate d when either float operand is NaN. -/
  | cun (p : BitVec 3) (a : BitVec 8) (b : BitVec 8)
  /-- `ccls`, R316: Writes predicate d when a's float class is in the class byte. -/
  | ccls (p : BitVec 3) (a : BitVec 8) (cls : BitVec 8)
  /-- `mov`, R313: Copies a's bits to d per lane. -/
  | mov (d : BitVec 8) (a : BitVec 8)
  /-- `cvt`, R317: Converts a from the mode type to the destination type, optionally through a format slot or as a Zennis block. -/
  | cvt (d : BitVec 8) (a : BitVec 8) (dt : BitVec 4) (us : BitVec 1) (slot : BitVec 3)
  /-- `neg`, R307: Per-lane negation. -/
  | neg (d : BitVec 8) (a : BitVec 8)
  /-- `abs`, R307: Per-lane absolute value. -/
  | abs (d : BitVec 8) (a : BitVec 8)
  /-- `popc`, R308: Per-lane count of set bits. -/
  | popc (d : BitVec 8) (a : BitVec 8)
  /-- `clz`, R308: Per-lane count of leading zeros. -/
  | clz (d : BitVec 8) (a : BitVec 8)
  /-- `brev`, R308: Per-lane bit reversal. -/
  | brev (d : BitVec 8) (a : BitVec 8)
  /-- `bfe`, R309: Extracts a bit field of a given by pos and len in b. -/
  | bfe (d : BitVec 8) (a : BitVec 8) (b : BitVec 8)
  /-- `bfi`, R309: Inserts low bits of a into d at the field given by b. -/
  | bfi (d : BitVec 8) (a : BitVec 8) (b : BitVec 8)
  /-- `mulw`, R311: Exact 64-bit product of 32-bit a and b into a pair. -/
  | mulw (d : BitVec 8) (a : BitVec 8) (b : BitVec 8)
  /-- `dot2`, R311: d := d + a0·b0 + a1·b1 on packed pairs. -/
  | dot2 (d : BitVec 8) (a : BitVec 8) (b : BitVec 8)
  /-- `dot4`, R311: d := d + sum of four i8 products. -/
  | dot4 (d : BitVec 8) (a : BitVec 8) (b : BitVec 8)
  /-- `addc`, R310: 32-bit add with carry in and out through p7. -/
  | addc (d : BitVec 8) (a : BitVec 8) (b : BitVec 8)
  /-- `subb`, R310: 32-bit subtract with borrow in and out through p7. -/
  | subb (d : BitVec 8) (a : BitVec 8) (b : BitVec 8)
  /-- `pack`, R312: Packs the low halves of a and b into one word. -/
  | pack (d : BitVec 8) (a : BitVec 8) (b : BitVec 8)
  /-- `unplo`, R312: Unpacks the low element(s) of a packed value. -/
  | unplo (d : BitVec 8) (a : BitVec 8)
  /-- `unphi`, R312: Unpacks the high element(s) of a packed value. -/
  | unphi (d : BitVec 8) (a : BitVec 8)
  /-- `clamp`, R307: d := min(max(d, a), b). -/
  | clamp (d : BitVec 8) (a : BitVec 8) (b : BitVec 8)
  /-- `csgn`, R307: Magnitude of a with the sign of b. -/
  | csgn (d : BitVec 8) (a : BitVec 8) (b : BitVec 8)
  /-- `fract`, R314: Fractional part a − floor(a). -/
  | fract (d : BitVec 8) (a : BitVec 8)
  /-- `rnd`, R314: Rounds a to an integral value in the mode's rounding. -/
  | rnd (d : BitVec 8) (a : BitVec 8)
  /-- `scl`, R314: a × 2^n with n from b. -/
  | scl (d : BitVec 8) (a : BitVec 8) (b : BitVec 8)
  /-- `rcp`, R315: Per-lane reciprocal within the stated bound. -/
  | rcp (d : BitVec 8) (a : BitVec 8)
  /-- `rsq`, R315: Per-lane reciprocal square root. -/
  | rsq (d : BitVec 8) (a : BitVec 8)
  /-- `sqrt`, R315: Per-lane correctly rounded square root. -/
  | sqrt (d : BitVec 8) (a : BitVec 8)
  /-- `exp2`, R315: Per-lane base-2 exponential. -/
  | exp2 (d : BitVec 8) (a : BitVec 8)
  /-- `log2`, R315: Per-lane base-2 logarithm. -/
  | log2 (d : BitVec 8) (a : BitVec 8)
  /-- `sin`, R315: Per-lane sine in radians. -/
  | sin (d : BitVec 8) (a : BitVec 8)
  /-- `cos`, R315: Per-lane cosine in radians. -/
  | cos (d : BitVec 8) (a : BitVec 8)
  /-- `tanh`, R315: Per-lane hyperbolic tangent. -/
  | tanh (d : BitVec 8) (a : BitVec 8)
  /-- `sigm`, R315: Per-lane logistic sigmoid. -/
  | sigm (d : BitVec 8) (a : BitVec 8)
  /-- `div`, R307: Per-lane division, correctly rounded for floats. -/
  | div (d : BitVec 8) (a : BitVec 8) (b : BitVec 8)
  /-- `erf`, R315: Per-lane error function. -/
  | erf (d : BitVec 8) (a : BitVec 8)
  /-- `shfl`, R323: Reads a from lane base + b within the partition group. -/
  | shfl (d : BitVec 8) (a : BitVec 8) (b : BitVec 8)
  /-- `shup`, R323: Reads a from lane L − b within the group. -/
  | shup (d : BitVec 8) (a : BitVec 8) (b : BitVec 8)
  /-- `shdn`, R323: Reads a from lane L + b within the group. -/
  | shdn (d : BitVec 8) (a : BitVec 8) (b : BitVec 8)
  /-- `shxr`, R323: Reads a from lane L xor b within the group. -/
  | shxr (d : BitVec 8) (a : BitVec 8) (b : BitVec 8)
  /-- `vall`, R324: Predicate vote: set when every active lane of the group has pA. -/
  | vall (p : BitVec 3) (q : BitVec 3)
  /-- `vany`, R324: Predicate vote: set when some active lane of the group has pA. -/
  | vany (p : BitVec 3) (q : BitVec 3)
  /-- `blt`, R324: Ballot of predicate pA over the group's active lanes into a register. -/
  | blt (d : BitVec 8) (q : BitVec 3)
  /-- `radd`, R325: Sum of a over the group's active lanes in lane order. -/
  | radd (d : BitVec 8) (a : BitVec 8)
  /-- `rmin`, R325: Minimum of a over the group's active lanes. -/
  | rmin (d : BitVec 8) (a : BitVec 8)
  /-- `rmax`, R325: Maximum of a over the group's active lanes. -/
  | rmax (d : BitVec 8) (a : BitVec 8)
  /-- `psum`, R325: Inclusive or exclusive prefix sum over the group's active lanes. -/
  | psum (d : BitVec 8) (a : BitVec 8) (ex : BitVec 1)
  /-- `mtch`, R326: Mask of active group lanes holding the same bits as this lane. -/
  | mtch (d : BitVec 8) (a : BitVec 8)
  /-- `conf`, R326: Mask of earlier active group lanes holding the same bits. -/
  | conf (d : BitVec 8) (a : BitVec 8)
  /-- `bcst`, R326: Broadcasts a of the lowest active lane of the group. -/
  | bcst (d : BitVec 8) (a : BitVec 8)
  /-- `ld`, R330: Per-lane load from a generic address at the mode's level. -/
  | ld (d : BitVec 8) (a : BitVec 8) (b : BitVec 8)
  /-- `st`, R330: Per-lane store to a generic address at the mode's level. -/
  | st (d : BitVec 8) (a : BitVec 8) (b : BitVec 8)
  /-- `ldq`, R331: Per-lane 16-byte load into four registers, committing partially. -/
  | ldq (d : BitVec 8) (a : BitVec 8) (b : BitVec 8)
  /-- `stq`, R331: Per-lane 16-byte store from four registers, committing partially. -/
  | stq (d : BitVec 8) (a : BitVec 8) (b : BitVec 8)
  /-- `ldacq`, R330: Per-lane acquire load. -/
  | ldacq (d : BitVec 8) (a : BitVec 8) (b : BitVec 8)
  /-- `strel`, R330: Per-lane release store. -/
  | strel (d : BitVec 8) (a : BitVec 8) (b : BitVec 8)
  /-- `ldref`, R133: Loads 8 bytes and the word's reference tag into a pair. -/
  | ldref (d : BitVec 8) (a : BitVec 8) (b : BitVec 8)
  /-- `stref`, R134: Stores a reference after object and escape checks, setting its tag. -/
  | stref (d : BitVec 8) (a : BitVec 8) (b : BitVec 8)
  /-- `pub`, R136: Publishes the objects a reference reaches, then stores it as a release. -/
  | pub (d : BitVec 8) (a : BitVec 8) (b : BitVec 8)
  /-- `aadd`, R333: Atomic add at the home ALU or banks, returning the old value. -/
  | aadd (d : BitVec 8) (a : BitVec 8) (b : BitVec 8)
  /-- `amin`, R333: Atomic minimum returning the old value. -/
  | amin (d : BitVec 8) (a : BitVec 8) (b : BitVec 8)
  /-- `amax`, R333: Atomic maximum returning the old value. -/
  | amax (d : BitVec 8) (a : BitVec 8) (b : BitVec 8)
  /-- `aand`, R333: Atomic bitwise and returning the old value. -/
  | aand (d : BitVec 8) (a : BitVec 8) (b : BitVec 8)
  /-- `aor`, R333: Atomic bitwise or returning the old value. -/
  | aor (d : BitVec 8) (a : BitVec 8) (b : BitVec 8)
  /-- `axor`, R333: Atomic bitwise xor returning the old value. -/
  | axor (d : BitVec 8) (a : BitVec 8) (b : BitVec 8)
  /-- `axch`, R333: Atomic exchange returning the old value. -/
  | axch (d : BitVec 8) (a : BitVec 8) (b : BitVec 8)
  /-- `acas`, R333: Atomic compare-and-swap returning the old value. -/
  | acas (d : BitVec 8) (a : BitVec 8) (b : BitVec 8)
  /-- `ainc`, R333: Atomic wrapping increment bounded by b. -/
  | ainc (d : BitVec 8) (a : BitVec 8) (b : BitVec 8)
  /-- `gred`, R335: Home-ALU add with no return. -/
  | gred (a : BitVec 8) (b : BitVec 8)
  /-- `gmin`, R335: Home-ALU minimum with no return. -/
  | gmin (a : BitVec 8) (b : BitVec 8)
  /-- `gmax`, R335: Home-ALU maximum with no return. -/
  | gmax (a : BitVec 8) (b : BitVec 8)
  /-- `gth`, R336: Bounds-checked indexed gather through the request collector. -/
  | gth (d : BitVec 8) (a : BitVec 8) (k : BitVec 4)
  /-- `sct`, R336: Bounds-checked indexed scatter through the request collector. -/
  | sct (d : BitVec 8) (a : BitVec 8) (k : BitVec 4)
  /-- `scad`, R336: Bounds-checked indexed scatter-add, duplicates combined in the collector. -/
  | scad (d : BitVec 8) (a : BitVec 8) (k : BitVec 4)
  /-- `gthh`, R339: Reads an index at an address, then the element it names, at the homes. -/
  | gthh (d : BitVec 8) (a : BitVec 8) (k : BitVec 4)
  /-- `pref`, R340: Prefetches lines by level with no event or fault. -/
  | pref (a : BitVec 8) (b : BitVec 8)
  /-- `ohdr`, R132: Creates a PRIVATE object with a header at a lower-half address. -/
  | ohdr (d : BitVec 8) (a : BitVec 8) (b : BitVec 8)
  /-- `accrd`, R369: Reads an accumulator tile into 16 registers. -/
  | accrd (d : BitVec 8) (a : BitVec 8)
  /-- `accwr`, R369: Writes 16 registers into an accumulator tile. -/
  | accwr (d : BitVec 8) (a : BitVec 8)
  /-- `rkrd`, R377: Reads one ranked-list entry per lane into a pair. -/
  | rkrd (d : BitVec 8) (a : BitVec 8)
  /-- `tw`, R381: Walks one decision tree per lane and returns the leaf value. -/
  | tw (d : BitVec 8) (a : BitVec 8) (b : BitVec 8)
  /-- `twi`, R381: Walks one decision tree per lane and returns the leaf index. -/
  | twi (d : BitVec 8) (a : BitVec 8) (b : BitVec 8)
  /-- `addi`, R327: Add with a signed 10-bit immediate. -/
  | addi (d : BitVec 8) (a : BitVec 8) (imm : BitVec 10)
  /-- `andi`, R327: Bitwise and with a sign-extended immediate. -/
  | andi (d : BitVec 8) (a : BitVec 8) (imm : BitVec 10)
  /-- `ori`, R327: Bitwise or with a sign-extended immediate. -/
  | ori (d : BitVec 8) (a : BitVec 8) (imm : BitVec 10)
  /-- `xori`, R327: Bitwise xor with a sign-extended immediate. -/
  | xori (d : BitVec 8) (a : BitVec 8) (imm : BitVec 10)
  /-- `shli`, R327: Left shift by an immediate. -/
  | shli (d : BitVec 8) (a : BitVec 8) (imm : BitVec 10)
  /-- `shri`, R327: Right shift by an immediate. -/
  | shri (d : BitVec 8) (a : BitVec 8) (imm : BitVec 10)
  /-- `ceqi`, R327: Predicate compare for equality with an immediate. -/
  | ceqi (p : BitVec 3) (a : BitVec 8) (imm : BitVec 10)
  /-- `clti`, R327: Predicate compare less-than with an immediate. -/
  | clti (p : BitVec 3) (a : BitVec 8) (imm : BitVec 10)
  /-- `cgti`, R327: Predicate compare greater-than with an immediate. -/
  | cgti (p : BitVec 3) (a : BitVec 8) (imm : BitVec 10)
  /-- `ldi`, R332: Load with an immediate byte offset. -/
  | ldi (d : BitVec 8) (a : BitVec 8) (imm : BitVec 10)
  /-- `sti`, R332: Store with an immediate byte offset. -/
  | sti (d : BitVec 8) (a : BitVec 8) (imm : BitVec 10)
  /-- `muli`, R327: Multiply by an immediate. -/
  | muli (d : BitVec 8) (a : BitVec 8) (imm : BitVec 10)
  /-- `mini`, R327: Minimum with an immediate. -/
  | mini (d : BitVec 8) (a : BitVec 8) (imm : BitVec 10)
  /-- `maxi`, R327: Maximum with an immediate. -/
  | maxi (d : BitVec 8) (a : BitVec 8) (imm : BitVec 10)
  /-- `s.add`, R289: Scalar 64-bit add. -/
  | sAdd (sd : BitVec 6) (sa : BitVec 6) (sb : BitVec 6)
  /-- `s.sub`, R289: Scalar 64-bit subtract. -/
  | sSub (sd : BitVec 6) (sa : BitVec 6) (sb : BitVec 6)
  /-- `s.mul`, R289: Scalar low 64-bit product. -/
  | sMul (sd : BitVec 6) (sa : BitVec 6) (sb : BitVec 6)
  /-- `s.mulh`, R289: Scalar high 64 bits of the signed product. -/
  | sMulh (sd : BitVec 6) (sa : BitVec 6) (sb : BitVec 6)
  /-- `s.and`, R289: Scalar bitwise and. -/
  | sAnd (sd : BitVec 6) (sa : BitVec 6) (sb : BitVec 6)
  /-- `s.or`, R289: Scalar bitwise or. -/
  | sOr (sd : BitVec 6) (sa : BitVec 6) (sb : BitVec 6)
  /-- `s.xor`, R289: Scalar bitwise xor. -/
  | sXor (sd : BitVec 6) (sa : BitVec 6) (sb : BitVec 6)
  /-- `s.shl`, R289: Scalar logical left shift. -/
  | sShl (sd : BitVec 6) (sa : BitVec 6) (sb : BitVec 6)
  /-- `s.shr`, R289: Scalar logical right shift. -/
  | sShr (sd : BitVec 6) (sa : BitVec 6) (sb : BitVec 6)
  /-- `s.sar`, R289: Scalar arithmetic right shift. -/
  | sSar (sd : BitVec 6) (sa : BitVec 6) (sb : BitVec 6)
  /-- `s.min`, R289: Scalar signed minimum. -/
  | sMin (sd : BitVec 6) (sa : BitVec 6) (sb : BitVec 6)
  /-- `s.max`, R289: Scalar signed maximum. -/
  | sMax (sd : BitVec 6) (sa : BitVec 6) (sb : BitVec 6)
  /-- `s.minu`, R289: Scalar unsigned minimum. -/
  | sMinu (sd : BitVec 6) (sa : BitVec 6) (sb : BitVec 6)
  /-- `s.maxu`, R289: Scalar unsigned maximum. -/
  | sMaxu (sd : BitVec 6) (sa : BitVec 6) (sb : BitVec 6)
  /-- `s.mov`, R289: Scalar register copy. -/
  | sMov (sd : BitVec 6) (sa : BitVec 6)
  /-- `s.ceq`, R289: Scalar equality compare to 1 or 0. -/
  | sCeq (sd : BitVec 6) (sa : BitVec 6) (sb : BitVec 6)
  /-- `s.clt`, R289: Scalar signed less-than compare. -/
  | sClt (sd : BitVec 6) (sa : BitVec 6) (sb : BitVec 6)
  /-- `s.cltu`, R289: Scalar unsigned less-than compare. -/
  | sCltu (sd : BitVec 6) (sa : BitVec 6) (sb : BitVec 6)
  /-- `s.addi`, R289: Scalar add of a sign-extended immediate. -/
  | sAddi (sd : BitVec 6) (sa : BitVec 6) (imm : BitVec 10)
  /-- `s.andi`, R289: Scalar and with a sign-extended immediate. -/
  | sAndi (sd : BitVec 6) (sa : BitVec 6) (imm : BitVec 10)
  /-- `s.ori`, R289: Scalar or with a sign-extended immediate. -/
  | sOri (sd : BitVec 6) (sa : BitVec 6) (imm : BitVec 10)
  /-- `s.xori`, R289: Scalar xor with a sign-extended immediate. -/
  | sXori (sd : BitVec 6) (sa : BitVec 6) (imm : BitVec 10)
  /-- `s.shli`, R289: Scalar left shift by an immediate. -/
  | sShli (sd : BitVec 6) (sa : BitVec 6) (imm : BitVec 10)
  /-- `s.shri`, R289: Scalar logical right shift by an immediate. -/
  | sShri (sd : BitVec 6) (sa : BitVec 6) (imm : BitVec 10)
  /-- `s.muli`, R289: Scalar multiply by a sign-extended immediate. -/
  | sMuli (sd : BitVec 6) (sa : BitVec 6) (imm : BitVec 10)
  /-- `s.ld`, R290: Scalar 8-byte load. -/
  | sLd (sd : BitVec 6) (sa : BitVec 6) (imm : BitVec 10)
  /-- `s.ld32`, R290: Scalar 4-byte zero-extended load. -/
  | sLd32 (sd : BitVec 6) (sa : BitVec 6) (imm : BitVec 10)
  /-- `s.st`, R290: Scalar 8-byte store. -/
  | sSt (sd : BitVec 6) (sa : BitVec 6) (imm : BitVec 10)
  /-- `s.st32`, R290: Scalar 4-byte store. -/
  | sSt32 (sd : BitVec 6) (sa : BitVec 6) (imm : BitVec 10)
  /-- `s.ldacq`, R290: Scalar 8-byte acquire load. -/
  | sLdacq (sd : BitVec 6) (sa : BitVec 6) (imm : BitVec 10)
  /-- `s.strel`, R290: Scalar 8-byte release store. -/
  | sStrel (sd : BitVec 6) (sa : BitVec 6) (imm : BitVec 10)
  /-- `s.aadd`, R291: Scalar atomic add, 64- or 32-bit, returning the old value. -/
  | sAadd (sd : BitVec 6) (sa : BitVec 6) (sb : BitVec 6) (w : BitVec 1)
  /-- `s.acas`, R291: Scalar atomic compare-and-swap, 64- or 32-bit. -/
  | sAcas (sd : BitVec 6) (sa : BitVec 6) (sb : BitVec 6) (w : BitVec 1)
  /-- `s.rdl`, R292: Reads one lane of a vector register into a scalar. -/
  | sRdl (sd : BitVec 6) (r : BitVec 8) (lane : BitVec 5)
  /-- `s.srd`, R293: Reads a special register into a scalar. -/
  | sSrd (sd : BitVec 6) (idx : BitVec 10)
  /-- `s.swr`, R293: Writes a scalar to a special register with rw fields. -/
  | sSwr (idx : BitVec 10) (sa : BitVec 6)
  /-- `p.and`, R294: Predicate and over the fragment's lanes. -/
  | pAnd (pd : BitVec 3) (pa : BitVec 3) (pb : BitVec 3)
  /-- `p.or`, R294: Predicate or over the fragment's lanes. -/
  | pOr (pd : BitVec 3) (pa : BitVec 3) (pb : BitVec 3)
  /-- `p.xor`, R294: Predicate xor over the fragment's lanes. -/
  | pXor (pd : BitVec 3) (pa : BitVec 3) (pb : BitVec 3)
  /-- `p.andn`, R294: Predicate pa AND NOT pb. -/
  | pAndn (pd : BitVec 3) (pa : BitVec 3) (pb : BitVec 3)
  /-- `p.not`, R294: Predicate complement. -/
  | pNot (pd : BitVec 3) (pa : BitVec 3)
  /-- `p.mov`, R294: Sets a predicate from the low 32 bits of a scalar. -/
  | pMov (pd : BitVec 3) (sa : BitVec 6)
  /-- `p.get`, R294: Reads a predicate masked by MASK into a scalar. -/
  | pGet (sd : BitVec 6) (pa : BitVec 3)
  /-- `p.pop`, R294: Counts a predicate's bits within MASK into a scalar. -/
  | pPop (sd : BitVec 6) (pa : BitVec 3)
  /-- `p.ffs`, R294: Finds the lowest set predicate bit within MASK. -/
  | pFfs (sd : BitVec 6) (pa : BitVec 3)
  /-- `part`, R295: Sets the warp's partition width. -/
  | part (imm : BitVec 10)
  /-- `acb`, R296: Sets the warp's accumulator base. -/
  | acb (sa : BitVec 6) (imm : BitVec 10)
  /-- `msf`, R297: Replaces one field of the fragment's mode image. -/
  | msf (val : BitVec 6) (code : BitVec 4)
  /-- `s.popc`, R289: Scalar count of set bits. -/
  | sPopc (sd : BitVec 6) (sa : BitVec 6)
  /-- `s.clz`, R289: Scalar count of leading zeros. -/
  | sClz (sd : BitVec 6) (sa : BitVec 6)
  /-- `bra`, R278: Unconditional branch of the whole fragment. -/
  | bra (off : BitVec 20)
  /-- `brd`, R279: Divergent branch that may split the fragment. -/
  | brd (c : BitVec 4) (off : BitVec 20)
  /-- `brdx`, R158: Divergent branch that may export the minority side to a narrow core. -/
  | brdx (c : BitVec 4) (off : BitVec 20)
  /-- `bany`, R278: Branches the fragment when some lane has the predicate. -/
  | bany (c : BitVec 4) (off : BitVec 20)
  /-- `ball`, R278: Branches the fragment when every lane has the predicate. -/
  | ball (c : BitVec 4) (off : BitVec 20)
  /-- `bnon`, R278: Branches the fragment when no lane has the predicate. -/
  | bnon (c : BitVec 4) (off : BitVec 20)
  /-- `mark`, R280: Pushes a join-stack entry for a rejoin point. -/
  | mark (off : BitVec 20)
  /-- `call`, R283: Writes the return address to s46 and branches. -/
  | call (off : BitVec 20)
  /-- `jr`, R283: Branches to the address in s32 + c. -/
  | jr (c : BitVec 4)
  /-- `loop`, R278: Decrements s32 + c and branches while it is nonzero. -/
  | loop (c : BitVec 4) (off : BitVec 20)
  /-- `wait`, R285: Holds the fragment until the named completion flags are complete. -/
  | wait (mask : BitVec 12)
  /-- `sbr`, R278: Branches the fragment when s32 + c is nonzero. -/
  | sbr (c : BitVec 4) (off : BitVec 20)
  /-- `li.v`, R299: Writes a sign-extended 18-bit immediate to a vector register. -/
  | liV (d : BitVec 8) (imm : BitVec 18)
  /-- `lui.v`, R299: Writes an 18-bit immediate into bits 31:14 of a vector register. -/
  | luiV (d : BitVec 8) (imm : BitVec 18)
  /-- `li.s`, R300: Writes a sign-extended 20-bit immediate to a scalar. -/
  | liS (sd : BitVec 6) (imm : BitVec 20)
  /-- `mode`, R301: Replaces the fragment's whole mode image. -/
  | mode (image : BitVec 26)
  /-- `mm`, R361: Dense matrix quarter operation into an accumulator tile. -/
  | mm (hA : BitVec 4) (hB : BitVec 4) (slot : BitVec 3) (off : BitVec 5) (z : BitVec 1)
  /-- `mmsp`, R366: Sparse matrix quarter operation under per-row budgets and metadata. -/
  | mmsp (hA : BitVec 4) (hB : BitVec 4) (slot : BitVec 3) (m : BitVec 8) (z : BitVec 1)
  /-- `mmg`, R363: Matrix quarter operation on rows gathered by index from a table handle. -/
  | mmg (hA : BitVec 4) (hB : BitVec 4) (slot : BitVec 3) (x : BitVec 8) (z : BitVec 1)
  /-- `mmrk`, R372: Matrix scores inserted into a ranked list. -/
  | mmrk (hA : BitVec 4) (hB : BitVec 4) (slot : BitVec 3) (off : BitVec 5)
  /-- `spcmp`, R365: Prunes a dense tile to row budgets, writing packed values and metadata. -/
  | spcmp (hS : BitVec 4) (hD : BitVec 4) (slot : BitVec 3) (m : BitVec 8)
  /-- `accclr`, R367: Clears accumulator tiles and ends lists that touch them. -/
  | accclr (n : BitVec 4) (off : BitVec 5)
  /-- `accdcl`, R371: Declares a ranked list of k entries per row. -/
  | accdcl (k : BitVec 6) (off : BitVec 5)
  /-- `accdcl.u`, R371: Ends a ranked-list declaration. -/
  | accdclU (k : BitVec 6) (off : BitVec 5)
  /-- `accst`, R368: Converts and stores an accumulator tile into the window through a handle. -/
  | accst (h : BitVec 4) (slot : BitVec 3) (off : BitVec 5)
  /-- `accld`, R368: Loads and decodes a window tile into an accumulator tile. -/
  | accld (h : BitVec 4) (slot : BitVec 3) (off : BitVec 5)
  /-- `rkbnd`, R373: Clears a tile-predicate bit when every row's bound lies below its threshold. -/
  | rkbnd (z : BitVec 3) (b : BitVec 8) (off : BitVec 5)
  /-- `rkmrg`, R376: Merges a list image from memory into a resident list. -/
  | rkmrg (sa : BitVec 6) (off : BitVec 5)
  /-- `rkst`, R375: Stores a ranked list as an image with plain stores. -/
  | rkst (sa : BitVec 6) (off : BitVec 5)
  /-- `rkst.m`, R375: Merges a ranked list into an image at its home ALU or banks. -/
  | rkstM (sa : BitVec 6) (off : BitVec 5)
  /-- `zset`, R378: Sets a tile predicate to an immediate. -/
  | zset (z : BitVec 3) (imm : BitVec 4)
  /-- `zlog`, R378: Combines two tile predicates with and, or or andn. -/
  | zlog (z : BitVec 3) (za : BitVec 3) (zb : BitVec 3) (fn : BitVec 2)
  /-- `ztst`, R378: Copies a tile predicate's quarter bits into a lane predicate. -/
  | ztst (z : BitVec 3) (p : BitVec 3)
  /-- `hset`, R358: Sets a handle in every live quarter, optionally staggered. -/
  | hset (h : BitVec 4) (sa : BitVec 6) (sb : BitVec 6) (st : BitVec 1)
  /-- `hadj`, R358: Adjusts one field of a handle in every live quarter. -/
  | hadj (h : BitVec 4) (sa : BitVec 6) (sl : BitVec 2)
  /-- `cpk`, R347: Appends one to sixteen copy requests to the core's kick queue. -/
  | cpk (sa : BitVec 6) (n : BitVec 4)
  /-- `cpcl`, R348: Closes the warp's open copy batch. -/
  | cpcl (res : BitVec 1) (sd : BitVec 6)
  /-- `cpwt`, R349: Waits for copy batches, optionally reading and clearing the error count. -/
  | cpwt (res : BitVec 1) (sd : BitVec 6) (rel : BitVec 1) (sa : BitVec 6) (k : BitVec 6)
  /-- `arin`, R351: Adds a byte count to an arrival object. -/
  | arin (sa : BitVec 6) (sb : BitVec 6)
  /-- `arin.set`, R351: Sets an arrival object's count and clears its OVER and SKIPPED bits. -/
  | arinSet (sa : BitVec 6) (sb : BitVec 6)
  /-- `arwt`, R352: Sleeps until an arrival object's remaining count reads 0. -/
  | arwt (sa : BitVec 6)
  /-- `bar`, R387: Arrives at a block barrier and waits for the phase. -/
  | bar (id : BitVec 4) (cnt : BitVec 1) (sa : BitVec 6)
  /-- `bara`, R387: Arrives at a block barrier without waiting. -/
  | bara (id : BitVec 4) (cnt : BitVec 1) (sa : BitVec 6)
  /-- `barw`, R387: Waits for the phase of the fragment's last bara. -/
  | barw (id : BitVec 4)
  /-- `schn`, R190: Requests the next tile from the gear set. -/
  | schn (sd : BitVec 6)
  /-- `schd`, R389: Marks a tile's grains done. -/
  | schd (sa : BitVec 6)
  /-- `schp`, R390: Reads the caller's cluster RECALL bit. -/
  | schp (sd : BitVec 6)
  /-- `schs`, R391: Tuner writes a staged gear register or RECALL. -/
  | schs (idx : BitVec 8) (sa : BitVec 6)
  /-- `schh`, R194: Hands a tile over through a handover entry. -/
  | schh (sa : BitVec 6) (sb : BitVec 6) (sc : BitVec 6)
  /-- `schq`, R390: Reads a gear register. -/
  | schq (idx : BitVec 8) (sd : BitVec 6)
  /-- `rpush`, R392: Pushes a record per active lane to a node or dependency counter. -/
  | rpush (d : BitVec 8) (sa : BitVec 6) (sb : BitVec 6)
  /-- `rpop`, R393: Takes further records of the node group's node. -/
  | rpop (d : BitVec 8) (p : BitVec 3) (w : BitVec 1)
  /-- `dadd`, R394: Adds to a dependency counter. -/
  | dadd (sa : BitVec 6) (sb : BitVec 6)
  /-- `ddec`, R394: Subtracts from a dependency counter, releasing held records at zero. -/
  | ddec (sa : BitVec 6) (sb : BitVec 6)
  /-- `launch`, R395: Launches a child grid from a launch record. -/
  | launch (sa : BitVec 6)
  /-- `amsd`, R396: Sends a 128-byte active message to a cluster or peer. -/
  | amsd (a : BitVec 8) (sb : BitVec 6) (sc : BitVec 6)
  /-- `bwt`, R397: Waits on a wait word until its condition holds. -/
  | bwt (sa : BitVec 6) (sb : BitVec 6) (cond : BitVec 2)
  /-- `bwk`, R398: Writes a wait word as a release and wakes its waiters. -/
  | bwk (sa : BitVec 6) (sb : BitVec 6)
  /-- `rdon`, R399: Offers register blocks to a sibling warp. -/
  | rdon (sa : BitVec 6) (n : BitVec 5)
  /-- `racc`, R399: Accepts a register donation from a sibling warp. -/
  | racc (sa : BitVec 6)
  /-- `fence`, R89: Memory fence of a given kind and scope. -/
  | fence (scope : BitVec 2) (kind : BitVec 2)
  /-- `trap`, R401: Retires and delivers TRAP as a notice. -/
  | trap (imm : BitVec 16)
  /-- `pmap`, R39: Installs a popped frame over a prepared page-table entry. -/
  | pmap (sd : BitVec 6) (sa : BitVec 6) (sb : BitVec 6)
  /-- `pumap`, R404: Clears V in leaves within a range and invalidates it. -/
  | pumap (sa : BitVec 6) (sb : BitVec 6)
  /-- `tinv`, R31: Writes back and drops caches and translations over a range. -/
  | tinv (sa : BitVec 6) (sb : BitVec 6)
  /-- `pool`, R402: Pops a frame from a first-touch pool. -/
  | pool (sd : BitVec 6) (sa : BitVec 6)
  /-- `pool.push`, R402: Pushes a frame back onto a first-touch pool. -/
  | poolPush (sa : BitVec 6) (sb : BitVec 6)
  /-- `l1wb`, R354: Writes back dirty L1 lines, whole or over a range. -/
  | l1wb (rng : BitVec 1) (sa : BitVec 6) (sb : BitVec 6)
  /-- `l1inv`, R354: Writes back and drops L1 lines, whole or over a range. -/
  | l1inv (rng : BitVec 1) (sa : BitVec 6) (sb : BitVec 6)
  /-- `join`, R156: Waits at the rejoin PC and fuses the fragments of the level. -/
  | join
  /-- `regang`, R157: Waits to fuse with other fragments of the same level without the stack. -/
  | regang
  /-- `ret`, R283: Branches to the address in s46. -/
  | ret
  /-- `exit`, R284: Ends every lane of the issuing fragment. -/
  | exit
  /-- `spfen`, R379: Increments the block's window generation. -/
  | spfen
  /-- `schc`, R193: Tuner commits the staged gear set, shifting the generation. -/
  | schc
  /-- `yld`, R400: Moves the fragment to the back of selection for 16 cycles. -/
  | yld
  /-- `tret`, R210: Ends the handler and replays, discards or resumes. -/
  | tret
  /-- `brk`, R401: Retires and delivers BRK as a notice. -/
  | brk
  /-- `nop`, R401: Does nothing. -/
  | nop
  /-- `halt`, R401: Escalates the block to firmware. -/
  | halt
  /-- R406: An 8-byte write of WIDX to a queue's wake register lets the queue fetch packets, or halts it. -/
  | wakeRegisterWrite
  /-- R410: The front end fetches, checks and starts a NOP packet. -/
  | nopPacket
  /-- R410: The front end fetches, checks and starts a LAUNCH packet, accepting its record. -/
  | launchPacket
  /-- R410: The front end reads a node table and launches the root record into a work graph. -/
  | graphPacket
  /-- R410: The front end issues a linear copy between two virtual ranges. -/
  | copyPacket
  /-- R410: After earlier packets complete, writes or adds a value as a system-scope release. -/
  | signalPacket
  /-- R410: Blocks later packets until a masked memory condition holds. -/
  | waitmemPacket
  /-- R410: After earlier packets complete, adds tokens to a tandem link. -/
  | releasePacket
  /-- R410: Waits for and consumes tokens on a tandem link. -/
  | acquirePacket
  /-- R410: Starts after every earlier packet completes, with no other effect. -/
  | fencePacket
  /-- R410: After earlier packets complete, writes TIME to memory as a release. -/
  | timePacket
  /-- R410: After earlier packets complete, performs the invalidation steps over a range. -/
  | invalPacket
  /-- R405: Management command that creates a queue from a creation record. -/
  | queueCreation
  /-- R411: Management command restarting a halted queue by fetching the halting packet again. -/
  | refetch
  /-- R411: Management command restarting a halted queue by marking the halting packet complete. -/
  | skip
  /-- R413: Polziem binds or unbinds a tandem link in the link table. -/
  | linkBinding
  /-- R414: Management debug command resuming an escalated block at TRAPPC. -/
  | debugResume
  /-- R46: Management command setting the division of accumulator quotas among context slots. -/
  | accumulatorQuotaDivision
  /-- R442: The security core forms a report signed with ECDSA and a fresh LMS leaf. -/
  | attestationRequest
  /-- R441: Recovery image command that writes and verifies a firmware image. -/
  | firmwareImageWrite
  /-- R43: Polziem registers a remote memory region, backing any prepared entries. -/
  | regionRegistration
  /-- R415: Polziem maps a wake-pending queue into a slot, re-evaluating its blocking packet. -/
  | queueRemap
  /-- R437: A cold or warm start runs the seven start steps and hands the module to Polziem. -/
  | start
  /-- R441: An I3C management command clears the failed-start counter. -/
  | failedStartCounterClear
  /-- R445: A junction or DRAM temperature limit lowers the arithmetic clock in steps. -/
  | throttling
  /-- R445: A shutdown temperature stops the module without writing back caches. -/
  | shutdown
  /-- R444: A stacked DRAM die reaching 85 °C doubles its refresh. -/
  | doubledRefresh
  /-- R424: A router finds a link dead, stops injection, discards queued flits and installs new routes. -/
  | drain
  /-- R425: A source receives a loss notice and reissues or raises FABRIC. -/
  | lossNotice
  /-- R426: An Ethernet port goes down and its queue pairs enter the error state. -/
  | portDown
  /-- R43: A remote write through a registered region is performed at the L2 home. -/
  | rdmaWrite
  /-- R43: A remote read through a registered region is performed at the L2 home. -/
  | rdmaRead
  /-- R426: A remote 8-byte fetch-and-add is performed at the home ALU. -/
  | fetchAndAdd
  /-- R426: A remote 8-byte compare-and-swap is performed at the home ALU. -/
  | compareAndSwap
  /-- R423: An inbound active-message SEND is matched to a peer entry and queued or dropped. -/
  | rdmaSend
  /-- R423: A receiver-not-ready NAK makes the sender's hub retransmit the SEND. -/
  | rnrNak
  /-- R423: The receiver acknowledges a SEND and the sender's amsd flag B completes. -/
  | sendAcknowledgement
  /-- R421: A queued active message starts its handler warp when a warp slot frees. -/
  | activeMessageHandlerStart
  /-- R40: Writing GO starts a migration copy from line 0, or is ignored. -/
  | migctlGo
  /-- R40: Writing EN makes a migration entry live or stops its redirection. -/
  | migctlEn
  /-- R40: Writing 1 to DONE clears it. -/
  | migctlDoneClear
  /-- R41: A controller finishes copying one line of a migrating page and advances PTR, setting DONE at the end. -/
  | migrationLineCopy
  /-- R18: A write to a device register that has no row of its own. -/
  | deviceRegisterWrite
  /-- R26: A controller's page walk for a TLB miss completes with a leaf or a fault. -/
  | translationWalk
  /-- R79: A request arrives at its home slice and is performed there or at the home ALU. -/
  | homeSliceRequest
  /-- R64: A collector group's oldest entry has waited its merge window and the group is sent. -/
  | mergeWindowExpiry
  /-- R69: All packets of a fragment's instruction have reported and elements are committed or cancelled. -/
  | collectorCommit
  /-- R67: A reply lands, completing lane parts of a flag and enabling wave splitting. -/
  | memoryReply
  /-- R71: The copy engine takes a request from the kick queue, validates it and issues it. -/
  | copyIssue
  /-- R76: A copy's write of a destination granule completes, clearing fill-pending and counting down the arrival object. -/
  | copyGranuleWrite
  /-- R106: A copy completes, possibly completing its batch. -/
  | copyCompletion
  /-- R209: A fault is delivered to a fragment once the warp has no handler. -/
  | faultDelivery
  /-- R137: The walker takes a pub lane entry and claims the root object. -/
  | publicationWalk
  /-- R138: After an object's write-backs complete, the walker scans its tagged words. -/
  | objectScan
  /-- R139: After all write-backs of a walk, the queued objects become PUBLISHED in reverse order. -/
  | flipPhase
  /-- R136: Once every waited object is PUBLISHED, the pub lane's reference is stored as a release. -/
  | finalStore
  /-- R177: A waiting launch is accepted when a die dispatcher entry frees. -/
  | launchAcceptance
  /-- R177: A bench dispatcher places the next block on cores and clusters. -/
  | blockStart
  /-- R417: A 100 ns cadence-ramp step ends and the next allowance of core starts and stops applies. -/
  | cadenceStep
  /-- R284: A block ends once its warps, flag operations and window copies have finished. -/
  | blockEnd
  /-- R169: A grid retires after its blocks and child grids and writes its completion signal. -/
  | gridRetirement
  /-- R204: A running block's quantum ends and a same-class waiter may switch it out. -/
  | quantumExpiry
  /-- R220: A saved block is restored onto a bench that can hold it. -/
  | blockRestore
  /-- R200: A node queue's oldest record has waited the node's timer and a node group starts. -/
  | nodeTimerExpiry
  /-- R397: An unregistered wait-word waiter re-reads the word at least once per µs. -/
  | waitWordReread
  /-- R181: A fragment ready and unchosen for 48 cycles is promoted ahead of others. -/
  | issuePromotion
  /-- R400: The 16-cycle hold of a yld ends. -/
  | yieldExpiry
  /-- R153: The highest spilled join-stack entry is read back from the spill area. -/
  | joinStackRefill
  /-- R160: A pulled parent register arrives at an exported narrow warp. -/
  | registerPull
  /-- R161: A narrow warp whose parts reached the rejoin PC pushes dirty registers back and decrements the join counter. -/
  | exportReturn
  /-- R38: Firmware frames arrive for an empty pool and a waiting pop completes. -/
  | poolRefill
  /-- R382: A matrix quarter operation in flight finishes writing its tile, completing its part of flag B. -/
  | quarterOperationCompletion
  /-- R249: A non-memory flag-A operation (special function, div, lane-crossing op, tree walk, accrd, rkrd) lands its register result and completes its flag. -/
  | longLatencyResult
  /-- R438: Loss of module power stops everything, leaves an advanced LMS leaf unused for good, and makes the next start cold. -/
  | powerLoss
  /-- R442: A new LMS key is provisioned under the manufacturer's signature, ending the exhaustion error for attestation reports. -/
  | lmsKeyProvisioning
  /-- R426: An IEEE 802.1Qbb pause for a priority arrives on a port and holds the traffic class mapped to it. -/
  | priorityFlowControl
  /-- R426: An ECN congestion mark arrives for a queue pair and its sending rate is reduced as Polziem has set. -/
  | ecnMarking
  deriving DecidableEq, Repr

end Sys2Proof
end

