-- ==== Sys2Proof/WellFormed.lean ====
section
/-!
DEFINITION. When the fields of an instruction word hold values that the spec gives a meaning, whatever the mode of the
fragment (09 R254 to R266 and the instruction chapters). A word whose fields break one of these checks is ILL at decode.
Checks that need the mode, the privilege or the allotment are made when the instruction issues (Machine/Operands.lean).
-/
namespace Sys2Proof.WellFormed

/-- A destination register field: v0 to v215 or k0 to k7; 224 to 255 is ILL (09 R254). -/
def isDest (d : BitVec 8) : Bool := d.toNat < 224
/-- A 64-bit base: an even register or a broadcast (09 R260, 12 R329). -/
def isBase (a : BitVec 8) : Bool := 224 ≤ a.toNat || a.toNat % 2 == 0
/-- A register pair (09 R255). -/
def isPair (d : BitVec 8) : Bool := d.toNat < 224 && d.toNat % 2 == 0
/-- Four registers, from a multiple of four (09 R255). -/
def isQuad (d : BitVec 8) : Bool := d.toNat < 224 && d.toNat % 4 == 0
/-- Sixteen registers, from a multiple of eight, wholly in v (09 R255, 13 R369). -/
def isSixteen (d : BitVec 8) : Bool := d.toNat ≤ 200 && d.toNat % 8 == 0
/-- Register `r` of an operand of `n` registers from `a` is one of the `m` registers from `d`. -/
def overlaps (d m a n : Nat) : Bool := a < 224 && d < a + n && a < d + m
/-- The overlaps that make `ldq` ILL (12 R356). -/
def ldqOverlaps (d a b : BitVec 8) : Bool := overlaps d.toNat 4 a.toNat 2 || overlaps d.toNat 4 b.toNat 1
/-- The overlap that makes `accrd` ILL (13 R369). -/
def sixteenOverlaps (d a : BitVec 8) : Bool := overlaps d.toNat 16 a.toNat 1
/-- The special-register indices of 09 R267. -/
def isSpecial (i : BitVec 10) : Bool :=
  let n := i.toNat
  n ≤ 0x00D || (0x010 ≤ n && n ≤ 0x015) || n == 0x020 || n == 0x021 || (0x100 ≤ n && n ≤ 0x108)
/-- The special registers with an rw field (10 R293). -/
def isWritable (i : BitVec 10) : Bool :=
  let n := i.toNat
  n == 0x013 || n == 0x014 || n == 0x100 || n == 0x103 || n == 0x105 || n == 0x106
/-- The widths `part` takes (10 R295). -/
def isWidth (w : BitVec 10) : Bool := w == 2 || w == 4 || w == 8 || w == 16 || w == 32
/-- The width in bits of the mode field that `msf` code `c` names, 0 for none (09 R258). -/
def fieldWidth (c : BitVec 4) : Nat :=
  match c.toNat with
  | 0 => 4 | 1 => 2 | 2 => 1 | 3 => 1 | 4 => 1 | 5 => 4 | 6 => 3 | 7 => 2 | _ => 0
/-- A field code and value that `msf` takes (10 R297). -/
def isField (c : BitVec 4) (v : BitVec 6) : Bool := c.toNat < 8 && v.toNat < 2 ^ fieldWidth c
/-- A mode image with its reserved bits zero (10 R301). -/
def isImage (m : BitVec 26) : Bool := m.toNat % 256 == 0
/-- The first register of a tile group (14 R388). -/
def isGroup (s : BitVec 6) : Bool := s == 8 || s == 16 || s == 24 || s == 32 || s == 40

end Sys2Proof.WellFormed

namespace Sys2Proof
open WellFormed

/-- The checks of an instruction word's own fields. An event carries no word and is always well formed. -/
def Instr.wellFormed : Instr → Bool
  | .add d _ _ => isDest d
  | .sub d _ _ => isDest d
  | .mul d _ _ => isDest d
  | .mulhi d _ _ => isDest d
  | .fma d _ _ => isDest d
  | .fms d _ _ => isDest d
  | .fnma d _ _ => isDest d
  | .min d _ _ => isDest d
  | .max d _ _ => isDest d
  | .abd d _ _ => isDest d
  | .and d _ _ => isDest d
  | .or d _ _ => isDest d
  | .xor d _ _ => isDest d
  | .andn d _ _ => isDest d
  | .shl d _ _ => isDest d
  | .shr d _ _ => isDest d
  | .rot d _ _ => isDest d
  | .sel d _ _ => isDest d
  | .ceq _ _ _ => true
  | .cne _ _ _ => true
  | .clt _ _ _ => true
  | .cle _ _ _ => true
  | .cgt _ _ _ => true
  | .cge _ _ _ => true
  | .cun _ _ _ => true
  | .ccls _ _ _ => true
  | .mov d _ => isDest d
  | .cvt d _ _ _ _ => isDest d
  | .neg d _ => isDest d
  | .abs d _ => isDest d
  | .popc d _ => isDest d
  | .clz d _ => isDest d
  | .brev d _ => isDest d
  | .bfe d _ _ => isDest d
  | .bfi d _ _ => isDest d
  | .mulw d _ _ => isDest d
  | .dot2 d _ _ => isDest d
  | .dot4 d _ _ => isDest d
  | .addc d _ _ => isDest d
  | .subb d _ _ => isDest d
  | .pack d _ _ => isDest d
  | .unplo d _ => isDest d
  | .unphi d _ => isDest d
  | .clamp d _ _ => isDest d
  | .csgn d _ _ => isDest d
  | .fract d _ => isDest d
  | .rnd d _ => isDest d
  | .scl d _ _ => isDest d
  | .rcp d _ => isDest d
  | .rsq d _ => isDest d
  | .sqrt d _ => isDest d
  | .exp2 d _ => isDest d
  | .log2 d _ => isDest d
  | .sin d _ => isDest d
  | .cos d _ => isDest d
  | .tanh d _ => isDest d
  | .sigm d _ => isDest d
  | .div d _ _ => isDest d
  | .erf d _ => isDest d
  | .shfl d _ _ => isDest d
  | .shup d _ _ => isDest d
  | .shdn d _ _ => isDest d
  | .shxr d _ _ => isDest d
  | .vall _ _ => true
  | .vany _ _ => true
  | .blt d _ => isDest d
  | .radd d _ => isDest d
  | .rmin d _ => isDest d
  | .rmax d _ => isDest d
  | .psum d _ _ => isDest d
  | .mtch d _ => isDest d
  | .conf d _ => isDest d
  | .bcst d _ => isDest d
  | .ld d a _ => isDest d && isBase a
  | .st d a _ => isDest d && isBase a
  | .ldq d a b => isQuad d && isBase a && !ldqOverlaps d a b
  | .stq d a _ => isQuad d && isBase a
  | .ldacq d a _ => isDest d && isBase a
  | .strel d a _ => isDest d && isBase a
  | .ldref d a _ => isPair d && isBase a
  | .stref d a _ => isPair d && isBase a
  | .pub d a _ => isPair d && isBase a
  | .aadd d a _ => isDest d && isBase a
  | .amin d a _ => isDest d && isBase a
  | .amax d a _ => isDest d && isBase a
  | .aand d a _ => isDest d && isBase a
  | .aor d a _ => isDest d && isBase a
  | .axor d a _ => isDest d && isBase a
  | .axch d a _ => isDest d && isBase a
  | .acas d a _ => isDest d && isBase a
  | .ainc d a _ => isDest d && isBase a
  | .gred a _ => isBase a
  | .gmin a _ => isBase a
  | .gmax a _ => isBase a
  | .gth d a _ => isDest d && d != a
  | .sct d _ _ => isDest d
  | .scad d _ _ => isDest d
  | .gthh d a _ => isDest d && isBase a
  | .pref a _ => isBase a
  | .ohdr d a _ => isPair d && isBase a
  | .accrd d a => isSixteen d && !sixteenOverlaps d a
  | .accwr d _ => isSixteen d
  | .rkrd d _ => isPair d
  | .tw d _ _ => isDest d
  | .twi d _ _ => isDest d
  | .addi d _ _ => isDest d
  | .andi d _ _ => isDest d
  | .ori d _ _ => isDest d
  | .xori d _ _ => isDest d
  | .shli d _ _ => isDest d
  | .shri d _ _ => isDest d
  | .ceqi _ _ _ => true
  | .clti _ _ _ => true
  | .cgti _ _ _ => true
  | .ldi d a _ => isDest d && isBase a
  | .sti d a _ => isDest d && isBase a
  | .muli d _ _ => isDest d
  | .mini d _ _ => isDest d
  | .maxi d _ _ => isDest d
  | .sAdd _ _ _ => true
  | .sSub _ _ _ => true
  | .sMul _ _ _ => true
  | .sMulh _ _ _ => true
  | .sAnd _ _ _ => true
  | .sOr _ _ _ => true
  | .sXor _ _ _ => true
  | .sShl _ _ _ => true
  | .sShr _ _ _ => true
  | .sSar _ _ _ => true
  | .sMin _ _ _ => true
  | .sMax _ _ _ => true
  | .sMinu _ _ _ => true
  | .sMaxu _ _ _ => true
  | .sMov _ _ => true
  | .sCeq _ _ _ => true
  | .sClt _ _ _ => true
  | .sCltu _ _ _ => true
  | .sAddi _ _ _ => true
  | .sAndi _ _ _ => true
  | .sOri _ _ _ => true
  | .sXori _ _ _ => true
  | .sShli _ _ _ => true
  | .sShri _ _ _ => true
  | .sMuli _ _ _ => true
  | .sLd _ _ _ => true
  | .sLd32 _ _ _ => true
  | .sSt _ _ _ => true
  | .sSt32 _ _ _ => true
  | .sLdacq _ _ _ => true
  | .sStrel _ _ _ => true
  | .sAadd _ _ _ _ => true
  | .sAcas _ _ _ _ => true
  | .sRdl _ r _ => isDest r
  | .sSrd _ idx => isSpecial idx
  | .sSwr idx _ => isWritable idx
  | .pAnd _ _ _ => true
  | .pOr _ _ _ => true
  | .pXor _ _ _ => true
  | .pAndn _ _ _ => true
  | .pNot _ _ => true
  | .pMov _ _ => true
  | .pGet _ _ => true
  | .pPop _ _ => true
  | .pFfs _ _ => true
  | .part imm => isWidth imm
  | .acb _ _ => true
  | .msf val code => isField code val
  | .sPopc _ _ => true
  | .sClz _ _ => true
  | .bra _ => true
  | .brd _ _ => true
  | .brdx _ _ => true
  | .bany _ _ => true
  | .ball _ _ => true
  | .bnon _ _ => true
  | .mark _ => true
  | .call _ => true
  | .jr _ => true
  | .loop _ _ => true
  | .wait _ => true
  | .sbr _ _ => true
  | .liV d _ => isDest d
  | .luiV d _ => isDest d
  | .liS _ _ => true
  | .mode image => isImage image
  | .mm _ _ _ _ _ => true
  | .mmsp _ _ _ m _ => isQuad m
  | .mmg _ _ _ _ _ => true
  | .mmrk _ _ _ _ => true
  | .spcmp _ _ _ m => isQuad m
  | .accclr _ _ => true
  | .accdcl _ _ => true
  | .accdclU _ _ => true
  | .accst _ _ _ => true
  | .accld _ _ _ => true
  | .rkbnd _ b _ => isPair b
  | .rkmrg _ _ => true
  | .rkst _ _ => true
  | .rkstM _ _ => true
  | .zset _ _ => true
  | .zlog _ _ _ fn => fn != 3
  | .ztst _ _ => true
  | .hset _ _ _ _ => true
  | .hadj _ _ _ => true
  | .cpk _ _ => true
  | .cpcl res sd => (res == 1 || sd == 0)
  | .cpwt res sd rel sa k => (res == 1 || sd == 0) && (if rel == 1 then sa == 0 else k == 0)
  | .arin _ _ => true
  | .arinSet _ _ => true
  | .arwt _ => true
  | .bar _ cnt sa => (cnt == 1 || sa == 0)
  | .bara _ cnt sa => (cnt == 1 || sa == 0)
  | .barw _ => true
  | .schn sd => isGroup sd
  | .schd sa => isGroup sa
  | .schp _ => true
  | .schs _ _ => true
  | .schh sa _ _ => isGroup sa
  | .schq _ _ => true
  | .rpush d sa sb => isDest d && (sb == 0 || sa == 0)
  | .rpop d _ _ => isDest d
  | .dadd _ _ => true
  | .ddec _ _ => true
  | .launch _ => true
  | .amsd a _ _ => isDest a
  | .bwt _ _ cond => cond != 3
  | .bwk _ _ => true
  | .rdon _ _ => true
  | .racc _ => true
  | .fence _ _ => true
  | .trap _ => true
  | .pmap _ _ _ => true
  | .pumap _ _ => true
  | .tinv _ _ => true
  | .pool _ _ => true
  | .poolPush _ _ => true
  | .l1wb rng sa sb => (rng == 1 || (sa == 0 && sb == 0))
  | .l1inv rng sa sb => (rng == 1 || (sa == 0 && sb == 0))
  | .join => true
  | .regang => true
  | .ret => true
  | .exit => true
  | .spfen => true
  | .schc => true
  | .yld => true
  | .tret => true
  | .brk => true
  | .nop => true
  | .halt => true
  | .wakeRegisterWrite => true
  | .nopPacket => true
  | .launchPacket => true
  | .graphPacket => true
  | .copyPacket => true
  | .signalPacket => true
  | .waitmemPacket => true
  | .releasePacket => true
  | .acquirePacket => true
  | .fencePacket => true
  | .timePacket => true
  | .invalPacket => true
  | .queueCreation => true
  | .refetch => true
  | .skip => true
  | .linkBinding => true
  | .debugResume => true
  | .accumulatorQuotaDivision => true
  | .attestationRequest => true
  | .firmwareImageWrite => true
  | .regionRegistration => true
  | .queueRemap => true
  | .start => true
  | .failedStartCounterClear => true
  | .throttling => true
  | .shutdown => true
  | .doubledRefresh => true
  | .drain => true
  | .lossNotice => true
  | .portDown => true
  | .rdmaWrite => true
  | .rdmaRead => true
  | .fetchAndAdd => true
  | .compareAndSwap => true
  | .rdmaSend => true
  | .rnrNak => true
  | .sendAcknowledgement => true
  | .activeMessageHandlerStart => true
  | .migctlGo => true
  | .migctlEn => true
  | .migctlDoneClear => true
  | .migrationLineCopy => true
  | .deviceRegisterWrite => true
  | .translationWalk => true
  | .homeSliceRequest => true
  | .mergeWindowExpiry => true
  | .collectorCommit => true
  | .memoryReply => true
  | .copyIssue => true
  | .copyGranuleWrite => true
  | .copyCompletion => true
  | .faultDelivery => true
  | .publicationWalk => true
  | .objectScan => true
  | .flipPhase => true
  | .finalStore => true
  | .launchAcceptance => true
  | .blockStart => true
  | .cadenceStep => true
  | .blockEnd => true
  | .gridRetirement => true
  | .quantumExpiry => true
  | .blockRestore => true
  | .nodeTimerExpiry => true
  | .waitWordReread => true
  | .issuePromotion => true
  | .yieldExpiry => true
  | .joinStackRefill => true
  | .registerPull => true
  | .exportReturn => true
  | .poolRefill => true
  | .quarterOperationCompletion => true
  | .longLatencyResult => true
  | .powerLoss => true
  | .lmsKeyProvisioning => true
  | .priorityFlowControl => true
  | .ecnMarking => true

end Sys2Proof
end

