-- ==== Sys2Proof/Decode.lean ====
section
/-!
DEFINITION. Decoding and encoding of instruction words (09 R254 to R266). Every field that a description does not name
is zero, or the word is refused (R266). Header words are read in Machine/Fetch.lean.
-/
namespace Sys2Proof.Decode

/-- Why bytes are not an instruction. -/
inductive Reject where
  | short        -- fewer than four bytes
  | headerWord   -- bits 31:26 are all ones: a clause header, ILL inside a clause (09 R247)
  | unassigned   -- an op value that no table assigns (09 R266)
  | reserved     -- a reserved field is nonzero, or a field holds a value its description forbids (09 R266)
  deriving DecidableEq, Repr

/-- Field of `n` bits from bit `lo` of a word. -/
def fld (w lo : Nat) {n : Nat} : BitVec n := BitVec.ofNat n (w / 2 ^ lo)

/-- V3 page 0, the ALU operations (09 R259). -/
def v3Page0 (w : Nat) : Option Instr :=
  match w / 2 ^ 24 % 64 with
  | 0x00 => some (.add (fld w 16) (fld w 8) (fld w 0))
  | 0x01 => some (.sub (fld w 16) (fld w 8) (fld w 0))
  | 0x02 => some (.mul (fld w 16) (fld w 8) (fld w 0))
  | 0x03 => some (.mulhi (fld w 16) (fld w 8) (fld w 0))
  | 0x04 => some (.fma (fld w 16) (fld w 8) (fld w 0))
  | 0x05 => some (.fms (fld w 16) (fld w 8) (fld w 0))
  | 0x06 => some (.fnma (fld w 16) (fld w 8) (fld w 0))
  | 0x07 => some (.min (fld w 16) (fld w 8) (fld w 0))
  | 0x08 => some (.max (fld w 16) (fld w 8) (fld w 0))
  | 0x09 => some (.abd (fld w 16) (fld w 8) (fld w 0))
  | 0x0A => some (.and (fld w 16) (fld w 8) (fld w 0))
  | 0x0B => some (.or (fld w 16) (fld w 8) (fld w 0))
  | 0x0C => some (.xor (fld w 16) (fld w 8) (fld w 0))
  | 0x0D => some (.andn (fld w 16) (fld w 8) (fld w 0))
  | 0x0E => some (.shl (fld w 16) (fld w 8) (fld w 0))
  | 0x0F => some (.shr (fld w 16) (fld w 8) (fld w 0))
  | 0x10 => some (.rot (fld w 16) (fld w 8) (fld w 0))
  | 0x11 => some (.sel (fld w 16) (fld w 8) (fld w 0))
  | 0x12 => some (.ceq (fld w 16) (fld w 8) (fld w 0))
  | 0x13 => some (.cne (fld w 16) (fld w 8) (fld w 0))
  | 0x14 => some (.clt (fld w 16) (fld w 8) (fld w 0))
  | 0x15 => some (.cle (fld w 16) (fld w 8) (fld w 0))
  | 0x16 => some (.cgt (fld w 16) (fld w 8) (fld w 0))
  | 0x17 => some (.cge (fld w 16) (fld w 8) (fld w 0))
  | 0x18 => some (.cun (fld w 16) (fld w 8) (fld w 0))
  | 0x19 => some (.ccls (fld w 16) (fld w 8) (fld w 0))
  | 0x1A => some (.mov (fld w 16) (fld w 8))
  | 0x1B => some (.cvt (fld w 16) (fld w 8) (fld w 4) (fld w 3) (fld w 0))
  | 0x1C => some (.neg (fld w 16) (fld w 8))
  | 0x1D => some (.abs (fld w 16) (fld w 8))
  | 0x1E => some (.popc (fld w 16) (fld w 8))
  | 0x1F => some (.clz (fld w 16) (fld w 8))
  | 0x20 => some (.brev (fld w 16) (fld w 8))
  | 0x21 => some (.bfe (fld w 16) (fld w 8) (fld w 0))
  | 0x22 => some (.bfi (fld w 16) (fld w 8) (fld w 0))
  | 0x23 => some (.mulw (fld w 16) (fld w 8) (fld w 0))
  | 0x24 => some (.dot2 (fld w 16) (fld w 8) (fld w 0))
  | 0x25 => some (.dot4 (fld w 16) (fld w 8) (fld w 0))
  | 0x26 => some (.addc (fld w 16) (fld w 8) (fld w 0))
  | 0x27 => some (.subb (fld w 16) (fld w 8) (fld w 0))
  | 0x28 => some (.pack (fld w 16) (fld w 8) (fld w 0))
  | 0x29 => some (.unplo (fld w 16) (fld w 8))
  | 0x2A => some (.unphi (fld w 16) (fld w 8))
  | 0x2B => some (.clamp (fld w 16) (fld w 8) (fld w 0))
  | 0x2C => some (.csgn (fld w 16) (fld w 8) (fld w 0))
  | 0x2D => some (.fract (fld w 16) (fld w 8))
  | 0x2E => some (.rnd (fld w 16) (fld w 8))
  | 0x2F => some (.scl (fld w 16) (fld w 8) (fld w 0))
  | 0x30 => some (.rcp (fld w 16) (fld w 8))
  | 0x31 => some (.rsq (fld w 16) (fld w 8))
  | 0x32 => some (.sqrt (fld w 16) (fld w 8))
  | 0x33 => some (.exp2 (fld w 16) (fld w 8))
  | 0x34 => some (.log2 (fld w 16) (fld w 8))
  | 0x35 => some (.sin (fld w 16) (fld w 8))
  | 0x36 => some (.cos (fld w 16) (fld w 8))
  | 0x37 => some (.tanh (fld w 16) (fld w 8))
  | 0x38 => some (.sigm (fld w 16) (fld w 8))
  | 0x39 => some (.div (fld w 16) (fld w 8) (fld w 0))
  | 0x3A => some (.erf (fld w 16) (fld w 8))
  | _ => none

/-- V3 page 1, lane and memory operations (09 R260). -/
def v3Page1 (w : Nat) : Option Instr :=
  match w / 2 ^ 24 % 64 with
  | 0x00 => some (.shfl (fld w 16) (fld w 8) (fld w 0))
  | 0x01 => some (.shup (fld w 16) (fld w 8) (fld w 0))
  | 0x02 => some (.shdn (fld w 16) (fld w 8) (fld w 0))
  | 0x03 => some (.shxr (fld w 16) (fld w 8) (fld w 0))
  | 0x04 => some (.vall (fld w 16) (fld w 8))
  | 0x05 => some (.vany (fld w 16) (fld w 8))
  | 0x06 => some (.blt (fld w 16) (fld w 8))
  | 0x07 => some (.radd (fld w 16) (fld w 8))
  | 0x08 => some (.rmin (fld w 16) (fld w 8))
  | 0x09 => some (.rmax (fld w 16) (fld w 8))
  | 0x0A => some (.psum (fld w 16) (fld w 8) (fld w 0))
  | 0x0B => some (.mtch (fld w 16) (fld w 8))
  | 0x0C => some (.conf (fld w 16) (fld w 8))
  | 0x0D => some (.bcst (fld w 16) (fld w 8))
  | 0x10 => some (.ld (fld w 16) (fld w 8) (fld w 0))
  | 0x11 => some (.st (fld w 16) (fld w 8) (fld w 0))
  | 0x12 => some (.ldq (fld w 16) (fld w 8) (fld w 0))
  | 0x13 => some (.stq (fld w 16) (fld w 8) (fld w 0))
  | 0x14 => some (.ldacq (fld w 16) (fld w 8) (fld w 0))
  | 0x15 => some (.strel (fld w 16) (fld w 8) (fld w 0))
  | 0x16 => some (.ldref (fld w 16) (fld w 8) (fld w 0))
  | 0x17 => some (.stref (fld w 16) (fld w 8) (fld w 0))
  | 0x18 => some (.pub (fld w 16) (fld w 8) (fld w 0))
  | 0x19 => some (.aadd (fld w 16) (fld w 8) (fld w 0))
  | 0x1A => some (.amin (fld w 16) (fld w 8) (fld w 0))
  | 0x1B => some (.amax (fld w 16) (fld w 8) (fld w 0))
  | 0x1C => some (.aand (fld w 16) (fld w 8) (fld w 0))
  | 0x1D => some (.aor (fld w 16) (fld w 8) (fld w 0))
  | 0x1E => some (.axor (fld w 16) (fld w 8) (fld w 0))
  | 0x1F => some (.axch (fld w 16) (fld w 8) (fld w 0))
  | 0x20 => some (.acas (fld w 16) (fld w 8) (fld w 0))
  | 0x21 => some (.ainc (fld w 16) (fld w 8) (fld w 0))
  | 0x22 => some (.gred (fld w 8) (fld w 0))
  | 0x23 => some (.gmin (fld w 8) (fld w 0))
  | 0x24 => some (.gmax (fld w 8) (fld w 0))
  | 0x25 => some (.gth (fld w 16) (fld w 8) (fld w 1))
  | 0x26 => some (.sct (fld w 16) (fld w 8) (fld w 1))
  | 0x27 => some (.scad (fld w 16) (fld w 8) (fld w 1))
  | 0x28 => some (.gthh (fld w 16) (fld w 8) (fld w 1))
  | 0x29 => some (.pref (fld w 8) (fld w 0))
  | 0x2A => some (.ohdr (fld w 16) (fld w 8) (fld w 0))
  | 0x30 => some (.accrd (fld w 16) (fld w 8))
  | 0x31 => some (.accwr (fld w 16) (fld w 8))
  | 0x32 => some (.rkrd (fld w 16) (fld w 8))
  | 0x33 => some (.tw (fld w 16) (fld w 8) (fld w 0))
  | 0x34 => some (.twi (fld w 16) (fld w 8) (fld w 0))
  | _ => none

/-- VI operations (09 R261). -/
def viOps (w : Nat) : Option Instr :=
  match w / 2 ^ 26 % 16 with
  | 0x00 => some (.addi (fld w 18) (fld w 10) (fld w 0))
  | 0x01 => some (.andi (fld w 18) (fld w 10) (fld w 0))
  | 0x02 => some (.ori (fld w 18) (fld w 10) (fld w 0))
  | 0x03 => some (.xori (fld w 18) (fld w 10) (fld w 0))
  | 0x04 => some (.shli (fld w 18) (fld w 10) (fld w 0))
  | 0x05 => some (.shri (fld w 18) (fld w 10) (fld w 0))
  | 0x06 => some (.ceqi (fld w 18) (fld w 10) (fld w 0))
  | 0x07 => some (.clti (fld w 18) (fld w 10) (fld w 0))
  | 0x08 => some (.cgti (fld w 18) (fld w 10) (fld w 0))
  | 0x09 => some (.ldi (fld w 18) (fld w 10) (fld w 0))
  | 0x0A => some (.sti (fld w 18) (fld w 10) (fld w 0))
  | 0x0B => some (.muli (fld w 18) (fld w 10) (fld w 0))
  | 0x0C => some (.mini (fld w 18) (fld w 10) (fld w 0))
  | 0x0D => some (.maxi (fld w 18) (fld w 10) (fld w 0))
  | _ => none

/-- S-class operations (09 R262). -/
def sOps (w : Nat) : Option Instr :=
  match w / 2 ^ 22 % 64 with
  | 0x00 => some (.sAdd (fld w 16) (fld w 10) (fld w 4))
  | 0x01 => some (.sSub (fld w 16) (fld w 10) (fld w 4))
  | 0x02 => some (.sMul (fld w 16) (fld w 10) (fld w 4))
  | 0x03 => some (.sMulh (fld w 16) (fld w 10) (fld w 4))
  | 0x04 => some (.sAnd (fld w 16) (fld w 10) (fld w 4))
  | 0x05 => some (.sOr (fld w 16) (fld w 10) (fld w 4))
  | 0x06 => some (.sXor (fld w 16) (fld w 10) (fld w 4))
  | 0x07 => some (.sShl (fld w 16) (fld w 10) (fld w 4))
  | 0x08 => some (.sShr (fld w 16) (fld w 10) (fld w 4))
  | 0x09 => some (.sSar (fld w 16) (fld w 10) (fld w 4))
  | 0x0A => some (.sMin (fld w 16) (fld w 10) (fld w 4))
  | 0x0B => some (.sMax (fld w 16) (fld w 10) (fld w 4))
  | 0x0C => some (.sMinu (fld w 16) (fld w 10) (fld w 4))
  | 0x0D => some (.sMaxu (fld w 16) (fld w 10) (fld w 4))
  | 0x0E => some (.sMov (fld w 16) (fld w 10))
  | 0x0F => some (.sCeq (fld w 16) (fld w 10) (fld w 4))
  | 0x10 => some (.sClt (fld w 16) (fld w 10) (fld w 4))
  | 0x11 => some (.sCltu (fld w 16) (fld w 10) (fld w 4))
  | 0x12 => some (.sAddi (fld w 16) (fld w 10) (fld w 0))
  | 0x13 => some (.sAndi (fld w 16) (fld w 10) (fld w 0))
  | 0x14 => some (.sOri (fld w 16) (fld w 10) (fld w 0))
  | 0x15 => some (.sXori (fld w 16) (fld w 10) (fld w 0))
  | 0x16 => some (.sShli (fld w 16) (fld w 10) (fld w 0))
  | 0x17 => some (.sShri (fld w 16) (fld w 10) (fld w 0))
  | 0x18 => some (.sMuli (fld w 16) (fld w 10) (fld w 0))
  | 0x19 => some (.sLd (fld w 16) (fld w 10) (fld w 0))
  | 0x1A => some (.sLd32 (fld w 16) (fld w 10) (fld w 0))
  | 0x1B => some (.sSt (fld w 16) (fld w 10) (fld w 0))
  | 0x1C => some (.sSt32 (fld w 16) (fld w 10) (fld w 0))
  | 0x1D => some (.sLdacq (fld w 16) (fld w 10) (fld w 0))
  | 0x1E => some (.sStrel (fld w 16) (fld w 10) (fld w 0))
  | 0x1F => some (.sAadd (fld w 16) (fld w 10) (fld w 4) (fld w 0))
  | 0x20 => some (.sAcas (fld w 16) (fld w 10) (fld w 4) (fld w 0))
  | 0x21 => some (.sRdl (fld w 16) (fld w 8) (fld w 0))
  | 0x22 => some (.sSrd (fld w 16) (fld w 0))
  | 0x23 => some (.sSwr (fld w 0) (fld w 10))
  | 0x24 => some (.pAnd (fld w 16) (fld w 10) (fld w 4))
  | 0x25 => some (.pOr (fld w 16) (fld w 10) (fld w 4))
  | 0x26 => some (.pXor (fld w 16) (fld w 10) (fld w 4))
  | 0x27 => some (.pAndn (fld w 16) (fld w 10) (fld w 4))
  | 0x28 => some (.pNot (fld w 16) (fld w 10))
  | 0x29 => some (.pMov (fld w 16) (fld w 10))
  | 0x2A => some (.pGet (fld w 16) (fld w 10))
  | 0x2B => some (.pPop (fld w 16) (fld w 10))
  | 0x2C => some (.pFfs (fld w 16) (fld w 10))
  | 0x2D => some (.part (fld w 0))
  | 0x2E => some (.acb (fld w 10) (fld w 0))
  | 0x2F => some (.msf (fld w 4) (fld w 0))
  | 0x30 => some (.sPopc (fld w 16) (fld w 10))
  | 0x31 => some (.sClz (fld w 16) (fld w 10))
  | _ => none

/-- B-class operations (09 R263). -/
def bOps (w : Nat) : Option Instr :=
  match w / 2 ^ 24 % 16 with
  | 0x00 => some (.bra (fld w 0))
  | 0x01 => some (.brd (fld w 20) (fld w 0))
  | 0x02 => some (.brdx (fld w 20) (fld w 0))
  | 0x03 => some (.bany (fld w 20) (fld w 0))
  | 0x04 => some (.ball (fld w 20) (fld w 0))
  | 0x05 => some (.bnon (fld w 20) (fld w 0))
  | 0x06 => some (.mark (fld w 0))
  | 0x07 => some .join
  | 0x08 => some .regang
  | 0x09 => some (.call (fld w 0))
  | 0x0A => some .ret
  | 0x0B => some (.jr (fld w 20))
  | 0x0C => some (.loop (fld w 20) (fld w 0))
  | 0x0D => some .exit
  | 0x0E => some (.wait (fld w 0))
  | 0x0F => some (.sbr (fld w 20) (fld w 0))
  | _ => none

/-- L-class operations (09 R264). -/
def lOps (w : Nat) : Option Instr :=
  match w / 2 ^ 26 % 4 with
  | 0x00 => some (.liV (fld w 18) (fld w 0))
  | 0x01 => some (.luiV (fld w 18) (fld w 0))
  | 0x02 => some (.liS (fld w 20) (fld w 0))
  | 0x03 => some (.mode (fld w 0))
  | _ => none

/-- X class, tile page (09 R265). -/
def tileOps (w : Nat) : Option Instr :=
  match w / 2 ^ 20 % 64 with
  | 0x00 => some (.mm (fld w 16) (fld w 12) (fld w 9) (fld w 4) (fld w 3))
  | 0x01 => some (.mmsp (fld w 16) (fld w 12) (fld w 9) (fld w 1) (fld w 0))
  | 0x02 => some (.mmg (fld w 16) (fld w 12) (fld w 9) (fld w 1) (fld w 0))
  | 0x03 => some (.mmrk (fld w 16) (fld w 12) (fld w 9) (fld w 4))
  | 0x04 => some (.spcmp (fld w 16) (fld w 12) (fld w 9) (fld w 1))
  | 0x05 => some (.accclr (fld w 16) (fld w 4))
  | 0x06 => if w / 2 ^ 3 % 2 = 1 then some (.accdclU (fld w 14) (fld w 4)) else some (.accdcl (fld w 14) (fld w 4))
  | 0x07 => some (.accst (fld w 16) (fld w 9) (fld w 4))
  | 0x08 => some (.accld (fld w 16) (fld w 9) (fld w 4))
  | 0x09 => some (.rkbnd (fld w 17) (fld w 9) (fld w 4))
  | 0x0A => some (.rkmrg (fld w 14) (fld w 4))
  | 0x0B => if w / 2 ^ 13 % 2 = 1 then some (.rkstM (fld w 14) (fld w 4)) else some (.rkst (fld w 14) (fld w 4))
  | 0x0C => some (.zset (fld w 17) (fld w 0))
  | 0x0D => some (.zlog (fld w 17) (fld w 14) (fld w 11) (fld w 0))
  | 0x0E => some (.ztst (fld w 17) (fld w 14))
  | 0x0F => some .spfen
  | 0x10 => some (.hset (fld w 16) (fld w 10) (fld w 4) (fld w 3))
  | 0x11 => some (.hadj (fld w 16) (fld w 10) (fld w 8))
  | _ => none

/-- X class, engine page (09 R265). -/
def engineOps (w : Nat) : Option Instr :=
  match w / 2 ^ 20 % 64 with
  | 0x00 => some (.cpk (fld w 14) (fld w 0))
  | 0x01 => some (.cpcl (fld w 19) (fld w 13))
  | 0x02 => some (.cpwt (fld w 19) (fld w 13) (fld w 12) (fld w 6) (fld w 0))
  | 0x03 => if w / 2 ^ 0 % 2 = 1 then some (.arinSet (fld w 14) (fld w 8)) else some (.arin (fld w 14) (fld w 8))
  | 0x04 => some (.arwt (fld w 14))
  | 0x05 => some (.bar (fld w 16) (fld w 15) (fld w 9))
  | 0x06 => some (.bara (fld w 16) (fld w 15) (fld w 9))
  | 0x07 => some (.barw (fld w 16))
  | 0x08 => some (.schn (fld w 14))
  | 0x09 => some (.schd (fld w 14))
  | 0x0A => some (.schp (fld w 14))
  | 0x0B => some (.schs (fld w 12) (fld w 6))
  | 0x0C => some .schc
  | 0x0D => some (.schh (fld w 14) (fld w 8) (fld w 2))
  | 0x0E => some (.schq (fld w 12) (fld w 6))
  | 0x0F => some (.rpush (fld w 12) (fld w 6) (fld w 0))
  | 0x10 => some (.rpop (fld w 12) (fld w 9) (fld w 8))
  | 0x11 => some (.dadd (fld w 14) (fld w 8))
  | 0x12 => some (.ddec (fld w 14) (fld w 8))
  | 0x13 => some (.launch (fld w 14))
  | 0x14 => some (.amsd (fld w 12) (fld w 6) (fld w 0))
  | 0x15 => some (.bwt (fld w 14) (fld w 8) (fld w 6))
  | 0x16 => some (.bwk (fld w 14) (fld w 8))
  | 0x17 => some (.rdon (fld w 14) (fld w 9))
  | 0x18 => some (.racc (fld w 14))
  | 0x19 => some .yld
  | _ => none

/-- X class, system page (09 R265). -/
def systemOps (w : Nat) : Option Instr :=
  match w / 2 ^ 20 % 64 with
  | 0x00 => some (.fence (fld w 18) (fld w 16))
  | 0x01 => some (.trap (fld w 0))
  | 0x02 => some .tret
  | 0x03 => some .brk
  | 0x04 => some .nop
  | 0x05 => some (.pmap (fld w 14) (fld w 8) (fld w 2))
  | 0x06 => some (.pumap (fld w 14) (fld w 8))
  | 0x07 => some (.tinv (fld w 14) (fld w 8))
  | 0x08 => if w / 2 ^ 1 % 2 = 1 then some (.poolPush (fld w 8) (fld w 2)) else some (.pool (fld w 14) (fld w 8))
  | 0x09 => some .halt
  | 0x0A => some (.l1wb (fld w 19) (fld w 13) (fld w 7))
  | 0x0B => some (.l1inv (fld w 19) (fld w 13) (fld w 7))
  | _ => none

/-- The instruction that a word's class and op name, its fields not yet checked (09 R254). -/
def candidate (w : Nat) : Option Instr :=
  match w / 2 ^ 28 with
  | 0x0 | 0x1 | 0x2 | 0x3 => v3Page0 w
  | 0x4 | 0x5 | 0x6 | 0x7 => v3Page1 w
  | 0x8 | 0x9 | 0xA | 0xB => viOps w
  | 0xC => sOps w
  | 0xD => bOps w
  | 0xE => lOps w
  | 0xF =>
    match w / 2 ^ 26 % 4 with
    | 0 => tileOps w
    | 1 => engineOps w
    | 2 => systemOps w
    | _ => none
  | _ => none

/-- Words of a base and one to five fields at their lowest bits. -/
def enc1 {n : Nat} (base : Nat) (x : BitVec n) (i : Nat) : Option Nat := some (base + x.toNat * 2 ^ i)
@[inherit_doc enc1]
def enc2 {n m : Nat} (base : Nat) (x : BitVec n) (i : Nat) (y : BitVec m) (j : Nat) : Option Nat :=
  some (base + x.toNat * 2 ^ i + y.toNat * 2 ^ j)
@[inherit_doc enc1]
def enc3 {n m k : Nat} (base : Nat) (x : BitVec n) (i : Nat) (y : BitVec m) (j : Nat) (z : BitVec k) (l : Nat) :
    Option Nat :=
  some (base + x.toNat * 2 ^ i + y.toNat * 2 ^ j + z.toNat * 2 ^ l)
@[inherit_doc enc1]
def enc4 {n m k r : Nat} (base : Nat) (x : BitVec n) (i : Nat) (y : BitVec m) (j : Nat) (z : BitVec k) (l : Nat)
    (u : BitVec r) (p : Nat) : Option Nat :=
  some (base + x.toNat * 2 ^ i + y.toNat * 2 ^ j + z.toNat * 2 ^ l + u.toNat * 2 ^ p)
@[inherit_doc enc1]
def enc5 {n m k r q : Nat} (base : Nat) (x : BitVec n) (i : Nat) (y : BitVec m) (j : Nat) (z : BitVec k) (l : Nat)
    (u : BitVec r) (p : Nat) (v : BitVec q) (t : Nat) : Option Nat :=
  some (base + x.toNat * 2 ^ i + y.toNat * 2 ^ j + z.toNat * 2 ^ l + u.toNat * 2 ^ p + v.toNat * 2 ^ t)

/-- The word of an instruction, from the same tables; none for an event. -/
def encodeNat : Instr → Option Nat
  | .add d a b => enc3 0x00000000 d 16 a 8 b 0
  | .sub d a b => enc3 0x01000000 d 16 a 8 b 0
  | .mul d a b => enc3 0x02000000 d 16 a 8 b 0
  | .mulhi d a b => enc3 0x03000000 d 16 a 8 b 0
  | .fma d a b => enc3 0x04000000 d 16 a 8 b 0
  | .fms d a b => enc3 0x05000000 d 16 a 8 b 0
  | .fnma d a b => enc3 0x06000000 d 16 a 8 b 0
  | .min d a b => enc3 0x07000000 d 16 a 8 b 0
  | .max d a b => enc3 0x08000000 d 16 a 8 b 0
  | .abd d a b => enc3 0x09000000 d 16 a 8 b 0
  | .and d a b => enc3 0x0A000000 d 16 a 8 b 0
  | .or d a b => enc3 0x0B000000 d 16 a 8 b 0
  | .xor d a b => enc3 0x0C000000 d 16 a 8 b 0
  | .andn d a b => enc3 0x0D000000 d 16 a 8 b 0
  | .shl d a b => enc3 0x0E000000 d 16 a 8 b 0
  | .shr d a b => enc3 0x0F000000 d 16 a 8 b 0
  | .rot d a b => enc3 0x10000000 d 16 a 8 b 0
  | .sel d a b => enc3 0x11000000 d 16 a 8 b 0
  | .ceq p a b => enc3 0x12000000 p 16 a 8 b 0
  | .cne p a b => enc3 0x13000000 p 16 a 8 b 0
  | .clt p a b => enc3 0x14000000 p 16 a 8 b 0
  | .cle p a b => enc3 0x15000000 p 16 a 8 b 0
  | .cgt p a b => enc3 0x16000000 p 16 a 8 b 0
  | .cge p a b => enc3 0x17000000 p 16 a 8 b 0
  | .cun p a b => enc3 0x18000000 p 16 a 8 b 0
  | .ccls p a cls => enc3 0x19000000 p 16 a 8 cls 0
  | .mov d a => enc2 0x1A000000 d 16 a 8
  | .cvt d a dt us slot => enc5 0x1B000000 d 16 a 8 dt 4 us 3 slot 0
  | .neg d a => enc2 0x1C000000 d 16 a 8
  | .abs d a => enc2 0x1D000000 d 16 a 8
  | .popc d a => enc2 0x1E000000 d 16 a 8
  | .clz d a => enc2 0x1F000000 d 16 a 8
  | .brev d a => enc2 0x20000000 d 16 a 8
  | .bfe d a b => enc3 0x21000000 d 16 a 8 b 0
  | .bfi d a b => enc3 0x22000000 d 16 a 8 b 0
  | .mulw d a b => enc3 0x23000000 d 16 a 8 b 0
  | .dot2 d a b => enc3 0x24000000 d 16 a 8 b 0
  | .dot4 d a b => enc3 0x25000000 d 16 a 8 b 0
  | .addc d a b => enc3 0x26000000 d 16 a 8 b 0
  | .subb d a b => enc3 0x27000000 d 16 a 8 b 0
  | .pack d a b => enc3 0x28000000 d 16 a 8 b 0
  | .unplo d a => enc2 0x29000000 d 16 a 8
  | .unphi d a => enc2 0x2A000000 d 16 a 8
  | .clamp d a b => enc3 0x2B000000 d 16 a 8 b 0
  | .csgn d a b => enc3 0x2C000000 d 16 a 8 b 0
  | .fract d a => enc2 0x2D000000 d 16 a 8
  | .rnd d a => enc2 0x2E000000 d 16 a 8
  | .scl d a b => enc3 0x2F000000 d 16 a 8 b 0
  | .rcp d a => enc2 0x30000000 d 16 a 8
  | .rsq d a => enc2 0x31000000 d 16 a 8
  | .sqrt d a => enc2 0x32000000 d 16 a 8
  | .exp2 d a => enc2 0x33000000 d 16 a 8
  | .log2 d a => enc2 0x34000000 d 16 a 8
  | .sin d a => enc2 0x35000000 d 16 a 8
  | .cos d a => enc2 0x36000000 d 16 a 8
  | .tanh d a => enc2 0x37000000 d 16 a 8
  | .sigm d a => enc2 0x38000000 d 16 a 8
  | .div d a b => enc3 0x39000000 d 16 a 8 b 0
  | .erf d a => enc2 0x3A000000 d 16 a 8
  | .shfl d a b => enc3 0x40000000 d 16 a 8 b 0
  | .shup d a b => enc3 0x41000000 d 16 a 8 b 0
  | .shdn d a b => enc3 0x42000000 d 16 a 8 b 0
  | .shxr d a b => enc3 0x43000000 d 16 a 8 b 0
  | .vall p q => enc2 0x44000000 p 16 q 8
  | .vany p q => enc2 0x45000000 p 16 q 8
  | .blt d q => enc2 0x46000000 d 16 q 8
  | .radd d a => enc2 0x47000000 d 16 a 8
  | .rmin d a => enc2 0x48000000 d 16 a 8
  | .rmax d a => enc2 0x49000000 d 16 a 8
  | .psum d a ex => enc3 0x4A000000 d 16 a 8 ex 0
  | .mtch d a => enc2 0x4B000000 d 16 a 8
  | .conf d a => enc2 0x4C000000 d 16 a 8
  | .bcst d a => enc2 0x4D000000 d 16 a 8
  | .ld d a b => enc3 0x50000000 d 16 a 8 b 0
  | .st d a b => enc3 0x51000000 d 16 a 8 b 0
  | .ldq d a b => enc3 0x52000000 d 16 a 8 b 0
  | .stq d a b => enc3 0x53000000 d 16 a 8 b 0
  | .ldacq d a b => enc3 0x54000000 d 16 a 8 b 0
  | .strel d a b => enc3 0x55000000 d 16 a 8 b 0
  | .ldref d a b => enc3 0x56000000 d 16 a 8 b 0
  | .stref d a b => enc3 0x57000000 d 16 a 8 b 0
  | .pub d a b => enc3 0x58000000 d 16 a 8 b 0
  | .aadd d a b => enc3 0x59000000 d 16 a 8 b 0
  | .amin d a b => enc3 0x5A000000 d 16 a 8 b 0
  | .amax d a b => enc3 0x5B000000 d 16 a 8 b 0
  | .aand d a b => enc3 0x5C000000 d 16 a 8 b 0
  | .aor d a b => enc3 0x5D000000 d 16 a 8 b 0
  | .axor d a b => enc3 0x5E000000 d 16 a 8 b 0
  | .axch d a b => enc3 0x5F000000 d 16 a 8 b 0
  | .acas d a b => enc3 0x60000000 d 16 a 8 b 0
  | .ainc d a b => enc3 0x61000000 d 16 a 8 b 0
  | .gred a b => enc2 0x62000000 a 8 b 0
  | .gmin a b => enc2 0x63000000 a 8 b 0
  | .gmax a b => enc2 0x64000000 a 8 b 0
  | .gth d a k => enc3 0x650000E0 d 16 a 8 k 1
  | .sct d a k => enc3 0x660000E0 d 16 a 8 k 1
  | .scad d a k => enc3 0x670000E0 d 16 a 8 k 1
  | .gthh d a k => enc3 0x680000E0 d 16 a 8 k 1
  | .pref a b => enc2 0x69000000 a 8 b 0
  | .ohdr d a b => enc3 0x6A000000 d 16 a 8 b 0
  | .accrd d a => enc2 0x70000000 d 16 a 8
  | .accwr d a => enc2 0x71000000 d 16 a 8
  | .rkrd d a => enc2 0x72000000 d 16 a 8
  | .tw d a b => enc3 0x73000000 d 16 a 8 b 0
  | .twi d a b => enc3 0x74000000 d 16 a 8 b 0
  | .addi d a imm => enc3 0x80000000 d 18 a 10 imm 0
  | .andi d a imm => enc3 0x84000000 d 18 a 10 imm 0
  | .ori d a imm => enc3 0x88000000 d 18 a 10 imm 0
  | .xori d a imm => enc3 0x8C000000 d 18 a 10 imm 0
  | .shli d a imm => enc3 0x90000000 d 18 a 10 imm 0
  | .shri d a imm => enc3 0x94000000 d 18 a 10 imm 0
  | .ceqi p a imm => enc3 0x98000000 p 18 a 10 imm 0
  | .clti p a imm => enc3 0x9C000000 p 18 a 10 imm 0
  | .cgti p a imm => enc3 0xA0000000 p 18 a 10 imm 0
  | .ldi d a imm => enc3 0xA4000000 d 18 a 10 imm 0
  | .sti d a imm => enc3 0xA8000000 d 18 a 10 imm 0
  | .muli d a imm => enc3 0xAC000000 d 18 a 10 imm 0
  | .mini d a imm => enc3 0xB0000000 d 18 a 10 imm 0
  | .maxi d a imm => enc3 0xB4000000 d 18 a 10 imm 0
  | .sAdd sd sa sb => enc3 0xC0000000 sd 16 sa 10 sb 4
  | .sSub sd sa sb => enc3 0xC0400000 sd 16 sa 10 sb 4
  | .sMul sd sa sb => enc3 0xC0800000 sd 16 sa 10 sb 4
  | .sMulh sd sa sb => enc3 0xC0C00000 sd 16 sa 10 sb 4
  | .sAnd sd sa sb => enc3 0xC1000000 sd 16 sa 10 sb 4
  | .sOr sd sa sb => enc3 0xC1400000 sd 16 sa 10 sb 4
  | .sXor sd sa sb => enc3 0xC1800000 sd 16 sa 10 sb 4
  | .sShl sd sa sb => enc3 0xC1C00000 sd 16 sa 10 sb 4
  | .sShr sd sa sb => enc3 0xC2000000 sd 16 sa 10 sb 4
  | .sSar sd sa sb => enc3 0xC2400000 sd 16 sa 10 sb 4
  | .sMin sd sa sb => enc3 0xC2800000 sd 16 sa 10 sb 4
  | .sMax sd sa sb => enc3 0xC2C00000 sd 16 sa 10 sb 4
  | .sMinu sd sa sb => enc3 0xC3000000 sd 16 sa 10 sb 4
  | .sMaxu sd sa sb => enc3 0xC3400000 sd 16 sa 10 sb 4
  | .sMov sd sa => enc2 0xC3800000 sd 16 sa 10
  | .sCeq sd sa sb => enc3 0xC3C00000 sd 16 sa 10 sb 4
  | .sClt sd sa sb => enc3 0xC4000000 sd 16 sa 10 sb 4
  | .sCltu sd sa sb => enc3 0xC4400000 sd 16 sa 10 sb 4
  | .sAddi sd sa imm => enc3 0xC4800000 sd 16 sa 10 imm 0
  | .sAndi sd sa imm => enc3 0xC4C00000 sd 16 sa 10 imm 0
  | .sOri sd sa imm => enc3 0xC5000000 sd 16 sa 10 imm 0
  | .sXori sd sa imm => enc3 0xC5400000 sd 16 sa 10 imm 0
  | .sShli sd sa imm => enc3 0xC5800000 sd 16 sa 10 imm 0
  | .sShri sd sa imm => enc3 0xC5C00000 sd 16 sa 10 imm 0
  | .sMuli sd sa imm => enc3 0xC6000000 sd 16 sa 10 imm 0
  | .sLd sd sa imm => enc3 0xC6400000 sd 16 sa 10 imm 0
  | .sLd32 sd sa imm => enc3 0xC6800000 sd 16 sa 10 imm 0
  | .sSt sd sa imm => enc3 0xC6C00000 sd 16 sa 10 imm 0
  | .sSt32 sd sa imm => enc3 0xC7000000 sd 16 sa 10 imm 0
  | .sLdacq sd sa imm => enc3 0xC7400000 sd 16 sa 10 imm 0
  | .sStrel sd sa imm => enc3 0xC7800000 sd 16 sa 10 imm 0
  | .sAadd sd sa sb w => enc4 0xC7C00000 sd 16 sa 10 sb 4 w 0
  | .sAcas sd sa sb w => enc4 0xC8000000 sd 16 sa 10 sb 4 w 0
  | .sRdl sd r lane => enc3 0xC8400000 sd 16 r 8 lane 0
  | .sSrd sd idx => enc2 0xC8800000 sd 16 idx 0
  | .sSwr idx sa => enc2 0xC8C00000 idx 0 sa 10
  | .pAnd pd pa pb => enc3 0xC9000000 pd 16 pa 10 pb 4
  | .pOr pd pa pb => enc3 0xC9400000 pd 16 pa 10 pb 4
  | .pXor pd pa pb => enc3 0xC9800000 pd 16 pa 10 pb 4
  | .pAndn pd pa pb => enc3 0xC9C00000 pd 16 pa 10 pb 4
  | .pNot pd pa => enc2 0xCA000000 pd 16 pa 10
  | .pMov pd sa => enc2 0xCA400000 pd 16 sa 10
  | .pGet sd pa => enc2 0xCA800000 sd 16 pa 10
  | .pPop sd pa => enc2 0xCAC00000 sd 16 pa 10
  | .pFfs sd pa => enc2 0xCB000000 sd 16 pa 10
  | .part imm => enc1 0xCB400000 imm 0
  | .acb sa imm => enc2 0xCB800000 sa 10 imm 0
  | .msf val code => enc2 0xCBC00000 val 4 code 0
  | .sPopc sd sa => enc2 0xCC000000 sd 16 sa 10
  | .sClz sd sa => enc2 0xCC400000 sd 16 sa 10
  | .bra off => enc1 0xD0000000 off 0
  | .brd c off => enc2 0xD1000000 c 20 off 0
  | .brdx c off => enc2 0xD2000000 c 20 off 0
  | .bany c off => enc2 0xD3000000 c 20 off 0
  | .ball c off => enc2 0xD4000000 c 20 off 0
  | .bnon c off => enc2 0xD5000000 c 20 off 0
  | .mark off => enc1 0xD6000000 off 0
  | .call off => enc1 0xD9000000 off 0
  | .jr c => enc1 0xDB000000 c 20
  | .loop c off => enc2 0xDC000000 c 20 off 0
  | .wait mask => enc1 0xDE000000 mask 0
  | .sbr c off => enc2 0xDF000000 c 20 off 0
  | .liV d imm => enc2 0xE0000000 d 18 imm 0
  | .luiV d imm => enc2 0xE4000000 d 18 imm 0
  | .liS sd imm => enc2 0xE8000000 sd 20 imm 0
  | .mode image => enc1 0xEC000000 image 0
  | .mm hA hB slot off z => enc5 0xF0000000 hA 16 hB 12 slot 9 off 4 z 3
  | .mmsp hA hB slot m z => enc5 0xF0100000 hA 16 hB 12 slot 9 m 1 z 0
  | .mmg hA hB slot x z => enc5 0xF0200000 hA 16 hB 12 slot 9 x 1 z 0
  | .mmrk hA hB slot off => enc4 0xF0300000 hA 16 hB 12 slot 9 off 4
  | .spcmp hS hD slot m => enc4 0xF0400000 hS 16 hD 12 slot 9 m 1
  | .accclr n off => enc2 0xF0500000 n 16 off 4
  | .accdcl k off => enc2 0xF0600000 k 14 off 4
  | .accdclU k off => enc2 0xF0600008 k 14 off 4
  | .accst h slot off => enc3 0xF0700000 h 16 slot 9 off 4
  | .accld h slot off => enc3 0xF0800000 h 16 slot 9 off 4
  | .rkbnd z b off => enc3 0xF0900000 z 17 b 9 off 4
  | .rkmrg sa off => enc2 0xF0A00000 sa 14 off 4
  | .rkst sa off => enc2 0xF0B00000 sa 14 off 4
  | .rkstM sa off => enc2 0xF0B02000 sa 14 off 4
  | .zset z imm => enc2 0xF0C00000 z 17 imm 0
  | .zlog z za zb fn => enc4 0xF0D00000 z 17 za 14 zb 11 fn 0
  | .ztst z p => enc2 0xF0E00000 z 17 p 14
  | .hset h sa sb st => enc4 0xF1000000 h 16 sa 10 sb 4 st 3
  | .hadj h sa sl => enc3 0xF1100000 h 16 sa 10 sl 8
  | .cpk sa n => enc2 0xF4000000 sa 14 n 0
  | .cpcl res sd => enc2 0xF4100000 res 19 sd 13
  | .cpwt res sd rel sa k => enc5 0xF4200000 res 19 sd 13 rel 12 sa 6 k 0
  | .arin sa sb => enc2 0xF4300000 sa 14 sb 8
  | .arinSet sa sb => enc2 0xF4300001 sa 14 sb 8
  | .arwt sa => enc1 0xF4400000 sa 14
  | .bar id cnt sa => enc3 0xF4500000 id 16 cnt 15 sa 9
  | .bara id cnt sa => enc3 0xF4600000 id 16 cnt 15 sa 9
  | .barw id => enc1 0xF4700000 id 16
  | .schn sd => enc1 0xF4800000 sd 14
  | .schd sa => enc1 0xF4900000 sa 14
  | .schp sd => enc1 0xF4A00000 sd 14
  | .schs idx sa => enc2 0xF4B00000 idx 12 sa 6
  | .schh sa sb sc => enc3 0xF4D00000 sa 14 sb 8 sc 2
  | .schq idx sd => enc2 0xF4E00000 idx 12 sd 6
  | .rpush d sa sb => enc3 0xF4F00000 d 12 sa 6 sb 0
  | .rpop d p w => enc3 0xF5000000 d 12 p 9 w 8
  | .dadd sa sb => enc2 0xF5100000 sa 14 sb 8
  | .ddec sa sb => enc2 0xF5200000 sa 14 sb 8
  | .launch sa => enc1 0xF5300000 sa 14
  | .amsd a sb sc => enc3 0xF5400000 a 12 sb 6 sc 0
  | .bwt sa sb cond => enc3 0xF5500000 sa 14 sb 8 cond 6
  | .bwk sa sb => enc2 0xF5600000 sa 14 sb 8
  | .rdon sa n => enc2 0xF5700000 sa 14 n 9
  | .racc sa => enc1 0xF5800000 sa 14
  | .fence scope kind => enc2 0xF8000000 scope 18 kind 16
  | .trap imm => enc1 0xF8100000 imm 0
  | .pmap sd sa sb => enc3 0xF8500000 sd 14 sa 8 sb 2
  | .pumap sa sb => enc2 0xF8600000 sa 14 sb 8
  | .tinv sa sb => enc2 0xF8700000 sa 14 sb 8
  | .pool sd sa => enc2 0xF8800000 sd 14 sa 8
  | .poolPush sa sb => enc2 0xF8800002 sa 8 sb 2
  | .l1wb rng sa sb => enc3 0xF8A00000 rng 19 sa 13 sb 7
  | .l1inv rng sa sb => enc3 0xF8B00000 rng 19 sa 13 sb 7
  | .join => some 0xD7000000
  | .regang => some 0xD8000000
  | .ret => some 0xDA000000
  | .exit => some 0xDD000000
  | .spfen => some 0xF0F00000
  | .schc => some 0xF4C00000
  | .yld => some 0xF5900000
  | .tret => some 0xF8200000
  | .brk => some 0xF8300000
  | .nop => some 0xF8400000
  | .halt => some 0xF8900000
  | .wakeRegisterWrite => none
  | .nopPacket => none
  | .launchPacket => none
  | .graphPacket => none
  | .copyPacket => none
  | .signalPacket => none
  | .waitmemPacket => none
  | .releasePacket => none
  | .acquirePacket => none
  | .fencePacket => none
  | .timePacket => none
  | .invalPacket => none
  | .queueCreation => none
  | .refetch => none
  | .skip => none
  | .linkBinding => none
  | .debugResume => none
  | .accumulatorQuotaDivision => none
  | .attestationRequest => none
  | .firmwareImageWrite => none
  | .regionRegistration => none
  | .queueRemap => none
  | .start => none
  | .failedStartCounterClear => none
  | .throttling => none
  | .shutdown => none
  | .doubledRefresh => none
  | .drain => none
  | .lossNotice => none
  | .portDown => none
  | .rdmaWrite => none
  | .rdmaRead => none
  | .fetchAndAdd => none
  | .compareAndSwap => none
  | .rdmaSend => none
  | .rnrNak => none
  | .sendAcknowledgement => none
  | .activeMessageHandlerStart => none
  | .migctlGo => none
  | .migctlEn => none
  | .migctlDoneClear => none
  | .migrationLineCopy => none
  | .deviceRegisterWrite => none
  | .translationWalk => none
  | .homeSliceRequest => none
  | .mergeWindowExpiry => none
  | .collectorCommit => none
  | .memoryReply => none
  | .copyIssue => none
  | .copyGranuleWrite => none
  | .copyCompletion => none
  | .faultDelivery => none
  | .publicationWalk => none
  | .objectScan => none
  | .flipPhase => none
  | .finalStore => none
  | .launchAcceptance => none
  | .blockStart => none
  | .cadenceStep => none
  | .blockEnd => none
  | .gridRetirement => none
  | .quantumExpiry => none
  | .blockRestore => none
  | .nodeTimerExpiry => none
  | .waitWordReread => none
  | .issuePromotion => none
  | .yieldExpiry => none
  | .joinStackRefill => none
  | .registerPull => none
  | .exportReturn => none
  | .poolRefill => none
  | .quarterOperationCompletion => none
  | .longLatencyResult => none
  | .powerLoss => none
  | .lmsKeyProvisioning => none
  | .priorityFlowControl => none
  | .ecnMarking => none

/-- The word of an instruction; none for an event. -/
def encode (i : Instr) : Option W32 := (encodeNat i).map (BitVec.ofNat 32)

/-- Decode one word: the op must be assigned, the fields in range and every reserved bit zero. -/
def decodeWord (w : W32) : Except Reject Instr :=
  match candidate w.toNat with
  | some i => if i.wellFormed && encodeNat i == some w.toNat then .ok i else .error .reserved
  | none => if w.toNat / 2 ^ 26 = 63 then .error .headerWord else .error .unassigned

/-- Decode the instruction at the front of a byte stream, little-endian (09 R245), with the bytes after it. -/
def decodeBytes : List Byte → Except Reject (Instr × List Byte)
  | b0 :: b1 :: b2 :: b3 :: rest =>
    match decodeWord (b3 ++ b2 ++ b1 ++ b0) with
    | .ok i => .ok (i, rest)
    | .error e => .error e
  | _ => .error .short

/-- The four bytes of a word as memory holds them. -/
def wordBytes (w : W32) : List Byte :=
  [w.extractLsb' 0 8, w.extractLsb' 8 8, w.extractLsb' 16 8, w.extractLsb' 24 8]

end Sys2Proof.Decode

namespace Sys2Proof

/-- The instruction that the decoder reads from a word of the opcode table (one word of 32 bits; bits above `nbits`
are zero). -/
def decodeTableWord (nbits w : Nat) : Option Instr :=
  match Decode.decodeBytes (Decode.wordBytes (BitVec.ofNat 32 (w % 2 ^ nbits))) with
  | .ok (i, _) => some i
  | .error _ => none

end Sys2Proof
end

