-- ==== Sys2Proof/Config.lean ====
section
/-!
DEFINITION. What is fixed for the module, and the free values: constants without a body that stand for what the
spec leaves open. Nothing can be proved about a free value, so every claim holds whatever it is.
-/
namespace Sys2Proof.Config

/-- Clusters, wide cores and narrow cores of the module (00 R3). -/
def nClusters : Nat := 128
def nWide : Nat := 256

/-- Base of the device-register region (01 R17). -/
def devBase : Nat := 0x0F0000000000
/-- Base of the interleaved near region (01 R17). -/
def nearInterBase : Nat := 0x010000000000
/-- Base and size of far memory (01 R17). -/
def farBase : Nat := 0x020000000000
def farSize : Nat := 0x18000000000
/-- Bytes in a GiB. -/
def gib : Nat := 0x40000000

/-- FREE VALUE (log 1): does the next step perform a due event, where an instruction could issue as well? -/
opaque eventFirst : Nat → Bool
/-- FREE VALUE (log 1): which due event is performed next, as an index to be reduced. -/
opaque eventPick : Nat → Nat
/-- FREE VALUE (log 1): which fragment issues next, where several cores could issue. -/
opaque issuePick : Nat → Nat
/-- FREE VALUE (log 9): cycles that pass in a step beyond the first. -/
opaque stallCycles : Nat → Nat
/-- FREE VALUE (log 9): cycles by which core `n` left its reset after the first one did (09 R267, CLOCK). -/
opaque clockSkew : Nat → Nat
/-- FREE VALUE (log 7): an access under a changed table entry before `tinv` obeys the old one (01 R31). -/
opaque staleEntry : Nat → Bool
/-- FREE VALUE (log 6): the set of an L1 half, and of an L2 slice, that a line falls into, by effective ASID and line
address (02 R55, R58). -/
opaque l1Set : Nat → Nat → Nat
opaque l2Set : Nat → Nat → Nat
/-- FREE VALUE (log 7): the set of a TLB that a page falls into, by ASID, page number and size (01 R29). -/
opaque tlbSet : Nat → Nat → Nat → Nat
/-- FREE VALUE (log 6): has a line been replaced in an instruction cache before this step, by step and line address? -/
opaque fetchReplaced : Nat → Nat → Bool
/-- FREE VALUE (log 11): a register marked last-read still reads its earlier value, by step and register key
(09 R252). -/
opaque lastReadKeeps : Nat → Nat → Bool
/-- FREE VALUE (log 11): a register lane, scalar or predicate bit with a producer in flight already reads the new
value, by step and register key (09 R250). -/
opaque inflightNew : Nat → Nat → Bool
/-- FREE VALUE (log 12): contents of a register returned to its donor, by step and register key (05 R167). -/
opaque returnedReg : Nat → Nat → BitVec 32
/-- FREE VALUE (log 10): the algorithm of a special function, by function, type code, flush bit and input: a
distance in units of the last place, reduced to the bound of 08 R243 where it is used. -/
opaque sfuOffset : Nat → Nat → Bool → Nat → Int
/-- FREE VALUE (log 16): SHA-384 (19 R439). -/
opaque sha384 : List Byte → BitVec 384
/-- FREE VALUE (log 16): does an ECDSA P-384 signature over a digest verify against the fused key (19 R439)? -/
opaque ecdsaVerifies : BitVec 384 → List Byte → Bool
/-- FREE VALUE (log 16): does an LMS signature over a digest verify against the fused key (19 R439)? -/
opaque lmsVerifies : BitVec 384 → List Byte → Bool
/-- FREE VALUE (log 16): the ECDSA signature of a report, 96 bytes (19 R442). -/
opaque ecdsaSign : Nat → List Byte → BitVec 768
/-- FREE VALUE (log 16): the LMS signature of a report under a key and a leaf, 2,828 bytes (19 R442). -/
opaque lmsSign : Nat → Nat → List Byte → BitVec 22624
/-- FREE VALUE (log 16): the frames that a start's memory test finds failing, by start number (19 R437). -/
opaque failingFrames : Nat → List Nat
/-- FREE VALUE (log 16): does the saved DRAM training pass its CRC, by start number (19 R438)? -/
opaque trainingCrcGood : Nat → Bool
/-- FREE VALUE (log 16): had a report that a power loss cuts short already advanced the LMS leaf index, by step (19
R442)? -/
opaque leafAdvanced : Nat → Bool
/-- FREE VALUE (log 24): has a piece of an operand been replaced in its operand cache before this step, by step and
piece (02 R48)? -/
opaque operandReplaced : Nat → Nat → Bool
/-- FREE VALUE (log 13): the frames firmware gives an empty pool, by step and pool (01 R38). -/
opaque refillFrames : Nat → Nat → List (BitVec 32)

end Sys2Proof.Config
end

