-- ==== Sys2Proof/Machine/State.lean ====
section
/-!
DEFINITION. The state of the module as plain data, and the state after a start. Every piece of state that the spec
names is a field. The fragment `f` that issues, its warp `w` and its block `blk` stand at the front of the state (log 2):
`w.frags` holds the warp's other fragments, `blk.warps` the block's other warps and `blocks` the other blocks.
-/
namespace Sys2Proof.Machine

/-- Memory as the cells whose byte is not what an unlisted address reads as, which is 0: a start zeroes every byte
(19 R437). Keys are physical addresses (01 R17), or window offsets for a scratchpad. -/
abbrev Memory := List Host.Cell

/-! ### Fragments and warps -/

/-- STATE of a split-table entry (05 R150); `exported` is `Frag.exp`. -/
inductive FragSt where
  | ready | atJoin | atRegang | sleeping
  deriving DecidableEq, Repr

/-- What a fragment is held for (06 R202 and the instruction chapters). -/
inductive Hold where
  | free
  | flags (mask : BitVec 12)                                       -- a clause's WAIT (09 R248)
  | waits (mask : BitVec 12)                                       -- `wait` (10 R285)
  | copies (n : BitVec 32)                                         -- `cpwt` (12 R349)
  | arrival (off : Nat)                                            -- `arwt` (12 R352)
  | word (va : W64) (cond : BitVec 2) (v : W64) (registered woken : Bool)   -- `bwt` (14 R397)
  | barrier (id : Nat) (phase : BitVec 32)                         -- `bar`, `barw` (14 R387)
  | donate (other n : Nat)                                         -- `rdon` (14 R399)
  | accept (other : Nat)                                           -- `racc`
  | space (graph node : Nat)                                       -- `rpush` on a full queue and overflow (06 R199)
  | heldSpace (ctr : W64)                                          -- `rpush` on a full hold area (06 R201)
  | record (graph node : Nat)                                      -- `rpop.w` (14 R393)
  | entry                                                          -- `schn`, `schh` (06 R191, R194)
  | launch (gid : Nat)                                             -- `launch` (14 R395)
  | frames (pool : Nat)                                            -- a pool pop (01 R38)
  | kick                                                           -- `cpk` on a full kick queue (12 R347)
  | message (cluster : Nat)                                        -- `amsd` on a full receive queue (14 R396)
  | walks                                                          -- `pub` on a full queue, `exit` with walks (04 R144)
  | collect                                                        -- the fragment's collector groups (02 R64)
  | fill                                                           -- bytes that a copy still owes (02 R74)
  | pull                                                           -- a register on its way to an export (05 R160)
  | refill                                                         -- a spilled join-stack entry (05 R153)
  | tret                                                           -- the handler's other fragments (07 R210)
  | fuse (part : Nat)                                              -- the other parts of a wave split (02 R70)
  | yield                                                          -- the 16 cycles of `yld` (14 R400)
  deriving DecidableEq, Repr

/-- The reissue of an instruction's pending part (07 R210): the instruction, its lanes, its address, the header word 0 of
its clause, its operand note, and the operation whose flag parts stay outstanding for it. -/
structure Replay where
  i : Instr
  lanes : Lanes
  pc : W64
  h0 : W32
  note : BitVec 2
  id : Nat
  deriving DecidableEq, Repr

/-- An entry to be appended to an outlier list (08 R236): the list, what the entry names, and the index that its count
step has already obtained. -/
structure Append where
  lanes : Lanes              -- the lanes that converted
  list : W64
  tag : W64
  idx : Nat
  val : W32
  got : Option Nat
  deriving DecidableEq, Repr

/-- The part of an instruction that waits for a handler's `tret` (07 R210, R212). -/
inductive Part where
  | none
  | instr (r : Replay)                                              -- reissue for the lanes
  | appends (l : List Append) (id : Nat) (pc : W64)                 -- append steps still to be made (08 R236)
  | collector (id : Nat)                                            -- elements from ELEM upward of a collector operation
  | copy (id : Nat)                                                 -- a copy from its faulting row
  | request (core : Nat)                                            -- a malformed request at the head of a kick queue
  | walk (id : Nat)                                                 -- a suspended walk
  deriving DecidableEq, Repr

/-- A fault on its way to a fragment (07 R209, R212). -/
structure FaultRec where
  ent : Nat                  -- the fragment's entry
  code : BitVec 8
  kind : BitVec 2            -- 0 precise, 1 replay in place, 2 partial commit, 3 notice
  lanes : Lanes
  va : W64
  aux : W64
  pc : W64                   -- TRAPPC
  part : Part
  deriving DecidableEq, Repr

/-- A live fragment (05 R150). A fragment with an empty mask is none. -/
structure Frag where
  ent : Nat                  -- entry number in the split table
  pc : W64                   -- header or instruction-word address, as a generic address (log 3)
  hdr : W64                  -- address of the header of the clause being run
  inClause : Bool
  h0 : W32                   -- header words 0 and 1 (09 R246)
  h1 : W32
  mask : Lanes
  mode : BitVec 26
  level : BitVec 16
  st : FragSt
  sup : Bool                 -- supervisor privilege: a handler fragment (07 R206)
  exp : Option Nat           -- the export it runs in (05 R159)
  nw : Nat                   -- and the narrow warp of it
  wave : Option Nat          -- the wave split it is part of (02 R70)
  hold : Hold
  done : Lanes               -- lanes of a held instruction that have taken effect (14 R392)
  count : Nat                -- requests of a held `cpk` already appended (12 R347); when a `rdon` or `racc` began (14 R399)
  replay : Option Replay     -- the reissue in progress (07 R210)
  more : List Replay         -- reissues that follow it
  latch : List (Nat × Nat)   -- operand latch: register and instructions left (09 R251)
  waited : Nat               -- cycles ready and unchosen (06 R181)
  promoted : Option Nat      -- promotion order (06 R181)
  deriving DecidableEq, Repr

/-- No fragment. -/
def Frag.empty : Frag :=
  { ent := 0, pc := 0, hdr := 0, inClause := false, h0 := 0, h1 := 0, mask := 0, mode := 0, level := 0xFFFF,
    st := .ready, sup := false, exp := none, nw := 0, wave := none, hold := .free, done := 0, count := 0,
    replay := none, more := [], latch := [], waited := 0, promoted := none }

/-- A result still to land (09 R249): vector lane (key 32 × register + lane), scalar or predicate bit. -/
inductive Landing where
  | lane (key : Nat) (v : W32)
  | scalar (n : Nat) (v : W64)
  | pred (p lane : Nat) (b : Bool)
  deriving DecidableEq, Repr

/-- The unit that an operation in flight waits for. -/
inductive PendUnit where
  | memory       -- lands by MEMORY_REPLY
  | long         -- lands by LONG_LATENCY_RESULT
  | quarter      -- completes by QUARTER_OPERATION_COMPLETION
  | collector    -- completes by COLLECTOR_COMMIT and MEMORY_REPLY
  | other        -- a kick, a walk, a message or a stopped part: completed by its own event
  deriving DecidableEq, Repr

/-- An outstanding operation under a completion flag (09 R248, R249). -/
structure Pend where
  id : Nat
  flag : BitVec 4            -- f0 to f11, 15 untracked
  perLane : Bool             -- flag-A operation with per-lane parts
  sup : Bool                 -- of the handler's flags (07 R207)
  unit : PendUnit
  lanes : Lanes              -- lanes whose parts are outstanding
  all : Lanes                -- lanes of the operation
  lands : List Landing
  owes : List Nat            -- register lanes that it will write with values not known yet (09 R249)
  own : Lanes                -- lanes of the fragment that issued it
  marks : List Nat           -- keys that its last-read note marks when it retires (07 R214, 09 R252)
  reads : List (Nat × Nat × Nat)   -- bytes that it reads: lane, address and length (03 R91, R97)
  losses : Nat               -- loss notices received (16 R425)
  src : Option Replay        -- the memory instruction, to be reissued (16 R425)
  left : Nat                 -- requests of a `cpk` still in the kick queue (12 R347)
  deriving DecidableEq, Repr

/-- A join-stack entry (05 R153). A spilled entry lies in the spill area. -/
structure JEntry where
  rejoin : W64
  expected : Lanes
  mode : BitVec 26
  counter : Nat
  parent : BitVec 16
  free : Bool
  spilled : Bool
  deriving DecidableEq, Repr

/-- An export: the fragments that run on a narrow core for this warp (05 R158 to R162). Keys of registers are
32 × register + lane; keys of predicates 32 × predicate + lane. Each narrow warp holds values of its own. -/
structure Export where
  id : Nat
  core : Nat                 -- the narrow core
  nwarps : Nat               -- narrow warps still running
  total : Nat                -- narrow warps at the start: 4 entries of the split table each
  map : List Nat             -- original lanes in ascending order; 32 for one whose narrow warp has returned
  level : BitVec 16          -- the parent's join level
  pulled : List Nat          -- registers whose values a narrow warp has pulled; key 256 × narrow warp + register
  held : List (Nat × W32)    -- register values held on the narrow core; key 8192 × narrow warp + key
  dirty : List Nat
  pheld : List (Nat × Bool)  -- predicate bits held there, likewise
  pdirty : List Nat
  jst : List (Nat × JEntry)  -- narrow join stacks, by narrow warp
  deriving DecidableEq, Repr

/-- The hidden handler state of a warp (07 R209). -/
structure Handler where
  mask : Lanes
  mode : BitVec 26
  pc : W64
  hdr : W64
  inClause : Bool
  h0 : W32
  h1 : W32
  wave : Option Nat
  wait : BitVec 12           -- the WAIT of a clause header at which it was held; 0 for none
  done : Lanes               -- of an instruction held at issue that delivery found begun
  count : Nat
  replays : List Replay      -- reissues that delivery put off
  delivered : W64            -- TRAPPC as delivery wrote it
  kind : BitVec 2
  lanes : Lanes              -- lanes of the handler that have not exited
  part : Part
  deriving DecidableEq, Repr

/-- A warp (06 R176, 07 R219). -/
structure Warp where
  idx : Nat                  -- WARP
  core : Nat                 -- CORE (00 R3)
  launched : Lanes
  exited : Lanes
  allot : Nat                -- vector registers at the current allotment (05 R166)
  v : Cells 32               -- v0 to v215, k0 to k7 as registers 216 to 223; key 32 × register + lane
  s : Cells 64               -- s0 to s63
  p : Cells 32               -- p1 to p7
  z : List (BitVec 4)        -- z0 to z7
  h : Cells 128              -- handles; key 16 × quarter + number
  part : Nat                 -- partition width (05 R165)
  acb : BitVec 11
  xthr : BitVec 4
  twbase : W64
  trapcode : W64
  trapmask : W64
  trapva : W64
  trappc : W64
  trapaux : W64
  tvec : W64
  pool : W64
  frags : List Frag          -- the warp's other fragments
  jst : List JEntry          -- join stack, level 0 first
  pend : List Pend
  handler : Option Handler
  faultq : List FaultRec
  escalated : Option FaultRec   -- the fault by which it escalated (07 R211)
  lastRead : List Nat        -- keys marked last-read (09 R252)
  batch : BitVec 32          -- last closed batch (02 R75)
  copyErr : BitVec 32        -- copy error count (12 R345)
  exps : List Export
  arrived : List (Nat × BitVec 32)   -- last `bara` of each lane, by 32 × barrier + lane: its phase (14 R387)
  deriving DecidableEq, Repr

/-- No warp. -/
def Warp.empty : Warp :=
  { idx := 0, core := 0, launched := 0, exited := 0, allot := 0, v := [], s := [], p := [],
    z := [15, 15, 15, 15, 15, 15, 15, 15], h := [], part := 32, acb := 0, xthr := 0, twbase := 0, trapcode := 0,
    trapmask := 0, trapva := 0, trappc := 0, trapaux := 0, tvec := 0, pool := 0, frags := [], jst := [], pend := [],
    handler := none, faultq := [], escalated := none, lastRead := [], batch := 0, copyErr := 0, exps := [], arrived := [] }

/-! ### Blocks and grids -/

/-- Where a block is (05 R170, 07 R217, R218). One that is leaving has stopped, and streams out once its operations have
landed. -/
inductive BlockSt where
  | none | running | shadow | leaving | saved | escalated
  deriving DecidableEq, Repr

/-- A block barrier (14 R387): the lanes that have arrived are kept per warp, key 32 × warp + lane. -/
structure Barrier where
  phase : BitVec 32
  expected : Option Nat      -- fixed by the first arrival; none while no lane has arrived
  counted : Bool             -- the first arrival gave a count (CNT)
  arrived : List Nat
  deriving DecidableEq, Repr

/-- A ranked-list declaration on one core of the block (13 R370, R371). -/
structure RankList where
  core : Nat
  first : Nat
  k : Nat
  rejected : W32
  deriving DecidableEq, Repr

/-- A block (05 R168, 07 R219). -/
structure Block where
  uid : Nat
  gid : Nat
  bx : Nat
  byy : Nat
  bz : Nat
  nthreads : Nat             -- threads of the block; fewer than the record's in a node group
  owner : BitVec 16          -- owner block instance (04 R127)
  st : BlockSt
  slots : List Nat           -- CTXSLOT on each of its cores
  clusters : List Nat        -- in placement order (02 R52)
  cores : List Nat           -- in placement order (05 R168)
  win : Memory               -- the block window
  winSize : Nat
  gen : BitVec 16            -- window generation (02 R49)
  fillPend : List (Nat × Nat)   -- fill-pending granules and the copy that owes them (02 R74)
  tiles : Cells 32           -- accumulator words; key ((core index × 2048 + tile) × 512) + 32 × row + column
  ntiles : Nat
  lists : List RankList
  bars : List Barrier
  donations : List (Nat × Nat × Nat)   -- donor, recipient, blocks of 8 registers (05 R167)
  node : Option (Nat × Nat)  -- graph and node of a node group (06 R200)
  msg : Bool                 -- an active-message handler group (14 R396)
  turn : Nat                 -- its turn in the rotation of its cores (05 R171)
  warps : List Warp          -- the block's other warps
  deriving DecidableEq, Repr

/-- No block. -/
def Block.empty : Block :=
  { uid := 0, gid := 0, bx := 0, byy := 0, bz := 0, nthreads := 0, owner := 0, st := .none, slots := [],
    clusters := [], cores := [], win := [], winSize := 0, gen := 0, fillPend := [], tiles := [], ntiles := 0,
    lists := [], bars := List.replicate 16 { phase := 0, expected := none, counted := false, arrived := [] },
    donations := [], node := none, msg := false, turn := 0, warps := [] }

/-- A tile of the gear set: origin and extent in grains per dimension, and the generation it was claimed under
(06 R191, R192). -/
structure Tile where
  org : List Nat
  ext : List Nat
  gen : BitVec 32
  entry : Option Nat         -- the handover entry it was picked up from (06 R190)
  deriving DecidableEq, Repr

/-- A `schn` that waits for handover entries for the pieces that its cluster's queue cannot hold (06 R191): the fragment
by block, warp and lowest lane, the cluster, the tile it will return, and the pieces. -/
structure Claim where
  blk : Nat
  wp : Nat
  lane : Nat
  cluster : Nat
  tile : Tile
  owed : List Tile
  deriving DecidableEq, Repr

/-- The gear set of a launch (06 R182 to R196). -/
structure Gear where
  tile : List W64            -- TILE0 to TILE3, committed
  order : W64
  place : W64
  stTile : List W64          -- staged values
  stOrder : W64
  stPlace : W64
  gen : BitVec 32
  recalls : BitVec 128
  cursors : List (Nat × Nat) -- cluster (128 for the launch cursor of MODE 0) and next box
  queues : List (Nat × Tile) -- queued pieces by cluster, oldest first
  held : List (Nat × Tile × Nat)   -- tiles out: cluster, tile, cycle of the `schn`'s return (06 R196)
  tt : List (Nat × Nat)      -- TT by cluster
  handed : List Nat          -- handover entries in state handed, oldest first (06 R190)
  claims : List Claim
  deriving DecidableEq, Repr

/-- A grid (05 R169, 06 R174). -/
structure Grid where
  gid : Nat                  -- GRID
  record : List Byte          -- the launch record as it was read
  recVa : W64
  depth : Nat
  parent : Option Nat
  queue : Option (Nat × Nat) -- queue and packet number of its LAUNCH or GRAPH
  asid : Nat
  cls : Nat                  -- priority class
  accepted : Bool            -- false while it waits for a die dispatcher (06 R177)
  die : Nat                  -- die of the dispatcher that holds it
  turn : Nat                 -- its turn in its class's rotation: its acceptance, or the last end of a quantum (05 R171)
  next : Nat                 -- next block to pass to a bench dispatcher
  total : Nat                -- blocks of the grid
  live : Nat                 -- blocks started and not ended
  children : Nat             -- children not retired
  dead : Option (BitVec 8)   -- fault code of an escalation (15 R414)
  retired : Bool             -- it has retired; kept while a block of it is escalated
  mapFault : Option (BitVec 8)   -- coverage-map fault of queued pieces (06 R191)
  privVa : Nat               -- private region and bytes per thread (01 R13)
  privP : Nat
  spillVa : Nat              -- join-stack spill region and entries per warp (05 R154)
  spillE : Nat
  quotas : Nat × Nat × Nat   -- accumulator quotas in force at its acceptance (02 R46)
  gear : Option Gear
  graph : Option Nat
  service : Option Nat       -- the peer whose inbound service grid it is (16 R422)
  deriving DecidableEq, Repr

/-- A block that a bench dispatcher holds ready to place (06 R177), by its linear index. -/
structure Ready where
  bench : Nat
  gid : Nat
  lin : Nat
  deriving DecidableEq, Repr

/-- A record in a queue or an overflow area of a node (06 R199): the cluster whose queue holds it, the cycle of its push,
and its words. -/
structure QRec where
  cluster : Nat
  since : Nat
  words : List W32
  deriving DecidableEq, Repr

/-- A node of a work graph (06 R198 to R200). -/
structure Node where
  recVa : W64
  record : List Byte         -- the launch record as it was read
  hdr : Nat × Nat × Nat × Nat   -- private and spill regions of its spill-area header (01 R13, 05 R154)
  group : Nat                -- group size
  ovfVa : W64
  ovfCap : Nat
  recBytes : Nat
  timer : Nat
  queue : List QRec          -- records in the clusters' queues, oldest first
  ovf : List QRec            -- overflow records in push order
  ovfNext : Nat              -- place of the area that the next overflow record takes
  deriving DecidableEq, Repr

/-- A work graph (06 R198). -/
structure Graph where
  id : Nat
  root : Nat                 -- grid of the root record
  nodes : List Node
  signal : W64
  queue : Nat × Nat
  asid : Nat
  cls : Nat                  -- most urgent class that its queue allows
  deriving DecidableEq, Repr

/-! ### Engines -/

/-- An element of a collector operation (02 R64, R69): the index has passed the extent check, or not. -/
structure Elem where
  lane : Nat
  grp : Lanes                -- the lanes combined in it (02 R68)
  va : W64
  idx : W32
  bound : Bool               -- the index is at or beyond the extent
  val : W64
  sent : Bool                -- the packet of its group has left for its home
  deriving DecidableEq, Repr

/-- A `gth`, `sct` or `scad` in the collector (02 R64 to R69). -/
structure Coll where
  id : Nat
  core : Nat                 -- the wide core whose collector holds it (12 R336)
  blk : Nat
  wp : Nat
  instr : Instr
  kind : Nat                 -- 0 gather, 1 scatter, 2 scatter-add
  ty : BitVec 4
  d : Nat                    -- destination register of a gather
  elems : List Elem
  note : BitVec 2            -- its operand note, which takes effect when it retires (07 R214)
  own : Lanes                -- lanes of the fragment that issued it
  stopped : Bool             -- its pending part waits for a handler
  losses : Nat
  pc : W64
  user : Bool
  mode : BitVec 26
  deriving DecidableEq, Repr

/-- A request in a kick queue (02 R71). -/
structure Kick where
  core : Nat
  blk : Nat
  wp : Nat
  lanes : Lanes              -- fault lanes (12 R347)
  req : Nat                  -- window offset of the request
  pend : Nat                 -- the `cpk`'s operation under flag B
  pc : W64
  word : W64                 -- the `cpk`'s instruction word
  user : Bool
  stream : Bool              -- the mode's LEVEL was stream
  batch : BitVec 32
  stopped : Bool             -- malformed, held until `tret` (12 R344)
  deriving DecidableEq, Repr

/-- A leaf as a walk returns it: its entry, and the page's size. -/
structure Leaf where
  e : Nat
  size : Nat
  deriving DecidableEq, Repr

/-- A piece of an access within one line: the effective ASID, the virtual and physical addresses, the bytes, the leaf, and
whether a cached line gave it. -/
structure Piece where
  asid : Nat
  va : W64
  pa : Nat
  n : Nat
  leaf : Leaf
  hit : Bool
  deriving DecidableEq, Repr

/-- A copy in flight (02 R71 to R77, 12 R341 to R346). A front-end COPY is one with `queue` set. -/
structure Copy where
  id : Nat
  core : Nat
  blk : Nat
  wp : Nat
  asid : Nat
  lanes : Lanes
  req : List Byte            -- the 64 bytes of the request
  slots : List Byte          -- the format slots of its grid
  cpk : Nat                  -- the `cpk`'s operation under flag B
  pc : W64
  user : Bool
  gid : Nat                  -- grid and linear block, for an error record (12 R346)
  lin : Nat
  row : Nat                  -- row in progress
  rows : Nat
  pos : Nat                  -- bytes of it that have been written
  buf : List Byte            -- its bytes, once they have been read
  places : List Piece        -- the checked lines of a global destination row
  tagged : List (W64 × W64)  -- words that end in it and whose tag is carried, with the references (04 R128)
  carry : List (W64 × W64 × Byte)  -- the last bytes moved: destination, source and value
  idx : List Nat             -- indices that have been fetched, the row's own first (12 R342)
  wrote : List Nat           -- table rows that a row-scatter has written
  outs : List Append         -- its outlier entries still to be appended (12 R343)
  srcLen : Nat               -- bytes of a source row
  len : Nat                  -- bytes of a destination row (12 R343)
  span : Nat                 -- bytes from the destination's start that the copy may write (02 R74)
  done : Bool                -- every row has been passed; it completes at COPY_COMPLETION
  errs : Nat                 -- rows counted in the copy error count
  batch : BitVec 32
  strict : Bool
  stream : Bool
  suspended : Bool
  skip : Bool                -- discard from the faulting row on (07 R215)
  queue : Option (Nat × Nat) -- queue and packet number of a COPY packet
  fault : Option (Nat × W64) -- code and TRAPAUX of a COPY packet's fault (15 R411)
  losses : Nat
  deriving DecidableEq, Repr

/-- A `pub` in a publication walker (04 R136 to R145): the lane at the front of `lanes` is being walked. -/
structure Walk where
  id : Nat
  blk : Nat
  wp : Nat
  cluster : Nat
  pend : Nat
  lanes : List (Nat × W64 × W64)   -- lane, destination, reference
  active : Bool              -- a walk is in progress for the first lane
  queue : List W64           -- claimed objects in order of discovery
  pos : Nat                  -- object being scanned
  word : Nat                 -- word of it
  flipped : Bool
  waits : List W64
  suspended : Bool           -- by a fault, until `tret`
  parked : Bool              -- while its block does not run (04 R144)
  pc : W64
  mode : BitVec 26
  user : Bool
  deriving DecidableEq, Repr

/-- A line of an L1 half (02 R55). Half 2 × CLUSTER + h. -/
structure L1Line where
  half : Nat
  asid : Nat
  la : Nat                   -- virtual line address, bits 55:7
  valid : BitVec 128         -- bytes held
  dirty : BitVec 128
  data : Memory              -- by offset in the line
  tags : BitVec 16           -- reference tags of its words (04 R124)
  pa : Nat                   -- physical address that the fill's translation gave
  leaf : W64                 -- the copy of its leaf's permissions (01 R30)
  deriving DecidableEq, Repr

/-- A line of an L2 slice (02 R58). Slice 32 × die + its number in the die. -/
structure L2Line where
  slice : Nat
  asid : Nat
  la : Nat
  valid : BitVec 128         -- bytes held
  dirty : BitVec 128
  data : Memory              -- by offset in the line
  pa : Nat                   -- physical address that the fill's translation gave
  leaf : W64                 -- the copy of its leaf's permissions (01 R30)
  early : Bool               -- inserted or refreshed at evict-first priority
  deriving DecidableEq, Repr

/-- A line of a core's instruction cache (01 R28). -/
structure ILine where
  core : Nat
  asid : Nat
  la : Nat
  data : Memory
  leaf : W64
  deriving DecidableEq, Repr

/-- An entry of a wide core's operand cache (02 R48). -/
structure OpLine where
  core : Nat
  blk : Nat
  handle : BitVec 128
  gen : BitVec 16
  piece : Nat
  data : List Byte
  deriving DecidableEq, Repr

/-- A TLB entry (01 R29): the leaf that an earlier walk found for a page. -/
structure TlbEntry where
  ctl : Nat                  -- the controller: 8 × die + number, or 32 + number on the hub
  asid : Nat
  page : Nat                 -- virtual address / size
  size : Nat
  leaf : W64
  deriving DecidableEq, Repr

/-- A walk-cache entry (01 R27, R29): a valid pointer entry that an earlier walk read. -/
structure PtrEntry where
  ctl : Nat
  asid : Nat
  level : Nat
  index : Nat                -- the virtual address bits that lead to the entry
  entry : W64
  deriving DecidableEq, Repr

/-- An entry of a core's home attribute buffer (01 R22): the HOME of a 64 KiB page. -/
structure HomeEntry where
  core : Nat
  asid : Nat
  page : Nat
  home : Nat
  deriving DecidableEq, Repr

/-- A migration-table entry (01 R40). -/
structure Mig where
  old : Nat                  -- MIGOLD BASE × 64 KiB
  new : Nat
  ptr : Nat
  done : Bool
  size : BitVec 2
  go : Bool
  en : Bool
  deriving DecidableEq, Repr

/-! ### Front end, fabric, management -/

/-- A packet that has started and not completed, or completed out of order (15 R410). -/
structure Pkt where
  n : Nat
  op : Nat
  bytes : List Byte          -- the packet as it was fetched
  complete : Bool
  deriving DecidableEq, Repr

/-- A queue (15 R405 to R415). -/
structure Queue where
  id : Nat
  asid : Nat
  ring : W64
  e : Nat
  cls : Nat
  status : W64
  err : W64
  capBase : W64
  capLen : Nat
  perm : BitVec 8
  widx : W64
  started : Nat
  done : Nat
  pkts : List Pkt
  halted : Option (Nat × Bool)   -- the halting packet; it had started
  later : List (Nat × Nat × Nat) -- further started packets that met faults: packet, code and cause
  blocked : Bool             -- a WAITMEM or ACQUIRE holds later packets back
  mapped : Bool
  wakePending : Bool
  idleSince : Nat
  owed : Bool                -- a status write that waits for a copy's bytes (02 R74)
  errOwed : Option (List Byte)   -- an error record that waits for them
  deriving DecidableEq, Repr

/-- A tandem link (15 R413). -/
structure Link where
  rel : BitVec 16
  acq : BitVec 16
  tokens : Nat
  bound : Bool
  torn : List Nat            -- queues that halt at their next packet naming the link
  deriving DecidableEq, Repr

/-- A registered memory region (01 R43). -/
structure Region where
  key : Nat
  asid : Nat
  base : W64
  length : Nat
  perm : BitVec 3
  deriving DecidableEq, Repr

/-- A peer-table entry (16 R422). -/
structure Peer where
  n : Nat
  qpn : BitVec 24
  port : BitVec 2
  inbound : Bool
  v : Bool
  asid : BitVec 16
  inrec : W64
  drops : W32
  deriving DecidableEq, Repr

/-- An active message in a receive or send queue (16 R421, R423). -/
structure Msg where
  src : Nat                  -- grid whose handler table serves it
  cls : Nat
  handler : Nat              -- handler index
  entry : W64                -- handler address
  payload : List W32
  s1 : W64
  s2 : W64
  s3 : W64
  peer : Nat                 -- destination peer of an outbound message
  cluster : Nat              -- destination cluster
  wire : List Byte           -- the SEND of an outbound message (16 R423)
  pend : Option (Nat × Nat × Nat)   -- block, warp and operation of the sender's flag B
  resent : Bool
  back : Option Replay       -- the `amsd`, to be reissued if it is lost (16 R425)
  deriving DecidableEq, Repr

/-- An error record that firmware receives (07 R211, 12 R346, 05 R169, 06 R191, 01 R44). -/
structure FwRec where
  code : BitVec 8
  mask : Lanes
  va : W64
  pc : W64
  aux : W64
  gid : Nat
  lin : Nat
  deriving DecidableEq, Repr

/-- A reply to a remote access (01 R43, R44). -/
inductive Answer where
  | data (qp : Nat) (b : List Byte)
  | nak (qp : Nat)
  | rnr (qp : Nat)
  | ack (qp : Nat)
  deriving DecidableEq, Repr

/-- Device registers that firmware writes (01 R18, R19). -/
structure DevRegs where
  asidbase : W64
  nearsplit : Nat
  objcfg : List (W64 × W64)      -- words 0 and 1 of OBJCFG 0 to 5
  colcfg : Cells 64              -- COLCFG n, as its difference from the reset value by exclusive or
  rampLimit : Nat
  rampStag : Nat
  rampSlope : Nat
  walkcfg : Cells 64
  migs : List (Nat × Mig)        -- migration entries that are not at reset; key 16 × controller + entry
  links : List (Nat × Link)
  peers : List Peer
  open_ : Bool                   -- memory configuration registers still writable: before the first queue (01 R19)
  deriving DecidableEq, Repr

/-- The security core, the board controller and the sensors (19 R437 to R445). -/
structure Trust where
  powered : Bool
  ready : Bool                   -- Polziem, or the recovery image, has reported ready
  recovery : Bool                -- the running image is the recovery image
  warm : Bool                    -- kind of the last start
  held : Bool                    -- the board controller holds the module in reset (19 R441)
  coldNext : Bool                -- the next start is cold
  starts : Nat                   -- starts so far
  failed : Nat                   -- failed-start counter
  image : FwImage                -- the firmware image in its store
  recImage : FwImage             -- the recovery image in its store
  cached : Option (BitVec 384)   -- cached SHA-384 (19 R440)
  measured : BitVec 384
  trainings : Nat                -- times DRAM training has run (19 R437, R438)
  badFrames : List Nat
  lmsKey : Nat
  lmsLeaf : Nat                  -- leaf index to be used next
  reports : List (List Byte)     -- attestation reports given out, newest first
  exhausted : Bool               -- a report request failed for want of leaves
  throttle : Nat                 -- steps of 1/16 below 1.75 GHz, 0 to 15
  refresh : List Nat             -- dies with doubled refresh
  deriving DecidableEq, Repr

/-- Why the machine stops without a next state. -/
inductive Fault where
  /-- Raised by `step` while the module has no power, or no start has brought it to ready, and no event is due (19 R437,
  R441, R445). Safe: the spec gives a module in reset no step. -/
  | heldInReset
  deriving DecidableEq, Repr

/-- Why an instruction has no meaning in this model. -/
inductive Refusal where
  /-- Raised by a dispatch arm whose instruction has no meaning yet. Safe. -/
  | notModelled (mnemonic : String)
  deriving DecidableEq, Repr

/-- The whole module. -/
structure State where
  f : Frag                       -- the issuing fragment
  w : Warp                       -- its warp
  blk : Block                    -- its block
  blocks : List Block            -- the other blocks, by uid
  arg : EvArg                    -- what the event being performed happens to
  agenda : List (Instr × EvArg)  -- due events, oldest first (log 1)
  tick : Nat                     -- count of steps, for the free values (log 1)
  uid : Nat                      -- next unused identifier
  cycles : Nat                   -- cycles of the arithmetic clock (09 R267, CLOCK)
  timeUnits : Nat                -- TIME in units of 1/5045040 ns
  mem : Memory                   -- near and far memory
  l1 : List L1Line               -- most recently used first
  l2 : List L2Line               -- most recently used first
  icache : List ILine
  split : List (Nat × Nat)       -- scratchpad partition of a cluster in bytes, where it is not 0 (02 R50)
  opc : List OpLine              -- most recently used first
  tlb : List TlbEntry            -- most recently used first
  wcache : List PtrEntry         -- most recently used first
  homes : List HomeEntry         -- latest first
  dev : DevRegs
  poolTable : W64                -- POOL value that firmware loads into contexts (01 R37)
  quotas : Nat × Nat × Nat       -- accumulator quotas of the context slots (02 R46)
  grids : List Grid
  ready : List Ready             -- blocks that the bench dispatchers hold, in order of passing
  graphs : List Graph
  colls : List Coll
  kicks : List Kick              -- all kick queues, oldest first
  copies : List Copy
  walks : List Walk
  queues : List Queue
  regions : List Region
  recvq : List Msg               -- active-message receive queues, oldest first
  sendq : List Msg               -- remote send queues, oldest first
  fw : List FwRec                -- error records passed to firmware, newest first
  answers : List Answer          -- replies to remote queue pairs, newest first
  poolReqs : List Nat            -- pools whose refill was asked for (01 R38): 64 × TABLE + number
  poolBack : List (Nat × W32)    -- frames passed back to firmware (14 R402)
  remoteLost : List Nat          -- queue pairs whose oldest remote access has been lost once (16 R425)
  qpErrors : List Nat            -- ports whose queue pairs are in the error state (16 R426)
  paused : List (Nat × Nat)      -- paused port and priority (16 R426)
  ecn : List Nat                 -- queue pairs whose rate has been reduced (16 R426)
  outage : Option (Nat × Nat × Nat)   -- dies of a link found dead, and losses still to befall its requests (16 R424)
  cutoff : List Nat              -- dies with no remaining route (16 R425)
  poison : List Nat              -- physical lines with an uncorrectable memory error (01 R41, 19 R437; log 15)
  ramp : Nat × Nat               -- cadence ramp: allowance of this step, core starts made in it (15 R417)
  stops : List Nat               -- cores that wait to stop (15 R417)
  stopSteps : Nat                -- steps over which their stops are still spread
  promos : Nat                   -- promotions so far (06 R181)
  trust : Trust
  deriving DecidableEq, Repr

/-- The device registers after a start (01 R19, R24, 02 R65, 04 R145, 15 R417). -/
def DevRegs.reset : DevRegs :=
  { asidbase := 0, nearsplit := 0, objcfg := List.replicate 6 (0, 0), colcfg := [], rampLimit := 200, rampStag := 4,
    rampSlope := 8, walkcfg := [], migs := [], links := [], peers := [], open_ := true }

/-- The images in the store: their contents are the model's own (log 16). -/
def Trust.firstImage : FwImage := { bytes := [], ecdsa := [], lms := [] }

/-- The security core's store and the board controller when the module has been handed to Polziem after a first cold
start (19 R437). Firmware contents and key number are the model's own (log 16). -/
def Trust.reset : Trust :=
  { powered := true, ready := true, recovery := false, warm := false, held := false, coldNext := false, starts := 1,
    failed := 0, image := Trust.firstImage, recImage := Trust.firstImage, cached := some (Config.sha384 []),
    measured := Config.sha384 [], trainings := 1,
    badFrames := [], lmsKey := 0, lmsLeaf := 0, reports := [], exhausted := false, throttle := 0, refresh := [] }

/-- The module right after a start: no queues, an empty ASID table, zeroed memory (19). No block runs, so the issuing
fragment, its warp and its block are empty (log 2). -/
def State.reset : State :=
  { f := Frag.empty, w := Warp.empty, blk := Block.empty, blocks := [], arg := .none, agenda := [], tick := 0, uid := 1,
    cycles := 0, timeUnits := 0, mem := [], l1 := [], l2 := [], icache := [], split := [], opc := [], tlb := [], wcache := [], homes := [],
    dev := DevRegs.reset, poolTable := 0, quotas := (512, 512, 512), grids := [], ready := [], graphs := [], colls := [], kicks := [], copies := [], walks := [],
    queues := [], regions := [], recvq := [], sendq := [], fw := [], answers := [], poolReqs := [], poolBack := [],
    remoteLost := [], qpErrors := [], paused := [], ecn := [], outage := none, cutoff := [], poison := [],
    ramp := (8, 0), stops := [], stopSteps := 4, promos := 0,
    trust := Trust.reset }

end Sys2Proof.Machine
end

