-- ==== Sys2Proof/Machine/Regs.lean ====
section
/-!
DEFINITION. Register access: sparse cells, the fragment that stands at the front, vector, scalar and predicate registers
with their special cases (hard-wired s0 and p0, results in flight, last-read marks, exports), and lists of lanes.
-/
namespace Sys2Proof.Machine

/-! ### Sparse cells -/

/-- The value at a key; an unlisted key reads 0. -/
def Cells.get {w : Nat} : List (Nat × BitVec w) → Nat → BitVec w
  | [], _ => 0
  | (k', v) :: r, k => if k' = k then v else Cells.get r k

/-- Puts a value at a key, before the first larger key. -/
def Cells.put {w : Nat} : List (Nat × BitVec w) → Nat → BitVec w → List (Nat × BitVec w)
  | [], k, v => [(k, v)]
  | (k', v') :: r, k, v =>
    if k' < k then (k', v') :: Cells.put r k v
    else if k' = k then (k, v) :: r
    else (k, v) :: (k', v') :: r

/-- Writes a key and keeps the canonical form: writing 0 removes the entry. -/
def Cells.set {w : Nat} (c : List (Nat × BitVec w)) (k : Nat) (v : BitVec w) : List (Nat × BitVec w) :=
  if v = 0 then c.filter (fun p => p.1 != k) else Cells.put c k v

/-- Every key is at least `n`, keys strictly rise, and no entry is 0. -/
def Cells.wfFrom {w : Nat} (n : Nat) : List (Nat × BitVec w) → Bool
  | [] => true
  | (k, v) :: r => decide (n ≤ k) && decide (v ≠ 0) && Cells.wfFrom (k + 1) r

/-- The canonical form of sparse cells. -/
def Cells.wf {w : Nat} (c : List (Nat × BitVec w)) : Bool := Cells.wfFrom 0 c

/-- The canonical form of a memory. -/
def Memory.wf (m : Memory) : Bool := Cells.wf m

/-- `n` bytes from a key upward, as a little-endian number (00 R8). -/
def Cells.load (c : List (Nat × BitVec 8)) (k : Nat) : Nat → Nat
  | 0 => 0
  | n + 1 => (Cells.get c k).toNat + 256 * Cells.load c (k + 1) n

/-- Writes the `n` low bytes of a number from a key upward, little-endian (00 R8). -/
def Cells.store (c : List (Nat × BitVec 8)) (k : Nat) (v : Nat) : Nat → List (Nat × BitVec 8)
  | 0 => c
  | n + 1 => Cells.store (Cells.set c k (BitVec.ofNat 8 v)) (k + 1) (v / 256) n

/-! ### Lists of lanes -/

/-- The 32 original lanes in ascending order. -/
def laneList : List Nat := List.range 32

/-- The lanes for which `f` holds. -/
def mkLanes (f : Nat → Bool) : Lanes :=
  BitVec.ofNat 32 (laneList.foldl (fun n i => if f i then n + 2 ^ i else n) 0)

/-- The lanes of a mask in ascending order. -/
def lanesOf (m : Lanes) : List Nat := laneList.filter (fun i => m.getLsbD i)

/-- The lowest lane of a mask; 0 for an empty mask. -/
def lowLane (m : Lanes) : Nat := (lanesOf m).headD 0

/-- Writes a bit of a lane mask. -/
def setBit (m : Lanes) (l : Nat) (b : Bool) : Lanes :=
  if b then m ||| BitVec.ofNat 32 (2 ^ l) else m &&& ~~~ BitVec.ofNat 32 (2 ^ l)

/-- The mask of a list of lanes. -/
def maskOf (l : List Nat) : Lanes := mkLanes (fun i => l.contains i)

/-! ### The fragment at the front (log 2) -/

/-- Inserts before the first element with a larger key. -/
def insertBy {α : Type} (key : α → Nat) (x : α) : List α → List α
  | [] => [x]
  | y :: r => if key y < key x then y :: insertBy key x r else x :: y :: r

/-- Puts the fragment at the front back among its warp's fragments; one without lanes frees its entry (05 R150). -/
def unfocusFrag (s : State) : State :=
  let w := if s.f.mask = 0 then s.w else { s.w with frags := insertBy Frag.ent s.f s.w.frags }
  { s with w := w, f := Frag.empty }

/-- Puts the fragment and its warp back; with no launched lane there is no warp at the front. -/
def unfocusWarp (s : State) : State :=
  let s := unfocusFrag s
  let b := if s.w.launched = 0 then s.blk else { s.blk with warps := insertBy Warp.idx s.w s.blk.warps }
  { s with blk := b, w := Warp.empty }

/-- Puts the fragment, its warp and its block back. -/
def unfocus (s : State) : State :=
  let s := unfocusWarp s
  let bs := if s.blk.st = .none then s.blocks else insertBy Block.uid s.blk s.blocks
  { s with blocks := bs, blk := Block.empty }

/-- Brings a block to the front; with no such block the front stays empty. -/
def focusBlock (s : State) (b : Nat) : State :=
  let s := unfocus s
  match s.blocks.find? (fun x => x.uid == b) with
  | some x => { s with blk := x, blocks := s.blocks.filter (fun y => y.uid != b) }
  | none => s

/-- Brings a warp of a block to the front. -/
def focusWarp (s : State) (b w : Nat) : State :=
  let s := focusBlock s b
  match s.blk.warps.find? (fun x => x.idx == w) with
  | some x => { s with w := x, blk := { s.blk with warps := s.blk.warps.filter (fun y => y.idx != w) } }
  | none => s

/-- Brings an entry of the warp at the front to the front. -/
def focusEnt (s : State) (e : Nat) : State :=
  let s := unfocusFrag s
  match s.w.frags.find? (fun x => x.ent == e) with
  | some x => { s with f := x, w := { s.w with frags := s.w.frags.filter (fun y => y.ent != e) } }
  | none => s

/-- Brings a fragment to the front. -/
def focus (s : State) (b w e : Nat) : State := focusEnt (focusWarp s b w) e

/-- Brings the warp's fragment that holds a lane to the front. -/
def focusLane (s : State) (l : Nat) : State :=
  if s.f.mask.getLsbD l then s
  else match s.w.frags.find? (fun x => x.mask.getLsbD l) with
    | some x => focusEnt s x.ent
    | none => s

/-- The warp's fragments with the one at the front among them, by entry. -/
def warpFrags (s : State) : List Frag := if s.f.mask = 0 then s.w.frags else insertBy Frag.ent s.f s.w.frags

/-- Has the warp more than one live fragment (05 R152)? Fragments in any state count, exported ones included. -/
def divergent (s : State) : Bool := s.f.mask != 0 && !s.w.frags.isEmpty

/-- The grid of the block at the front. -/
def gridOf (s : State) : Option Grid := s.grids.find? (fun g => g.gid == s.blk.gid)

/-- Changes the grids with an identifier. -/
def updGrid (s : State) (gid : Nat) (u : Grid → Grid) : State :=
  { s with grids := s.grids.map (fun g => if g.gid == gid then u g else g) }

/-! ### The launch record (06 R174) -/

/-- `n` bytes at an offset of a list of bytes, little-endian; bytes beyond the list read 0. -/
def leBytes (b : List Byte) (off : Nat) : Nat → Nat
  | 0 => 0
  | n + 1 => (b.getD off 0).toNat + 256 * leBytes b (off + 1) n

/-- The `n` low bytes of a number, little-endian. -/
def toBytes (v : Nat) : Nat → List Byte
  | 0 => []
  | n + 1 => BitVec.ofNat 8 v :: toBytes (v / 256) n

/-- A field of the launch record of the block's grid; 0 with no grid. -/
def rec (s : State) (off n : Nat) : Nat :=
  match gridOf s with
  | some g => leBytes g.record off n
  | none => 0

/-- Warps per block (05 R168): T threads, 32 lanes. -/
def Grid.threads (g : Grid) : Nat := leBytes g.record 0x14 2 * leBytes g.record 0x16 2 * leBytes g.record 0x18 2

/-- Is the block of narrow core class (06 R174)? -/
def narrow (s : State) : Bool := rec s 0x1A 1 == 1

/-- The ASID of the block's grid. -/
def asidOf (s : State) : Nat := ((gridOf s).map Grid.asid).getD 0

/-! ### Exports (05 R158 to R162) -/

/-- The fragment's export. -/
def exportOf (s : State) : Option Export :=
  match s.f.exp with
  | none => none
  | some x => s.w.exps.find? (fun e => e.id == x)

/-- The lanes of an export whose narrow warp has not returned; 32 stands for one that has. -/
def Export.lanes (e : Export) : List Nat := e.map.filter (· < 32)

/-- The lanes of narrow warp `n` of an export (05 R159). -/
def Export.warpLanes (e : Export) (n : Nat) : List Nat := (e.map.drop (4 * n)).take 4

/-- The key of a value as narrow warp `n` of an export holds it. -/
def viewKey (n k : Nat) : Nat := 8192 * n + k

/-- The export that holds a lane. -/
def exportOfLane (s : State) (l : Nat) : Option Export := s.w.exps.find? (fun e => e.map.contains l)

/-- Changes an export of the warp. -/
def updExport (s : State) (x : Nat) (u : Export → Export) : State :=
  { s with w := { s.w with exps := s.w.exps.map (fun e => if e.id == x then u e else e) } }

/-- A value kept under a key, newest first. -/
def lookup {α : Type} (k : Nat) : List (Nat × α) → Option α
  | [] => none
  | (k', v) :: r => if k' = k then some v else lookup k r

/-- Keeps a value under a key. -/
def keep {α : Type} (k : Nat) (v : α) (l : List (Nat × α)) : List (Nat × α) :=
  (k, v) :: l.filter (fun p => p.1 != k)

/-- Adds a number to a list once. -/
def addOnce (n : Nat) (l : List Nat) : List Nat := if l.contains n then l else n :: l

/-! ### Vector registers -/

/-- The key of a register lane. -/
def regKey (r l : Nat) : Nat := 32 * r + l

/-- The newest result in flight for a register lane (09 R249). -/
def inflight (s : State) (k : Nat) : Option W32 :=
  s.w.pend.foldl (fun a p => p.lands.foldl (fun a l => match l with | .lane k' v => if k' = k then some v else a | _ => a) a)
    none

/-- The value of a register lane that the fragment finds in its own core's file (05 R160). -/
def fileLane (s : State) (k : Nat) : W32 :=
  match exportOf s with
  | none => Cells.get s.w.v k
  | some e => (lookup (viewKey s.f.nw k) e.held).getD (Cells.get s.w.v k)

/-- A register lane as read: under a result in flight either the old or the new value (09 R250), under a last-read mark
either the earlier value or 0 (R252). A reissued part reads what its instruction read (07 R214). -/
def readLane (s : State) (r l : Nat) : W32 :=
  let k := regKey r l
  let marked := s.f.replay.isNone && s.w.lastRead.contains k
  let old := if marked && !Config.lastReadKeeps s.tick k then 0 else fileLane s k
  match inflight s k with
  | some v => if Config.inflightNew s.tick k then v else old
  | none => old

/-- The export and narrow warp in which a fragment runs. -/
def Frag.seat (f : Frag) : Option (Nat × Nat) := f.exp.map (fun x => (x, f.nw))

/-- The narrow warps of an export that keep the old value when a write from seat `me` reaches lane `l` of the parent's file:
the one that holds the lane, and the others of the writer's own export (05 R160, R163). -/
def Export.keepers (e : Export) (me : Option (Nat × Nat)) (l : Nat) : List Nat :=
  (List.range e.total).filter (fun n => me != some (e.id, n)
    && ((e.warpLanes n).contains l || me.any (fun m => m.1 == e.id)))

/-- Narrow warps take an old value that they do not hold yet. -/
def holdOld {α : Type} (k : Nat) (old : α) (ns : List Nat) (h : List (Nat × α)) : List (Nat × α) :=
  ns.foldl (fun h n => if (lookup (viewKey n k) h).isSome then h else keep (viewKey n k) old h) h

/-- Does the narrow warp of a seat hold a lane itself? -/
def seatHolds (s : State) (me : Option (Nat × Nat)) (l : Nat) : Bool :=
  me.any (fun m => s.w.exps.any (fun e => e.id == m.1 && (e.warpLanes m.2).contains l))

/-- Writes a register lane from seat `me`. A narrow warp keeps its own lanes, marked dirty. A write that reaches any other
lane goes to the parent's file, once the narrow warps that read the lane hold its old value (05 R160). -/
def putLane (me : Option (Nat × Nat)) (k : Nat) (v : W32) (s : State) : State :=
  let l := k % 32
  if s.w.exps.isEmpty then { s with w := { s.w with v := Cells.set s.w.v k v } }
  else match me with
    | some (x, n) =>
      if seatHolds s me l then
        updExport s x (fun e => { e with held := keep (viewKey n k) v e.held, dirty := addOnce k e.dirty })
      else
        let old := Cells.get s.w.v k
        let s := { s with w := { s.w with v := Cells.set s.w.v k v,
                                          exps := s.w.exps.map (fun e => { e with held := holdOld k old (e.keepers me l) e.held }) } }
        updExport s x (fun e => { e with held := keep (viewKey n k) v e.held })
    | none =>
      let old := Cells.get s.w.v k
      { s with w := { s.w with v := Cells.set s.w.v k v,
                               exps := s.w.exps.map (fun e => { e with held := holdOld k old (e.keepers none l) e.held }) } }

/-- Writes a predicate bit from seat `me` (10 R287). -/
def putBit (me : Option (Nat × Nat)) (p l : Nat) (b : Bool) (s : State) : State :=
  let k := regKey p l
  let file := Cells.set s.w.p p (setBit (Cells.get s.w.p p) l b)
  let old := (Cells.get s.w.p p).getLsbD l
  if s.w.exps.isEmpty then { s with w := { s.w with p := file } }
  else match me with
    | some (x, n) =>
      if seatHolds s me l then
        updExport s x (fun e => { e with pheld := keep (viewKey n k) b e.pheld, pdirty := addOnce k e.pdirty })
      else
        let s := { s with w := { s.w with p := file,
                                          exps := s.w.exps.map (fun e => { e with pheld := holdOld k old (e.keepers me l) e.pheld }) } }
        updExport s x (fun e => { e with pheld := keep (viewKey n k) b e.pheld })
    | none =>
      { s with w := { s.w with p := file,
                               exps := s.w.exps.map (fun e => { e with pheld := holdOld k old (e.keepers none l) e.pheld }) } }

/-- Ends the last-read mark of a register lane (09 R252). -/
def unmark (k : Nat) (s : State) : State := { s with w := { s.w with lastRead := s.w.lastRead.filter (· != k) } }

/-- Writes a register lane. In place, a lane of another fragment holds the written value from then on, of the two that 05
R164 allows. -/
def writeLane (s : State) (r l : Nat) (v : W32) : State := putLane s.f.seat (regKey r l) v (unmark (regKey r l) s)

/-! ### Scalar registers -/

/-- The newest result in flight for a scalar register. -/
def inflightS (s : State) (n : Nat) : Option W64 :=
  s.w.pend.foldl (fun a p => p.lands.foldl (fun a l => match l with | .scalar m v => if m = n then some v else a | _ => a) a)
    none

/-- A scalar register as read; s0 reads 0 (09 R256). -/
def readS (s : State) (n : Nat) : W64 :=
  if n = 0 then 0
  else match inflightS s n with
    | some v => if Config.inflightNew s.tick (8192 + n) then v else Cells.get s.w.s n
    | none => Cells.get s.w.s n

/-- Writes a scalar register; a write to s0 is discarded (09 R256). -/
def writeS (s : State) (n : Nat) (v : W64) : State :=
  if n = 0 then s else { s with w := { s.w with s := Cells.set s.w.s n v } }

/-! ### Predicates -/

/-- The newest result in flight for a predicate bit. -/
def inflightP (s : State) (p l : Nat) : Option Bool :=
  s.w.pend.foldl (fun a q => q.lands.foldl (fun a x => match x with
    | .pred p' l' b => if p' = p && l' = l then some b else a | _ => a) a) none

/-- A predicate bit in the fragment's own core's file (10 R287). -/
def filePred (s : State) (p l : Nat) : Bool :=
  match exportOf s with
  | none => (Cells.get s.w.p p).getLsbD l
  | some e => (lookup (viewKey s.f.nw (regKey p l)) e.pheld).getD ((Cells.get s.w.p p).getLsbD l)

/-- A predicate bit as read; p0 reads all ones (09 R256). -/
def predBit (s : State) (p l : Nat) : Bool :=
  if p = 0 then true
  else match inflightP s p l with
    | some b => if Config.inflightNew s.tick (9216 + regKey p l) then b else filePred s p l
    | none => filePred s p l

/-- A predicate as read, for the lanes of a mask (0 elsewhere). -/
def readP (s : State) (p : Nat) (m : Lanes) : Lanes := mkLanes (fun l => m.getLsbD l && predBit s p l)

/-- Writes a predicate bit; a write to p0 is discarded (09 R256). -/
def writePBit (s : State) (p l : Nat) (b : Bool) : State := if p = 0 then s else putBit s.f.seat p l b s

/-- Writes bits of a predicate in the lanes of a mask. -/
def writeP (s : State) (p : Nat) (m bits : Lanes) : State :=
  (lanesOf m).foldl (fun s l => writePBit s p l (bits.getLsbD l)) s

/-! ### The mode image (09 R258) -/

def modeType (s : State) : Nat := s.f.mode.toNat / 2 ^ 22 % 16
def modeRnd (s : State) : Nat := s.f.mode.toNat / 2 ^ 20 % 4
def modeSat (s : State) : Bool := s.f.mode.getLsbD 19
def modeFtz (s : State) : Bool := s.f.mode.getLsbD 18
def modeNomask (s : State) : Bool := s.f.mode.getLsbD 17
def modeGinv (s : State) : Bool := s.f.mode.getLsbD 16
def modeGuard (s : State) : Nat := s.f.mode.toNat / 2 ^ 13 % 8
def modeTguard (s : State) : Nat := s.f.mode.toNat / 2 ^ 10 % 8
def modeLevel (s : State) : Nat := s.f.mode.toNat / 2 ^ 8 % 4

/-- Is a type code one of f64, i64 and n64, whose operands are pairs (09 R255)? -/
def wide (ty : Nat) : Bool := ty == 5 || ty == 6 || ty == 7

/-- Registers of a vector operand of the mode's type (09 R255). -/
def opWidth (s : State) : Nat := if wide (modeType s) then 2 else 1

/-! ### Active and write sets (11 R304) -/

/-- The lanes for which an instruction acts: the fragment's, or those of the part being reissued (07 R210). -/
def partMask (s : State) : Lanes :=
  match s.f.replay with
  | some r => r.lanes &&& s.f.mask
  | none => s.f.mask

/-- The lane guard of a lane (09 R258). -/
def guardBit (s : State) (l : Nat) : Bool := predBit s (modeGuard s) l != modeGinv s

/-- The active set: lanes of the fragment that pass the lane guard (11 R304). -/
def actSet (s : State) : Lanes := mkLanes (fun l => (partMask s).getLsbD l && guardBit s l)

/-- Every lane of the warp, launched or not; a narrow core's own warp has lanes 0 to 3 (11 R304). -/
def warpLanes (s : State) : Lanes := if narrow s then 0xF else 0xFFFFFFFF

/-- The write set of an active set (11 R304). -/
def writeSet (s : State) (act : Lanes) : Lanes := if modeNomask s then warpLanes s else act

/-! ### Operands by their 8-bit field (09 R254, R255) -/

/-- A 32-bit source: a register, or the low 32 bits of a broadcast. -/
def src32 (s : State) (a : Nat) (l : Nat) : W32 :=
  if 224 ≤ a then (readS s (a - 224)).setWidth 32 else readLane s a l

/-- A 64-bit source: a pair with the even register low, or a broadcast. -/
def src64 (s : State) (a : Nat) (l : Nat) : W64 :=
  if 224 ≤ a then readS s (a - 224)
  else BitVec.ofNat 64 ((readLane s a l).toNat + 2 ^ 32 * (readLane s (a + 1) l).toNat)

/-- A source of `n` registers as a number. -/
def srcN (s : State) (n a l : Nat) : Nat := if n = 2 then (src64 s a l).toNat else (src32 s a l).toNat

/-- Writes a destination of `n` registers in one lane. -/
def writeN (s : State) (n d l v : Nat) : State :=
  if n = 2 then writeLane (writeLane s d l (BitVec.ofNat 32 v)) (d + 1) l (BitVec.ofNat 32 (v / 2 ^ 32))
  else writeLane s d l (BitVec.ofNat 32 v)

/-- Writes results lane by lane. -/
def writeLanes (s : State) (n d : Nat) (rs : List (Nat × Nat)) : State :=
  rs.foldl (fun s p => writeN s n d p.1 p.2) s

/-- The landings of results of `n` registers. -/
def landings (n d : Nat) (rs : List (Nat × Nat)) : List Landing :=
  rs.flatMap (fun p =>
    if n = 2 then [.lane (regKey d p.1) (BitVec.ofNat 32 p.2), .lane (regKey (d + 1) p.1) (BitVec.ofNat 32 (p.2 / 2 ^ 32))]
    else [.lane (regKey d p.1) (BitVec.ofNat 32 p.2)])

end Sys2Proof.Machine
end

