-- ==== Sys2Proof/Machine/Flags.lean ====
section
/-!
DEFINITION. Completion flags (09 R248 to R250, 07 R207): outstanding operations, the landing of their results, and the
agenda of due events by which they complete (log 1).
-/
namespace Sys2Proof.Machine

/-- Adds a due event to the agenda. -/
def push (i : Instr) (a : EvArg) (s : State) : State := { s with agenda := s.agenda ++ [(i, a)] }

/-- Takes a fresh identifier. -/
def fresh (s : State) : State := { s with uid := s.uid + 1 }

/-- Does an outstanding operation count in a fragment (09 R248)? An operation with per-lane parts counts where one of
them is outstanding, any other wherever one of its lanes is held. -/
def Pend.counts (p : Pend) (f : Frag) : Bool :=
  p.sup == f.sup && (if p.perLane then p.lanes &&& f.mask != 0 else p.all &&& f.mask != 0)

/-- Outstanding operations of a fragment under a flag. -/
def flagCount (w : Warp) (f : Frag) (n : Nat) : Nat :=
  (w.pend.filter (fun p => p.flag.toNat == n && p.counts f)).length

/-- Is flag `n` complete for a fragment? -/
def flagDone (w : Warp) (f : Frag) (n : Nat) : Bool := flagCount w f n == 0

/-- Is every flag of a 12-bit mask complete for a fragment? -/
def flagsDone (w : Warp) (f : Frag) (m : BitVec 12) : Bool :=
  (List.range 12).all (fun i => !m.getLsbD i || flagDone w f i)

/-- Header word 0 of the clause of the instruction being issued: a reissued part keeps its own (09 R248). -/
def clauseWord (f : Frag) : W32 :=
  match f.replay with
  | some r => r.h0
  | none => f.h0

/-- SETA of the clause (09 R246). -/
def setA (f : Frag) : Nat := (clauseWord f).toNat / 2 ^ 10 % 16
/-- SETB of the clause. -/
def setB (f : Frag) : Nat := (clauseWord f).toNat / 2 ^ 6 % 16

/-- A further operation under the flag stalls at issue (09 R248): 32 are outstanding. Untracked ones are not counted, and a
reissued part is of an operation that is counted already. -/
def flagFull (s : State) (n : Nat) : Bool := s.f.replay.isNone && n < 12 && 32 ≤ flagCount s.w s.f n

/-- A new operation of the fragment at the front. `whole` gives the lanes of an operation that has no per-lane parts, `left`
its requests still queued, and `owes` the register lanes that it will write later. -/
def newPend (s : State) (flag : Nat) (whole : Option Lanes) (u : PendUnit) (lanes : Lanes) (lands : List Landing)
    (left : Nat := 0) (owes : List Nat := []) : Pend :=
  { id := s.uid, flag := BitVec.ofNat 4 flag, perLane := whole.isNone, sup := s.f.sup, unit := u, lanes := lanes,
    all := whole.getD lanes, lands := lands, owes := owes, own := s.f.mask, marks := [], reads := [], losses := 0,
    src := none, left := left }

/-- An operation is outstanding from now on, and has taken its identifier. -/
def pushPend (p : Pend) (s : State) : State := fresh { s with w := { s.w with pend := s.w.pend ++ [p] } }

/-- Adds an outstanding operation. -/
def addPend (s : State) (flag : Nat) (whole : Option Lanes) (u : PendUnit) (lanes : Lanes) (lands : List Landing)
    (left : Nat := 0) (owes : List Nat := []) : State := pushPend (newPend s flag whole u lanes lands left owes) s

/-- Changes an outstanding operation. -/
def updPend (s : State) (id : Nat) (u : Pend → Pend) : State :=
  { s with w := { s.w with pend := s.w.pend.map (fun p => if p.id == id then u p else p) } }

/-- The seat of the fragment that issued an operation with lanes `own`, where lane `l` now runs: its own lanes are wherever
they have been exported to (09 R248), and another lane is written across fragments. -/
def seatOf (s : State) (own : Lanes) (l : Nat) : Option (Nat × Nat) :=
  let j := if own.getLsbD l then l else lowLane own
  match exportOfLane s j with
  | some e => ((List.range e.total).find? (fun n => (e.warpLanes n).contains j)).map (fun n => (e.id, n))
  | none => none

/-- Writes a landed result of an operation that lanes `own` issued. Results for exited lanes are discarded (10 R284). -/
def land (own : Lanes) (s : State) (x : Landing) : State :=
  match x with
  | .lane k v => if s.w.exited.getLsbD (k % 32) then s else putLane (seatOf s own (k % 32)) k v (unmark k s)
  | .scalar n v => writeS s n v
  | .pred p l b => if p = 0 || s.w.exited.getLsbD l then s else putBit (seatOf s own l) p l b s

/-- The lane that a landing belongs to; none for a scalar. -/
def Landing.lane? : Landing → Option Nat
  | .lane k _ => some (k % 32)
  | .scalar _ _ => none
  | .pred _ l _ => some l

/-- Marks registers last-read (09 R252). -/
def markRead (keys : List Nat) (s : State) : State :=
  { s with w := { s.w with lastRead := keys.foldl (fun l k => addOnce k l) s.w.lastRead } }

/-- The parts of an operation in the lanes `m` complete: their results land, and the operation ends with its last part.
Scalar results land with the last part (09 R248, R249), and its note takes effect then (07 R214). -/
def completeLanes (s : State) (id : Nat) (m : Lanes) : State :=
  match s.w.pend.find? (fun p => p.id == id) with
  | none => s
  | some p =>
    let rest := p.lanes &&& ~~~m
    let now := p.lands.filter (fun x => match x.lane? with
      | some l => m.getLsbD l
      | none => rest == 0)
    let later := p.lands.filter (fun x => match x.lane? with
      | some l => !m.getLsbD l
      | none => rest != 0)
    let s := now.foldl (land p.own) s
    if rest = 0 then markRead p.marks { s with w := { s.w with pend := s.w.pend.filter (fun q => q.id != id) } }
    else updPend s id (fun q => { q with lanes := rest, lands := later, owes := q.owes.filter (fun k => !m.getLsbD (k % 32)),
                                         reads := q.reads.filter (fun r => !m.getLsbD r.1) })

/-- An operation completes whole. -/
def complete (s : State) (id : Nat) : State := completeLanes s id 0xFFFFFFFF

/-- The parts of an operation in the lanes `m` end with no result (07 R215). -/
def dropLanes (s : State) (id : Nat) (m : Lanes) : State :=
  let kept := fun (x : Landing) => match x.lane? with
    | some l => !m.getLsbD l
    | none => false
  let strip := fun (p : Pend) => { p with lanes := p.lanes &&& ~~~m, lands := p.lands.filter kept,
                                          owes := p.owes.filter (fun k => !m.getLsbD (k % 32)),
                                          reads := p.reads.filter (fun r => !m.getLsbD r.1) }
  let pend := s.w.pend.filterMap (fun p => if p.id == id then
      (if p.lanes &&& ~~~m = 0 then none else some (strip p)) else some p)
  { s with w := { s.w with pend := pend } }

/-- Starts a flag-A operation that lands by LONG_LATENCY_RESULT (09 R249). -/
def startLong (s : State) (whole : Option Lanes) (lanes : Lanes) (lands : List Landing) : State :=
  if lanes = 0 && lands.isEmpty then s else
  let id := s.uid
  push .longLatencyResult (.triple s.blk.uid s.w.idx id) (addPend s (setA s.f) whole .long lanes lands)

/-- Index of an instruction word in its clause (09 R245). -/
def wordIndex (f : Frag) (pc : W64) : Nat := (pc.toNat - f.hdr.toNat) / 4 - 2

/-- The operand note of an instruction word (09 R246). -/
def noteAt (f : Frag) (pc : W64) : Nat := f.h1.toNat / 2 ^ (2 * wordIndex f pc) % 4

/-- The reissue of the instruction at the front, for the lanes `m` (07 R210). -/
def replayOf (i : Instr) (note : BitVec 2) (m : Lanes) (id : Nat) (s : State) : Replay :=
  match s.f.replay with
  | some r => { r with lanes := m, id := id }
  | none => { i := i, lanes := m, pc := s.f.pc, h0 := s.f.h0, note := note, id := id }

/-- Has a register lane a flag-A producer in flight (09 R249)? A reissued part is its own producer, and a handler does not
wait for a part that waits for its `tret`. -/
def inFlightLane (s : State) (k : Nat) : Bool :=
  s.w.pend.any (fun p => !s.f.replay.any (fun r => r.id == p.id)
    && (p.lands.any (fun x => match x with | .lane k' _ => k' == k | _ => false)
        || ((p.sup || !s.f.sup) && p.owes.contains k)))

end Sys2Proof.Machine
end

