-- ==== Sys2Proof/Machine/Translate.lean ====
section
/-!
DEFINITION. Address spaces and translation (01): generic addresses, the physical map, page tables and their walk, the
TLBs and walk caches (R27, R29), the migration redirection of physical accesses, and the carve-out entries of object memory.
-/
namespace Sys2Proof.Machine

/-- Bits `lo` to `lo + n - 1` of a number. -/
def bits (v lo n : Nat) : Nat := v / 2 ^ lo % 2 ^ n

/-- Bit `i` of a number. -/
def bit (v i : Nat) : Bool := v / 2 ^ i % 2 == 1

/-- A memory fault met by an access (01 R34, R35; 04 R135): code, cause, level and pool of TRAPAUX, and TRAPVA. -/
structure MFault where
  code : Nat
  cause : Nat
  level : Nat
  pool : Nat
  va : W64
  deriving DecidableEq, Repr

/-- TRAPAUX of a memory fault (01 R34). -/
def MFault.aux (m : MFault) (elem unit access : Nat) : W64 :=
  BitVec.ofNat 64 (elem * 2 ^ 48 + m.pool * 2 ^ 40 + unit * 2 ^ 32 + m.level * 2 ^ 20 + access * 2 ^ 16 + m.cause * 2 ^ 8)

/-- A PROT with no walk involved. -/
def prot (cause : Nat) (va : W64) : MFault := { code := 0x07, cause := cause, level := 15, pool := 0, va := va }

/-! ### The physical map (01 R17) -/

/-- Is a physical address in far memory? -/
def isFar (pa : Nat) : Bool := Config.farBase ≤ pa && pa < Config.farBase + Config.farSize

/-- The region of a physical address and its offset in it: 0 to 3 die-affine near, 4 interleaved near, 5 far. -/
def regionOf (s : State) (pa : Nat) : Option (Nat × Nat) :=
  let a := s.dev.nearsplit * Config.gib
  if isFar pa then some (5, pa - Config.farBase)
  else if Config.nearInterBase ≤ pa && pa < Config.nearInterBase + 4 * (72 * Config.gib - a) then
    some (4, pa - Config.nearInterBase)
  else
    let d := pa / 0x2000000000
    if d < 4 && pa % 0x2000000000 < a then some (d, pa % 0x2000000000) else none

/-- Is a physical address populated? -/
def populated (s : State) (pa : Nat) : Bool := (regionOf s pa).isSome

/-! ### Migration (01 R40, R41) -/

/-- Bytes of a migrating page. -/
def Mig.bytes (m : Mig) : Nat := if m.size = 1 then 0x10000 else if m.size = 2 then 0x200000 else 0

/-- Does a live entry redirect a physical address? Lines below the progress pointer lie in the new frame. -/
def Mig.covers (m : Mig) (pa : Nat) : Bool :=
  m.en && m.old ≤ pa && pa < m.old + m.bytes && (pa - m.old) / 128 < m.ptr

/-- The physical address at which an access is performed. -/
def redirect (s : State) (pa : Nat) : Nat :=
  match s.dev.migs.find? (fun e => e.2.covers pa) with
  | some e => e.2.new + (pa - e.2.old)
  | none => pa

/-- `n` bytes of memory at a physical address. -/
def physRead (s : State) (pa n : Nat) : Nat := Cells.load s.mem (redirect s pa) n

/-- Writes `n` bytes of memory at a physical address. -/
def physWrite (s : State) (pa v n : Nat) : State := { s with mem := Cells.store s.mem (redirect s pa) v n }

/-! ### Object granules (04 R124) -/

/-- The carve-out entry of the granule at a physical address; none outside the object capacity. -/
def granAddr (s : State) (pa : Nat) : Option Nat :=
  let pa := redirect s pa
  match regionOf s pa with
  | none => none
  | some (r, off) =>
    let w := s.dev.objcfg.getD r (0, 0)
    let cap := bits w.1.toNat 0 32
    let cbase := bits w.2.toNat 16 32 * 2 ^ 16
    let f := off / 0x10000
    if f < cap then some (cbase + f * 2048 + off % 0x10000 / 64 * 2) else none

/-- A granule's carve-out entry; 0, PLAIN with clear tags, where there is none. -/
def gran (s : State) (pa : Nat) : Nat :=
  match granAddr s pa with
  | some a => Cells.load s.mem a 2
  | none => 0

/-- Writes a granule's carve-out entry. -/
def setGran (s : State) (pa v : Nat) : State :=
  match granAddr s pa with
  | some a => { s with mem := Cells.store s.mem a v 2 }
  | none => s

/-- STATE and HEAD of an entry (04 R123, R124). -/
def granState (g : Nat) : Nat := bits g 8 2
def granHead (g : Nat) : Bool := bit g 10

/-- Clears or sets the reference tag of the 8-byte word at a physical address. -/
def setTag (s : State) (pa : Nat) (t : Bool) : State :=
  let g := gran s pa
  let b := 2 ^ (pa % 64 / 8)
  let off := if bit g (pa % 64 / 8) then g - b else g
  let v := if t then off + b else off
  if v = g then s else setGran s pa v

/-- The reference tag of a word. -/
def tagAt (s : State) (pa : Nat) : Bool := bit (gran s pa) (pa % 64 / 8)

/-! ### Page tables (01 R23 to R26) -/

/-- Fields of a table entry. -/
def eV (e : Nat) : Bool := bit e 0
def eRD (e : Nat) : Bool := bit e 1
def eWR (e : Nat) : Bool := bit e 2
def eEX (e : Nat) : Bool := bit e 3
def eU (e : Nat) : Bool := bit e 4
def eC (e : Nat) : Bool := bit e 5
def eOBJ (e : Nat) : Bool := bit e 6
def eMIG (e : Nat) : Bool := bit e 7
def eTIER (e : Nat) : Nat := bits e 8 1
def eHOME (e : Nat) : Nat := bits e 9 3
def eTYPE (e : Nat) : Nat := bits e 12 2
def ePOOL (e : Nat) : Nat := bits e 14 6
def eFRAME (e : Nat) : Nat := bits e 24 32

/-- Is a leaf a device-register leaf (01 R17)? -/
def isDevLeaf (e : Nat) : Bool := eHOME e == 1 && eTIER e == 1

/-- 64 KiB frames that a leaf type covers. -/
def framesOf (ty : Nat) : Nat := if ty = 3 then 16384 else if ty = 2 then 32 else 1

/-- The region that TIER and HOME of a leaf choose, and its frames (01 R17). -/
def leafRegion (s : State) (e : Nat) : Nat × Nat :=
  let a := s.dev.nearsplit
  if eTIER e = 1 then (5, 0x1800000)
  else if 4 ≤ eHOME e then (eHOME e - 4, a * 16384)
  else (4, 4 * (72 - a) * 16384)

/-- The base of a region (01 R17). -/
def regionBase (r : Nat) : Nat :=
  if r = 5 then Config.farBase else if r = 4 then Config.nearInterBase else r * 0x2000000000

/-- Is a valid entry malformed at its level (01 R25)? `first` says that a 2 MiB leaf stands first in its group. -/
def malformed (s : State) (e level : Nat) (first : Bool) : Bool :=
  let ty := eTYPE e
  if ty = 0 then
    level == 3 || bits e 1 11 != 0 || bits e 14 10 != 0 || (level == 2 && eFRAME e * 4096 % 0x20000 != 0)
  else
    let (r, _) := leafRegion s e
    let cap := bits (s.dev.objcfg.getD r (0, 0)).1.toNat 0 32
    (level < 2) || (level == 2 && ty != 3) || (level == 3 && ty == 3) || (ty == 2 && !first)
      || bits e 20 4 != 0 || eHOME e == 2 || eHOME e == 3
      || (eHOME e == 1 && !(ty == 1 && eTIER e == 1 && !eC e && !eEX e && !eOBJ e && !eMIG e))
      || ((eWR e || eEX e) && !eRD e)
      || (ty == 2 && eFRAME e % 32 != 0) || (ty == 3 && eFRAME e % 16384 != 0)
      || (eOBJ e && cap < eFRAME e + framesOf ty)

/-- Does a leaf's frame lie beyond its region (01 R17, R25)? -/
def leafBeyond (s : State) (e : Nat) : Bool :=
  if isDevLeaf e then 64 ≤ eFRAME e else (leafRegion s e).2 < eFRAME e + framesOf (eTYPE e)

/-- The 56-bit virtual address of a global generic address. -/
def vaOf (g : W64) : Nat := g.toNat % 2 ^ 56

/-- The generic address of a 56-bit virtual address. -/
def genOf (va : Nat) : W64 := BitVec.ofNat 64 (if bit va 55 then va + 0xFF * 2 ^ 56 else va)

/-- The effective ASID: 0 for the upper half (01 R15, R28). -/
def effAsid (asid va : Nat) : Nat := if bit va 55 then 0 else asid

/-- The line of an address: bits 55:7 (02 R55). -/
def lineOf (va : W64) : Nat := vaOf va / 128

/-! ### Homes and controllers (01 R20, R21, R28; 02 R58) -/

/-- The die that homes a virtual address under a leaf (01 R20, R21). -/
def homeDie (e va : Nat) : Nat :=
  let j := va / 128 % 512
  if eHOME e < 4 then bits j 0 2 ^^^ bits j 2 2 ^^^ bits j 4 2 ^^^ bits j 6 2 ^^^ bits j 8 1 else eHOME e - 4

/-- The home slice of a line under a leaf: 32 × die + slice (02 R58). -/
def sliceOf (asid e va : Nat) : Nat :=
  let la := va / 128
  let x := if eHOME e < 4 then la / 4 else la
  let fold := (List.range 10).foldl (fun n k => n ^^^ bits x (5 * k) 5) 0
  32 * homeDie e va + (fold ^^^ effAsid asid va % 32)

/-- The controller whose TLB translates a request: the near controller of its home slice, or a far one for a request that
originates on the hub (01 R28; log 7). -/
def ctlOf (hub : Bool) (asid e va : Nat) : Nat := if hub then 32 + va / 128 % 8 else sliceOf asid e va / 4

/-! ### The walk (01 R26, R27) -/

/-- The physical address of an ASID's level-0 table (01 R16). -/
def asidRoot (s : State) (asid : Nat) (va : W64) : Except MFault Nat :=
  let base := s.dev.asidbase.toNat
  if !isFar base then .error { code := 7, cause := 0x18, level := 0, pool := 0, va := va }
  else
    let w0 := physRead s (base + 16 * asid) 8
    let w1 := physRead s (base + 16 * asid + 8) 8
    if !bit w1 0 || w1 / 2 != 0 || bits w0 48 16 != 0 || bits w0 0 11 != 0 then
      .error { code := 7, cause := 0x17, level := 0, pool := 0, va := va }
    else if !populated s w0 then .error { code := 7, cause := 0x18, level := 0, pool := 0, va := va }
    else .ok w0

/-- Bits of a virtual address below the index of a level. -/
def levelShift (level : Nat) : Nat := if level = 0 then 48 else if level = 1 then 39 else 30

/-- Where walks for an address are made: ASID, address, and whether the request comes from the hub. -/
structure Walker where
  asid : Nat
  va : Nat
  hub : Bool
  deriving DecidableEq, Repr

/-- The walk-cache entry that a walk may use at a level (01 R27, R29). Walks are made at the controller of the
interleaved home (log 7). -/
def wcacheFind (s : State) (k : Walker) (level : Nat) : Option PtrEntry :=
  s.wcache.find? (fun p => p.ctl == ctlOf k.hub k.asid 0 k.va && p.asid == effAsid k.asid k.va && p.level == level
    && p.index == k.va / 2 ^ levelShift level)

/-- A table entry as a walk reads it at levels 0 to 2: a pointer that the walk cache holds may stand for one that memory
no longer gives (01 R31). -/
def tableEntry (s : State) (k : Walker) (level pa : Nat) : Nat :=
  let e := physRead s pa 8
  match wcacheFind s k level with
  | none => e
  | some p => if p.entry.toNat = e then e else if Config.staleEntry s.tick then p.entry.toNat else e

/-- The next table of a walk at levels 0 to 2, or the 1 GiB leaf at level 2 (01 R26), from the entry that it reads. -/
def walkPointer (s : State) (e level : Nat) (va : W64) : Except MFault (Nat ⊕ Leaf) :=
  if !eV e then .error { code := 6, cause := 0x01, level := level, pool := 0, va := va }
  else if malformed s e level true then .error { code := 7, cause := 0x17, level := level, pool := 0, va := va }
  else if eTYPE e = 3 then
    if leafBeyond s e then .error { code := 7, cause := 0x18, level := level, pool := 0, va := va }
    else .ok (.inr { e := e, size := 0x40000000 })
  else if !populated s (eFRAME e * 4096) then .error { code := 7, cause := 0x18, level := level, pool := 0, va := va }
  else .ok (.inl (eFRAME e * 4096))

/-- The level-3 table of an address, or the 1 GiB leaf that ends the walk. -/
def walkTable (s : State) (asid : Nat) (va : W64) (hub : Bool := false) : Except MFault (Nat ⊕ Leaf) :=
  let v := vaOf va
  let k : Walker := { asid := asid, va := v, hub := hub }
  match asidRoot s (effAsid asid v) va with
  | .error m => .error m
  | .ok t =>
    match walkPointer s (tableEntry s k 0 (t + 8 * bits v 48 8)) 0 va with
    | .error m => .error m
    | .ok (.inr l) => .ok (.inr l)
    | .ok (.inl t) =>
      match walkPointer s (tableEntry s k 1 (t + 8 * bits v 39 9)) 1 va with
      | .error m => .error m
      | .ok (.inr l) => .ok (.inr l)
      | .ok (.inl t) => walkPointer s (tableEntry s k 2 (t + 8 * bits v 30 9)) 2 va

/-- A valid leaf at level 3, checked. -/
def checkLeaf3 (s : State) (e size : Nat) (first : Bool) (va : W64) : Except MFault Leaf :=
  if malformed s e 3 first then .error { code := 7, cause := 0x17, level := 3, pool := 0, va := va }
  else if leafBeyond s e then .error { code := 7, cause := 0x18, level := 3, pool := 0, va := va }
  else .ok { e := e, size := size }

/-- The walk of 01 R26. -/
def walk (s : State) (asid : Nat) (va : W64) (hub : Bool := false) : Except MFault Leaf :=
  let v := vaOf va
  match walkTable s asid va hub with
  | .error m => .error m
  | .ok (.inr l) => .ok l
  | .ok (.inl t) =>
    let g := physRead s (t + 8 * (bits v 21 9 * 32)) 8
    if eTYPE g = 2 && eV g then checkLeaf3 s g 0x200000 true va
    else if eTYPE g = 2 && ePOOL g != 0 then .error { code := 6, cause := 0x03, level := 3, pool := ePOOL g, va := va }
    else
      let e := physRead s (t + 8 * bits v 16 14) 8
      if !eV e then
        if ePOOL e != 0 && eTYPE e = 1 then .error { code := 6, cause := 0x03, level := 3, pool := ePOOL e, va := va }
        else .error { code := 6, cause := 0x02, level := 3, pool := 0, va := va }
      else checkLeaf3 s e 0x10000 (bits v 16 5 == 0) va

/-! ### TLBs and walk caches (01 R28, R29) -/

/-- The TLB entry that covers an address, in the TLB of the controller that translates it. -/
def tlbFind (s : State) (asid va : Nat) (hub : Bool := false) : Option TlbEntry :=
  s.tlb.find? (fun t => t.asid == asid && va / t.size == t.page && t.ctl == ctlOf hub asid t.leaf.toNat va)

/-- The leaf that an access obeys: under a changed entry the old or the new one until `tinv` (01 R31). -/
def leafOf (s : State) (asid : Nat) (va : W64) (hub : Bool := false) : Except MFault Leaf :=
  let v := vaOf va
  let new := walk s asid va hub
  match tlbFind s (effAsid asid v) v hub with
  | none => new
  | some t =>
    let old : Except MFault Leaf := .ok { e := t.leaf.toNat, size := t.size }
    match new with
    | .ok l => if l.e = t.leaf.toNat && l.size = t.size then new else if Config.staleEntry s.tick then old else new
    | .error _ => if Config.staleEntry s.tick then old else new

/-- Is a leaf one that the TLB gave, with no walk (01 R34)? -/
def fromTlb (s : State) (asid va : Nat) (hub : Bool) (l : Leaf) : Bool :=
  match tlbFind s (effAsid asid va) va hub with
  | some t => t.leaf.toNat == l.e && t.size == l.size
  | none => false

/-- Puts an entry into its TLB as the most recently used: 8 ways, the least recently used one of a full set replaced
(01 R29). -/
def tlbPut (l : List TlbEntry) (x : TlbEntry) : List TlbEntry :=
  let rest := l.filter (fun t => !(t.ctl == x.ctl && t.asid == x.asid && t.page == x.page && t.size == x.size))
  if rest.length < 8 then x :: rest
  else
    let set := fun (t : TlbEntry) => Config.tlbSet t.asid t.page t.size % 512
    let mates := rest.filter (fun t => t.ctl == x.ctl && set t == set x)
    match mates.getLast? with
    | some old => if mates.length < 8 then x :: rest else x :: rest.erase old
    | none => x :: rest

/-- Puts an entry into its walk cache: 256 entries, the least recently used one replaced (01 R29). -/
def wcachePut (l : List PtrEntry) (x : PtrEntry) : List PtrEntry :=
  let rest := l.filter (fun p => !(p.ctl == x.ctl && p.asid == x.asid && p.level == x.level && p.index == x.index))
  let mates := rest.filter (fun p => p.ctl == x.ctl)
  match mates.getLast? with
  | some old => if mates.length < 256 then x :: rest else x :: rest.erase old
  | none => x :: rest

/-- The valid pointer entries that a walk passes, level 0 first. -/
def walkPath (s : State) (k : Walker) : Nat → Nat → List PtrEntry
  | 0, _ => []
  | n + 1, t =>
    let level := 2 - n
    let e := tableEntry s k level (t + 8 * bits k.va (levelShift level) (if level = 0 then 8 else 9))
    match walkPointer s e level 0 with
    | .ok (.inl t') =>
      { ctl := ctlOf k.hub k.asid 0 k.va, asid := effAsid k.asid k.va, level := level, index := k.va / 2 ^ levelShift level,
        entry := BitVec.ofNat 64 e } :: walkPath s k n t'
    | _ => []

/-- Keeps what a translation found: the leaf in the TLB, and the pointers of its walk in the walk cache. Invalid entries are
never kept (01 R29). -/
def tlbKeep (s : State) (asid : Nat) (va : W64) (l : Leaf) (hub : Bool := false) : State :=
  let v := vaOf va
  let a := effAsid asid v
  let new : TlbEntry := { ctl := ctlOf hub asid l.e v, asid := a, page := v / l.size, size := l.size, leaf := BitVec.ofNat 64 l.e }
  let path := if fromTlb s asid v hub l then [] else
    match asidRoot s a va with
    | .ok t => walkPath s { asid := asid, va := v, hub := hub } 3 t
    | .error _ => []
  { s with tlb := tlbPut s.tlb new, wcache := path.foldl wcachePut s.wcache }

/-! ### Permissions (01 R30) -/

/-- Kinds of access, by their ACCESS code (01 R34). -/
inductive Access where
  | read | write | rmw | fetch | ref
  deriving DecidableEq, Repr

/-- ACCESS of 01 R34. -/
def Access.code : Access → Nat
  | .read => 0 | .write => 1 | .rmw => 2 | .fetch => 3 | .ref => 4

/-- The permission that a leaf denies an access, by cause, in the order of 01 R30. -/
def denied (e : Nat) (k : Access) (user : Bool) : Option Nat :=
  let missing := match k with
    | .read => if eRD e then none else some 0x10
    | .fetch => if eEX e then none else some 0x12
    | .write | .rmw | .ref => if eWR e then none else some 0x11
  match missing with
  | some c => some c
  | none => if user && !eU e then some 0x13 else none

/-- The physical address of a virtual address under a leaf (01 R26); of a register under a device-register leaf. -/
def leafPa (s : State) (l : Leaf) (va : Nat) : Nat :=
  if isDevLeaf l.e then Config.devBase + eFRAME l.e * 0x10000 + va % l.size
  else regionBase (leafRegion s l.e).1 + eFRAME l.e * 0x10000 + va % l.size

/-! ### Cached lines (01 R28, 02 R55, R58) -/

/-- Bytes `o` to `o + n - 1` of a line as a mask. -/
def byteMask (o n : Nat) : BitVec 128 := BitVec.ofNat 128 ((2 ^ n - 1) * 2 ^ o)

/-- CLUSTER of a core (00 R3). -/
def clusterOf (core : Nat) : Nat := (if core < 256 then core else core - 256) / 2

/-- k of a core within its cluster (00 R3). -/
def coreK (core : Nat) : Nat := core % 2

/-- Is the L1 mode FUSED (02 R55)? -/
def fused (s : State) : Bool := rec s 0x1B 1 == 1

/-- Is the block FUSED on one cluster (02 R56, 03 R86)? -/
def fusedOne (s : State) : Bool := fused s && s.blk.clusters.length ≤ 1

/-- The L1 half that serves the issuing core for a line (02 R55). -/
def halfOf (s : State) (la : Nat) : Nat :=
  let c := clusterOf s.w.core
  if fused s then 2 * c + (bits la 0 1 + bits la 5 1) % 2 else 2 * c + coreK s.w.core

/-- The line that an L1 half holds. -/
def l1Find (s : State) (half asid la : Nat) : Option L1Line :=
  s.l1.find? (fun x => x.half == half && x.asid == asid && x.la == la)

/-- The line that an L2 slice holds: each line has at most one L2 copy (02 R59). -/
def l2Find (s : State) (asid la : Nat) : Option L2Line := s.l2.find? (fun x => x.asid == asid && x.la == la)

/-- The copy of a leaf and the physical address that a cached line gives an access at memory level `lvl`, and whether the L1
gave it (01 R28, R30). A write hits a line whose bytes are absent; an access at the controller hits none. -/
def lineHit (s : State) (asid : Nat) (k : Access) (va : W64) (n lvl : Nat) : Option (Leaf × Nat × Bool) :=
  let v := vaOf va
  let a := effAsid asid v
  let m := byteMask (v % 128) n
  let hit := fun (valid : BitVec 128) => k = .write || valid &&& m == m
  let l2 := match l2Find s a (v / 128) with
    | some x => if lvl != 2 && hit x.valid then some ({ e := x.leaf.toNat, size := 0x10000 }, x.pa + v % 128, false) else none
    | none => none
  if lvl != 0 then l2 else match l1Find s (halfOf s (v / 128)) a (v / 128) with
    | some x => if hit x.valid then some ({ e := x.leaf.toNat, size := 0x10000 }, x.pa + v % 128, true) else l2
    | none => l2

/-! ### Translation -/

/-- The FABRIC fault of a request (16 R425): its home's die has no route left, or it is one of the requests that an outage
of the link between its die and its home's still takes; a read is reissued once. -/
def fabricFault (s : State) (e : Nat) (k : Access) (va : W64) : Option MFault :=
  let die := homeDie e (vaOf va)
  let src := (if s.w.core < 256 then s.w.core else s.w.core - 256) / 64
  let fault := fun (cause : Nat) => some { code := 0x12, cause := cause, level := 15, pool := 0, va := va : MFault }
  if isDevLeaf e then none
  else if s.cutoff.contains die || (s.w.launched != 0 && src != die && s.cutoff.contains src) then fault 0x42
  else match s.outage with
    | none => none
    | some (a, b, lost) =>
      let crosses := (die == a && (s.w.launched == 0 || src == b)) || (die == b && (s.w.launched == 0 || src == a))
      if !crosses then none
      else match k with
        | .read | .fetch => if 2 ≤ lost then fault 0x41 else none
        | _ => if 1 ≤ lost then fault 0x40 else none

/-- The ECC fault of an access that reads a poisoned line of memory (07 R212; log 15). A plain write reads no line. -/
def eccFault (s : State) (e : Nat) (k : Access) (pa n : Nat) (va : W64) : Option MFault :=
  if s.poison.isEmpty || isDevLeaf e || k = .write then none
  else if (List.range ((pa % 128 + n + 127) / 128)).any (fun i => s.poison.contains (redirect s (pa / 128 * 128 + 128 * i) / 128))
  then some { code := 0x13, cause := 0, level := 15, pool := 0, va := va }
  else none

/-- The outage after a fault that it has caused. -/
def lossCounted (code cause : Nat) (s : State) : State :=
  let n := if code = 0x12 then (if cause = 0x40 then 1 else if cause = 0x41 then 2 else 0) else 0
  if n = 0 then s
  else { s with outage := s.outage.bind (fun o => if o.2.2 ≤ n then none else some (o.1, o.2.1, o.2.2 - n)) }

/-- Translates and checks a global access of `n` bytes that stays within a page, made at memory level `lvl`. On a hit the
line's copy of the leaf is checked, and no request leaves an L1 that hits (01 R28, R30). -/
def translate (s : State) (asid : Nat) (user : Bool) (k : Access) (va : W64) (n : Nat) (lvl : Nat := 1) (hub : Bool := false) :
    Except MFault Piece :=
  let a := effAsid asid (vaOf va)
  match lineHit s asid k va n lvl with
  | some (l, pa, l1) =>
    (match denied l.e k user with
     | some c => .error (prot c va)
     | none =>
       match if l1 then none else fabricFault s l.e k va with
       | some m => .error m
       | none => .ok { asid := a, va := va, pa := pa, n := n, leaf := l, hit := true })
  | none =>
    match leafOf s asid va hub with
    | .error m => .error m
    | .ok l =>
      match denied l.e k user with
      | some c => .error { prot c va with level := if fromTlb s asid (vaOf va) hub l then 15
                                                   else 3 - (if l.size = 0x40000000 then 1 else 0) }
      | none =>
        match fabricFault s l.e k va with
        | some m => .error m
        | none =>
          match eccFault s l.e k (leafPa s l (vaOf va)) n va with
          | some m => .error m
          | none => .ok { asid := a, va := va, pa := leafPa s l (vaOf va), n := n, leaf := l, hit := false }

end Sys2Proof.Machine
end

