-- ==== Sys2Proof/Machine/DevRead.lean ====
section
/-!
DEFINITION. What the device-register region reads as (01 R18): wake registers (15 R406), the link table (R413), RAMPCFG
(R417), the peer table (16 R422), the memory configuration registers (01 R19), COLCFG (02 R65), the migration tables (01
R40) and WALKCFG (04 R145).
-/
namespace Sys2Proof.Machine

/-- One bit of a register word. -/
def bitAt (b : Bool) (n : Nat) : Nat := if b then 2 ^ n else 0

/-- A word of link `n`. -/
def linkWord (s : State) (n o : Nat) : Nat :=
  match lookup n s.dev.links with
  | none => 0
  | some l => if o = 0 then l.rel.toNat + 2 ^ 16 * l.acq.toNat + 2 ^ 32 * (l.tokens % 2 ^ 32) else bitAt l.bound 0

/-- A word of peer `n`. -/
def peerWord (s : State) (n o : Nat) : Nat :=
  match s.dev.peers.find? (fun p => p.n == n) with
  | none => 0
  | some p =>
    if o = 0 then p.qpn.toNat + 2 ^ 32 * p.port.toNat + bitAt p.v 40 + bitAt p.inbound 41 + 2 ^ 48 * p.asid.toNat
    else if o = 8 then p.inrec.toNat
    else if o = 16 then p.drops.toNat
    else 0

/-- A migration entry at reset. -/
def Mig.empty : Mig := { old := 0, new := 0, ptr := 0, done := false, size := 0, go := false, en := false }

/-- Entry `e` of controller `c`, by its key. -/
def migKey (c e : Nat) : Nat := 16 * c + e
def migAt (s : State) (k : Nat) : Mig := (lookup k s.dev.migs).getD Mig.empty

/-- A word of a migration entry. -/
def migWord (m : Mig) (o : Nat) : Nat :=
  if o = 0 then m.old
  else if o = 8 then m.new
  else if o = 16 then 2 ^ 32 * m.ptr + bitAt m.done 16 + 4 * m.size.toNat + bitAt m.go 1 + bitAt m.en 0
  else 0

/-- CAP of RAMPCFG (15 R417). -/
def rampCap (s : State) : Nat := s.dev.rampLimit / 5

/-- The reset value of COLCFG. -/
def colcfgReset : W64 := 0x40401004

/-- COLCFG of a wide core (02 R65). -/
def colcfgAt (s : State) (core : Nat) : W64 := Cells.get s.dev.colcfg core ^^^ colcfgReset

/-- The 8-byte word at an offset of the region; an offset that 01 R18 does not list reads 0. -/
def devWord (s : State) (off : Nat) : Nat :=
  if off < 0x400000 then
    (match s.queues.find? (fun q => q.id == off / 64) with
     | some q => if off % 64 = 0 then q.widx.toNat else 0
     | none => 0)
  else if off < 0x401000 then linkWord s ((off - 0x400000) / 16) (off % 16)
  else if off = 0x500000 then
    2 ^ 32 * s.dev.rampLimit + 2 ^ 24 * s.dev.rampStag + 2 ^ 16 * s.dev.rampSlope + rampCap s % 2 ^ 16
  else if 0x600000 ≤ off && off < 0x608000 then peerWord s ((off - 0x600000) / 32) (off % 32)
  else if off = 0x700000 then s.dev.asidbase.toNat
  else if off = 0x700008 then s.dev.nearsplit
  else if 0x700100 ≤ off && off < 0x700160 then
    let w := s.dev.objcfg.getD ((off - 0x700100) / 16) (0, 0)
    if off % 16 = 0 then w.1.toNat else w.2.toNat
  else if 0x800000 ≤ off && off < 0x800800 then (colcfgAt s ((off - 0x800000) / 8)).toNat
  else if 0x900000 ≤ off && off < 0x905000 then migWord (migAt s (migKey ((off - 0x900000) / 0x200) (off % 0x200 / 32))) (off % 32)
  else if 0xA00000 ≤ off && off < 0xA00400 then (Cells.get s.dev.walkcfg ((off - 0xA00000) / 8)).toNat
  else 0

/-- `n` bytes at an offset of the region. -/
def devRead (s : State) (o : Nat) : Nat → Nat
  | 0 => 0
  | n + 1 => devWord s (o / 8 * 8) / 256 ^ (o % 8) % 256 + 256 * devRead s (o + 1) n

end Sys2Proof.Machine
end

