-- ==== Sys2Proof/Machine/Num.lean ====
section
/-!
DEFINITION. Numbers to the last bit (08): integers and IEEE formats as exact values, the one rounding that ends an
operation, packed forms, and Zennis blocks.
-/
namespace Sys2Proof.Machine.Num

/-! ### Exact values -/

/-- A floating-point value: NaN, an infinity, or plus or minus n / d × 2^e with d positive. A zero keeps its sign. -/
inductive Val where
  | nan
  | inf (neg : Bool)
  | fin (neg : Bool) (n d : Nat) (e : Int)
  deriving DecidableEq, Repr

/-- The rounding inputs of an operation: RND code, saturate and flush (08 R225 to R227). -/
structure Md where
  rnd : Nat
  sat : Bool
  ftz : Bool
  deriving DecidableEq, Repr

/-- The rounding of home ALUs (02 R60): to nearest, subnormals kept. -/
def home : Md := { rnd := 0, sat := false, ftz := false }

/-- An IEEE format: fraction and exponent bits (08 R223). -/
structure Fmt where
  p : Nat
  eb : Nat
  deriving DecidableEq, Repr

def f64 : Fmt := { p := 52, eb := 11 }
def f32 : Fmt := { p := 23, eb := 8 }
def f16 : Fmt := { p := 10, eb := 5 }
def bf16 : Fmt := { p := 7, eb := 8 }

def Fmt.bias (f : Fmt) : Nat := 2 ^ (f.eb - 1) - 1
def Fmt.width (f : Fmt) : Nat := f.p + f.eb + 1
/-- The least exponent of a unit in the last place: that of the subnormals. -/
def Fmt.qmin (f : Fmt) : Int := 1 - (f.bias : Int) - f.p
def Fmt.infBits (f : Fmt) : Nat := (2 ^ f.eb - 1) * 2 ^ f.p
/-- The canonical quiet NaN (08 R224). -/
def Fmt.nan (f : Fmt) : Nat := f.infBits + 2 ^ (f.p - 1)
def Fmt.signBit (f : Fmt) (neg : Bool) : Nat := if neg then 2 ^ (f.p + f.eb) else 0

/-- The value of an encoding (08 R223). -/
def Fmt.decode (f : Fmt) (b : Nat) : Val :=
  let neg := b / 2 ^ (f.p + f.eb) % 2 == 1
  let e := b / 2 ^ f.p % 2 ^ f.eb
  let m := b % 2 ^ f.p
  if e = 2 ^ f.eb - 1 then (if m = 0 then .inf neg else .nan)
  else if e = 0 then .fin neg m 1 f.qmin
  else .fin neg (2 ^ f.p + m) 1 ((e : Int) - f.bias - f.p)

/-- An input under ftz: a subnormal reads as a zero of its sign (08 R226). -/
def Fmt.read (f : Fmt) (ftz : Bool) (b : Nat) : Val :=
  if ftz && b / 2 ^ f.p % 2 ^ f.eb == 0 then .fin (b / 2 ^ (f.p + f.eb) % 2 == 1) 0 1 0 else f.decode b

/-- The numerator and denominator of n / d × 2^e in units of 2^q. -/
def scaled (n d : Nat) (e q : Int) : Nat × Nat :=
  if q ≤ e then (n * 2 ^ (e - q).toNat, d) else (n, d * 2 ^ (q - e).toNat)

/-- Does the rounding mode move the magnitude up from i, with remainder r of den (08 R225)? -/
def roundsUp (rnd : Nat) (neg : Bool) (i r den : Nat) : Bool :=
  if rnd = 0 then den < 2 * r || (2 * r == den && i % 2 == 1)
  else if rnd = 1 then false
  else if rnd = 2 then !neg && r != 0
  else neg && r != 0

/-- The magnitude of plus or minus n / d × 2^e rounded to an integer number of units 2^q. -/
def roundUnits (rnd : Nat) (neg : Bool) (n d : Nat) (e q : Int) : Nat :=
  let (a, b) := scaled n d e q
  let i := a / b
  if roundsUp rnd neg i (a % b) b then i + 1 else i

/-- The exponent of the unit in the last place at n / d × 2^e, n positive: its leading bit is worth 2^(q + p). -/
def Fmt.unit (f : Fmt) (n d : Nat) (e : Int) : Int :=
  let q := ((Nat.log2 n : Int) - Nat.log2 d + e) - f.p
  let (a, b) := scaled n d e q
  max (if a / b < 2 ^ f.p then q - 1 else q) f.qmin

/-- The result of an overflow (08 R227). -/
def Fmt.overflow (f : Fmt) (md : Md) (neg : Bool) : Nat :=
  let away := md.rnd = 0 || (md.rnd = 2 && !neg) || (md.rnd = 3 && neg)
  f.signBit neg + (if md.sat || !away then f.infBits - 1 else f.infBits)

/-- Rounds the magnitude of plus or minus n / d × 2^e once to the format: the encoding without its sign, or none for an
overflow. -/
def Fmt.roundMag (f : Fmt) (rnd : Nat) (neg : Bool) (n d : Nat) (e : Int) : Option Nat :=
  if n = 0 then some 0
  else
    let q := f.unit n d e
    let i := roundUnits rnd neg n d e q
    let (i, q) := if i = 2 ^ (f.p + 1) then (2 ^ f.p, q + 1) else (i, q)
    if i < 2 ^ f.p then some i
    else
      let be := q + f.p + f.bias
      if (2 : Int) ^ f.eb - 1 ≤ be then none else some (be.toNat * 2 ^ f.p + (i - 2 ^ f.p))

/-- Rounds a value once to the format (08 R224 to R227). -/
def Fmt.round (f : Fmt) (md : Md) (v : Val) : Nat :=
  match v with
  | .nan => f.nan
  | .inf neg => f.signBit neg + f.infBits
  | .fin neg n d e =>
    match f.roundMag md.rnd neg n d e with
    | none => f.overflow md neg
    | some m => f.signBit neg + (if md.ftz && m < 2 ^ f.p then 0 else m)

/-! ### Exact arithmetic -/

def Val.neg : Val → Val
  | .nan => .nan
  | .inf s => .inf (!s)
  | .fin s n d e => .fin (!s) n d e

def Val.isNeg : Val → Bool
  | .nan => false
  | .inf s => s
  | .fin s _ _ _ => s

def Val.isZero : Val → Bool
  | .fin _ n _ _ => n == 0
  | _ => false

/-- A finite value as a signed numerator over a denominator in units of 2^q, for q at most its exponent. -/
def signedAt (neg : Bool) (n : Nat) (e q : Int) : Int :=
  let m : Int := n * 2 ^ (e - q).toNat
  if neg then -m else m

/-- The exact sum. A zero sum is -0 when both addends are -0, and otherwise +0, or -0 under rdn (11 R306). -/
def add (rnd : Nat) (x y : Val) : Val :=
  match x, y with
  | .nan, _ => .nan
  | _, .nan => .nan
  | .inf a, .inf b => if a = b then .inf a else .nan
  | .inf a, .fin _ _ _ _ => .inf a
  | .fin _ _ _ _, .inf b => .inf b
  | .fin a n d e, .fin b m c g =>
    let q := min e g
    let z := signedAt a n e q * c + signedAt b m g q * d
    if z = 0 then .fin (if n = 0 && m = 0 && a && b then true else rnd == 3) 0 1 0
    else .fin (z < 0) z.natAbs (d * c) q

/-- The exact product; a zero times an infinity is NaN. -/
def mul (x y : Val) : Val :=
  match x, y with
  | .nan, _ => .nan
  | _, .nan => .nan
  | .inf a, .inf b => .inf (a != b)
  | .inf a, .fin b n _ _ => if n = 0 then .nan else .inf (a != b)
  | .fin a n _ _, .inf b => if n = 0 then .nan else .inf (a != b)
  | .fin a n d e, .fin b m c g => .fin (a != b) (n * m) (d * c) (e + g)

/-- The exact quotient (08 R244). -/
def div (x y : Val) : Val :=
  match x, y with
  | .nan, _ => .nan
  | _, .nan => .nan
  | .inf _, .inf _ => .nan
  | .inf a, .fin b _ _ _ => .inf (a != b)
  | .fin a _ _ _, .inf b => .fin (a != b) 0 1 0
  | .fin a n d e, .fin b m c g =>
    if m = 0 then (if n = 0 then .nan else .inf (a != b))
    else .fin (a != b) (n * c) (d * m) (e - g)

/-- The order of two values that are not NaN: -1, 0 or 1; the zeros are equal. -/
def cmp (x y : Val) : Int :=
  match x, y with
  | .inf a, .inf b => if a = b then 0 else if a then -1 else 1
  | .inf a, _ => if a then -1 else 1
  | _, .inf b => if b then 1 else -1
  | .fin a n d e, .fin b m c g =>
    let q := min e g
    let z := signedAt a n e q * c - signedAt b m g q * d
    if z < 0 then -1 else if z = 0 then 0 else 1
  | _, _ => 0

def isNan (v : Val) : Bool := v == .nan

/-- Integer square root by digits, from bit `k` downward. -/
def isqrt (n : Nat) : Nat → Nat → Nat
  | 0, r => if (r + 1) * (r + 1) ≤ n then r + 1 else r
  | k + 1, r => if (r + 2 ^ (k + 1)) * (r + 2 ^ (k + 1)) ≤ n then isqrt n k (r + 2 ^ (k + 1)) else isqrt n k r

/-- The square root of n / d × 2^e to `bits` bits and more, as a numerator in units of 2^g whose lowest bit says whether
anything was cut off: enough for one correct rounding to a format of fewer bits. -/
def sqrtTo (bits n d : Nat) (e : Int) : Nat × Int :=
  let lg : Int := (Nat.log2 n : Int) - Nat.log2 d + e
  let g0 : Int := lg / 2 - bits - 2
  let (a, b) := scaled n d e (2 * g0)
  let m := a / b
  let r := isqrt m (bits + 6) 0
  (2 * r + (if r * r = m && a % b = 0 then 0 else 1), g0 - 1)

/-! ### Integers (08 R222) -/

/-- The integer of an n-bit field, signed or not. -/
def toInt (signed : Bool) (n v : Nat) : Int :=
  let u := v % 2 ^ n
  if signed && 2 ^ (n - 1) ≤ u then (u : Int) - 2 ^ n else u

/-- The n bits of an integer result, wrapped, or clamped to the type's range. -/
def ofInt (signed sat : Bool) (n : Nat) (z : Int) : Nat :=
  let lo : Int := if signed then -(2 ^ (n - 1)) else 0
  let hi : Int := if signed then 2 ^ (n - 1) - 1 else 2 ^ n - 1
  let z := if sat then max lo (min hi z) else z
  (z % (2 ^ n : Int)).toNat

/-! ### Types (09 R258, 11 R305) -/

/-- Width of an element of a type: of a lane's value, or of an element of a packed type. -/
def width (t : Nat) : Nat :=
  if t = 5 || t = 6 || t = 7 then 64 else if t ≤ 2 then 32
  else if t = 3 || t = 4 || t = 8 || t = 9 || t = 12 || t = 13 || t = 14 then 16 else 8

/-- Is an integer type signed? -/
def signed (t : Nat) : Bool := t == 0 || t == 6 || t == 8 || t == 10 || t == 14 || t == 15

/-- The format of a float type or packed float type. -/
def fmtOf (t : Nat) : Option Fmt :=
  if t = 2 then some f32 else if t = 3 || t = 12 then some f16 else if t = 4 || t = 13 then some bf16
  else if t = 5 then some f64 else none

/-- Elements of a lane's value. -/
def elems (t : Nat) : Nat := if t = 15 then 4 else if 12 ≤ t then 2 else 1

/-- The value that a lane's register holds for a result of a narrow type (11 R305). -/
def extend (t v : Nat) : Nat :=
  if t = 8 || t = 10 then ofInt true false 32 (toInt true (width t) v) else v % 2 ^ width t

/-- Combines elements into a lane's value, lowest first. -/
def pack (w : Nat) : List Nat → Nat
  | [] => 0
  | x :: r => x % 2 ^ w + 2 ^ w * pack w r

/-- Applies an operation to each element of a lane's value. -/
def map1 (t : Nat) (f : Nat → Nat) (a : Nat) : Nat :=
  let w := width t
  if 12 ≤ t then pack w ((List.range (elems t)).map (fun i => f (a / 2 ^ (w * i) % 2 ^ w)))
  else extend t (f (a % 2 ^ w))

/-- The same for two sources. -/
def map2 (t : Nat) (f : Nat → Nat → Nat) (a b : Nat) : Nat :=
  let w := width t
  if 12 ≤ t then
    pack w ((List.range (elems t)).map (fun i => f (a / 2 ^ (w * i) % 2 ^ w) (b / 2 ^ (w * i) % 2 ^ w)))
  else extend t (f (a % 2 ^ w) (b % 2 ^ w))

/-- The same for three sources. -/
def map3 (t : Nat) (f : Nat → Nat → Nat → Nat) (a b c : Nat) : Nat :=
  let w := width t
  let el := fun v i => v / 2 ^ (w * i) % 2 ^ w
  if 12 ≤ t then pack w ((List.range (elems t)).map (fun i => f (el a i) (el b i) (el c i)))
  else extend t (f (a % 2 ^ w) (b % 2 ^ w) (c % 2 ^ w))

/-- An element operation given by its exact integer result and its exact float result. -/
def arith2 (t : Nat) (md : Md) (zi : Int → Int → Int) (fv : Val → Val → Val) (a b : Nat) : Nat :=
  map2 t (fun x y => match fmtOf t with
    | some f => f.round md (fv (f.read md.ftz x) (f.read md.ftz y))
    | none => ofInt (signed t) md.sat (width t) (zi (toInt (signed t) (width t) x) (toInt (signed t) (width t) y))) a b

/-- The same for three sources. -/
def arith3 (t : Nat) (md : Md) (zi : Int → Int → Int → Int) (fv : Val → Val → Val → Val) (a b c : Nat) : Nat :=
  map3 t (fun x y z => match fmtOf t with
    | some f => f.round md (fv (f.read md.ftz x) (f.read md.ftz y) (f.read md.ftz z))
    | none => ofInt (signed t) md.sat (width t)
        (zi (toInt (signed t) (width t) x) (toInt (signed t) (width t) y) (toInt (signed t) (width t) z))) a b c

/-- The smaller or larger of two float elements (02 R60): -0 below +0, one NaN gives the other, two the canonical NaN. -/
def minMaxF (f : Fmt) (ftz larger : Bool) (x y : Nat) : Nat :=
  let md : Md := { rnd := 0, sat := false, ftz := ftz }
  let a := f.read ftz x
  let b := f.read ftz y
  let c := cmp a b
  let r := if isNan a then b else if isNan b then a
    else if c = 0 then (if a.isNeg = larger then b else a)
    else if (c < 0) = larger then b else a
  f.round md r

/-- `min` and `max` of 11 R307 row 07. -/
def minMax (t : Nat) (ftz larger : Bool) (a b : Nat) : Nat :=
  map2 t (fun x y => match fmtOf t with
    | some f => minMaxF f ftz larger x y
    | none =>
      let i := toInt (signed t) (width t) x
      let j := toInt (signed t) (width t) y
      if larger then (if i < j then y else x) else (if j < i then y else x)) a b

/-! ### Conversions (08 R228) -/

/-- A value of an element of a type, exactly. -/
def valOf (t : Nat) (ftz : Bool) (v : Nat) : Val :=
  match fmtOf t with
  | some f => f.read ftz v
  | none =>
    let z := toInt (signed t) (width t) v
    .fin (z < 0) z.natAbs 1 0

/-- An exact value rounded to an integer in a rounding mode. -/
def roundInt (rnd : Nat) (neg : Bool) (n d : Nat) (e : Int) : Int :=
  let m : Int := roundUnits rnd neg n d e 0
  if neg then -m else m

/-- An exact value in an element of a type: rounded once; to an integer type clamped, NaN giving 0. -/
def toElem (t : Nat) (md : Md) (v : Val) : Nat :=
  match fmtOf t with
  | some f => f.round md v
  | none =>
    match v with
    | .nan => 0
    | .inf neg => ofInt (signed t) true (width t) (if neg then -(2 ^ 64) else 2 ^ 64)
    | .fin neg n d e => ofInt (signed t) true (width t) (roundInt md.rnd neg n d e)

/-- The plain conversion of an element (11 R318): integers to integers wrap or clamp by sat. -/
def convert (src dst : Nat) (md : Md) (v : Nat) : Nat :=
  match fmtOf src, fmtOf dst with
  | none, none => ofInt (signed dst) md.sat (width dst) (toInt (signed src) (width src) v)
  | _, _ => toElem dst md (valOf src md.ftz v)

/-! ### Zennis blocks (08 R230 to R235) -/

/-- Magnitude bits of a block format code. -/
def zbM (code : Nat) : Nat := if code = 0x10 then 7 else if code = 0x11 then 4 else 2

/-- Bytes of a block. -/
def zbBytes (code : Nat) : Nat := if code = 0x10 then 18 else if code = 0x11 then 12 else 8

/-- Is a format code a block format? -/
def isZb (code : Nat) : Bool := code == 0x10 || code == 0x11 || code == 0x12

/-- Element `i` of a block, exactly, before the slot's scale (08 R231). -/
def zbElem (code blk i : Nat) : Val :=
  let m := zbM code
  let x := blk % 256
  let d := blk / 2 ^ (8 + 2 * (i / 4)) % 4
  let mag := blk / 2 ^ (16 + (m + 1) * i) % 2 ^ m
  let s := blk / 2 ^ (16 + (m + 1) * i + m) % 2 == 1
  if x = 255 then .nan else .fin s mag 1 ((x : Int) - 127 - d - (m - 1))

/-- The magnitude of an element at a block exponent and step-down, rounded (08 R235). -/
def zbRound (m rnd x d : Nat) (neg : Bool) (n dd : Nat) (e : Int) : Nat :=
  roundUnits rnd neg n dd e ((x : Int) - 127 - d - (m - 1))

/-- Do the finite elements fit at an exponent and step-down? -/
def zbFits (m rnd x d : Nat) (vs : List Val) : Bool :=
  vs.all (fun v => match v with
    | .fin neg n dd e => zbRound m rnd x d neg n dd e ≤ 2 ^ m - 1
    | _ => true)

/-- The dynamic exponent (08 R233): the smallest in 0 to 254 at which every finite element fits; 254 if none does. The
candidates lie beside the largest element's leading bit. -/
def zbDyn (m rnd : Nat) (vs : List Val) : Nat :=
  let tops := vs.filterMap (fun v => match v with
    | .fin _ n d e => if n = 0 then none else some ((Nat.log2 n : Int) - Nat.log2 d + e)
    | _ => none)
  match tops with
  | [] => 0
  | t :: r =>
    let k := r.foldl max t
    let start := (k - 3 + 127).toNat
    ((List.range 8).map (fun i => min 254 (start + i))).find? (fun x => zbFits m rnd x 0 vs) |>.getD 254

/-- The step-down of a quad (08 R234). -/
def zbStep (m rnd x : Nat) (q : List Val) : Nat :=
  if q.any (fun v => match v with | .inf _ => true | _ => false) then 0
  else if zbFits m rnd x 3 q then 3 else if zbFits m rnd x 2 q then 2 else if zbFits m rnd x 1 q then 1 else 0

/-- Encodes a block of 16 quotients x / scale (08 R232 to R235): the block as a number, and the elements that overflow
into the outlier list. -/
def zbEncode (code policy ceiling rnd : Nat) (outliers : Bool) (vs : List Val) : Nat × List Nat :=
  if vs.any isNan then (255, [])
  else
    let m := zbM code
    let dyn := zbDyn m rnd vs
    let x := if policy = 0 then dyn else if policy = 1 then min dyn ceiling else ceiling
    let steps := (List.range 4).map (fun q => zbStep m rnd x ((vs.drop (4 * q)).take 4))
    let el := fun i => match vs.getD i (.fin false 0 1 0) with
      | .fin neg n d e =>
        let r := zbRound m rnd x (steps.getD (i / 4) 0) neg n d e
        if r ≤ 2 ^ m - 1 then (neg, r, false) else if outliers then (false, 0, true) else (neg, 2 ^ m - 1, false)
      | v => if outliers then (false, 0, true) else (v.isNeg, 2 ^ m - 1, false)
    let es := (List.range 16).map el
    let body := es.foldr (fun p a => p.2.1 + (if p.1 then 2 ^ m else 0) + 2 ^ (m + 1) * a) 0
    let d := steps.foldr (fun s a => s + 4 * a) 0
    (x + 2 ^ 8 * d + 2 ^ 16 * body, (List.range 16).filter (fun i => (es.getD i (false, 0, false)).2.2))

end Sys2Proof.Machine.Num
end

