-- ==== Sys2Proof/Machine/Mem.lean ====
section
/-!
DEFINITION. Accesses to memory: where a generic address leads (01 R10 to R14), the L1 halves (02 R55 to R57, 03 R87),
the L2 lines of the home slices (02 R58, R59, 01 R33) and their ALU (R60), object pages (04 R128), and the bytes that an engine still owes (02 R74).
-/
namespace Sys2Proof.Machine

/-- Where an access is performed: the block's banks, the hub's register block, or memory at a memory level (02 R57). -/
inductive Place where
  | win (off : Nat)
  | dev (off : Nat)
  | mem (lvl : Nat) (ps : List Piece)
  deriving DecidableEq, Repr

/-- The offsets whose bit is set in a 128-bit mask. -/
def offsOf (m : BitVec 128) : List Nat := (List.range 128).filter (fun i => m.getLsbD i)

/-- Bytes of one line over those of another, at the offsets of a mask. -/
def overlay (base top : Memory) (m : BitVec 128) : Memory :=
  (offsOf m).foldl (fun d o => Cells.set d o (Cells.get top o)) base

/-- Is a byte range of a line held? -/
def holds (valid : BitVec 128) (o n : Nat) : Bool := valid &&& byteMask o n == byteMask o n

/-! ### L2 slices and controllers (02 R57, R58; 01 R32, R33; 04 R128) -/

/-- Is an access performed at the controller: level sys, or a page with C = 0 (02 R57, 01 R32)? -/
def atController (lvl : Nat) (p : Piece) : Bool := lvl == 2 || !eC p.leaf.e

/-- The 128 bytes of memory behind a line. -/
def memLine (s : State) (pa : Nat) : Memory :=
  let b := redirect s pa
  (s.mem.filter (fun c => decide (b ≤ c.1) && decide (c.1 < b + 128))).map (fun c => (c.1 - b, c.2))

/-- The line of a piece in its home slice, empty where the slice does not hold it. -/
def l2Open (s : State) (p : Piece) : L2Line :=
  (l2Find s p.asid (lineOf p.va)).getD
    { slice := sliceOf p.asid p.leaf.e (vaOf p.va), asid := p.asid, la := lineOf p.va, valid := 0, dirty := 0, data := [],
      pa := p.pa / 128 * 128, leaf := BitVec.ofNat 64 p.leaf.e, early := false }

/-- Writes bytes of an L2 line back to memory. -/
def l2Write (s : State) (x : L2Line) (m : BitVec 128) : State :=
  (offsOf m).foldl (fun s o => physWrite s (x.pa + o) (Cells.get x.data o).toNat 1) s

/-- Drops a line from L2. -/
def l2Drop (s : State) (asid la : Nat) : State := { s with l2 := s.l2.filter (fun y => !(y.asid == asid && y.la == la)) }

/-- Do two lines fall into one set of one slice? -/
def l2Mates (x y : L2Line) : Bool :=
  x.slice == y.slice && Config.l2Set x.asid x.la % 2048 == Config.l2Set y.asid y.la % 2048

/-- The line of a full set that is replaced: one at evict-first priority, else the least recently used (02 R58). -/
def l2Victim (set : List L2Line) : Option L2Line :=
  match (set.filter L2Line.early).getLast? with
  | some v => some v
  | none => set.getLast?

/-- The directory's presence vector of a line (02 R59): bit 2 × CLUSTER + h is set where half h of the cluster holds the
line. It is computed from what the halves hold, so it always agrees with them. -/
def presence (s : State) (asid la : Nat) : BitVec 256 :=
  (List.range 256).foldl (fun m h => if (l1Find s h asid la).isSome then m ||| BitVec.twoPow 256 h else m) 0

/-- Puts a line into its slice as the most recently used; a full set of 16 replaces a line, whose dirty bytes go to
memory. -/
def l2Put (s : State) (x : L2Line) : State :=
  let rest := s.l2.filter (fun y => !(y.asid == x.asid && y.la == x.la))
  let s := { s with l2 := x :: rest }
  if rest.length < 16 then s
  else
    let set := rest.filter (l2Mates x)
    if set.length < 16 then s
    else match l2Victim set with
      | some v => l2Drop (l2Write s v v.dirty) v.asid v.la
      | none => s

/-- A line with every byte that it lacks read from memory. -/
def l2Filled (s : State) (x : L2Line) : L2Line :=
  { x with data := overlay (memLine s x.pa) x.data x.valid, valid := BitVec.allOnes 128 }

/-- The dirty copy of a piece's bytes at its home is written back (02 R57, level sys). -/
def l2Clean (s : State) (p : Piece) : State :=
  match l2Find s p.asid (lineOf p.va) with
  | none => s
  | some x =>
    let m := x.dirty &&& byteMask (p.pa % 128) p.n
    let s := l2Write s x m
    { s with l2 := s.l2.map (fun y => if y.asid == x.asid && y.la == x.la then { y with dirty := y.dirty &&& ~~~m } else y) }

/-- Reads a piece at its home: at the controller, or in the slice, which fills the line where it lacks a byte. -/
def homeRead (s : State) (lvl : Nat) (p : Piece) : State × Nat :=
  if isDevLeaf p.leaf.e then (s, devRead s (p.pa - Config.devBase) p.n)
  else if atController lvl p then
    let s := l2Clean s p
    (s, physRead s p.pa p.n)
  else
    let x := l2Open s p
    let x := if holds x.valid (p.pa % 128) p.n then x else l2Filled s x
    (l2Put s { x with early := lvl == 3 }, Cells.load x.data (p.pa % 128) p.n)

/-- The value that a read of a piece at its home would give: the slice's bytes over those of memory. -/
def homeValueOf (s : State) (p : Piece) : Nat :=
  if isDevLeaf p.leaf.e then devRead s (p.pa - Config.devBase) p.n
  else match l2Find s p.asid (lineOf p.va) with
    | none => physRead s p.pa p.n
    | some x => Cells.load (overlay (memLine s x.pa) x.data (if eC p.leaf.e then x.valid else x.dirty)) (p.pa % 128) p.n

/-- Clears the tags of the words that a write to a piece touches, on an object page (04 R128). -/
def clearTags (s : State) (p : Piece) : State :=
  if eOBJ p.leaf.e then
    (List.range ((p.pa % 8 + p.n + 7) / 8)).foldl (fun s i => setTag s (p.pa / 8 * 8 + 8 * i) false) s
  else s

/-- Writes a piece at its home: through to the controller with the slice's copy kept equal, or in the slice, which allocates
without reading memory (02 R57, R58). -/
def homeWrite (s : State) (lvl : Nat) (p : Piece) (v : Nat) : State :=
  let o := p.pa % 128
  let m := byteMask o p.n
  let s := clearTags s p
  if atController lvl p then
    let s := physWrite s p.pa v p.n
    { s with l2 := s.l2.map (fun y => if y.asid == p.asid && y.la == lineOf p.va then
        { y with data := overlay y.data (Cells.store y.data o v p.n) (y.valid &&& m), dirty := y.dirty &&& ~~~m } else y) }
  else
    let x := l2Open s p
    l2Put s { x with data := Cells.store x.data o v p.n, valid := x.valid ||| m, dirty := x.dirty ||| m, early := lvl == 3 }

/-- A piece that begins at another byte of the same page and has `n` bytes. -/
def Piece.at (p : Piece) (va : W64) (pa n : Nat) : Piece := { p with va := va, pa := pa, n := n }

/-- The word of the HEAD granule in which a piece begins. -/
def Piece.header (p : Piece) : Piece :=
  p.at (p.va - BitVec.ofNat 64 (p.pa % 64)) (p.pa / 64 * 64) 8

/-- Does a write touch the header word of a HEAD granule (04 R128)? Each granule that it touches is looked at. -/
def headerHit (s : State) (p : Piece) : Bool :=
  eOBJ p.leaf.e && (List.range ((p.pa % 64 + p.n + 63) / 64)).any (fun i =>
    let g := p.pa / 64 * 64 + 64 * i
    granHead (gran s g) && decide (p.pa < g + 8))

/-! ### L1 (02 R55, R56) -/

/-- The scratchpad partition of a cluster in bytes (02 R50). -/
def splitOf (s : State) (cluster : Nat) : Nat := ((s.split.find? (fun p => p.1 == cluster)).map Prod.snd).getD 0

/-- Sets of an L1 half: 1,536 KiB less the scratchpad partition, two halves, lines of 128 bytes, 16 ways (02 R50, R55;
log 6). -/
def l1Sets (s : State) (half : Nat) : Nat := (0x180000 - splitOf s (half / 2)) / 2 / 128 / 16

/-- Do two lines fall into one set of one half? -/
def l1Mates (s : State) (x y : L1Line) : Bool :=
  x.half == y.half && Config.l1Set x.asid x.la % l1Sets s x.half == Config.l1Set y.asid y.la % l1Sets s x.half

/-- Drops a line from an L1 half. -/
def l1Drop (s : State) (half asid la : Nat) : State :=
  { s with l1 := s.l1.filter (fun y => !(y.half == half && y.asid == asid && y.la == la)) }

/-- The piece of a byte of an L1 line. -/
def L1Line.piece (x : L1Line) (o n : Nat) : Piece :=
  { asid := x.asid, va := genOf (128 * x.la + o), pa := x.pa + o, n := n, leaf := { e := x.leaf.toNat, size := 0x10000 },
    hit := true }

/-- Bytes of an L1 line are written to its home, with the tags of their words (04 R124). -/
def l1Write (s : State) (x : L1Line) (m : BitVec 128) : State :=
  let s := (offsOf m).foldl (fun s o => homeWrite s 1 (x.piece o 1) (Cells.get x.data o).toNat) s
  if x.tags = 0 || !eOBJ x.leaf.toNat then s
  else (List.range 16).foldl (fun s k =>
    if x.tags.getLsbD k && m &&& byteMask (8 * k) 8 != 0 then setTag s (x.pa + 8 * k) true else s) s

/-- Puts a line into its half as the most recently used; a full set of 16 replaces the least recently used line, whose dirty
bytes go to its home. -/
def l1Put (s : State) (x : L1Line) : State :=
  let rest := s.l1.filter (fun y => !(y.half == x.half && y.asid == x.asid && y.la == x.la))
  let s := { s with l1 := x :: rest }
  if rest.length < 16 then s
  else
    let set := rest.filter (l1Mates s x)
    match set.getLast? with
    | some v => if set.length < 16 then s else l1Drop (l1Write s v v.dirty) v.half v.asid v.la
    | none => s

/-- Replaces a line in place. -/
def l1Keep (s : State) (x : L1Line) : State :=
  { s with l1 := s.l1.map (fun y => if y.half == x.half && y.asid == x.asid && y.la == x.la then x else y) }

/-- Writes the dirty bytes of a line back to its home. -/
def writeBack (s : State) (x : L1Line) (keepPrivate : Bool) : State :=
  let stays := fun (o : Nat) => keepPrivate && eOBJ x.leaf.toNat && granState (gran s (x.pa + o)) == 1
  let left := ((offsOf x.dirty).filter stays).foldl (fun (m : BitVec 128) o => m ||| byteMask o 1) 0
  l1Keep (l1Write s x (x.dirty &&& ~~~left)) { x with dirty := left }

/-- Writes back every line of a half; a release may keep PRIVATE granules (04 R129). -/
def writeBackHalf (s : State) (p : L1Line → Bool) (keepPrivate : Bool) : State :=
  (s.l1.filter (fun x => p x && x.dirty != 0)).foldl (fun s x => writeBack s x keepPrivate) s

/-- Drops the clean bytes of a half: its clean lines, and of a partly dirty line the bytes that are not dirty
(02 R56, 03 R96). -/
def dropClean (s : State) (p : L1Line → Bool) : State :=
  { s with l1 := (s.l1.filter (fun x => !(p x && x.dirty == 0))).map (fun x => if p x then { x with valid := x.dirty } else x) }

/-- The issuing half's lines. -/
def ownHalf (s : State) (x : L1Line) : Bool :=
  if fused s then x.half / 2 == clusterOf s.w.core else x.half == 2 * clusterOf s.w.core + coreK s.w.core

/-- The words of a line for which `f` holds, and those of `m`. -/
def wordTags (f : Nat → Bool) (m : BitVec 16) : BitVec 16 :=
  (List.range 16).foldl (fun m k => if f k then m ||| BitVec.ofNat 16 (2 ^ k) else m) m

/-- Does word `k` of a line overlap bytes `o` to `o + n - 1`? -/
def inWord (k o n : Nat) : Bool := o < 8 * k + 8 && 8 * k < o + n

/-- The line of a piece in the issuing half, empty where the half does not hold it. -/
def l1Open (s : State) (p : Piece) : L1Line :=
  let la := lineOf p.va
  (l1Find s (halfOf s la) p.asid la).getD
    { half := halfOf s la, asid := p.asid, la := la, valid := 0, dirty := 0, data := [], tags := 0, pa := p.pa / 128 * 128,
      leaf := BitVec.ofNat 64 p.leaf.e }

/-- A line as filled on demand: where a byte of the piece is absent, its 32-byte sectors are read from the home, all but
their dirty bytes (02 R55, 03 R82). -/
def l1Fill (s : State) (p : Piece) : State × L1Line :=
  let x := l1Open s p
  let o := p.pa % 128
  if holds x.valid o p.n then (l1Put s x, x) else
  let lo := o / 32 * 32
  let hi := (o + p.n + 31) / 32 * 32
  let (s, v) := homeRead s 1 (x.piece lo (hi - lo))
  let m := byteMask lo (hi - lo)
  let data := overlay x.data (Cells.store [] lo v (hi - lo)) (m &&& ~~~x.dirty)
  let tags := if eOBJ x.leaf.toNat then
      wordTags (fun k => 8 * k < hi && lo ≤ 8 * k && x.dirty &&& byteMask (8 * k) 8 == 0 && tagAt s (x.pa + 8 * k))
        (x.tags &&& ~~~wordTags (fun k => 8 * k < hi && lo ≤ 8 * k && x.dirty &&& byteMask (8 * k) 8 == 0) 0)
    else x.tags
  let x := { x with data := data, tags := tags, valid := x.valid ||| m }
  (l1Put s x, x)

/-- A load of one piece at level l1. -/
def l1Load (s : State) (p : Piece) : State × Nat :=
  let (s, x) := l1Fill s p
  (s, Cells.load x.data (p.pa % 128) p.n)

/-- A store of one piece at level l1: allocates without reading memory, and clears the tags of the words written. -/
def l1Store (s : State) (p : Piece) (v : Nat) : State :=
  let x := l1Open s p
  let o := p.pa % 128
  let m := byteMask o p.n
  l1Put s { x with data := Cells.store x.data o v p.n, valid := x.valid ||| m, dirty := x.dirty ||| m,
                   tags := x.tags &&& ~~~wordTags (fun k => inWord k o p.n) 0 }

/-- The write-back that precedes an access at the home: the dirty bytes that the issuing half holds in the line (03 R87). -/
def beforeHome (s : State) (asid : Nat) (va : W64) : State :=
  let la := lineOf va
  match l1Find s (halfOf s la) asid la with
  | some x => if x.dirty = 0 then s else writeBack s x false
  | none => s

/-- Drops the issuing half's copy of a line. -/
def dropCopy (s : State) (asid : Nat) (va : W64) : State := l1Drop s (halfOf s (lineOf va)) asid (lineOf va)

/-- Updates the issuing half's copy of bytes stored at the home (02 R57). -/
def updateCopy (s : State) (p : Piece) (v : Nat) : State :=
  let la := lineOf p.va
  match l1Find s (halfOf s la) p.asid la with
  | none => s
  | some x =>
    let o := p.pa % 128
    l1Keep s { x with data := overlay x.data (Cells.store x.data o v p.n) (x.valid &&& byteMask o p.n),
                      tags := x.tags &&& ~~~wordTags (fun k => inWord k o p.n) 0 }

/-- A load of one piece at the home or the controller. -/
def homeLoad (s : State) (lvl : Nat) (p : Piece) : State × Nat := homeRead (beforeHome s p.asid p.va) lvl p

/-- A store of one piece at the home or the controller. -/
def homeStore (s : State) (lvl : Nat) (p : Piece) (v : Nat) : State :=
  updateCopy (homeWrite (beforeHome s p.asid p.va) lvl p v) p v

/-- Does an access at a memory level go to the L1? Pages with C = 0 never do (02 R57, 01 R32). -/
def atL1 (lvl : Nat) (p : Piece) : Bool := lvl == 0 && eC p.leaf.e

/-- Loads the pieces of an access, lowest first. -/
def loadPieces (s : State) (lvl : Nat) : List Piece → State × Nat
  | [] => (s, 0)
  | p :: r =>
    let (s, v) := if atL1 lvl p then l1Load s p else homeLoad s lvl p
    let (s, w) := loadPieces s lvl r
    (s, v + 256 ^ p.n * w)

/-- Stores the pieces of an access, lowest first. -/
def storePieces (s : State) (lvl : Nat) (v : Nat) : List Piece → State
  | [] => s
  | p :: r =>
    let s := if atL1 lvl p then l1Store s p (v % 256 ^ p.n) else homeStore s lvl p (v % 256 ^ p.n)
    storePieces s lvl (v / 256 ^ p.n) r

/-- Writes bytes of the block window. -/
def winStore (s : State) (off v n : Nat) : State :=
  { s with blk := { s.blk with win := Cells.store s.blk.win off v n } }

/-- The queue of a wake register at an offset of the register block, for its first 8 bytes (15 R406). -/
def wakeQueue (s : State) (off n : Nat) : Option Nat :=
  if off < 0x400000 && off % 64 = 0 && n = 8 && s.queues.any (fun q => q.id == off / 64) then some (off / 64) else none

/-- Loads a place. -/
def loadAt (s : State) (p : Place) (n : Nat) : State × Nat :=
  match p with
  | .win o => (s, Cells.load s.blk.win o n)
  | .dev o => (s, devRead s o n)
  | .mem lvl ps => loadPieces s lvl ps

/-- Stores to a place. A write of a wake register is the event WAKE_REGISTER_WRITE. -/
def storeAt (s : State) (p : Place) (v n : Nat) : State :=
  match p with
  | .win o => winStore s o v n
  | .dev o =>
    match wakeQueue s o n with
    | some q => push .wakeRegisterWrite (.value q (BitVec.ofNat 64 v)) s
    | none => s
  | .mem lvl ps => storePieces s lvl v ps

/-- Writes the pieces of an operation at their homes, lowest first. -/
def homeWrites (s : State) (v : Nat) : List Piece → State
  | [] => s
  | p :: r => homeWrites (homeWrite s 1 p (v % 256 ^ p.n)) (v / 256 ^ p.n) r

/-- Reads the pieces of an operation at their homes, lowest first. -/
def homeReads (s : State) : List Piece → State × Nat
  | [] => (s, 0)
  | p :: r =>
    let (s, v) := homeRead s 1 p
    let (s, w) := homeReads s r
    (s, v + 256 ^ p.n * w)

/-- The issuing half's copies of lines are written back and dropped (03 R87). -/
def dropCopies (s : State) (ps : List Piece) : State :=
  ps.foldl (fun s q => dropCopy s q.asid q.va) (ps.foldl (fun s q => beforeHome s q.asid q.va) s)

/-- A read-modify-write at the home or in the banks (02 R60). -/
def rmwAt (s : State) (p : Place) (n : Nat) (f : Nat → Nat) : State × Nat :=
  match p with
  | .win o =>
    let v := Cells.load s.blk.win o n
    (winStore s o (f v) n, v)
  | .dev _ => (s, 0)
  | .mem _ ps =>
    let (s, v) := homeReads (dropCopies s ps) ps
    (homeWrites s (f v) ps, v)

/-! ### Generic addresses (01 R10 to R14) -/

/-- Threads of a block, as the record gives them. -/
def recThreads (s : State) : Nat := rec s 0x14 2 * rec s 0x16 2 * rec s 0x18 2

/-- wpb of 01 R14. -/
def wpb (s : State) : Nat := (recThreads s + 31) / 32

/-- The linear block index (01 R14). -/
def blockLin (s : State) : Nat := s.blk.bx + rec s 0x08 4 * (s.blk.byy + rec s 0x0C 4 * s.blk.bz)

/-- The global address of byte `off` of a lane's private space (01 R14). -/
def privVa (s : State) (off l : Nat) : Nat :=
  match gridOf s with
  | some g => g.privVa + (blockLin s * wpb s + s.w.idx) * 32 * g.privP + off / 4 * 128 + l * 4 + off % 4
  | none => 0

/-- Private bytes per thread. -/
def privP (s : State) : Nat := ((gridOf s).map Grid.privP).getD 0

/-- Is an address in one of the two global windows (01 R10)? -/
def isGlobal (g : W64) : Bool :=
  let top := g.toNat / 2 ^ 56
  (top == 0 && !bit g.toNat 55) || (top == 0xFF && bit g.toNat 55)

/-- Is an address in the block window or in private space? -/
def isWindow (g : W64) : Bool := g.toNat / 2 ^ 56 == 0xFE
def isPrivate (g : W64) : Bool := g.toNat / 2 ^ 56 == 0xFD

/-- A wake register takes 8-byte stores at its start and reads; any other store or atomic raises QUEUE (15 R406). -/
def checkWake (k : Access) (g : W64) (n : Nat) (p : Place) : Except MFault Place :=
  match p, k with
  | .dev o, .write | .dev o, .ref =>
    if o % 64 = 0 && n = 8 then .ok p else .error { code := 0x18, cause := 0, level := 15, pool := 0, va := g }
  | .dev _, .rmw => .error { code := 0x18, cause := 0, level := 15, pool := 0, va := g }
  | _, _ => .ok p

/-- How an access chooses its memory level (02 R57, 03 R86): a plain load or store, a release or acquire access, or one that
is always performed at the home slice. -/
inductive At where
  | plain (lvl : Nat)
  | sync (lvl : Nat)
  | home
  deriving DecidableEq, Repr

/-- The level at which a release or acquire access is performed (03 R86). -/
def syncLevel (s : State) (lvl : Nat) : Nat := if lvl = 0 && !fusedOne s then 1 else lvl

/-- The memory level of an access; private accesses ignore the mode's (02 R57). -/
def At.level (s : State) (priv : Bool) : At → Nat
  | .plain l => if priv then 0 else l
  | .sync l => syncLevel s (if priv then 0 else l)
  | .home => 1

/-- Translates the pieces of a private access, of 4 bytes or fewer each, lowest first (01 R14). -/
def privPieces (s : State) (user : Bool) (k : Access) (lvl l : Nat) (g : W64) : List (Nat × Nat) → Except MFault (List Piece)
  | [] => .ok []
  | (off, n) :: r =>
    let va := BitVec.ofNat 64 (privVa s off l)
    if !isGlobal va then .error (prot 0x14 g)
    else match translate s (asidOf s) user k va n lvl with
    | .error m => .error m
    | .ok p =>
      match if isDevLeaf p.leaf.e then checkWake k va n (.dev (p.pa - Config.devBase)) else .ok (.mem lvl [p]) with
      | .error m => .error m
      | .ok _ =>
        match privPieces s user k lvl l g r with
        | .error m => .error m
        | .ok ps => .ok (p :: ps)

/-- The pieces of a private access of `n` bytes at an offset: one of up to 4 bytes, else words of 4 (01 R14). -/
def privSplit (off n : Nat) : List (Nat × Nat) := if n ≤ 4 then [(off, n)] else (List.range (n / 4)).map (fun i => (off + 4 * i, 4))

/-- Where an access of `n` bytes at a generic address by a lane leads (01 R10). -/
def resolve (s : State) (user : Bool) (k : Access) (at' : At) (g : W64) (n l : Nat) : Except MFault Place :=
  let off := g.toNat % 2 ^ 56
  if isWindow g then
    if off + n ≤ s.blk.winSize then .ok (.win off) else .error (prot 0x15 g)
  else if isPrivate g then
    if off + n ≤ privP s then
      let lvl := at'.level s true
      match privPieces s user k lvl l g (privSplit off n) with
      | .error m => .error m
      | .ok ps => .ok (.mem lvl ps)
    else .error (prot 0x16 g)
  else if isGlobal g then
    let lvl := at'.level s false
    match translate s (asidOf s) user k g n lvl with
    | .error m => .error m
    | .ok p => if isDevLeaf p.leaf.e then checkWake k g n (.dev (p.pa - Config.devBase)) else .ok (.mem lvl [p])
  else .error (prot 0x14 g)

/-- The fault of a field that accepts only global addresses (01 R10). -/
def notGlobal (g : W64) : Option MFault :=
  if isGlobal g then none else some (prot (if isWindow g || isPrivate g then 0x19 else 0x14) g)

/-- A field that accepts only global addresses (01 R10). -/
def resolveGlobal (s : State) (user : Bool) (k : Access) (at' : At) (g : W64) (n : Nat) : Except MFault Place :=
  match notGlobal g with
  | some m => .error m
  | none => resolve s user k at' g n 0

/-- A write meets the header word of an object (04 R128). -/
def checkHeader (s : State) (p : Place) (g : W64) : Except MFault Place :=
  match p with
  | .mem _ ps => if ps.any (headerHit s) then .error { code := 0x0A, cause := 0x24, level := 15, pool := 0, va := g } else .ok p
  | _ => .ok p

/-- Keeps what the translations of a place's pieces found. -/
def keepTlb (s : State) (p : Place) : State :=
  match p with
  | .mem _ ps => (ps.filter (fun q => !q.hit)).foldl (fun s q => tlbKeep s (asidOf s) q.va q.leaf) s
  | _ => s

/-- The core that executes the fragment (09 R267, CORE). -/
def coreOf (s : State) : Nat :=
  match exportOf s with
  | some e => e.core
  | none => s.w.core

/-- The HOME that a slice returns to the requesting core's buffer of 256 entries, where its translation shows a die-affine
one (01 R22). An entry saves the way over the interleaved home and decides nothing else; the oldest makes room (log 96). -/
def learnHome (s : State) (q : Piece) : State :=
  if q.hit || isDevLeaf q.leaf.e || eHOME q.leaf.e < 4 then s
  else
    let x : HomeEntry := { core := coreOf s, asid := q.asid, page := vaOf q.va / 0x10000, home := eHOME q.leaf.e }
    let rest := s.homes.filter (fun y => !(y.core == x.core && y.asid == x.asid && y.page == x.page))
    let mates := rest.filter (fun y => y.core == x.core)
    { s with homes := x :: (if mates.length < 256 then rest else match mates.getLast? with
                                                           | some old => rest.erase old
                                                           | none => rest) }

/-- Keeps what an access by the issuing core learns: the translations of its pieces, and their pages' homes. -/
def keepLeaves (s : State) (p : Place) : State :=
  match p with
  | .mem _ ps => ps.foldl learnHome (keepTlb s p)
  | _ => s

/-! ### Bytes that a copy still owes (02 R74) -/

/-- A field of a copy's request. -/
def Copy.fld (c : Copy) (off n : Nat) : Nat := leBytes c.req off n

/-- The destination address of a copy. -/
def Copy.dst (c : Copy) : W64 := BitVec.ofNat 64 (c.fld 0x20 8)

/-- Bytes between the starts of destination rows; a linear copy packs them (12 R342). -/
def Copy.pitch (c : Copy) : Nat := if c.fld 0x00 1 = 0 then c.len else c.fld 0x10 4

/-- Where destination row j starts, as an offset or virtual address. -/
def Copy.start (c : Copy) (j : Nat) : Nat := vaOf c.dst + j * c.pitch

/-- The last row that starts below `hi`. -/
def Copy.lastRow (c : Copy) (hi : Nat) : Nat :=
  if c.pitch = 0 then c.rows - 1 else min (c.rows - 1) ((hi - 1 - vaOf c.dst) / c.pitch)

/-- Does a copy, from byte `pos` of row `row` on, write a byte at or above `lo` and below `hi`? Scatters aside. -/
def Copy.hits (c : Copy) (row pos lo hi : Nat) : Bool :=
  let j := c.lastRow hi
  vaOf c.dst < hi && row < c.rows && row ≤ j && c.start j + (if j = row then pos else 0) < hi && lo < c.start j + c.len

/-- The table rows of a row-scatter that reach bytes at or above `lo` and below `hi`. -/
def Copy.tableRows (c : Copy) (lo hi : Nat) : List Nat :=
  let d := vaOf c.dst
  let n := c.fld 0x30 4
  if n = 0 || hi ≤ d then []
  else if c.pitch = 0 then (if lo < d + c.len then [0] else [])
  else
    let a := (lo + 1 - (d + c.len) + c.pitch - 1) / c.pitch
    (List.range (min n ((hi - 1 - d) / c.pitch + 1) - a)).map (· + a)

/-- May a copy write a byte at or above `lo` and below `hi`? -/
def Copy.ever (c : Copy) (lo hi : Nat) : Bool :=
  if c.fld 0x00 1 = 3 then !(c.tableRows lo hi).isEmpty else c.hits 0 0 lo hi

/-- May it still: of a row-scatter, a table row that it has not written, or the rest of the row in progress (log 91)? -/
def Copy.left (c : Copy) (lo hi : Nat) : Bool :=
  if c.fld 0x00 1 != 3 then c.hits c.row c.pos lo hi
  else (c.tableRows lo hi).any (fun j => !c.wrote.contains j &&
    !(c.pos != 0 && c.idx.head? == some j && hi ≤ c.start j + c.pos))

/-- Does a copy still own a line of global memory (02 R74)? A line inside its range is held until the copy's write of it
arrives, or until the copy completes if it writes nothing in it. -/
def Copy.owns (c : Copy) (asid la : Nat) : Bool :=
  let d := c.dst
  let lo := 128 * la
  !c.done && isGlobal d && effAsid c.asid (vaOf d) == asid && c.span != 0 && decide (vaOf d < lo + 128)
    && decide (lo < vaOf d + c.span) && (!c.ever lo (lo + 128) || c.left lo (lo + 128))

/-- Does a live copy own the line of an address (02 R74)? -/
def rangeHeld (s : State) (asid : Nat) (va : W64) : Bool := s.copies.any (fun c => c.owns asid (lineOf va))

/-- Is an earlier write of the wake register at an offset of the register block still due? -/
def wakeDue (s : State) (o : Nat) : Bool :=
  s.agenda.any (fun e => e.1 == .wakeRegisterWrite && (match e.2 with
    | .value q _ => q == o / 64
    | _ => false))

/-- Must an access wait for a copy (02 R74), or for an earlier write of the same wake register? -/
def fillHeld (s : State) (p : Place) (n : Nat) : Bool :=
  match p with
  | .win o => s.blk.fillPend.any (fun f => f.1 * 128 < o + n && o < f.1 * 128 + 128)
  | .dev o => o < 0x400000 && wakeDue s o
  | .mem _ ps => ps.any (fun q => rangeHeld s q.asid q.va)

/-! ### Release and acquire (02 R56, 03 R91, 04 R129) -/

/-- The write-backs of a release by the issuing core; scopes are those of 03 R85. -/
def releaseAt (scope : Nat) (s : State) : State :=
  if scope = 0 || (scope == 1 && fusedOne s) then s else writeBackHalf s (ownHalf s) (fusedOne s)

/-- The lines that an acquire by the issuing core drops. -/
def acquireAt (scope : Nat) (s : State) : State :=
  if scope = 0 || (scope == 1 && fusedOne s) then s else dropClean s (ownHalf s)

/-- A store by the issuing core: a write of a wake register is a release at system scope first (04 R115, 15 R407). -/
def storeThrough (s : State) (p : Place) (v n : Nat) : State :=
  match p with
  | .dev o => storeAt (if (wakeQueue s o n).isSome then releaseAt 3 s else s) p v n
  | _ => storeAt s p v n

/-- The scope of a release or acquire access by the memory level (03 R86). -/
def levelScope (lvl : Nat) : Nat := if lvl = 0 then 1 else if lvl = 2 then 3 else 2

/-! ### Addresses of lane accesses (12 R329, R336) -/

/-- gen_addr of 12 R329. -/
def genAddr (s : State) (a b : BitVec 8) (l : Nat) : W64 := src64 s a.toNat l + (src32 s b.toNat l).signExtend 64

/-- Bytes of an element of a type in memory (12 R329). -/
def memBytes (t : Nat) : Nat :=
  if t = 5 || t = 6 || t = 7 then 8 else if t ≤ 2 || 12 ≤ t then 4 else if t = 10 || t = 11 then 1 else 2

/-- The elements of `gth`, `sct` and `scad` for the lanes `m`, from the registers as they stand (12 R336). -/
def collElems (s : State) (ty : Nat) (kind d a k : Nat) (m : Lanes) : List Elem :=
  let base := readS s (2 * k)
  let extent := readS s (2 * k + 1)
  let n := if wide ty then 2 else 1
  let val := fun l => if kind = 0 then 0 else srcN s n d l
  let one := fun l =>
    let i := src32 s a l
    { lane := l, grp := maskOf [l], va := base + BitVec.ofNat 64 (i.toNat * memBytes ty), idx := i,
      bound := decide (extent.toNat ≤ i.toNat), val := BitVec.ofNat 64 (val l), sent := false : Elem }
  (lanesOf m).map one

/-- Joins the committed elements of a scatter-add that name one element: their values are added in ascending lane order,
to nearest, and the partial goes to the lowest of them (02 R68, 18 R430). -/
def combineElems (ty : Nat) (l : List (Elem × Place)) : List (Elem × Place) :=
  let add := Num.arith2 ty Num.home (· + ·) (Num.add 0)
  l.foldl (fun r e =>
    if r.any (fun x => x.1.idx == e.1.idx) then
      r.map (fun x => if x.1.idx == e.1.idx then
        ({ x.1 with grp := x.1.grp ||| e.1.grp, val := BitVec.ofNat 64 (add x.1.val.toNat e.1.val.toNat) }, x.2) else x)
    else r ++ [e]) []

/-! ### Outlier lists (08 R236) -/

/-- The bytes of one step of an append: a read-modify-write or a write at a global address, at the home. -/
def listPlace (s : State) (user : Bool) (va : W64) (n : Nat) : Except MFault Place :=
  match resolveGlobal s user .rmw .home va n with
  | .error m => .error m
  | .ok p => checkHeader s p va

/-- What a run of append steps has left: the steps still to be made, and the fault that ended it. With steps left and no
fault, the next one waits for bytes that a copy owes (02 R74). -/
structure AppendEnd where
  s : State
  left : List Append
  fault : Option MFault

/-- Writes entry `k` of an append, where the list has room for it. -/
def appendEntry (s : State) (user : Bool) (a : Append) (k : Nat) : Except MFault (Option State) :=
  match listPlace s user a.list 4 with
  | .error m => .error m
  | .ok pc =>
    if fillHeld s pc 4 then .ok none
    else
      let (s, cap) := loadAt s pc 4
      if cap ≤ k then .ok (some s)
      else match listPlace s user (a.list + BitVec.ofNat 64 (16 + 16 * k)) 16 with
        | .error m => .error m
        | .ok p =>
          if fillHeld s p 16 then .ok none
          else .ok (some (storeAt s p (a.tag.toNat + 2 ^ 64 * a.idx + 2 ^ 96 * a.val.toNat) 16))

/-- The index of an append: the one that its count step obtained, or that of a count step made now. -/
def appendIndex (s : State) (user : Bool) (a : Append) : Except MFault (Option (State × Nat)) :=
  match a.got with
  | some k => .ok (some (s, k))
  | none =>
    match listPlace s user (a.list + 4) 4 with
    | .error m => .error m
    | .ok p => if fillHeld s p 4 then .ok none else .ok (some (rmwAt s p 4 (fun v => if v = 0xFFFFFFFF then v else v + 1)))

/-- Makes the append steps in order. The first fault or wait ends them, with the steps still to be made: a count step that
has been performed is not repeated. -/
def appendAll (s : State) (user : Bool) : List Append → AppendEnd
  | [] => { s := s, left := [], fault := none }
  | a :: r =>
    match appendIndex s user a with
    | .error m => { s := s, left := a :: r, fault := some m }
    | .ok none => { s := s, left := a :: r, fault := none }
    | .ok (some (s, k)) =>
      match appendEntry s user a k with
      | .error m => { s := s, left := { a with got := some k } :: r, fault := some m }
      | .ok none => { s := s, left := { a with got := some k } :: r, fault := none }
      | .ok (some s) => appendAll s user r

/-! ### Front-end and firmware accesses -/

/-- Does a live copy still own a byte that an agent's access of `n` bytes reaches (02 R74)? Such an access waits. -/
def agentHeld (s : State) (asid : Nat) (va : W64) (n : Nat) : Bool :=
  (List.range ((va.toNat % 128 + n + 127) / 128)).any (fun i =>
    let a := va + BitVec.ofNat 64 (128 * i)
    rangeHeld s (effAsid asid (vaOf a)) a)

/-- Where an access of an agent leads: memory or a register of the hub. The front end and firmware work on the hub (01
R28). -/
def agentPlace (s : State) (asid : Nat) (k : Access) (va : W64) (n : Nat) (hub : Bool := true) : Except MFault Piece :=
  match notGlobal va with
  | some m => .error m
  | none => translate s asid false k va n 1 hub

/-- A read by an agent under an ASID at the home, as the front end, a walker or firmware makes it: no L1 half takes
part. -/
def agentRead (s : State) (asid : Nat) (va : W64) (n : Nat) (hub : Bool := true) : Except MFault Nat :=
  match agentPlace s asid .read va n hub with
  | .error m => .error m
  | .ok p => .ok (homeValueOf s p)

/-- A write by an agent under an ASID at the home. -/
def agentWrite (s : State) (asid : Nat) (va : W64) (v n : Nat) : Except MFault State :=
  match agentPlace s asid .write va n with
  | .error m => .error m
  | .ok p =>
    if isDevLeaf p.leaf.e then
      (match checkWake .write va n (.dev (p.pa - Config.devBase)) with
       | .error m => .error m
       | .ok d => .ok (storeAt s d v n))
    else if headerHit s p then .error { code := 0x0A, cause := 0x24, level := 15, pool := 0, va := va }
    else .ok (homeWrite s 1 p (v % 256 ^ n))

/-- An 8-byte read-modify-write by an agent at the home ALU: the value that it found. -/
def agentRmw (s : State) (asid : Nat) (va : W64) (f : Nat → Nat) : Except MFault (State × Nat) :=
  match agentPlace s asid .rmw va 8 with
  | .error m => .error m
  | .ok p =>
    if isDevLeaf p.leaf.e then .error { code := 0x18, cause := 0, level := 15, pool := 0, va := va }
    else if headerHit s p then .error { code := 0x0A, cause := 0x24, level := 15, pool := 0, va := va }
    else
      let (s, v) := homeRead s 1 p
      .ok (homeWrite s 1 p (f v % 2 ^ 64), v)

/-- Reads `n` bytes one at a time, across pages. -/
def agentBytes (s : State) (asid : Nat) (va : W64) : Nat → Except MFault (List Byte)
  | 0 => .ok []
  | n + 1 =>
    match agentRead s asid va 1 with
    | .error m => .error m
    | .ok b => match agentBytes s asid (va + 1) n with
      | .error m => .error m
      | .ok r => .ok (BitVec.ofNat 8 b :: r)

end Sys2Proof.Machine
end

