-- ==== Sys2Proof/Machine/Operands.lean ====
section
/-!
DEFINITION. The operands of each instruction under the mode in force (09 R249, R254 to R257, and the instruction
chapters): which registers it reads and writes and with how many registers each, which flag it sets, and the decode
faults and stalls that follow from them (07 R213).
-/
namespace Sys2Proof.Machine
open Sys2Proof.WellFormed

/-- What an instruction reads and writes. A vector operand is a register field and a number of registers. -/
structure Opnds where
  va : List (Nat × Nat) := []    -- source a
  vb : List (Nat × Nat) := []    -- source b
  vr : List (Nat × Nat) := []    -- further vector sources, an accumulating d included
  vw : List (Nat × Nat) := []    -- vector destinations
  sr : List Nat := []            -- scalar sources
  sw : List Nat := []            -- scalar destinations
  pw : List Nat := []            -- predicates written
  fa : Bool := false             -- sets flag A (09 R249)
  fb : Bool := false             -- sets flag B
  mem : Bool := false            -- performs memory accesses
  tile : Bool := false           -- of the tile page, or one of accrd, accwr, rkrd (05 R149, R162)
  donor : Bool := false          -- rdon, racc
  cross : Bool := false          -- crosses lanes (11 R322)
  sup : Bool := false            -- supervisor only
  ill : Bool := false            -- the mode's type is none that the instruction lists
  deriving DecidableEq, Repr

/-- A vector operand of `n` registers. -/
def reg (r : BitVec 8) (n : Nat) : List (Nat × Nat) := [(r.toNat, n)]

/-- `n` scalars from `r`. -/
def group (r n : Nat) : List Nat := (List.range n).map (r + ·)

/-- The integer types (11 R305). -/
def tI (t : Nat) : Bool := t ≤ 1 || (6 ≤ t && t ≤ 11)
/-- The float types. -/
def tF (t : Nat) : Bool := 2 ≤ t && t ≤ 5
/-- The packed float types. -/
def tPF (t : Nat) : Bool := t == 12 || t == 13
/-- The packed integer types. -/
def tPI (t : Nat) : Bool := t == 14 || t == 15
/-- The types of `bfe` and `bfi` (11 R309). -/
def tField (t : Nat) : Bool := t == 0 || t == 1 || t == 6 || t == 7
/-- The types of `aadd` (12 R333). -/
def tAdd (t : Nat) : Bool := t == 0 || t == 1 || t == 6 || t == 7 || t == 2 || t == 5 || t == 12 || t == 13
/-- The types of `amin` and `amax`. -/
def tMinMax (t : Nat) : Bool := t == 0 || t == 1 || t == 6 || t == 7 || t == 2 || t == 5
/-- The types of the bitwise atomics: every 32-bit, packed or 64-bit type. -/
def tWord (t : Nat) : Bool := t ≤ 2 || (5 ≤ t && t ≤ 7) || 12 ≤ t

/-- Role bin (09 R259). -/
def vBin (ok : Nat → Bool) (s : State) (d a b : BitVec 8) : Opnds :=
  { va := reg a (opWidth s), vb := reg b (opWidth s), vw := reg d (opWidth s), ill := !ok (modeType s) }
/-- Role acc. -/
def vAcc (ok : Nat → Bool) (s : State) (d a b : BitVec 8) : Opnds :=
  { vBin ok s d a b with vr := reg d (opWidth s) }
/-- Role un. -/
def vUn (ok : Nat → Bool) (s : State) (d a : BitVec 8) : Opnds :=
  { va := reg a (opWidth s), vw := reg d (opWidth s), ill := !ok (modeType s) }
/-- Role cmp. -/
def vCmp (ok : Nat → Bool) (s : State) (p : BitVec 3) (a b : BitVec 8) : Opnds :=
  { va := reg a (opWidth s), vb := reg b (opWidth s), pw := [p.toNat], ill := !ok (modeType s) }
/-- The combinations of types that `cvt` allows (11 R317). -/
def cvtOk (t dt : Nat) (us : BitVec 1) : Bool :=
  (t ≤ 11 && dt ≤ 11) || (12 ≤ t && t ≤ 14 && 12 ≤ dt && dt ≤ 14 && us == 0)
    || (t ≤ 11 && dt == 15 && us == 1) || (t == 15 && dt ≤ 11 && us == 1)
/-- The operands of `cvt`: a has the source type's width and d the destination's; a block form crosses lanes (11 R320). -/
def vCvt (s : State) (d a : BitVec 8) (dt : BitVec 4) (us : BitVec 1) : Opnds :=
  { va := reg a (opWidth s), vw := reg d (if wide dt.toNat then 2 else 1), ill := !cvtOk (modeType s) dt.toNat us,
    cross := modeType s == 15 || dt == 15 }

/-- The operands of an instruction under the mode of the fragment at the front. -/
def operands (s : State) (i : Instr) : Opnds :=
  match i with
  | .add d a b => vBin (fun _ => true) s d a b
  | .sub d a b => vBin (fun _ => true) s d a b
  | .mul d a b => vBin (fun _ => true) s d a b
  | .mulhi d a b => vBin (fun t => tI t || tPI t) s d a b
  | .fma d a b => vAcc (fun _ => true) s d a b
  | .fms d a b => vAcc (fun _ => true) s d a b
  | .fnma d a b => vAcc (fun _ => true) s d a b
  | .min d a b => vBin (fun _ => true) s d a b
  | .max d a b => vBin (fun _ => true) s d a b
  | .abd d a b => vBin (fun _ => true) s d a b
  | .and d a b => vBin (fun _ => true) s d a b
  | .or d a b => vBin (fun _ => true) s d a b
  | .xor d a b => vBin (fun _ => true) s d a b
  | .andn d a b => vBin (fun _ => true) s d a b
  | .shl d a b => vBin (fun t => tI t || tPI t) s d a b
  | .shr d a b => vBin (fun t => tI t || tPI t) s d a b
  | .rot d a b => vBin (fun t => tI t || tPI t) s d a b
  | .sel d a b => vBin (fun _ => true) s d a b
  | .ceq p a b => vCmp (fun t => tI t || tF t) s p a b
  | .cne p a b => vCmp (fun t => tI t || tF t) s p a b
  | .clt p a b => vCmp (fun t => tI t || tF t) s p a b
  | .cle p a b => vCmp (fun t => tI t || tF t) s p a b
  | .cgt p a b => vCmp (fun t => tI t || tF t) s p a b
  | .cge p a b => vCmp (fun t => tI t || tF t) s p a b
  | .cun p a b => vCmp tF s p a b
  | .ccls p a _ => { va := reg a (opWidth s), pw := [p.toNat], ill := !tF (modeType s) }
  | .mov d a => vUn (fun _ => true) s d a
  | .cvt d a dt us _ => vCvt s d a dt us
  | .neg d a => vUn (fun _ => true) s d a
  | .abs d a => vUn (fun _ => true) s d a
  | .popc d a => vUn (fun t => tI t || tPI t) s d a
  | .clz d a => vUn (fun t => tI t || tPI t) s d a
  | .brev d a => vUn (fun t => tI t || tPI t) s d a
  | .bfe d a b => vBin tField s d a b
  | .bfi d a b => vAcc tField s d a b
  | .mulw d a b => { va := reg a 1, vb := reg b 1, vw := reg d 2, ill := !(modeType s == 0 || modeType s == 1) }
  | .dot2 d a b => { va := reg a 1, vb := reg b 1, vr := reg d 1, vw := reg d 1, ill := !(tPF (modeType s) || modeType s == 14) }
  | .dot4 d a b => { va := reg a 1, vb := reg b 1, vr := reg d 1, vw := reg d 1, ill := modeType s != 15 }
  | .addc d a b => { va := reg a 1, vb := reg b 1, vw := reg d 1, pw := [7], ill := !(modeType s == 0 || modeType s == 1) }
  | .subb d a b => { va := reg a 1, vb := reg b 1, vw := reg d 1, pw := [7], ill := !(modeType s == 0 || modeType s == 1) }
  | .pack d a b => vBin (fun t => tPF t || tPI t) s d a b
  | .unplo d a => vUn (fun t => tPF t || tPI t) s d a
  | .unphi d a => vUn (fun t => tPF t || tPI t) s d a
  | .clamp d a b => vAcc (fun _ => true) s d a b
  | .csgn d a b => vBin (fun t => !(t == 1 || t == 7 || t == 9 || t == 11)) s d a b
  | .fract d a => vUn (fun t => tF t || tPF t) s d a
  | .rnd d a => vUn (fun t => tF t || tPF t) s d a
  | .scl d a b => vBin (fun t => tF t || tPF t) s d a b
  | .rcp d a => { vUn (fun t => tF t || tPF t) s d a with fa := true }
  | .rsq d a => { vUn (fun t => tF t || tPF t) s d a with fa := true }
  | .sqrt d a => { vUn (fun t => tF t || tPF t) s d a with fa := true }
  | .exp2 d a => { vUn (fun t => tF t || tPF t) s d a with fa := true }
  | .log2 d a => { vUn (fun t => tF t || tPF t) s d a with fa := true }
  | .sin d a => { vUn (fun t => tF t || tPF t) s d a with fa := true }
  | .cos d a => { vUn (fun t => tF t || tPF t) s d a with fa := true }
  | .tanh d a => { vUn (fun t => tF t || tPF t) s d a with fa := true }
  | .sigm d a => { vUn (fun t => tF t || tPF t) s d a with fa := true }
  | .div d a b => { vBin (fun t => tI t || tF t || tPF t) s d a b with fa := true }
  | .erf d a => { vUn (fun t => tF t || tPF t) s d a with fa := true }
  | .shfl d a b => { va := reg a (opWidth s), vb := reg b 1, vw := reg d (opWidth s), fa := true, cross := true }
  | .shup d a b => { va := reg a (opWidth s), vb := reg b 1, vw := reg d (opWidth s), fa := true, cross := true }
  | .shdn d a b => { va := reg a (opWidth s), vb := reg b 1, vw := reg d (opWidth s), fa := true, cross := true }
  | .shxr d a b => { va := reg a (opWidth s), vb := reg b 1, vw := reg d (opWidth s), fa := true, cross := true }
  | .vall p _ => { pw := [p.toNat], fa := true, cross := true }
  | .vany p _ => { pw := [p.toNat], fa := true, cross := true }
  | .blt d _ => { vw := reg d 1, fa := true, cross := true }
  | .radd d a => { va := reg a (opWidth s), vw := reg d (opWidth s), fa := true, cross := true }
  | .rmin d a => { va := reg a (opWidth s), vw := reg d (opWidth s), fa := true, cross := true }
  | .rmax d a => { va := reg a (opWidth s), vw := reg d (opWidth s), fa := true, cross := true }
  | .psum d a _ => { va := reg a (opWidth s), vw := reg d (opWidth s), fa := true, cross := true }
  | .mtch d a => { va := reg a (opWidth s), vw := reg d 1, fa := true, cross := true }
  | .conf d a => { va := reg a (opWidth s), vw := reg d 1, fa := true, cross := true }
  | .bcst d a => { va := reg a (opWidth s), vw := reg d (opWidth s), fa := true, cross := true }
  | .ld d a b => { va := reg a 2, vb := reg b 1, vw := reg d (opWidth s), fa := true, mem := true }
  | .st d a b => { va := reg a 2, vb := reg b 1, vr := reg d (opWidth s), fb := true, mem := true }
  | .ldq d a b => { va := reg a 2, vb := reg b 1, vw := reg d 4, fa := true, mem := true }
  | .stq d a b => { va := reg a 2, vb := reg b 1, vr := reg d 4, fb := true, mem := true }
  | .ldacq d a b => { va := reg a 2, vb := reg b 1, vw := reg d (opWidth s), fa := true, mem := true }
  | .strel d a b => { va := reg a 2, vb := reg b 1, vr := reg d (opWidth s), fb := true, mem := true }
  | .ldref d a b => { va := reg a 2, vb := reg b 1, vw := reg d 2, fa := true, mem := true }
  | .stref d a b => { va := reg a 2, vb := reg b 1, vr := reg d 2, fb := true, mem := true }
  | .pub d a b => { va := reg a 2, vb := reg b 1, vr := reg d 2, fb := true, mem := true }
  | .aadd d a b => { va := reg a 2, vb := reg b (opWidth s), vw := reg d (opWidth s), fa := true, mem := true, ill := !tAdd (modeType s) }
  | .amin d a b => { va := reg a 2, vb := reg b (opWidth s), vw := reg d (opWidth s), fa := true, mem := true, ill := !tMinMax (modeType s) }
  | .amax d a b => { va := reg a 2, vb := reg b (opWidth s), vw := reg d (opWidth s), fa := true, mem := true, ill := !tMinMax (modeType s) }
  | .aand d a b => { va := reg a 2, vb := reg b (opWidth s), vw := reg d (opWidth s), fa := true, mem := true, ill := !tWord (modeType s) }
  | .aor d a b => { va := reg a 2, vb := reg b (opWidth s), vw := reg d (opWidth s), fa := true, mem := true, ill := !tWord (modeType s) }
  | .axor d a b => { va := reg a 2, vb := reg b (opWidth s), vw := reg d (opWidth s), fa := true, mem := true, ill := !tWord (modeType s) }
  | .axch d a b => { va := reg a 2, vb := reg b (opWidth s), vw := reg d (opWidth s), fa := true, mem := true, ill := !tWord (modeType s) }
  | .acas d a b => { va := reg a 2, vb := reg b (opWidth s), vr := reg d (opWidth s), vw := reg d (opWidth s), fa := true, mem := true, ill := !tWord (modeType s) }
  | .ainc d a b => { va := reg a 2, vb := reg b (opWidth s), vw := reg d (opWidth s), fa := true, mem := true, ill := !(fun t => t == 1) (modeType s) }
  | .gred a b => { va := reg a 2, vb := reg b (opWidth s), fb := true, mem := true, ill := !tAdd (modeType s) }
  | .gmin a b => { va := reg a 2, vb := reg b (opWidth s), fb := true, mem := true, ill := !tMinMax (modeType s) }
  | .gmax a b => { va := reg a 2, vb := reg b (opWidth s), fb := true, mem := true, ill := !tMinMax (modeType s) }
  | .gth d a k => { va := reg a 1, vw := reg d (opWidth s), sr := [2 * k.toNat, 2 * k.toNat + 1], mem := true, fa := true, ill := overlaps d.toNat (opWidth s) a.toNat 1 }
  | .sct d a k => { va := reg a 1, vr := reg d (opWidth s), sr := [2 * k.toNat, 2 * k.toNat + 1], mem := true, fb := true }
  | .scad d a k => { va := reg a 1, vr := reg d (opWidth s), sr := [2 * k.toNat, 2 * k.toNat + 1], mem := true, fb := true, ill := !tMinMax (modeType s) }
  | .gthh d a k => { va := reg a 2, vw := reg d (opWidth s), sr := [2 * k.toNat, 2 * k.toNat + 1], mem := true, fa := true }
  | .pref a b => { va := reg a 2, vb := reg b 1 }
  | .ohdr d a b => { va := reg a 2, vb := reg b 1, vr := reg d 2, fb := true, mem := true }
  | .accrd d a => { va := reg a 1, vw := reg d 16, fa := true, tile := true }
  | .accwr d a => { va := reg a 1, vr := reg d 16, fb := true, tile := true }
  | .rkrd d a => { va := reg a 1, vw := reg d 2, fa := true, tile := true }
  | .tw d a b => { va := reg a 1, vb := reg b 1, vw := reg d 1, fa := true, mem := true }
  | .twi d a b => { va := reg a 1, vb := reg b 1, vw := reg d 1, fa := true, mem := true }
  | .addi d a _ => vUn (fun _ => true) s d a
  | .andi d a _ => vUn (fun _ => true) s d a
  | .ori d a _ => vUn (fun _ => true) s d a
  | .xori d a _ => vUn (fun _ => true) s d a
  | .shli d a _ => vUn (fun t => tI t || tPI t) s d a
  | .shri d a _ => vUn (fun t => tI t || tPI t) s d a
  | .ceqi p a _ => { va := reg a (opWidth s), pw := [p.toNat], ill := !(tI (modeType s) || tF (modeType s)) }
  | .clti p a _ => { va := reg a (opWidth s), pw := [p.toNat], ill := !(tI (modeType s) || tF (modeType s)) }
  | .cgti p a _ => { va := reg a (opWidth s), pw := [p.toNat], ill := !(tI (modeType s) || tF (modeType s)) }
  | .ldi d a _ => { va := reg a 2, vw := reg d (opWidth s), fa := true, mem := true }
  | .sti d a _ => { va := reg a 2, vr := reg d (opWidth s), fb := true, mem := true }
  | .muli d a _ => vUn (fun _ => true) s d a
  | .mini d a _ => vUn (fun _ => true) s d a
  | .maxi d a _ => vUn (fun _ => true) s d a
  | .sAdd sd sa sb => { sr := [sa.toNat, sb.toNat], sw := [sd.toNat] }
  | .sSub sd sa sb => { sr := [sa.toNat, sb.toNat], sw := [sd.toNat] }
  | .sMul sd sa sb => { sr := [sa.toNat, sb.toNat], sw := [sd.toNat] }
  | .sMulh sd sa sb => { sr := [sa.toNat, sb.toNat], sw := [sd.toNat] }
  | .sAnd sd sa sb => { sr := [sa.toNat, sb.toNat], sw := [sd.toNat] }
  | .sOr sd sa sb => { sr := [sa.toNat, sb.toNat], sw := [sd.toNat] }
  | .sXor sd sa sb => { sr := [sa.toNat, sb.toNat], sw := [sd.toNat] }
  | .sShl sd sa sb => { sr := [sa.toNat, sb.toNat], sw := [sd.toNat] }
  | .sShr sd sa sb => { sr := [sa.toNat, sb.toNat], sw := [sd.toNat] }
  | .sSar sd sa sb => { sr := [sa.toNat, sb.toNat], sw := [sd.toNat] }
  | .sMin sd sa sb => { sr := [sa.toNat, sb.toNat], sw := [sd.toNat] }
  | .sMax sd sa sb => { sr := [sa.toNat, sb.toNat], sw := [sd.toNat] }
  | .sMinu sd sa sb => { sr := [sa.toNat, sb.toNat], sw := [sd.toNat] }
  | .sMaxu sd sa sb => { sr := [sa.toNat, sb.toNat], sw := [sd.toNat] }
  | .sMov sd sa => { sr := [sa.toNat], sw := [sd.toNat] }
  | .sCeq sd sa sb => { sr := [sa.toNat, sb.toNat], sw := [sd.toNat] }
  | .sClt sd sa sb => { sr := [sa.toNat, sb.toNat], sw := [sd.toNat] }
  | .sCltu sd sa sb => { sr := [sa.toNat, sb.toNat], sw := [sd.toNat] }
  | .sAddi sd sa _ => { sr := [sa.toNat], sw := [sd.toNat] }
  | .sAndi sd sa _ => { sr := [sa.toNat], sw := [sd.toNat] }
  | .sOri sd sa _ => { sr := [sa.toNat], sw := [sd.toNat] }
  | .sXori sd sa _ => { sr := [sa.toNat], sw := [sd.toNat] }
  | .sShli sd sa _ => { sr := [sa.toNat], sw := [sd.toNat] }
  | .sShri sd sa _ => { sr := [sa.toNat], sw := [sd.toNat] }
  | .sMuli sd sa _ => { sr := [sa.toNat], sw := [sd.toNat] }
  | .sLd sd sa _ => { sr := [sa.toNat], sw := [sd.toNat], fa := true, mem := true }
  | .sLd32 sd sa _ => { sr := [sa.toNat], sw := [sd.toNat], fa := true, mem := true }
  | .sSt sd sa _ => { sr := [sa.toNat, sd.toNat], fb := true, mem := true }
  | .sSt32 sd sa _ => { sr := [sa.toNat, sd.toNat], fb := true, mem := true }
  | .sLdacq sd sa _ => { sr := [sa.toNat], sw := [sd.toNat], fa := true, mem := true }
  | .sStrel sd sa _ => { sr := [sa.toNat, sd.toNat], fb := true, mem := true }
  | .sAadd sd sa sb _ => { sr := [sa.toNat, sb.toNat], sw := [sd.toNat], fa := true, mem := true }
  | .sAcas sd sa sb _ => { sr := [sa.toNat, sb.toNat, sd.toNat], sw := [sd.toNat], fa := true, mem := true }
  | .sRdl sd r _ => { vr := reg r 1, sw := [sd.toNat], fa := true }
  | .sSrd sd idx => { sw := [sd.toNat], sup := decide (0x100 ≤ idx.toNat) }
  | .sSwr idx sa => { sr := [sa.toNat], sup := decide (0x100 ≤ idx.toNat) }
  | .pAnd pd _ _ => { pw := [pd.toNat] }
  | .pOr pd _ _ => { pw := [pd.toNat] }
  | .pXor pd _ _ => { pw := [pd.toNat] }
  | .pAndn pd _ _ => { pw := [pd.toNat] }
  | .pNot pd _ => { pw := [pd.toNat] }
  | .pMov pd sa => { sr := [sa.toNat], pw := [pd.toNat] }
  | .pGet sd _ => { sw := [sd.toNat] }
  | .pPop sd _ => { sw := [sd.toNat] }
  | .pFfs sd _ => { sw := [sd.toNat] }
  | .part _ => {}
  | .acb sa _ => { sr := [sa.toNat] }
  | .msf _ _ => {}
  | .sPopc sd sa => { sr := [sa.toNat], sw := [sd.toNat] }
  | .sClz sd sa => { sr := [sa.toNat], sw := [sd.toNat] }
  | .bra _ => {}
  | .brd _ _ => {}
  | .brdx _ _ => {}
  | .bany _ _ => {}
  | .ball _ _ => {}
  | .bnon _ _ => {}
  | .mark _ => {}
  | .call _ => { sw := [46] }
  | .jr c => { sr := [32 + c.toNat] }
  | .loop c _ => { sr := [32 + c.toNat], sw := [32 + c.toNat] }
  | .wait _ => {}
  | .sbr c _ => { sr := [32 + c.toNat] }
  | .liV d _ => { vw := reg d 1 }
  | .luiV d _ => { vr := reg d 1, vw := reg d 1 }
  | .liS sd _ => { sw := [sd.toNat] }
  | .mode _ => {}
  | .mm _ _ _ _ _ => { fb := true, tile := true }
  | .mmsp _ _ _ m _ => { vr := reg m 4, fb := true, tile := true }
  | .mmg _ _ _ x _ => { vr := reg x 1, fb := true, tile := true }
  | .mmrk _ _ _ _ => { fb := true, tile := true }
  | .spcmp _ _ _ m => { vw := reg m 4, fa := true, fb := true, tile := true }
  | .accclr _ _ => { tile := true }
  | .accdcl _ _ => { tile := true }
  | .accdclU _ _ => { tile := true }
  | .accst _ _ _ => { fb := true, tile := true }
  | .accld _ _ _ => { fb := true, tile := true }
  | .rkbnd _ b _ => { vr := reg b 2, tile := true }
  | .rkmrg sa _ => { sr := [sa.toNat], fb := true, tile := true }
  | .rkst sa _ => { sr := [sa.toNat], fb := true, tile := true }
  | .rkstM sa _ => { sr := [sa.toNat], fb := true, tile := true }
  | .zset _ _ => { tile := true }
  | .zlog _ _ _ _ => { tile := true }
  | .ztst _ p => { pw := [p.toNat], tile := true }
  | .hset _ sa sb _ => { sr := [sa.toNat, sb.toNat], tile := true }
  | .hadj _ sa _ => { sr := [sa.toNat], tile := true }
  | .cpk sa _ => { sr := [sa.toNat], fb := true }
  | .cpcl res sd => { sw := if res = 1 then [sd.toNat] else [] }
  | .cpwt res sd _ sa _ => { sr := [sa.toNat], sw := if res = 1 then [sd.toNat] else [] }
  | .arin sa sb => { sr := [sa.toNat, sb.toNat] }
  | .arinSet sa sb => { sr := [sa.toNat, sb.toNat] }
  | .arwt sa => { sr := [sa.toNat] }
  | .bar _ cnt sa => { sr := if cnt = 1 then [sa.toNat] else [] }
  | .bara _ cnt sa => { sr := if cnt = 1 then [sa.toNat] else [] }
  | .barw _ => {}
  | .schn sd => { sw := group sd.toNat 10 }
  | .schd sa => { sr := group sa.toNat 8 }
  | .schp sd => { sw := [sd.toNat] }
  | .schs _ sa => { sr := [sa.toNat] }
  | .schh sa sb sc => { sr := sb.toNat :: sc.toNat :: group sa.toNat 8 }
  | .schq _ sd => { sw := [sd.toNat] }
  | .rpush _ sa sb => { sr := [sa.toNat, sb.toNat] }
  | .rpop _ p _ => { pw := [p.toNat] }
  | .dadd sa sb => { sr := [sa.toNat, sb.toNat] }
  | .ddec sa sb => { sr := [sa.toNat, sb.toNat] }
  | .launch sa => { sr := [sa.toNat] }
  | .amsd a sb sc => { va := reg a 1, sr := [sb.toNat, sc.toNat], fb := true }
  | .bwt sa sb _ => { sr := [sa.toNat, sb.toNat] }
  | .bwk sa sb => { sr := [sa.toNat, sb.toNat] }
  | .rdon sa _ => { sr := [sa.toNat], donor := true }
  | .racc sa => { sr := [sa.toNat], donor := true }
  | .fence _ _ => {}
  | .trap _ => {}
  | .pmap sd sa sb => { sr := [sa.toNat, sb.toNat], sw := [sd.toNat], sup := true }
  | .pumap sa sb => { sr := [sa.toNat, sb.toNat], sup := true }
  | .tinv sa sb => { sr := [sa.toNat, sb.toNat], sup := true }
  | .pool sd sa => { sr := [sa.toNat], sw := [sd.toNat], sup := true }
  | .poolPush sa sb => { sr := [sa.toNat, sb.toNat], sup := true }
  | .l1wb rng sa sb => { sr := if rng = 1 then [sa.toNat, sb.toNat] else [] }
  | .l1inv rng sa sb => { sr := if rng = 1 then [sa.toNat, sb.toNat] else [] }
  | .join => {}
  | .regang => {}
  | .ret => { sr := [46] }
  | .exit => {}
  | .spfen => { tile := true }
  | .schc => {}
  | .yld => {}
  | .tret => { sup := true }
  | .brk => {}
  | .nop => {}
  | .halt => { sup := true }
  | .wakeRegisterWrite => {}
  | .nopPacket => {}
  | .launchPacket => {}
  | .graphPacket => {}
  | .copyPacket => {}
  | .signalPacket => {}
  | .waitmemPacket => {}
  | .releasePacket => {}
  | .acquirePacket => {}
  | .fencePacket => {}
  | .timePacket => {}
  | .invalPacket => {}
  | .queueCreation => {}
  | .refetch => {}
  | .skip => {}
  | .linkBinding => {}
  | .debugResume => {}
  | .accumulatorQuotaDivision => {}
  | .attestationRequest => {}
  | .firmwareImageWrite => {}
  | .regionRegistration => {}
  | .queueRemap => {}
  | .start => {}
  | .failedStartCounterClear => {}
  | .throttling => {}
  | .shutdown => {}
  | .doubledRefresh => {}
  | .drain => {}
  | .lossNotice => {}
  | .portDown => {}
  | .rdmaWrite => {}
  | .rdmaRead => {}
  | .fetchAndAdd => {}
  | .compareAndSwap => {}
  | .rdmaSend => {}
  | .rnrNak => {}
  | .sendAcknowledgement => {}
  | .activeMessageHandlerStart => {}
  | .migctlGo => {}
  | .migctlEn => {}
  | .migctlDoneClear => {}
  | .migrationLineCopy => {}
  | .deviceRegisterWrite => {}
  | .translationWalk => {}
  | .homeSliceRequest => {}
  | .mergeWindowExpiry => {}
  | .collectorCommit => {}
  | .memoryReply => {}
  | .copyIssue => {}
  | .copyGranuleWrite => {}
  | .copyCompletion => {}
  | .faultDelivery => {}
  | .publicationWalk => {}
  | .objectScan => {}
  | .flipPhase => {}
  | .finalStore => {}
  | .launchAcceptance => {}
  | .blockStart => {}
  | .cadenceStep => {}
  | .blockEnd => {}
  | .gridRetirement => {}
  | .quantumExpiry => {}
  | .blockRestore => {}
  | .nodeTimerExpiry => {}
  | .waitWordReread => {}
  | .issuePromotion => {}
  | .yieldExpiry => {}
  | .joinStackRefill => {}
  | .registerPull => {}
  | .exportReturn => {}
  | .poolRefill => {}
  | .quarterOperationCompletion => {}
  | .longLatencyResult => {}
  | .powerLoss => {}
  | .lmsKeyProvisioning => {}
  | .priorityFlowControl => {}
  | .ecnMarking => {}

/-- Every vector source of an instruction. -/
def Opnds.reads (o : Opnds) : List (Nat × Nat) := o.va ++ o.vb ++ o.vr

/-- A group of `n` registers starts at a multiple of min(n, 8); broadcasts are exempt (09 R255). -/
def aligned (p : Nat × Nat) : Bool := 224 ≤ p.1 || p.1 % (min p.2 8) == 0

/-- Is a vector operand a k register (09 R254)? -/
def isK (p : Nat × Nat) : Bool := 216 ≤ p.1 && p.1 < 224

/-- Does a vector operand reach beyond the allotment (05 R166)? -/
def beyond (s : State) (p : Nat × Nat) : Bool := p.1 < 216 && s.w.allot < p.1 + p.2

/-- Is a broadcast of `sN` in an operand (09 R254)? Its scalar is read. -/
def broadcasts (l : List (Nat × Nat)) : List Nat := (l.filter (fun p => 224 ≤ p.1)).map (fun p => p.1 - 224)

/-- Is the fragment a narrow core's own, not an export (05 R149)? -/
def ownNarrow (s : State) : Bool := narrow s && s.f.exp.isNone

/-- The first decode fault of an instruction, in the order ILL, PRIV, REG, DIVSW (07 R213). -/
def decodeFault (i : Instr) (s : State) : Option (BitVec 8) :=
  let o := operands s i
  let regs := o.reads ++ o.vw
  if !i.wellFormed || o.ill || !regs.all aligned || (ownNarrow s && (o.tile || o.donor)) then some 0x01
  else if !s.f.sup && (o.sup || regs.any isK || (o.sr ++ o.sw).any (fun n => 56 ≤ n)) then some 0x02
  else if regs.any (beyond s) then some 0x03
  else if divergent s && o.sw.any (fun n => n < 56) then some 0x04
  else none

/-- The registers of vector operands, broadcasts left out. -/
def regsOf (l : List (Nat × Nat)) : List Nat :=
  (l.filter (fun p => p.1 < 224)).flatMap (fun p => (List.range p.2).map (p.1 + ·))

/-- The lanes that an instruction may write. -/
def mayWrite (s : State) : Lanes := if modeNomask s then warpLanes s else partMask s

/-- An instruction stalls at issue (09 R248, R249): a flag it sets has 32 operations outstanding, or a register it
writes has a producer in flight. -/
def stalls (i : Instr) (s : State) : Bool :=
  let o := operands s i
  (o.fa && flagFull s (setA s.f)) || (o.fb && flagFull s (setB s.f))
    || (regsOf o.vw).any (fun r => (lanesOf (mayWrite s)).any (fun l => inFlightLane s (regKey r l)))
    || o.sw.any (fun n => n != 0 && (inflightS s n).isSome)
    || o.pw.any (fun p => (lanesOf (mayWrite s)).any (fun l => (inflightP s p l).isSome))

end Sys2Proof.Machine
end

