-- ==== Sys2Proof/Machine/Warps.lean ====
section
/-!
DEFINITION. What a warp holds besides its registers: the split table (05 R149, R150), the join stack with its spill area
(R153 to R155), the return of exports into place (R161, R162), collector groups that must leave (02 R64), and how a block
stops (07 R217).
-/
namespace Sys2Proof.Machine

/-- User privilege of the issuing fragment (07 R206). -/
def isUser (s : State) : Bool := !s.f.sup

/-! ### The split table (05 R149, R150) -/

/-- The live fragments of a warp, `f` among them. -/
def liveFrags (w : Warp) (f : Frag) : List Frag :=
  if f.mask = 0 || w.frags.any (fun g => g.ent == f.ent) then w.frags else f :: w.frags

/-- Split-table entries in use (05 R150, R159): live fragments in place, and 4 per narrow warp of each export. -/
def entriesUsed (w : Warp) (f : Frag) : Nat :=
  ((liveFrags w f).filter (fun x => x.exp.isNone)).length + w.exps.foldl (fun n e => n + 4 * e.total) 0

/-- Is a block of narrow core class (06 R174)? -/
def narrowBlock (s : State) (b : Block) : Bool :=
  ((s.grids.find? (fun g => g.gid == b.gid)).map (fun g => leBytes g.record 0x1A 1 == 1)).getD false

/-- Is a split-table entry free for a part of a fragment? There are 16, or 4 on a narrow warp (05 R149, R150); a part of an
export splits within the 4 entries of its narrow warp (10 R279). -/
def entryFreeFor (s : State) (b : Block) (w : Warp) (f : Frag) : Bool :=
  match f.exp with
  | none => decide (entriesUsed w f < if narrowBlock s b then 4 else 16)
  | some x => decide (((liveFrags w f).filter (fun g => g.exp == some x && g.nw == f.nw)).length < 4)

/-- The same for the fragment at the front. -/
def entryFree (s : State) : Bool := entryFreeFor s s.blk s.w s.f

/-- The lowest unused entry number. -/
def freeEnt (s : State) : Nat :=
  let used := s.f.ent :: s.w.frags.map Frag.ent
  ((List.range 40).find? (fun n => !used.contains n)).getD 40

/-! ### The join stack and its spill area (05 R153 to R155) -/

/-- Level numbers at and above this name entries of an export's narrow join stack. -/
def narrowLevel : Nat := 0x8000

/-- Drops the free entries at the top of a join stack (05 R155). -/
def trimJoin (l : List JEntry) : List JEntry := (l.reverse.dropWhile (fun e => e.free)).reverse

/-- Changes the entry at a level. -/
def updLevel (l : List JEntry) (n : Nat) (u : JEntry → JEntry) : List JEntry := l.modify n u

/-- The linear warp index (01 R14). -/
def warpLin (s : State) : Nat := blockLin s * wpb s + s.w.idx

/-- The spill address of a level. -/
def spillVa (s : State) (n : Nat) : W64 :=
  match gridOf s with
  | some g => BitVec.ofNat 64 (g.spillVa + (warpLin s * g.spillE + n) * 32)
  | none => 0

/-- Spilled entries a warp may have. -/
def spillMax (s : State) : Nat := ((gridOf s).map Grid.spillE).getD 0

/-- A spilled entry as it lies in memory (05 R154). -/
def JEntry.word (e : JEntry) : Nat :=
  e.rejoin.toNat % 2 ^ 56 + 2 ^ 64 * e.expected.toNat + 2 ^ 96 * e.mode.toNat + 2 ^ 128 * e.parent.toNat
    + 2 ^ 144 * (e.counter % 256) + 2 ^ 152 * (if e.free then 1 else 0)

/-- A spilled entry as it is read back. Its counter and free bit are the core's, which changes them while the entry lies in
memory (log 86). -/
def JEntry.refilled (e : JEntry) (v : Nat) : JEntry :=
  { rejoin := genOf (bits v 0 56), expected := BitVec.ofNat 32 (bits v 64 32), mode := BitVec.ofNat 26 (bits v 96 26),
    counter := e.counter, parent := BitVec.ofNat 16 (bits v 128 16), free := e.free, spilled := false }

/-- Entries that the core holds, and those below them that are spilled. -/
def heldEntries (s : State) : Nat := (s.w.jst.filter (fun e => !e.spilled)).length
def spilledEntries (s : State) : Nat := (s.w.jst.takeWhile (fun e => e.spilled)).length

/-- Where the lowest held entry is spilled to: an l2 access of the warp. -/
def spillPlace (s : State) : Except MFault Place :=
  let va := spillVa s (spilledEntries s)
  match resolveGlobal s (isUser s) .write (.plain 1) va 32 with
  | .error m => .error m
  | .ok q => checkHeader s q va

/-- Writes the lowest held entry to its place in the spill area. -/
def spillTo (q : Place) (s : State) : State :=
  let n := spilledEntries s
  match s.w.jst[n]? with
  | none => s
  | some e =>
    let s := keepLeaves (storeAt s q e.word 32) q
    { s with w := { s.w with jst := updLevel s.w.jst n (fun j => { j with spilled := true }) } }

/-- Spills the lowest entries while the core holds more than 16 (05 R153). An entry for which the spill area has no room,
or whose write faults, stays held (log 86). -/
def spillExcess : Nat → State → State
  | 0, s => s
  | n + 1, s =>
    if heldEntries s ≤ 16 || spillMax s ≤ spilledEntries s then s
    else match spillPlace s with
      | .error _ => s
      | .ok q => spillExcess n (spillTo q s)

/-! ### Repatriation (05 R162) -/

/-- Pushes an export's dirty registers and predicates back, for lanes that have not exited (05 R161, 10 R287). -/
def pushBack (s : State) (e : Export) : State :=
  let live := fun k => !s.w.exited.getLsbD (k % 32)
  let nw := fun k => ((List.range e.total).find? (fun n => (e.warpLanes n).contains (k % 32))).getD 0
  let v := (e.dirty.filter live).foldl (fun v k => Cells.set v k ((lookup (viewKey (nw k) k) e.held).getD 0)) s.w.v
  let p := (e.pdirty.filter live).foldl (fun p k =>
    Cells.set p (k / 32) (setBit (Cells.get p (k / 32)) (k % 32) ((lookup (viewKey (nw k) k) e.pheld).getD false))) s.w.p
  { s with w := { s.w with v := v, p := p } }

/-- A level of a repatriated part: narrow levels move onto the warp's stack from `base` upward. -/
def liftLevel (base : Nat) (lv : BitVec 16) : BitVec 16 :=
  if lv != 0xFFFF && narrowLevel ≤ lv.toNat then BitVec.ofNat 16 (base + (lv.toNat - narrowLevel)) else lv

/-- Repatriates an export: its parts become fragments in place and continue where they stand. Their narrow levels are
pushed onto the warp's stack also where it then holds more levels than 05 R154 gives a warp (log 86). -/
def repatriate (s : State) (x : Nat) : State :=
  match s.w.exps.find? (fun e => e.id == x) with
  | none => s
  | some e =>
    let s := pushBack s e
    let base := s.w.jst.length
    let lift := fun (f : Frag) => if f.exp = some x then { f with exp := none, nw := 0, level := liftLevel base f.level } else f
    let jst := s.w.jst ++ e.jst.map (fun p => { p.2 with parent := liftLevel base p.2.parent })
    let jst := updLevel jst e.level.toNat (fun j => { j with counter := j.counter - e.nwarps })
    spillExcess e.jst.length { s with f := lift s.f, w := { s.w with frags := s.w.frags.map lift, jst := trimJoin jst,
                                                                     exps := s.w.exps.filter (fun y => y.id != x) } }

/-- Repatriates the export that the fragment at the front runs in. -/
def repatriateFront (s : State) : State :=
  match s.f.exp with
  | some x => repatriate s x
  | none => s

/-! ### The request collector (02 R64 to R66) -/

/-- The 128-byte line of an element. -/
def Elem.line (e : Elem) : Nat := e.va.toNat / 128

/-- Have all packets of an operation left? -/
def Coll.sent (c : Coll) : Bool := c.elems.all Elem.sent

/-- The lanes of an operation's elements. -/
def Coll.lanes (c : Coll) : Lanes := c.elems.foldl (fun (n : Lanes) e => n ||| e.grp) 0

/-- The groups, by line and kind, in which an operation has entries that have not left. -/
def Coll.groups (c : Coll) : List (Nat × Nat) :=
  ((c.elems.filter (fun e => !e.sent)).map (fun e => (e.line, c.kind))).eraseDups

/-- The wide core whose collector serves a core: a narrow core uses that of its cluster's wide core k (12 R336). -/
def collectorOf (core : Nat) : Nat := if core < 256 then core else core - 256

/-- Entries in use in a core's collector: one for each lane request. -/
def collEntries (s : State) (core : Nat) : Nat :=
  (s.colls.filter (fun c => c.core == core && !c.stopped)).foldl (fun n c => n + c.elems.length) 0

/-- Sends groups of a core's collector, with the entries of every operation in them. An operation whose packets have all
left is checked and committed next. -/
def sendKeys (core : Nat) (keys : List (Nat × Nat)) (s : State) : State :=
  let mark := fun (c : Coll) => if c.core == core then
    { c with elems := c.elems.map (fun e => if keys.contains (e.line, c.kind) then { e with sent := true } else e) } else c
  let ready := s.colls.filter (fun c => !c.sent && (mark c).sent)
  ready.foldl (fun s c => push .collectorCommit (.unit c.id) s) { s with colls := s.colls.map mark }

/-- Sends every collector group that holds entries of these operations. -/
def sendGroups (p : Coll → Bool) (s : State) : State :=
  (s.colls.filter p).foldl (fun s c => sendKeys c.core c.groups s) s

/-- Sends the oldest group of a core's collector. -/
def sendOldest (core : Nat) (s : State) : State :=
  match s.colls.find? (fun c => c.core == core && !c.sent) with
  | some c => sendKeys core (c.groups.take 1) s
  | none => s

/-- Has an operation entries of the fragment at the front? -/
def ofFront (s : State) (c : Coll) : Bool :=
  c.blk == s.blk.uid && c.wp == s.w.idx && c.elems.any (fun e => e.grp &&& s.f.mask != 0)

/-! ### Stopping a block (07 R217) -/

/-- Is a line in an L1 half of one of these clusters? -/
def onClusters (cs : List Nat) (x : L1Line) : Bool := cs.contains (x.half / 2)

/-- Writes back every dirty byte of the clusters' halves (03 R111, R117). -/
def drainClusters (cs : List Nat) (s : State) : State := writeBackHalf s (onClusters cs) false

/-- A block stops, each warp at an instruction boundary: its exports are repatriated, its collector groups leave, the walks
of its lanes suspend and free their walkers, and its dirty l1 bytes are written back (07 R217, 03 R117, 04 R144). -/
def settleBlock (uid : Nat) (s : State) : State :=
  let s := unfocus s
  match s.blocks.find? (fun b => b.uid == uid) with
  | none => s
  | some b =>
    let ws := (b.warps.filter (fun w => !w.exps.isEmpty)).map (fun w => (w.idx, w.exps.map Export.id))
    let s := unfocus (ws.foldl (fun s p => p.2.foldl repatriate (focusWarp s uid p.1)) s)
    let s := sendGroups (fun c => c.blk == uid) s
    drainClusters b.clusters { s with walks := s.walks.map (fun w => if w.blk == uid then { w with parked := true } else w) }

end Sys2Proof.Machine
end

