-- ==== Sys2Proof/Machine/Ops.lean ====
section
/-!
DEFINITION. The operations that meanings share: clauses and retirement (09 R245, R251, R252), taking an exception and returning from one (07 R209, R210), escalation (07 R211, 15 R414), and the frame of an
instruction's issue (`issue`).
-/
namespace Sys2Proof.Machine

/-! ### Clauses and retirement -/

/-- COUNT of the clause: instruction words less 1 (09 R246). -/
def clauseCount (f : Frag) : Nat := f.h0.toNat / 4 % 16

/-- Is the current word its clause's last? -/
def lastWord (f : Frag) : Bool := clauseCount f ≤ wordIndex f f.pc

/-- The next 8-byte-aligned address after a word (09 R245). -/
def nextClause (pc : W64) : W64 := BitVec.ofNat 64 ((pc.toNat + 4 + 7) / 8 * 8)

/-- The address after the current instruction (07 R209): the next word of its clause, or where the following header
stands. -/
def nextPc (f : Frag) : W64 := if lastWord f then nextClause f.pc else f.pc + 4

/-- Moves past the current instruction. -/
def advance (s : State) : State :=
  { s with f := { s.f with pc := nextPc s.f, inClause := !lastWord s.f } }

/-- Moves to a clause header (09 R245). -/
def jump (s : State) (target : W64) : State := { s with f := { s.f with pc := target, inClause := false } }

/-- The registers that a note marks last-read: those of a, or of a and b. -/
def markedRegs (o : Opnds) (note : Nat) : List Nat :=
  if note = 2 then regsOf o.va else if note = 3 then regsOf o.va ++ regsOf o.vb else []

/-- The lanes that an instruction of fixed latency writes: its write set, which of `sel` does not depend on the guard
(11 R304, R313). -/
def writtenLanes (i : Instr) (s : State) : Lanes :=
  match i with
  | .sel _ _ _ => writeSet s (partMask s)
  | _ => writeSet s (actSet s)

/-- The keys that a note marks last-read in the fragment's lanes, but for register lanes that a fixed-latency instruction has
itself just written (09 R252). A flag-A result ends the mark when it lands. -/
def noteKeys (i : Instr) (note : Nat) (s : State) : List Nat :=
  let o := operands s i
  let own := if o.fa then [] else regsOf o.vw
  let written := writtenLanes i s
  (markedRegs o note).flatMap (fun r =>
    ((lanesOf s.f.mask).filter (fun l => !(own.contains r && written.getLsbD l))).map (regKey r))

/-- The operand latch after an instruction: a hold note places source a in it for two instructions (09 R251). -/
def latchNote (i : Instr) (note : Nat) (s : State) : State :=
  let o := operands s i
  let aged := (s.f.latch.map (fun e => (e.1, e.2 - 1))).filter (fun e => e.2 != 0 && !(regsOf o.vw).contains e.1)
  { s with f := { s.f with latch := if note = 1 then ((regsOf o.va).map (fun r => (r, 2)) ++ aged).take 3 else aged } }

/-- A note takes effect when its instruction retires (07 R214). -/
def applyNotes (i : Instr) (note : Nat) (s : State) : State := latchNote i note (markRead (noteKeys i note s) s)

/-- The reissues of a fragment that are still to be made, and a fragment with these to make. -/
def Frag.replays (f : Frag) : List Replay := f.replay.toList ++ f.more
def Frag.withReplays (f : Frag) (l : List Replay) : Frag := { f with replay := l.head?, more := l.tail }

/-- The reissue in progress has ended. -/
def Frag.reissued (f : Frag) : Frag := f.withReplays f.more

/-- The note of the instruction being issued: a reissued part keeps its own. -/
def currentNote (s : State) : Nat :=
  match s.f.replay with
  | some r => r.note.toNat
  | none => noteAt s.f s.f.pc

/-- The fragment goes on behind an instruction. A reissued part ends instead, and its flag parts complete (07 R210). -/
def goOn (s : State) : State :=
  match s.f.replay with
  | some r =>
    let s := dropLanes s r.id r.lanes
    { s with f := { s.f.reissued with hold := .free, done := 0, count := 0 } }
  | none =>
    let s := advance s
    { s with f := { s.f with hold := .free, done := 0, count := 0 } }

/-- An instruction retires: its note takes effect, and the fragment goes on. -/
def retire (i : Instr) (s : State) : State := goOn (applyNotes i (currentNote s) s)

/-- Starts a memory operation whose parts land by MEMORY_REPLY, one reply per group of lanes (02 R67). The last-read marks
of its instruction's note take effect when it has completed without a fault, if the instruction retires now (07 R214). -/
def startMemory (i : Instr) (s : State) (flag : Nat) (whole : Option Lanes) (groups : List Lanes) (lands : List Landing)
    (reads : List (Nat × Nat × Nat)) (retires : Bool) : State :=
  let all := groups.foldl (· ||| ·) 0
  if all = 0 then s else
  let id := s.uid
  let p := newPend s flag whole .memory all lands
  let src := replayOf i (BitVec.ofNat 2 (noteAt s.f s.f.pc)) all id s
  let p := { p with src := some src, reads := reads, marks := if retires then noteKeys i (currentNote s) s else [] }
  groups.foldl (fun s g => push .memoryReply (.lanes s.blk.uid s.w.idx id g) s) (pushPend p s)

/-- A memory instruction of the lanes `m` retires: its operation keeps the last-read marks of its note until it completes; with
no lane there is no operation, and they take effect now (07 R214). -/
def retireMem (i : Instr) (m : Lanes) (s : State) : State :=
  if m = 0 then retire i s else goOn (latchNote i (currentNote s) s)

/-- An instruction that transfers control retires at its target (10 R276). -/
def retireTo (i : Instr) (target : W64) (s : State) : State :=
  let s := applyNotes i (noteAt s.f s.f.pc) s
  let s := jump s target
  { s with f := { s.f with hold := .free, done := 0, count := 0, latch := [] } }

/-- The instruction waits at issue and is tried again. -/
def holdAt (h : Hold) (s : State) : State := { s with f := { s.f with hold := h } }

/-- The fragment sleeps in a scheduler-visible wait (06 R202). -/
def sleepAt (h : Hold) (s : State) : State := { s with f := { s.f with hold := h, st := .sleeping } }

/-! ### Taking an exception (07 R209 to R211) -/

/-- Escalation: every warp of the block stops and settles as for pre-emption, firmware receives the error record, and the
block's grid ends: blocks that have not started never start, running ones stop, and GRID_RETIREMENT carries out the steps of
15 R414. -/
def escalate (fr : FaultRec) (s : State) : State :=
  let r : FwRec := { code := fr.code, mask := fr.lanes, va := fr.va, pc := fr.pc, aux := fr.aux, gid := s.blk.gid,
                     lin := blockLin s }
  let gid := s.blk.gid
  let at' := (s.blk.uid, s.w.idx, s.f.ent)
  let stop := fun (b : Block) => { b with st := .escalated }
  let fronted := s.blk.st != .none
  let s := unfocus { s with fw := r :: s.fw, w := { s.w with escalated := some fr } }
  let live := (s.blocks.filter (fun b => b.gid == gid && (b.st == .running || b.st == .shadow))).map Block.uid
  let s := live.foldl (fun s u => settleBlock u s) s
  let s := { s with blocks := s.blocks.map (fun b => if b.gid == gid then stop b else b),
                    opc := s.opc.filter (fun o => !live.contains o.blk), ready := s.ready.filter (fun r => r.gid != gid) }
  let s := updGrid s gid (fun g => { g with dead := some (g.dead.getD fr.code), next := g.total })
  let s := focus (push .gridRetirement (.unit gid) s) at'.1 at'.2.1 at'.2.2
  { s with blk := if fronted then stop s.blk else s.blk }

/-- SKIP as delivery sets it (07 R209): FABRIC on a write or atomic, ILL or FMT of a `cpk` request, and QUEUE. -/
def defaultSkip (fr : FaultRec) : Bool :=
  let access := bits fr.aux.toNat 16 4
  let request := match fr.part with
    | .request _ => true
    | _ => false
  (fr.code == 0x12 && (access == 1 || access == 2 || access == 4)) || fr.code == 0x18 ||
    ((fr.code == 0x01 || fr.code == 0x16) && request)

/-- TRAPCODE as delivery writes it (07 R208). -/
def trapcodeOf (fr : FaultRec) : W64 :=
  BitVec.ofNat 64 ((if defaultSkip fr then 2 ^ 17 else 0) + fr.kind.toNat * 256 + fr.code.toNat)

/-- Does a fault escalate at once? FABRIC for a home with no route left (16 R425). -/
def noRoute (fr : FaultRec) : Bool := fr.code == 0x12 && bits fr.aux.toNat 8 8 == 0x42

/-- Delivery to the fragment at the front (07 R209). Precise faults and notices run the handler in the whole fragment,
the others in the faulting lanes; the fragment's other lanes wait in the hidden state. -/
def deliver (fr : FaultRec) (s : State) : State :=
  if s.f.sup || s.w.tvec = 0 || noRoute fr then escalate fr s
  else
    let s := repatriateFront s
    let lanes := if fr.kind = 0 || fr.kind = 3 then s.f.mask else fr.lanes &&& s.f.mask
    let h : Handler :=
      { mask := s.f.mask, mode := s.f.mode, pc := s.f.pc, hdr := s.f.hdr, inClause := s.f.inClause, h0 := s.f.h0,
        h1 := s.f.h1, wave := s.f.wave,
        wait := (match s.f.hold with
          | .flags m => m
          | _ => 0), done := s.f.done, count := s.f.count, replays := s.f.replays, delivered := fr.pc,
        kind := fr.kind, lanes := lanes, part := fr.part }
    let f := { s.f with mask := lanes, mode := 0, sup := true, pc := s.w.tvec, inClause := false, latch := [],
                        hold := .free, st := .ready, wave := none, replay := none, more := [], done := 0, count := 0 }
    { s with f := f, w := { s.w with handler := some h, trapcode := trapcodeOf fr,
                                     trapmask := fr.lanes.setWidth 64, trapva := fr.va, trappc := fr.pc,
                                     trapaux := fr.aux } }

/-- A delivery ends a hold of `wait`, `cpwt`, `arwt` or `bwt` (18 R434), and takes place where an instruction has not
issued: at a clause header, or where it stalls for operations that may themselves wait for the delivery. Any other hold
delays it. -/
def deliverable (f : Frag) : Bool :=
  match f.hold with
  | .flags _ | .waits _ | .copies _ | .arrival _ | .word _ _ _ _ _ => true
  | .collect | .fill | .kick | .message _ | .walks | .pull | .fuse _ => true
  | .free => f.st == .ready
  | _ => false

/-- A fault of the fragment at the front: delivered at once, or queued behind the warp's handler (07 R209). -/
def raise (fr : FaultRec) (s : State) : State :=
  let s := lossCounted fr.code.toNat (bits fr.aux.toNat 8 8) s
  if s.f.sup then escalate fr s
  else if s.w.handler.isSome || !s.w.faultq.isEmpty then { s with w := { s.w with faultq := s.w.faultq ++ [fr] } }
  else deliver fr s

/-- A fault met by a unit acting for lanes of the warp (07 R216): queued, and delivered by FAULT_DELIVERY. One of work that a
supervisor fragment asked for escalates (R211). -/
def raiseLater (user : Bool) (fr : FaultRec) (s : State) : State :=
  let s := lossCounted fr.code.toNat (bits fr.aux.toNat 8 8) s
  if !user then escalate fr s else
  push .faultDelivery (.pair s.blk.uid s.w.idx) { s with w := { s.w with faultq := s.w.faultq ++ [fr] } }

/-- A precise fault in the lanes `m`: no effect in any lane. Met by a reissued part, it is delivered replay in place for
that part (log 20). -/
def precise (code : Nat) (m : Lanes) (va aux : W64) (s : State) : State :=
  match s.f.replay with
  | some r =>
    raise { ent := s.f.ent, code := BitVec.ofNat 8 code, kind := 1, lanes := m, va := va, aux := aux, pc := r.pc,
            part := .instr r } { s with f := { s.f.reissued with hold := .free } }
  | none =>
    raise { ent := s.f.ent, code := BitVec.ofNat 8 code, kind := 0, lanes := m, va := va, aux := aux, pc := s.f.pc,
            part := .none } { s with f := { s.f with hold := .free } }

/-- The lanes `bad` of an instruction fault while it is performed (07 R212): they, or with partial commit every active
lane from the lowest of them, are pending, and the rest has taken effect. `flag` is the flag the pending parts hold,
with the lanes of an operation that has no per-lane parts. -/
def faultPart (i : Instr) (kind : BitVec 2) (pending bad : Lanes) (code : Nat) (va aux : W64)
    (flag : Option (Nat × Option Lanes)) (s : State) : State :=
  match s.f.replay with
  | some r =>
    let s := dropLanes s r.id (r.lanes &&& ~~~pending)
    raise { ent := s.f.ent, code := BitVec.ofNat 8 code, kind := kind, lanes := bad, va := va, aux := aux, pc := r.pc,
            part := .instr { r with lanes := pending } }
      { s with f := { s.f.reissued with hold := .free } }
  | none =>
    let part := replayOf i (BitVec.ofNat 2 (noteAt s.f s.f.pc)) pending s.uid s
    let owes := if (operands s i).fa then
        (regsOf (operands s i).vw).flatMap (fun r => (lanesOf pending).map (regKey r)) else []
    let s := match flag with
      | some (n, whole) => addPend s n whole .other pending [] 0 owes
      | none => fresh s
    let s := advance s
    raise { ent := s.f.ent, code := BitVec.ofNat 8 code, kind := kind, lanes := bad, va := va, aux := aux, pc := part.pc,
            part := .instr part }
      { s with f := { s.f with hold := .free, done := 0, count := 0 } }

/-! ### Returning from an exception (07 R210, R215) -/

/-- One request of a `cpk` has completed or been discarded: its operation ends with the last (12 R347). -/
def requestDone (s : State) (id : Nat) : State :=
  { s with w := { s.w with pend := s.w.pend.filterMap (fun q => if q.id == id then
      (if q.left ≤ 1 then none else some { q with left := q.left - 1 }) else some q) } }

/-- Would append steps wait for bytes that a copy still owes (02 R74)? -/
def appendsHeld (s : State) (l : List Append) : Bool :=
  let e := appendAll s (isUser s) l
  e.fault.isNone && !e.left.isEmpty

/-- Makes append steps for the fragment at the front; the steps that a fault leaves are its pending part (08 R236). The
flag parts of operation `id` complete with the last step. -/
def makeAppends (l : List Append) (id : Nat) (pc : W64) (s : State) : State :=
  let e := appendAll s (isUser s) l
  match e.fault, e.left with
  | some m, a :: _ =>
    raise { ent := s.f.ent, code := BitVec.ofNat 8 m.code, kind := 1, lanes := a.lanes, va := m.va,
            aux := m.aux 0 0 2, pc := pc, part := .appends e.left id pc } e.s
  | _, _ => complete e.s id

/-- The pending part of an instruction is discarded for the lanes `m`: its flag parts end with no result, and the instruction
retires with its last part (07 R214, R215). -/
def discard (r : Replay) (m : Lanes) (s : State) : State :=
  let t := dropLanes s r.id m
  if r.lanes &&& ~~~m = 0 then markRead (noteKeys r.i r.note.toNat s) t else t

/-- The reissue or the discard of the pending part, for the lanes `keep` that have not exited. The elements of a collector
operation are formed again from its registers (07 R214, 12 R338). -/
def resumePart (p : Part) (skip : Bool) (keep : Lanes) (s : State) : State :=
  match p with
  | .none => s
  | .instr r =>
    if skip then discard r r.lanes s
    else
      let s := discard r (r.lanes &&& ~~~keep) s
      if r.lanes &&& keep = 0 then s else { s with f := s.f.withReplays (s.f.replays ++ [{ r with lanes := r.lanes &&& keep }]) }
  | .appends l id pc =>
    if skip then complete s id
    else makeAppends (l.filter (fun a => a.lanes &&& keep != 0)) id pc (dropLanes s id (~~~keep))
  | .collector id =>
    let all := fun (c : Coll) => c.elems.foldl (fun (n : Lanes) e => n ||| e.grp) 0
    let lanes := fun (c : Coll) => all c &&& keep
    let s := (s.colls.filter (fun c => c.id == id)).foldl (fun s c =>
      dropLanes s id (if skip then all c else all c &&& ~~~keep)) s
    let again := fun (c : Coll) => match c.instr with
      | .gth d a k | .sct d a k | .scad d a k =>
        (collElems s c.ty.toNat c.kind d.toNat a.toNat k.toNat (lanes c)).map (fun e => { e with sent := true })
      | _ => []
    let s := { s with colls := s.colls.map (fun c => if c.id == id then
      { c with stopped := false, elems := if skip then [] else again c } else c) }
    push .collectorCommit (.unit id) s
  | .copy id =>
    let s := { s with copies := s.copies.map (fun c => if c.id == id then
      { c with suspended := false, skip := c.skip || skip || c.lanes &&& keep == 0 } else c) }
    push .copyGranuleWrite (.unit id) s
  | .request core =>
    let hit := fun (k : Kick) => k.core == core && k.stopped
    let gone := fun (k : Kick) => hit k && (skip || k.lanes &&& keep == 0)
    let s := (s.kicks.filter gone).foldl (fun s k => requestDone s k.pend) s
    push .copyIssue (.unit core)
      { s with kicks := (s.kicks.filter (fun k => !gone k)).map (fun k => if hit k then { k with stopped := false } else k) }
  | .walk id =>
    let s := { s with walks := s.walks.map (fun w => if w.id == id then { w with suspended := false } else w) }
    push .publicationWalk (.unit id) s

/-- What becomes of a fault none of whose lanes remains: its pending part is discarded, and firmware receives a record of
a copy's (12 R346). -/
def dropFault (fr : FaultRec) (s : State) : State :=
  let r : FwRec := { code := fr.code, mask := 0, va := fr.va, pc := fr.pc, aux := fr.aux, gid := s.blk.gid, lin := blockLin s }
  let s := match fr.part with
    | .copy _ | .request _ => { s with fw := r :: s.fw }
    | _ => s
  resumePart fr.part true 0 s

/-- Delivers the oldest queued fault, once the warp has no handler (07 R209) and while its block runs (R216). Its fragment is the one that holds the
lowest of the faulting lanes. -/
def deliverQueued (s : State) : State :=
  match s.w.faultq with
  | [] => s
  | fr :: rest =>
    let lanes := fr.lanes &&& ~~~s.w.exited
    if s.w.handler.isSome then s
    else if s.blk.st != .running then push .faultDelivery (.pair s.blk.uid s.w.idx) s
    else if lanes = 0 then
      let s := dropFault fr { s with w := { s.w with faultq := rest } }
      if rest.isEmpty then s else push .faultDelivery (.pair s.blk.uid s.w.idx) s
    else
      let s := focusLane s (lowLane lanes)
      if deliverable s.f then deliver { fr with lanes := lanes } { s with w := { s.w with faultq := rest } }
      else push .faultDelivery (.pair s.blk.uid s.w.idx) s

/-- The other fragments of the handler. -/
def otherHandlers (s : State) : List Frag := s.w.frags.filter (fun f => f.sup)

/-- Ends the handler for the lanes `m` (07 R210): the hidden state comes back, and the pending part is reissued or
discarded. A precise delivery or a notice resumes at TRAPPC: under the kept clause header when the handler left it as
delivery wrote it, otherwise as at a branch target. -/
def endHandler (m : Lanes) (s : State) : State :=
  match s.w.handler with
  | none => s
  | some h =>
    let mask := (if h.kind = 0 || h.kind = 3 then m else (h.mask &&& ~~~h.lanes) ||| m) &&& ~~~s.w.exited
    let at' := h.kind = 0 || h.kind = 3
    let kept := s.w.trappc = h.delivered
    let f := { s.f with mask := mask, mode := h.mode, sup := false, hdr := h.hdr, h0 := h.h0, h1 := h.h1,
                        pc := if at' && !kept then s.w.trappc else h.pc,
                        inClause := if at' && !kept then false else h.inClause,
                        hold := if !at' && h.wait != 0 then .flags h.wait else .free, st := .ready, wave := h.wave,
                        latch := [], replay := none, more := [],
                        done := if at' && !kept then 0 else h.done, count := if at' && !kept then 0 else h.count }
    let f := f.withReplays h.replays
    let skip := s.w.trapcode.getLsbD 17
    let others := s.w.frags.filter (fun x => !x.sup)
    let s := { s with f := f, w := { s.w with handler := none, frags := others,
                                              pend := s.w.pend.filter (fun p => !p.sup) } }
    let s := resumePart h.part skip (~~~s.w.exited) s
    if s.w.faultq.isEmpty then s else push .faultDelivery (.pair s.blk.uid s.w.idx) s

/-- `tret` in the fragment at the front: it waits for the handler's other fragments, which fuse with it, and for the
handler's own operations (07 R210, 14 R401). -/
def returnFrom (s : State) : State :=
  let others := otherHandlers s
  let waits := match s.w.handler.map Handler.part with
    | some (.appends l _ _) => !s.w.trapcode.getLsbD 17 && appendsHeld s l
    | _ => false
  if waits || !s.w.pend.all (fun p => !p.sup) then holdAt .tret s
  else if others.all (fun f => f.hold == .tret) then
    endHandler (others.foldl (fun m f => m ||| f.mask) s.f.mask) s
  else holdAt .tret s

/-! ### Issue -/

/-- Does an operation of memory keep a place in the lanes' order before what fragment `f` does now: one in flight, or a lost
read that will be reissued? What the fragment is about to reissue comes after, and a handler does not wait for a part that
waits for its `tret`. -/
def Pend.performing (p : Pend) (f : Frag) : Bool :=
  p.unit == .memory || (p.src.isSome && !(f.sup && !p.sup) && f.replays.all (fun r => r.id != p.id))

/-- Have the earlier accesses of the fragment's lanes been performed for good: its memory operations have completed, so that no
loss can make them again, and its collector operations and publications have been performed (02 R64, 03 R91, 16 R425)? A
handler does not wait for one that is stopped by a fault. -/
def laneWorkDone (s : State) (blk : Nat) (w : Warp) (f : Frag) : Bool :=
  w.pend.all (fun p => !(p.performing f && p.lanes &&& f.mask != 0))
    && s.colls.all (fun c => !(c.blk == blk && c.wp == w.idx && !(f.sup && c.stopped)
      && c.elems.any (fun e => e.grp &&& f.mask != 0)))
    && s.walks.all (fun k => !(k.blk == blk && k.wp == w.idx && !(f.sup && k.suspended)
      && k.lanes.any (fun p => f.mask.getLsbD p.1)))

/-- The same for the fragment at the front. -/
def collected (s : State) : Bool := laneWorkDone s s.blk.uid s.w s.f

/-- The frame of an instruction that orders its lanes' earlier accesses before its effect `k`: their collector groups are
sent, and it waits until they have been performed (02 R64, 03 R91). -/
def afterWork (k : State → State) (s : State) : State :=
  if collected s then k s else holdAt .collect (sendGroups (ofFront s) s)

/-- Is an instruction an acquire access (03 R90)? -/
def isAcquire (i : Instr) : Bool :=
  match i with
  | .ldacq _ _ _ | .sLdacq _ _ _ => true
  | _ => false

/-- Must accesses at these lanes and addresses wait: for an acquire of their lanes that could still be made again, or for a
read of the same bytes by the same lane (03 R90, R97, 16 R425)? -/
def orderHeld (s : State) (as : List (Nat × W64)) (n : Nat) : Bool :=
  s.w.pend.any (fun p => p.src.any (fun r => p.performing s.f && s.f.replay.all (fun q => q.id != p.id)
    && ((isAcquire r.i && p.lanes &&& s.f.mask != 0)
      || p.reads.any (fun x => as.any (fun a => a.1 == x.1 && a.2.toNat < x.2.1 + x.2.2 && x.2.1 < a.2.toNat + n)))))

/-- Must a store wait for the collector because it rings a wake register (04 R115)? -/
def wakeHeld (s : State) (p : Place) (n : Nat) : Bool :=
  match p with
  | .dev o => (wakeQueue s o n).isSome && !collected s
  | _ => false

/-- TRAPAUX of a decode fault: the instruction word (07 R212). -/
def wordAux (i : Instr) : W64 := BitVec.ofNat 64 ((Decode.encodeNat i).getD 0)

/-- Registers that an exported fragment reads and that its narrow warp has not pulled (05 R160). -/
def unpulled (i : Instr) (s : State) : List Nat :=
  match exportOf s with
  | none => []
  | some e => (regsOf (operands s i).reads).filter (fun r =>
      !e.pulled.contains (256 * s.f.nw + r)
        && !((e.warpLanes s.f.nw).all (fun l => (lookup (viewKey s.f.nw (regKey r l)) e.held).isSome)))

/-- Must the fragment's export be repatriated before this instruction (05 R162)? -/
def mustReturn (i : Instr) (s : State) : Bool :=
  let o := operands s i
  match exportOf s with
  | none => false
  | some e => o.tile || o.donor || (o.cross && e.total == 2)

/-- Asks for the pull of registers. -/
def askPulls (rs : List Nat) (s : State) : State :=
  rs.foldl (fun s r =>
    let a := EvArg.pull s.blk.uid s.w.idx (s.f.exp.getD 0) (256 * s.f.nw + r)
    if s.agenda.contains (.registerPull, a) then s else push .registerPull a s) s

/-- The issue of an instruction for the fragment at the front: decode faults are delivered precisely (07 R213); an export
is repatriated where 05 R162 says so, and the instruction then runs in place; an instruction that stalls, or that reads a
register still to be pulled, waits; otherwise it has its effect `k`. -/
def issue (i : Instr) (k : State → State) (s : State) : Host.Outcome State Fault Refusal :=
  .next (match decodeFault i s with
    | some c => precise c.toNat s.f.mask 0 (wordAux i) s
    | none =>
      let s := if mustReturn i s then repatriateFront s else s
      if stalls i s then s
      else
        let rs := unpulled i s
        if rs.isEmpty then k { s with f := { s.f with hold := .free, st := .ready } }
        else askPulls rs (holdAt .pull s))

end Sys2Proof.Machine
end

