-- ==== Sys2Proof/Machine/Barrier.lean ====
section
/-!
DEFINITION. Waking fragments that another agent's step lets go on, and the block barriers (14 R387, 03 R110), whose phases
also complete when threads exit.
-/
namespace Sys2Proof.Machine

/-! ### Waking waiters -/

/-- The block's fragments for which `p` holds, by warp and entry, but for the one at the front. -/
def fragsWhere (s : State) (p : Frag → Bool) : List (Nat × Nat) :=
  (s.w :: s.blk.warps).flatMap (fun w => (w.frags.filter p).map (fun f => (w.idx, f.ent)))

/-- Brings each of the block's other fragments for which `p` holds to the front in turn, performs `act`, and brings the
present fragment back. -/
def eachFrag (p : Frag → Bool) (act : State → State) (s : State) : State :=
  match fragsWhere s p with
  | [] => s
  | h :: r =>
    let b := s.blk.uid
    let w := s.w.idx
    let e := s.f.ent
    focus ((h :: r).foldl (fun s x => act (focus s b x.1 x.2)) s) b w e

/-- A waiting instruction of a class without operand notes ends: the fragment moves past it. -/
def endWait (s : State) : State :=
  let s := retire .nop s
  { s with f := { s.f with st := .ready } }

/-! ### Barriers (14 R387) -/

/-- The key of a thread of the block. -/
def threadKey (wp l : Nat) : Nat := 32 * wp + l

/-- The keys of a warp's lanes in a mask. -/
def laneKeys (wp : Nat) (m : Lanes) : List Nat := (lanesOf m).map (threadKey wp)

/-- The launched threads of the block that have not exited. -/
def liveThreads (s : State) : List Nat :=
  (s.w :: s.blk.warps).flatMap (fun w => laneKeys w.idx (w.launched &&& ~~~w.exited))

/-- Arrivals that an open phase without CNT expects: those made, and every live thread still to arrive. -/
def uncounted (s : State) (arrived : List Nat) : Nat :=
  arrived.length + ((liveThreads s).filter (fun k => !arrived.contains k)).length

/-- Changes barrier `id` of the block. -/
def updBarrier (id : Nat) (u : Barrier → Barrier) (s : State) : State :=
  { s with blk := { s.blk with bars := s.blk.bars.modify id u } }

/-- Barrier `id` of the block. -/
def barrierAt (s : State) (id : Nat) : Barrier :=
  s.blk.bars.getD id { phase := 0, expected := none, counted := false, arrived := [] }

/-- The barrier after arrivals of the threads `ks`: the first of a phase fixes what it expects, and a thread already
counted adds nothing. -/
def arrivals (s : State) (b : Barrier) (count : Option Nat) (ks : List Nat) : Barrier :=
  let all := ks.foldl (fun l k => addOnce k l) b.arrived
  match b.expected with
  | some n => { b with arrived := all, expected := some (if b.counted then n else uncounted s all) }
  | none => { b with arrived := all, counted := count.isSome, expected := some (count.getD (uncounted s all)) }

/-- Have the arrivals of the open phase reached its expectation? -/
def phaseDone (b : Barrier) : Bool :=
  match b.expected with
  | some n => n ≤ b.arrived.length
  | none => false

/-- The barrier in its next phase. -/
def nextPhase (b : Barrier) : Barrier := { phase := b.phase + 1, expected := none, counted := false, arrived := [] }

/-- Ends the waits for a phase: each departing fragment performs the acquire half (03 R110). -/
def wakeBarrier (id : Nat) (ph : BitVec 32) (s : State) : State :=
  eachFrag (fun f => f.hold == .barrier id ph) (fun s => endWait (acquireAt 1 s)) s

/-- BARRIER_PHASE_COMPLETION: the phase advances once its arrivals reach its expectation. -/
def completePhase (id : Nat) (s : State) : State :=
  let b := barrierAt s id
  if phaseDone b then wakeBarrier id b.phase (updBarrier id nextPhase s) else s

/-- Threads have exited: open phases without CNT expect fewer. -/
def exitedThreads (s : State) : State :=
  let bars := s.blk.bars.map (fun b => if b.expected.isSome && !b.counted then
    { b with expected := some (uncounted s b.arrived) } else b)
  (List.range 16).foldl (fun s id => completePhase id s) { s with blk := { s.blk with bars := bars } }

end Sys2Proof.Machine
end

