-- ==== Sys2Proof/Machine/Sfu.lean ====
section
/-!
DEFINITION. The special functions (08 R243, R244). The spec bounds their results and leaves the value within the bound to
the device: each result is a free value within the bound around the function's real value, which is computed here in
fixed point with `P` fraction bits (log 10).
-/
namespace Sys2Proof.Machine.Num

/-- Fraction bits of the fixed-point evaluation. -/
def P : Nat := 240

/-- Fixed-point product and quotient. -/
def fmul (p : Nat) (a b : Int) : Int := a * b / 2 ^ p
def fdiv (p : Nat) (a b : Int) : Int := a * 2 ^ p / b

/-- The sum of t0, t0 × x × c 1, t0 × x² × c 1 × c 2, … where step `k` multiplies by x and divides by `den k`. -/
def series (p : Nat) (x : Int) (den : Nat → Int) : Nat → Nat → Int → Int → Int
  | 0, _, _, acc => acc
  | n + 1, k, t, acc =>
    let t := fmul p t x / den k
    series p x den n (k + 1) t (acc + t)

/-- arctan of 1 / m. -/
def atanInv (p : Nat) (m : Nat) : Nat → Nat → Int → Int
  | 0, _, _ => 0
  | n + 1, k, t => (if k % 2 = 0 then t else -t) / (2 * k + 1) + atanInv p m n (k + 1) (t / (m * m))

/-- π with `p` fraction bits (Machin's formula). -/
def piFix (p : Nat) : Int :=
  4 * (4 * atanInv p 5 (p / 4 + 4) 0 (2 ^ p / 5) - atanInv p 239 (p / 15 + 4) 0 (2 ^ p / 239))

/-- atanh of z, for |z| at most 1/3. -/
def atanh (p : Nat) (z : Int) (n : Nat) : Int :=
  let z2 := fmul p z z
  ((List.range n).foldl (fun (a : Int × Int) (k : Nat) => (fmul p a.1 z2, a.2 + a.1 / (2 * (k : Int) + 1))) (z, 0)).2

/-- ln 2. -/
def ln2 : Int := 2 * atanh P (2 ^ P / 3) 90

/-- e^x for x from 0 to 1. -/
def expFix (x : Int) : Int := series P x (fun k => k) 70 1 (2 ^ P) (2 ^ P)

/-- A value in fixed point with `p` fraction bits. -/
def toFix (p : Nat) (neg : Bool) (n d : Nat) (e : Int) : Int :=
  let (a, b) := scaled n d e (-(p : Int))
  let m : Int := (a / b : Nat)
  if neg then -m else m

/-- e^y as a fixed-point mantissa from 1 to 2 and a power of two, y in fixed point. -/
def expScaled (y : Int) : Int × Int :=
  let k := Int.fdiv y ln2
  (expFix (y - k * ln2), k)

/-- sin and cos of r from 0 to π / 2. -/
def sinFix (r : Int) : Int := fmul P r (series P (-(fmul P r r)) (fun k => 2 * k * (2 * k + 1)) 60 1 (2 ^ P) (2 ^ P))
def cosFix (r : Int) : Int := series P (-(fmul P r r)) (fun k => 2 * k * (2 * k - 1)) 60 1 (2 ^ P) (2 ^ P)

/-- sin or cos of a finite value, with exact argument reduction: sign and fixed-point magnitude. -/
def sinCos (cosine : Bool) (neg : Bool) (n d : Nat) (e : Int) : Bool × Nat :=
  let extra := ((Nat.log2 n : Int) - Nat.log2 d + e).toNat
  let p := P + 70 + extra
  let x := toFix p false n d e
  let halfPi := piFix p / 2
  let k := x / halfPi
  let r := (x - k * halfPi) / 2 ^ (70 + extra)
  let quad := (k % 4).toNat
  let useCos := cosine != (quad % 2 == 1)
  let v := if useCos then cosFix r else sinFix r
  let flip := if cosine then quad == 1 || quad == 2 else neg != (2 ≤ quad)
  (flip, v.toNat)

/-- The functions, by their op on V3 page 0 (11 R315). -/
inductive Fn where
  | rcp | rsq | sqrt | exp2 | log2 | sin | cos | tanh | sigm | erf
  deriving DecidableEq, Repr

/-- The number of a function, for its free value. -/
def Fn.num : Fn → Nat
  | .rcp => 0 | .rsq => 1 | .sqrt => 2 | .exp2 => 3 | .log2 => 4 | .sin => 5 | .cos => 6 | .tanh => 7 | .sigm => 8
  | .erf => 9

/-- The bound in units in the last place for f32 and f64 (08 R243). -/
def Fn.bound : Fn → Nat
  | .rcp | .rsq => 1
  | _ => 2

/-- A fixed-point value with `P` fraction bits times 2^k. -/
def fixVal (neg : Bool) (v : Int) (k : Int) : Val := .fin neg v.toNat 1 (k - P)

/-- Is a value too small for the fixed-point evaluation? Below 2^-70 the first term of the series stands for the sum, moved
by far less than a format can tell to the side on which the sum lies. -/
def tiny (n d : Nat) (e : Int) : Bool := (Nat.log2 n : Int) - Nat.log2 d + e < -70

/-- A number just above or just below 1, and a value just nearer to zero than another. -/
def nearOne (below : Bool) (half : Int) : Val := .fin false (if below then 2 ^ 200 - 1 else 2 ^ 200 + 1) 1 (-200 - half)
def justBelow (neg : Bool) (n d : Nat) (e : Int) : Val := .fin neg (n * 2 ^ 200 - 1) d (e - 200)

/-- The function's real value at a finite nonzero input, to far more bits than a format holds. -/
def Fn.real (f : Fn) (neg : Bool) (n d : Nat) (e : Int) : Val :=
  match f with
  | .rcp => .fin neg d n (-e)
  | .sqrt => if neg then .nan else let (m, g) := sqrtTo 120 n d e; .fin false m 1 g
  | .rsq => if neg then .nan else let (m, g) := sqrtTo 120 d n (-e); .fin false m 1 g
  | .exp2 =>
    if tiny n d e then nearOne neg 0
    else if 20 < (Nat.log2 n : Int) - Nat.log2 d + e then (if neg then .fin false 1 1 (-100000) else .fin false 1 1 100000)
    else
      let x := toFix P neg n d e
      let k := Int.fdiv x (2 ^ P)
      fixVal false (expFix (fmul P (x - k * 2 ^ P) ln2)) k
  | .log2 =>
    if neg then .nan
    else
      let k : Int := (Nat.log2 n : Int) - Nat.log2 d + e
      let m := toFix P false n d (e - k)
      let l := fdiv P (2 * atanh P (fdiv P (m - 2 ^ P) (m + 2 ^ P)) 140) ln2 + k * 2 ^ P
      .fin (l < 0) l.natAbs 1 (-(P : Int))
  | .sin => if tiny n d e then justBelow neg n d e else let (s, v) := sinCos false neg n d e; .fin s v 1 (-(P : Int))
  | .cos => if tiny n d e then nearOne true 0 else let (s, v) := sinCos true neg n d e; .fin s v 1 (-(P : Int))
  | .tanh =>
    if tiny n d e then justBelow neg n d e
    else if 7 < (Nat.log2 n : Int) - Nat.log2 d + e then .fin neg (2 ^ 200 - 1) 1 (-200)
    else
      let (m, k) := expScaled (2 * toFix P false n d e)
      let y : Int := m * 2 ^ k.toNat
      .fin neg (y - 2 ^ P).toNat (y + 2 ^ P).toNat 0
  | .sigm =>
    if tiny n d e then nearOne neg 1
    else if 11 < (Nat.log2 n : Int) - Nat.log2 d + e then
      (if neg then .fin false 1 1 (-100000) else .fin false (2 ^ 200 - 1) 1 (-200))
    else
      let (m, k) := expScaled (toFix P neg n d e)
      if 0 ≤ k then .fin false (m * 2 ^ k.toNat).toNat (m * 2 ^ k.toNat + 2 ^ P).toNat 0
      else .fin false m.toNat (m + 2 ^ (P + (-k).toNat)).toNat 0
  | .erf =>
    if 3 ≤ (Nat.log2 n : Int) - Nat.log2 d + e then .fin neg (2 ^ 100 - 1) 1 (-100)
    else
      let x := toFix P false n d e
      let x2 := fmul P x x
      let g := ((List.range 420).foldl (fun (a : Int × Int) (k : Nat) =>
        (fmul P a.1 (-x2) / ((k : Int) + 1), a.2 + a.1 / (2 * (k : Int) + 1))) (2 ^ P, 0)).2
      let rootPi := isqrt (piFix P * 2 ^ P).toNat (P + 3) 0
      .fin neg (n * 2 * g.toNat) (d * rootPi) e

/-- The results that the spec fixes: special inputs (08 R244) and the exact ones of 08 R243. -/
def Fn.special (f : Fn) (fm : Fmt) (v : Val) : Option Val :=
  match f, v with
  | _, .nan => some .nan
  | .rcp, .inf s => some (.fin s 0 1 0)
  | .rsq, .inf s => some (if s then .nan else .fin false 0 1 0)
  | .sqrt, .inf s => some (if s then .nan else .inf false)
  | .exp2, .inf s => some (if s then .fin false 0 1 0 else .inf false)
  | .log2, .inf s => some (if s then .nan else .inf false)
  | .sin, .inf _ | .cos, .inf _ => some .nan
  | .tanh, .inf s | .erf, .inf s => some (.fin s 1 1 0)
  | .sigm, .inf s => some (if s then .fin false 0 1 0 else .fin false 1 1 0)
  | .exp2, .fin s n d e =>
    let (a, b) := scaled n d e 0
    if a % b = 0 && (a / b) < 2000 then
      let k : Int := if s then -((a / b : Nat) : Int) else (a / b : Nat)
      if fm.qmin ≤ k && k ≤ fm.bias then some (.fin false 1 1 k) else none
    else none
  | _, .fin s n d e =>
    if n = 0 then
      some (match f with
        | .rcp | .rsq => .inf s
        | .log2 => .inf true
        | .cos => .fin false 1 1 0
        | .sigm => .fin false 1 1 (-1)
        | _ => .fin s 0 1 0)
    else if f = .log2 && !s && n = 2 ^ Nat.log2 n && d = 2 ^ Nat.log2 d then
      let k : Int := (Nat.log2 n : Int) - Nat.log2 d + e
      some (.fin (k < 0) k.natAbs 1 0)
    else none

/-- Does a magnitude's encoding lie within the bound of a real magnitude (08 R243)? -/
def within (fm : Fmt) (b c n d : Nat) (e : Int) : Bool :=
  match fm.decode c with
  | .fin _ m _ g =>
    let u := fm.unit n d e
    let q := min (min e g) u
    let z := signedAt false m g q * d - signedAt false n e q
    z.natAbs ≤ b * d * 2 ^ (u - q).toNat
  | _ => false

/-- Does an f32 result, rounded to a narrow format in each of the modes, lie within one unit of the real magnitude there (08
R243)? -/
def narrowOk (fm : Fmt) (ftz s : Bool) (c n d : Nat) (e : Int) : Bool :=
  (List.range 4).all (fun rnd =>
    let r := fm.round { rnd := rnd, sat := false, ftz := ftz } (f32.read ftz (f32.signBit s + c))
    within fm 1 (r - fm.signBit s) n d e)

/-- The result of a function in f32 or f64: the real value rounded, moved by the device's own choice as far as the bound, and
the bound of a narrow destination, allow (log 10). -/
def Fn.eval (f : Fn) (fm : Fmt) (narrow : Option Fmt) (t : Nat) (sat ftz : Bool) (x : Nat) : Nat :=
  let md : Md := { rnd := 0, sat := sat, ftz := ftz }
  let v := fm.read ftz x
  match f.special fm v with
  | some r => fm.round md r
  | none =>
    match v with
    | .fin neg n d e =>
      match f.real neg n d e with
      | .fin s m c g =>
        match fm.roundMag 0 s m c g with
        | none => fm.overflow md s
        | some r =>
          let k := (r : Int) + Config.sfuOffset f.num t ftz x
          let ok := 0 ≤ k && k < fm.infBits && within fm f.bound k.toNat m c g
            && narrow.all (fun w => narrowOk w ftz s k.toNat m c g)
          let r' := if ok then k.toNat else r
          fm.signBit s + (if ftz && r' < 2 ^ fm.p then 0 else r')
      | w => fm.round md w
    | _ => fm.nan

/-- The type of an element: a packed type's elements are those of the plain one (08 R229). -/
def elemType (t : Nat) : Nat := if t = 12 then 3 else if t = 13 then 4 else t

/-- A special function on an element: f16 and bf16 results are computed in f32 and then rounded in the mode (08 R243).
`sqrt` is correctly rounded in every type. -/
def sfu (f : Fn) (t : Nat) (md : Md) (x : Nat) : Nat :=
  match fmtOf t with
  | none => 0
  | some fm =>
    if f = .sqrt then
      match fm.read md.ftz x with
      | .nan => fm.nan
      | .inf s => if s then fm.nan else fm.round md (.inf false)
      | .fin s n d e =>
        if n = 0 then fm.signBit s
        else if s then fm.nan
        else
          let (m, g) := sqrtTo (fm.p + 4) n d e
          fm.round md (.fin false m 1 g)
    else if t = 2 || t = 5 then f.eval fm none t md.sat md.ftz x
    else
      let x32 := f32.round home (fm.read md.ftz x)
      fm.round md (f32.read md.ftz (f.eval f32 (some fm) (elemType t) md.sat md.ftz x32))

end Sys2Proof.Machine.Num
end

