-- ==== Sys2Proof/Machine/Vector.lean ====
section
/-!
DEFINITION. V3 page 0, the VI arithmetic and compare forms, and the immediate loads of vector registers (11 R303 to R321,
R327; 10 R299): each computes per lane from registers.
-/
namespace Sys2Proof.Machine
open Sys2Proof.Machine.Num

/-! ### Shared forms (11 R304 to R306) -/

/-- The rounding, saturation and flush of the mode. -/
def md (s : State) : Md := { rnd := modeRnd s, sat := modeSat s, ftz := modeFtz s }

/-- Writes a result of `n` registers in each lane of a write set, and retires: fixed latency. -/
def perLane (i : Instr) (m : Lanes) (n : Nat) (d : BitVec 8) (g : Nat → Nat) (s : State) : State :=
  retire i (writeLanes s n d.toNat ((lanesOf m).map (fun l => (l, g l))))

/-- The same for a flag-A instruction, whose results land later (09 R249). -/
def perLaneLong (i : Instr) (m : Lanes) (n : Nat) (d : BitVec 8) (g : Nat → Nat) (s : State) : State :=
  retire i (startLong s none m (landings n d.toNat ((lanesOf m).map (fun l => (l, g l)))))

/-- The write set under the mode (11 R304). -/
def wset (s : State) : Lanes := writeSet s (actSet s)

/-- Role bin: an operation on the lane's values of the mode's type. -/
def bin (i : Instr) (d a b : BitVec 8) (f : Nat → Md → Nat → Nat → Nat) (s : State) : State :=
  let n := opWidth s
  perLane i (wset s) n d (fun l => f (modeType s) (md s) (srcN s n a.toNat l) (srcN s n b.toNat l)) s

/-- Role acc: d is read as well. -/
def acc (i : Instr) (d a b : BitVec 8) (f : Nat → Md → Nat → Nat → Nat → Nat) (s : State) : State :=
  let n := opWidth s
  perLane i (wset s) n d
    (fun l => f (modeType s) (md s) (srcN s n d.toNat l) (srcN s n a.toNat l) (srcN s n b.toNat l)) s

/-- Role un. -/
def un (i : Instr) (d a : BitVec 8) (f : Nat → Md → Nat → Nat) (s : State) : State :=
  let n := opWidth s
  perLane i (wset s) n d (fun l => f (modeType s) (md s) (srcN s n a.toNat l)) s

/-- Role cmp: a bit of predicate p in each lane of the write set. -/
def cmpP (i : Instr) (p : BitVec 3) (f : Nat → Bool) (s : State) : State :=
  let m := wset s
  retire i (writeP s p.toNat m (mkLanes (fun l => m.getLsbD l && f l)))

/-- The value of a 10-bit immediate in a lane of a type (11 R327). -/
def immVal (t rnd : Nat) (imm : BitVec 10) : Nat :=
  let e := toElem t { rnd := rnd, sat := false, ftz := false } (.fin (imm.toInt < 0) imm.toInt.natAbs 1 0)
  let e := match fmtOf t with
    | some _ => e
    | none => ofInt true false (width t) imm.toInt
  pack (width t) (List.replicate (elems t) e)

/-- A VI form: the second source is the immediate. -/
def immOp (i : Instr) (d a : BitVec 8) (imm : BitVec 10) (f : Nat → Md → Nat → Nat → Nat) (s : State) : State :=
  un i d a (fun t m x => f t m x (immVal t m.rnd imm)) s

/-! ### Results (11 R307 to R316) -/

def addV (t : Nat) (m : Md) (a b : Nat) : Nat := arith2 t m (· + ·) (add m.rnd) a b
def subV (t : Nat) (m : Md) (a b : Nat) : Nat := arith2 t m (· - ·) (fun x y => add m.rnd x y.neg) a b
def mulV (t : Nat) (m : Md) (a b : Nat) : Nat := arith2 t m (· * ·) mul a b

/-- The high half of the exact product; saturation is ignored. -/
def mulhiV (t : Nat) (_ : Md) (a b : Nat) : Nat :=
  map2 t (fun x y => ofInt (signed t) false (width t)
    (toInt (signed t) (width t) x * toInt (signed t) (width t) y / (2 ^ width t : Int))) a b

def fmaV (t : Nat) (m : Md) (d a b : Nat) : Nat :=
  arith3 t m (fun z x y => x * y + z) (fun z x y => add m.rnd (mul x y) z) d a b
def fmsV (t : Nat) (m : Md) (d a b : Nat) : Nat :=
  arith3 t m (fun z x y => x * y - z) (fun z x y => add m.rnd (mul x y) z.neg) d a b
def fnmaV (t : Nat) (m : Md) (d a b : Nat) : Nat :=
  arith3 t m (fun z x y => z - x * y) (fun z x y => add m.rnd z (mul x y).neg) d a b

/-- A value with its sign cleared. -/
def absVal (v : Val) : Val := if v.isNeg then v.neg else v

def abdV (t : Nat) (m : Md) (a b : Nat) : Nat :=
  arith2 t m (fun x y => ((x - y).natAbs : Int)) (fun x y => absVal (add m.rnd x y.neg)) a b

/-- A one-source element operation, integer or float. -/
def arith1 (t : Nat) (m : Md) (zi : Int → Int) (fv : Val → Val) (a : Nat) : Nat :=
  arith2 t m (fun x _ => zi x) (fun x _ => fv x) a a

def negV (t : Nat) (m : Md) (a : Nat) : Nat := arith1 t m (fun x => -x) Val.neg a
def absV (t : Nat) (m : Md) (a : Nat) : Nat := arith1 t m (fun x => (x.natAbs : Int)) absVal a

def clampV (t : Nat) (m : Md) (d a b : Nat) : Nat := minMax t m.ftz false (minMax t m.ftz true d a) b

/-- The sign of a float element's encoding. -/
def signOf (t y : Nat) : Bool := y / 2 ^ (width t - 1) % 2 == 1

def csgnV (t : Nat) (m : Md) (a b : Nat) : Nat :=
  map2 t (fun x y => match fmtOf t with
    | some f =>
      let v := absVal (f.read m.ftz x)
      f.round m (if signOf t y then v.neg else v)
    | none =>
      let z : Int := (toInt (signed t) (width t) x).natAbs
      ofInt (signed t) m.sat (width t) (if toInt (signed t) (width t) y < 0 then -z else z)) a b

def divV (t : Nat) (m : Md) (a b : Nat) : Nat :=
  map2 t (fun x y => match fmtOf t with
    | some f => f.round m (div (f.read m.ftz x) (f.read m.ftz y))
    | none =>
      let p := toInt (signed t) (width t) x
      let q := toInt (signed t) (width t) y
      if q = 0 then 2 ^ width t - 1 else ofInt (signed t) m.sat (width t) (Int.tdiv p q)) a b

/-- A bitwise operation on the operand width, 32 bits for packed types (11 R308). -/
def wordV (t : Nat) (f : Nat → Nat → Nat) (a b : Nat) : Nat :=
  if 12 ≤ t then f (a % 2 ^ 32) (b % 2 ^ 32) % 2 ^ 32 else extend t (f (a % 2 ^ width t) (b % 2 ^ width t))

def andV (t : Nat) (_ : Md) (a b : Nat) : Nat := wordV t (· &&& ·) a b
def orV (t : Nat) (_ : Md) (a b : Nat) : Nat := wordV t (· ||| ·) a b
def xorV (t : Nat) (_ : Md) (a b : Nat) : Nat := wordV t (· ^^^ ·) a b
def andnV (t : Nat) (_ : Md) (a b : Nat) : Nat := wordV t (fun x y => x &&& (y ^^^ (2 ^ 64 - 1))) a b

def shlV (t : Nat) (_ : Md) (a b : Nat) : Nat := map2 t (fun x y => x * 2 ^ (y % width t) % 2 ^ width t) a b
def shrV (t : Nat) (_ : Md) (a b : Nat) : Nat :=
  map2 t (fun x y => ofInt false false (width t) (toInt (signed t) (width t) x / (2 ^ (y % width t) : Int))) a b
def rotV (t : Nat) (_ : Md) (a b : Nat) : Nat :=
  map2 t (fun x y =>
    let k := y % width t
    (x * 2 ^ k + x / 2 ^ (width t - k)) % 2 ^ width t) a b

/-- Set bits of a number, `n` bits wide. -/
def popN : Nat → Nat → Nat
  | 0, _ => 0
  | n + 1, v => v % 2 + popN n (v / 2)
/-- Leading zeros of a number, `n` bits wide. -/
def clzN : Nat → Nat → Nat
  | 0, _ => 0
  | n + 1, v => if v / 2 ^ n % 2 = 1 then 0 else 1 + clzN n v
/-- The `n` low bits reversed. -/
def revN : Nat → Nat → Nat
  | 0, _ => 0
  | n + 1, v => v % 2 * 2 ^ n + revN n (v / 2)

def popcV (t : Nat) (_ : Md) (a : Nat) : Nat := map1 t (popN (width t)) a
def clzV (t : Nat) (_ : Md) (a : Nat) : Nat := map1 t (clzN (width t)) a
def brevV (t : Nat) (_ : Md) (a : Nat) : Nat := map1 t (revN (width t)) a

/-- `bfe` (11 R309). -/
def bfeV (t : Nat) (_ : Md) (a b : Nat) : Nat :=
  let w := width t
  let pos := b % 256
  let len := min (b / 256 % 256) w
  if len = 0 then 0
  else
    let f := toInt (signed t) w a / (2 ^ pos : Int) % (2 ^ len : Int)
    ofInt false false w (toInt (signed t) len f.toNat)

/-- `bfi` (11 R309). -/
def bfiV (t : Nat) (_ : Md) (d a b : Nat) : Nat :=
  let w := width t
  let pos := b % 256
  let len := min (b / 256 % 256) (w - pos)
  let field := (2 ^ len - 1) * 2 ^ pos
  (d % 2 ^ w &&& (field ^^^ (2 ^ w - 1))) ||| (a % 2 ^ len * 2 ^ pos)

/-- `mulw` (11 R311). -/
def mulwV (t a b : Nat) : Nat := ofInt false false 64 (toInt (t == 0) 32 a * toInt (t == 0) 32 b)

/-- `dot2` (11 R311). -/
def dot2V (t : Nat) (m : Md) (d a b : Nat) : Nat :=
  match fmtOf t with
  | some f =>
    let p := fun i => mul (f.read m.ftz (a / 2 ^ (16 * i) % 2 ^ 16)) (f.read m.ftz (b / 2 ^ (16 * i) % 2 ^ 16))
    f32.round m (add m.rnd (add m.rnd (p 0) (p 1)) (f32.read m.ftz d))
  | none =>
    let p := fun i => toInt true 16 (a / 2 ^ (16 * i)) * toInt true 16 (b / 2 ^ (16 * i))
    ofInt true m.sat 32 (toInt true 32 d + p 0 + p 1)

/-- `dot4` (11 R311). -/
def dot4V (m : Md) (d a b : Nat) : Nat :=
  let p := fun i => toInt true 8 (a / 2 ^ (8 * i)) * toInt true 8 (b / 2 ^ (8 * i))
  ofInt true m.sat 32 (toInt true 32 d + p 0 + p 1 + p 2 + p 3)

/-- `pack` (11 R312). -/
def packV (_ : Nat) (_ : Md) (a b : Nat) : Nat := b % 2 ^ 16 * 2 ^ 16 + a % 2 ^ 16

/-- `unplo` (half 0) and `unphi` (half 1) (11 R312). -/
def unpV (half t : Nat) (m : Md) (a : Nat) : Nat :=
  let x := a / 2 ^ (16 * half) % 2 ^ 16
  match fmtOf t with
  | some f => f32.round m (f.read m.ftz x)
  | none =>
    if t = 14 then ofInt true false 32 (toInt true 16 x)
    else ofInt true false 16 (toInt true 8 x) + 2 ^ 16 * ofInt true false 16 (toInt true 8 (x / 256))

/-- A float element operation. -/
def float1 (t : Nat) (f : Fmt → Nat → Nat) (a : Nat) : Nat :=
  map1 t (fun x => match fmtOf t with
    | some fm => f fm x
    | none => x) a

/-- `fract` (11 R314). -/
def fractV (t : Nat) (m : Md) (a : Nat) : Nat :=
  float1 t (fun f x => match f.read m.ftz x with
    | .fin neg n d e =>
      let fl := roundInt 3 neg n d e
      let r := add 0 (.fin neg n d e) (.fin (0 < fl) fl.natAbs 1 0)
      if r.isZero then 0
      else
        let one := f.bias * 2 ^ f.p
        let v := f.round m r
        if v = one then one - 1 else v
    | _ => f.nan) a

/-- `rnd` (11 R314). -/
def rndV (t : Nat) (m : Md) (a : Nat) : Nat :=
  float1 t (fun f x => match f.read m.ftz x with
    | .fin neg n d e => f.round m (.fin neg (roundUnits m.rnd neg n d e 0) 1 0)
    | v => f.round m v) a

/-- `scl` (11 R314): exponents beyond 5000 act as 5000, which every format overflows or rounds away at. -/
def sclV (t : Nat) (m : Md) (a b : Nat) : Nat :=
  map2 t (fun x y => match fmtOf t with
    | some f =>
      let k := max (-5000) (min 5000 (toInt true (width t) y))
      (match f.read m.ftz x with
       | .fin neg n d e => f.round m (.fin neg n d (e + k))
       | v => f.round m v)
    | none => x) a b

/-- A special function on every element (11 R315). -/
def sfuV (fn : Fn) (t : Nat) (m : Md) (a : Nat) : Nat := map1 t (fun x => sfu fn t m x) a

/-- A compare (11 R316): `f` says whether the order of a to b (negative, zero, positive) sets the bit, `unordered` what
a NaN gives. -/
def cmpV (t : Nat) (m : Md) (f : Int → Bool) (unordered : Bool) (a b : Nat) : Bool :=
  match fmtOf t with
  | some fm =>
    let x := fm.read m.ftz (a % 2 ^ width t)
    let y := fm.read m.ftz (b % 2 ^ width t)
    if isNan x || isNan y then unordered else f (cmp x y)
  | none => f (toInt (signed t) (width t) a - toInt (signed t) (width t) b)

/-- A compare of two registers. -/
def cmpOp (i : Instr) (p : BitVec 3) (a b : BitVec 8) (f : Int → Bool) (unordered : Bool) (s : State) : State :=
  let n := opWidth s
  cmpP i p (fun l => cmpV (modeType s) (md s) f unordered (srcN s n a.toNat l) (srcN s n b.toNat l)) s

/-- A compare with an immediate. -/
def cmpImm (i : Instr) (p : BitVec 3) (a : BitVec 8) (imm : BitVec 10) (f : Int → Bool) (s : State) : State :=
  let n := opWidth s
  cmpP i p (fun l => cmpV (modeType s) (md s) f false (srcN s n a.toNat l) (immVal (modeType s) (modeRnd s) imm)) s

/-- The class of a float element as a bit of the class byte (11 R316). -/
def classOf (t : Nat) (ftz : Bool) (x : Nat) : Nat :=
  match fmtOf t with
  | none => 0
  | some f =>
    match f.read ftz x with
    | .nan => 0
    | .inf neg => if neg then 1 else 7
    | .fin neg n _ _ =>
      if n = 0 then 4 else if n < 2 ^ f.p then (if neg then 3 else 5) else if neg then 2 else 6

/-! ### V3 page 0 -/

def execAdd (d a b : BitVec 8) (s : State) := issue (.add d a b) (bin (.add d a b) d a b addV) s
def execSub (d a b : BitVec 8) (s : State) := issue (.sub d a b) (bin (.sub d a b) d a b subV) s
def execMul (d a b : BitVec 8) (s : State) := issue (.mul d a b) (bin (.mul d a b) d a b mulV) s
def execMulhi (d a b : BitVec 8) (s : State) := issue (.mulhi d a b) (bin (.mulhi d a b) d a b mulhiV) s
def execFma (d a b : BitVec 8) (s : State) := issue (.fma d a b) (acc (.fma d a b) d a b fmaV) s
def execFms (d a b : BitVec 8) (s : State) := issue (.fms d a b) (acc (.fms d a b) d a b fmsV) s
def execFnma (d a b : BitVec 8) (s : State) := issue (.fnma d a b) (acc (.fnma d a b) d a b fnmaV) s
def execMin (d a b : BitVec 8) (s : State) :=
  issue (.min d a b) (bin (.min d a b) d a b (fun t m => minMax t m.ftz false)) s
def execMax (d a b : BitVec 8) (s : State) :=
  issue (.max d a b) (bin (.max d a b) d a b (fun t m => minMax t m.ftz true)) s
def execAbd (d a b : BitVec 8) (s : State) := issue (.abd d a b) (bin (.abd d a b) d a b abdV) s
def execAnd (d a b : BitVec 8) (s : State) := issue (.and d a b) (bin (.and d a b) d a b andV) s
def execOr (d a b : BitVec 8) (s : State) := issue (.or d a b) (bin (.or d a b) d a b orV) s
def execXor (d a b : BitVec 8) (s : State) := issue (.xor d a b) (bin (.xor d a b) d a b xorV) s
def execAndn (d a b : BitVec 8) (s : State) := issue (.andn d a b) (bin (.andn d a b) d a b andnV) s
def execShl (d a b : BitVec 8) (s : State) := issue (.shl d a b) (bin (.shl d a b) d a b shlV) s
def execShr (d a b : BitVec 8) (s : State) := issue (.shr d a b) (bin (.shr d a b) d a b shrV) s
def execRot (d a b : BitVec 8) (s : State) := issue (.rot d a b) (bin (.rot d a b) d a b rotV) s

/-- `sel` (11 R313): the lane guard chooses, and the write set does not depend on it. -/
def execSel (d a b : BitVec 8) (s : State) :=
  issue (.sel d a b) (fun s =>
    let n := opWidth s
    let m := writeSet s (partMask s)
    perLane (.sel d a b) m n d (fun l =>
      wordV (modeType s) (fun x _ => x) (srcN s n (if guardBit s l then a else b).toNat l) 0) s) s

def execCeq (p : BitVec 3) (a b : BitVec 8) (s : State) :=
  issue (.ceq p a b) (cmpOp (.ceq p a b) p a b (fun z => z == 0) false) s
def execCne (p : BitVec 3) (a b : BitVec 8) (s : State) :=
  issue (.cne p a b) (cmpOp (.cne p a b) p a b (fun z => z != 0) true) s
def execClt (p : BitVec 3) (a b : BitVec 8) (s : State) :=
  issue (.clt p a b) (cmpOp (.clt p a b) p a b (fun z => decide (z < 0)) false) s
def execCle (p : BitVec 3) (a b : BitVec 8) (s : State) :=
  issue (.cle p a b) (cmpOp (.cle p a b) p a b (fun z => decide (z ≤ 0)) false) s
def execCgt (p : BitVec 3) (a b : BitVec 8) (s : State) :=
  issue (.cgt p a b) (cmpOp (.cgt p a b) p a b (fun z => decide (0 < z)) false) s
def execCge (p : BitVec 3) (a b : BitVec 8) (s : State) :=
  issue (.cge p a b) (cmpOp (.cge p a b) p a b (fun z => decide (0 ≤ z)) false) s
def execCun (p : BitVec 3) (a b : BitVec 8) (s : State) :=
  issue (.cun p a b) (cmpOp (.cun p a b) p a b (fun _ => false) true) s

/-- `ccls` (11 R316). -/
def execCcls (p : BitVec 3) (a cls : BitVec 8) (s : State) :=
  issue (.ccls p a cls) (fun s =>
    let n := opWidth s
    cmpP (.ccls p a cls) p (fun l => cls.getLsbD (classOf (modeType s) (modeFtz s) (srcN s n a.toNat l))) s) s

/-- `mov` (11 R313). -/
def execMov (d a : BitVec 8) (s : State) :=
  issue (.mov d a) (un (.mov d a) d a (fun t _ x => wordV t (fun x _ => x) x 0)) s

def execNeg (d a : BitVec 8) (s : State) := issue (.neg d a) (un (.neg d a) d a negV) s
def execAbs (d a : BitVec 8) (s : State) := issue (.abs d a) (un (.abs d a) d a absV) s
def execPopc (d a : BitVec 8) (s : State) := issue (.popc d a) (un (.popc d a) d a popcV) s
def execClz (d a : BitVec 8) (s : State) := issue (.clz d a) (un (.clz d a) d a clzV) s
def execBrev (d a : BitVec 8) (s : State) := issue (.brev d a) (un (.brev d a) d a brevV) s
def execBfe (d a b : BitVec 8) (s : State) := issue (.bfe d a b) (bin (.bfe d a b) d a b bfeV) s
def execBfi (d a b : BitVec 8) (s : State) := issue (.bfi d a b) (acc (.bfi d a b) d a b bfiV) s

def execMulw (d a b : BitVec 8) (s : State) :=
  issue (.mulw d a b) (fun s => perLane (.mulw d a b) (wset s) 2 d (fun l =>
    mulwV (modeType s) (src32 s a.toNat l).toNat (src32 s b.toNat l).toNat) s) s
def execDot2 (d a b : BitVec 8) (s : State) := issue (.dot2 d a b) (acc (.dot2 d a b) d a b dot2V) s
def execDot4 (d a b : BitVec 8) (s : State) := issue (.dot4 d a b) (acc (.dot4 d a b) d a b (fun _ m => dot4V m)) s

/-- `addc` and `subb` (11 R310): the results, and the carries or borrows into p7. The note's marks are those of the lanes as a
guard on p7 selected them. -/
def carryOp (i : Instr) (d a b : BitVec 8) (f : Int → Int → Int → Int) (s : State) : State :=
  let m := wset s
  let t := fun l => f (src32 s a.toNat l).toNat (src32 s b.toNat l).toNat (if predBit s 7 l then 1 else 0)
  let rs := (lanesOf m).map (fun l => (l, ofInt false false 32 (t l)))
  let bits := mkLanes (fun l => m.getLsbD l && decide (t l < 0 ∨ 2 ^ 32 ≤ t l))
  let marks := noteKeys i (currentNote s) s
  goOn (latchNote i (currentNote s) (markRead marks (writeP (writeLanes s 1 d.toNat rs) 7 m bits)))

def execAddc (d a b : BitVec 8) (s : State) :=
  issue (.addc d a b) (carryOp (.addc d a b) d a b (fun x y c => x + y + c)) s
def execSubb (d a b : BitVec 8) (s : State) :=
  issue (.subb d a b) (carryOp (.subb d a b) d a b (fun x y c => x - y - c)) s

def execPack (d a b : BitVec 8) (s : State) := issue (.pack d a b) (bin (.pack d a b) d a b packV) s
def execUnplo (d a : BitVec 8) (s : State) := issue (.unplo d a) (un (.unplo d a) d a (unpV 0)) s
def execUnphi (d a : BitVec 8) (s : State) := issue (.unphi d a) (un (.unphi d a) d a (unpV 1)) s
def execClamp (d a b : BitVec 8) (s : State) := issue (.clamp d a b) (acc (.clamp d a b) d a b clampV) s
def execCsgn (d a b : BitVec 8) (s : State) := issue (.csgn d a b) (bin (.csgn d a b) d a b csgnV) s
def execFract (d a : BitVec 8) (s : State) := issue (.fract d a) (un (.fract d a) d a fractV) s
def execRnd (d a : BitVec 8) (s : State) := issue (.rnd d a) (un (.rnd d a) d a rndV) s
def execScl (d a b : BitVec 8) (s : State) := issue (.scl d a b) (bin (.scl d a b) d a b sclV) s

/-- A special function: flag A. -/
def sfuOp (i : Instr) (fn : Fn) (d a : BitVec 8) (s : State) : State :=
  let n := opWidth s
  perLaneLong i (wset s) n d (fun l => sfuV fn (modeType s) (md s) (srcN s n a.toNat l)) s

def execRcp (d a : BitVec 8) (s : State) := issue (.rcp d a) (sfuOp (.rcp d a) .rcp d a) s
def execRsq (d a : BitVec 8) (s : State) := issue (.rsq d a) (sfuOp (.rsq d a) .rsq d a) s
def execSqrt (d a : BitVec 8) (s : State) := issue (.sqrt d a) (sfuOp (.sqrt d a) .sqrt d a) s
def execExp2 (d a : BitVec 8) (s : State) := issue (.exp2 d a) (sfuOp (.exp2 d a) .exp2 d a) s
def execLog2 (d a : BitVec 8) (s : State) := issue (.log2 d a) (sfuOp (.log2 d a) .log2 d a) s
def execSin (d a : BitVec 8) (s : State) := issue (.sin d a) (sfuOp (.sin d a) .sin d a) s
def execCos (d a : BitVec 8) (s : State) := issue (.cos d a) (sfuOp (.cos d a) .cos d a) s
def execTanh (d a : BitVec 8) (s : State) := issue (.tanh d a) (sfuOp (.tanh d a) .tanh d a) s
def execSigm (d a : BitVec 8) (s : State) := issue (.sigm d a) (sfuOp (.sigm d a) .sigm d a) s
def execErf (d a : BitVec 8) (s : State) := issue (.erf d a) (sfuOp (.erf d a) .erf d a) s

/-- `div` (11 R307): flag A. -/
def execDiv (d a b : BitVec 8) (s : State) :=
  issue (.div d a b) (fun s =>
    let n := opWidth s
    perLaneLong (.div d a b) (wset s) n d (fun l =>
      divV (modeType s) (md s) (srcN s n a.toNat l) (srcN s n b.toNat l)) s) s

/-! ### Conversion (11 R317 to R321, 08 R237, R240) -/

/-- A format slot of the grid (08 R237). -/
structure Slot where
  n : Nat
  code : Nat
  policy : Nat
  ceiling : Nat
  sat : Bool
  ftz : Bool
  outl : Bool
  scale : Val
  list : W64
  deriving DecidableEq, Repr

/-- Format slot `n` of 128 bytes that hold the slots (08 R237). -/
def slotIn (b : List Byte) (n : Nat) : Slot :=
  let f := leBytes b (0x03 + 16 * n) 1
  { n := n, code := leBytes b (16 * n) 1, policy := leBytes b (0x01 + 16 * n) 1, ceiling := leBytes b (0x02 + 16 * n) 1,
    sat := f % 2 == 1, ftz := f / 2 % 2 == 1, outl := f / 4 % 2 == 1, scale := f32.decode (leBytes b (0x04 + 16 * n) 4),
    list := BitVec.ofNat 64 (leBytes b (0x08 + 16 * n) 8) }

/-- The slots of the block's grid, as its launch record holds them. -/
def slotBytes (s : State) : List Byte :=
  match gridOf s with
  | some g => (g.record.drop 0x40).take 128
  | none => []

/-- Format slot `n` of the block's grid. -/
def slotOf (s : State) (n : Nat) : Slot := slotIn (slotBytes s) n

/-- The parameters of a conversion through a slot (08 R240). -/
def slotMd (s : State) (k : Slot) : Md := { rnd := modeRnd s, sat := k.sat || modeSat s, ftz := k.ftz || modeFtz s }

/-- FMT, precisely: the slot and the code found (07 R212). -/
def fmtFault (k : Slot) (s : State) : State :=
  precise 0x16 s.f.mask 0 (BitVec.ofNat 64 (k.n + 256 * k.code)) s

/-- The slot code that stands for a destination type; none for i64 and n64 (11 R317). -/
def slotCode (dt : Nat) : Option Nat :=
  if dt = 2 then some 1 else if dt = 3 then some 2 else if dt = 4 then some 3 else if dt = 5 then some 4
  else if dt = 10 then some 8 else if dt = 11 then some 9 else if dt = 8 then some 10 else if dt = 9 then some 11
  else if dt = 0 then some 12 else if dt = 1 then some 13 else none

/-- A plain conversion of a lane's value (11 R318). -/
def cvtPlain (t dt : Nat) (m : Md) (v : Nat) : Nat :=
  if 12 ≤ t then pack 16 ((List.range 2).map (fun i => convert t dt m (v / 2 ^ (16 * i) % 2 ^ 16)))
  else extend dt (convert t dt m (v % 2 ^ width t))

/-- A value of the source type divided by the slot's scale (08 R232). -/
def quotient (t : Nat) (m : Md) (k : Slot) (v : Nat) : Val := div (valOf t m.ftz (v % 2 ^ width t)) k.scale

/-- Does a finite value overflow a float type (08 R227, R240)? -/
def overflows (t rnd : Nat) (v : Val) : Bool :=
  match fmtOf t, v with
  | some f, .fin neg n d e => (f.roundMag rnd neg n d e).isNone
  | _, _ => false

/-- The value that an outlier entry holds: the source in f32, to nearest (08 R236). -/
def entryVal (t v : Nat) : W32 := BitVec.ofNat 32 (f32.round home (valOf t false (v % 2 ^ width t)))

/-- The tag of an outlier entry of `cvt` (11 R321). -/
def entryTag (s : State) (lane : Nat) : W64 :=
  BitVec.ofNat 64 (0xFC * 2 ^ 56 + blockLin s % 2 ^ 32 * 2 ^ 24 + s.w.idx % 2 ^ 16 * 2 ^ 8 + lane)

/-- Writes the register results, retires, and makes the appends as a flag-B operation of their lanes (11 R321). -/
def cvtDone (i : Instr) (n : Nat) (d : BitVec 8) (rs : List (Nat × Nat)) (l : List Append) (s : State) : State :=
  if l.isEmpty then retire i (writeLanes s n d.toNat rs)
  else if flagFull s (setB s.f) then s
  else if appendsHeld s l then holdAt .fill s
  else
    let pc := s.f.pc
    let id := s.uid
    let m := l.foldl (fun m a => m ||| a.lanes) 0
    let s := addPend s (setB s.f) (some m) .other m []
    makeAppends l id pc (retire i (writeLanes s n d.toNat rs))

/-- A conversion into a slot's format, not a block (11 R319). -/
def cvtSlot (i : Instr) (d a : BitVec 8) (dt : Nat) (k : Slot) (s : State) : State :=
  let t := modeType s
  let m := slotMd s k
  let lanes := lanesOf (wset s)
  let src := fun l => srcN s (opWidth s) a.toNat l
  let q := fun l => quotient t m k (src l)
  let out := fun l => k.outl && (dt == 3 || dt == 4) && overflows dt m.rnd (q l)
  let rs := lanes.map (fun l => (l, if out l then 0 else extend dt (toElem dt m (q l))))
  let es := (lanes.filter out).map (fun l =>
    { lanes := maskOf [l], list := k.list, tag := entryTag s l, idx := 0, val := entryVal t (src l), got := none : Append })
  cvtDone i (if wide dt then 2 else 1) d rs es s

/-- Words of a block in registers (11 R320). -/
def blockWords (code : Nat) : Nat := (zbBytes code + 3) / 4

/-- A block encode (11 R320). -/
def cvtEncode (i : Instr) (d a : BitVec 8) (k : Slot) (s : State) : State :=
  let t := modeType s
  let m := slotMd s k
  let act := actSet s
  let w := wset s
  let src := fun l => srcN s (opWidth s) a.toNat l
  let groups := [0, 1].filter (fun g => modeNomask s || (List.range 16).any (fun j => act.getLsbD (16 * g + j)))
  let enc := fun g => zbEncode k.code k.policy k.ceiling m.rnd k.outl ((List.range 16).map (fun j =>
    if act.getLsbD (16 * g + j) then quotient t m k (src (16 * g + j)) else .fin false 0 1 0))
  let rs := groups.flatMap (fun g =>
    ((List.range (blockWords k.code)).filter (fun j => w.getLsbD (16 * g + j))).map (fun j =>
      (16 * g + j, (enc g).1 / 2 ^ (32 * j) % 2 ^ 32)))
  let es := groups.flatMap (fun g => (enc g).2.map (fun j =>
    { lanes := maskOf [16 * g + j], list := k.list, tag := entryTag s (16 * g), idx := j, val := entryVal t (src (16 * g + j)),
      got := none : Append }))
  cvtDone i 1 d rs es s

/-- A block decode (11 R320). -/
def cvtDecode (i : Instr) (d a : BitVec 8) (dt : Nat) (k : Slot) (s : State) : State :=
  let m := slotMd s k
  let act := actSet s
  let w := fun g => pack 32 ((List.range (blockWords k.code)).map (fun j =>
    if act.getLsbD (16 * g + j) then (src32 s a.toNat (16 * g + j)).toNat else 0))
  let rs := (lanesOf (wset s)).map (fun l =>
    (l, extend dt (toElem dt m (mul (zbElem k.code (w (l / 16)) (l % 16)) k.scale))))
  cvtDone i (if wide dt then 2 else 1) d rs [] s

/-- `cvt` (11 R317). -/
def execCvt (d a : BitVec 8) (dt : BitVec 4) (us : BitVec 1) (slot : BitVec 3) (s : State) :=
  issue (.cvt d a dt us slot) (fun s =>
    let i := Instr.cvt d a dt us slot
    let t := modeType s
    let n := dt.toNat
    if us = 0 then
      perLane i (wset s) (if wide n then 2 else 1) d (fun l => cvtPlain t n (md s) (srcN s (opWidth s) a.toNat l)) s
    else
      let k := slotOf s slot.toNat
      if t = 15 || n = 15 then
        if !isZb k.code || ownNarrow s then fmtFault k s
        else if n = 15 then cvtEncode i d a k s
        else cvtDecode i d a n k s
      else if slotCode n = some k.code then cvtSlot i d a n k s
      else fmtFault k s) s

/-! ### VI arithmetic and compares (11 R327) -/

def execAddi (d a : BitVec 8) (imm : BitVec 10) (s : State) := issue (.addi d a imm) (immOp (.addi d a imm) d a imm addV) s

/-- A bitwise form: the immediate is sign-extended to the operand width. -/
def immWord (i : Instr) (d a : BitVec 8) (imm : BitVec 10) (f : Nat → Nat → Nat) (s : State) : State :=
  un i d a (fun t _ x => wordV t f x (ofInt true false (if 12 ≤ t then 32 else width t) imm.toInt)) s

def execAndi (d a : BitVec 8) (imm : BitVec 10) (s : State) :=
  issue (.andi d a imm) (immWord (.andi d a imm) d a imm (· &&& ·)) s
def execOri (d a : BitVec 8) (imm : BitVec 10) (s : State) :=
  issue (.ori d a imm) (immWord (.ori d a imm) d a imm (· ||| ·)) s
def execXori (d a : BitVec 8) (imm : BitVec 10) (s : State) :=
  issue (.xori d a imm) (immWord (.xori d a imm) d a imm (· ^^^ ·)) s

/-- A shift by the unsigned immediate, the same for every element. -/
def immShift (i : Instr) (d a : BitVec 8) (imm : BitVec 10) (f : Nat → Md → Nat → Nat → Nat) (s : State) : State :=
  un i d a (fun t m x => f t m x (pack (width t) (List.replicate (elems t) (imm.toNat % width t)))) s

def execShli (d a : BitVec 8) (imm : BitVec 10) (s : State) :=
  issue (.shli d a imm) (immShift (.shli d a imm) d a imm shlV) s
def execShri (d a : BitVec 8) (imm : BitVec 10) (s : State) :=
  issue (.shri d a imm) (immShift (.shri d a imm) d a imm shrV) s
def execCeqi (p : BitVec 3) (a : BitVec 8) (imm : BitVec 10) (s : State) :=
  issue (.ceqi p a imm) (cmpImm (.ceqi p a imm) p a imm (fun z => z == 0)) s
def execClti (p : BitVec 3) (a : BitVec 8) (imm : BitVec 10) (s : State) :=
  issue (.clti p a imm) (cmpImm (.clti p a imm) p a imm (fun z => decide (z < 0))) s
def execCgti (p : BitVec 3) (a : BitVec 8) (imm : BitVec 10) (s : State) :=
  issue (.cgti p a imm) (cmpImm (.cgti p a imm) p a imm (fun z => decide (0 < z))) s
def execMuli (d a : BitVec 8) (imm : BitVec 10) (s : State) := issue (.muli d a imm) (immOp (.muli d a imm) d a imm mulV) s
def execMini (d a : BitVec 8) (imm : BitVec 10) (s : State) :=
  issue (.mini d a imm) (immOp (.mini d a imm) d a imm (fun t m => minMax t m.ftz false)) s
def execMaxi (d a : BitVec 8) (imm : BitVec 10) (s : State) :=
  issue (.maxi d a imm) (immOp (.maxi d a imm) d a imm (fun t m => minMax t m.ftz true)) s

/-! ### Immediate loads (10 R299) -/

def execLiV (d : BitVec 8) (imm : BitVec 18) (s : State) :=
  issue (.liV d imm) (fun s => perLane (.liV d imm) (wset s) 1 d (fun _ => (imm.signExtend 32).toNat) s) s

def execLuiV (d : BitVec 8) (imm : BitVec 18) (s : State) :=
  issue (.luiV d imm) (fun s => perLane (.luiV d imm) (wset s) 1 d (fun l =>
    (src32 s d.toNat l).toNat % 2 ^ 14 + imm.toNat * 2 ^ 14) s) s

end Sys2Proof.Machine
end

