-- ==== Sys2Proof/Machine/VecMem.lean ====
section
/-!
DEFINITION. Vector memory instructions: loads, stores, atomics, home reductions, gathers and scatters, prefetch
(12 R329 to R340, R332).
-/
namespace Sys2Proof.Machine
open Sys2Proof.Machine.Num

/-! ### The frame of a lane access (12 R329, 07 R212, R213) -/

/-- How the lanes of an instruction access memory. -/
structure LaneMem where
  n : Nat                    -- bytes
  kind : Access
  store : Bool               -- a write: header words of objects are guarded (04 R128)
  partialCommit : Bool       -- `ldq`, `stq` (12 R331)
  globalOnly : Bool          -- window and private addresses raise PROT with cause 0x19
  flagA : Bool               -- completes under flag A, per lane; otherwise under flag B
  place : At                 -- how the access chooses its memory level
  deriving DecidableEq, Repr

/-- TRAPAUX of a fault of a lane access (01 R34, 04 R135). -/
def laneAux (k : Access) (elem unit : Nat) (m : MFault) : W64 :=
  m.aux elem unit (if m.code = 0x0A && k ≠ .ref || m.code = 0x18 then 1 else k.code)

/-- ALIGN of a lane access: the lowest failing lane's address (07 R212). -/
def alignFault (k : Access) (bad : List (Nat × W64)) (s : State) : State :=
  precise 0x05 (maskOf (bad.map Prod.fst)) ((bad.map Prod.snd).headD 0)
    (MFault.aux { code := 5, cause := 0, level := 15, pool := 0, va := 0 } 0 0 k.code) s

/-- Where a lane's access leads, with the checks of its kind. -/
def laneResolve (s : State) (p : LaneMem) (g : W64) (l : Nat) : Except MFault Place :=
  match (if p.globalOnly then resolveGlobal s (isUser s) p.kind p.place g p.n else resolve s (isUser s) p.kind p.place g p.n l) with
  | .error m => .error m
  | .ok q => if p.store then checkHeader s q g else .ok q

/-- The lanes that delivery names: those with the lowest faulting lane's code, PAGE and PROT together (07 R213). -/
def sameCode (bad : List (Nat × MFault)) : Lanes :=
  match bad with
  | [] => 0
  | (_, m) :: _ =>
    let pp := fun (c : Nat) => c == 6 || c == 7
    maskOf ((bad.filter (fun x => x.2.code == m.code || (pp x.2.code && pp m.code))).map Prod.fst)

/-- Groups of lanes by 128-byte line: each is one reply (02 R67). -/
def lineGroups (as : List (Nat × W64)) : List Lanes :=
  ((as.map (fun p => p.2.toNat / 128)).eraseDups).map (fun la =>
    maskOf ((as.filter (fun p => p.2.toNat / 128 == la)).map Prod.fst))

/-- The flag of a lane access and, for flag B, the lanes of the whole operation (09 R248). -/
def laneFlag (s : State) (p : LaneMem) (act : Lanes) : Nat × Option Lanes :=
  if p.flagA then (setA s.f, none) else (setB s.f, some act)

/-- Does an access overlap an element that the collector still holds for the fragment's lanes (02 R64)? The handler does
not wait for an operation that is stopped. -/
def collHeld (s : State) (as : List (Nat × W64)) (n : Nat) : Bool :=
  s.colls.any (fun c => c.blk == s.blk.uid && c.wp == s.w.idx && !(s.f.sup && c.stopped)
    && c.elems.any (fun e => (e.grp &&& s.f.mask != 0) && as.any (fun a =>
      a.2.toNat < e.va.toNat + memBytes c.ty.toNat && e.va.toNat < a.2.toNat + n)))

/-- The lanes' accesses in ascending order: each gives what lands in its registers. -/
def performLanes (perform : State → Nat → Place → State × List Landing) :
    List (Nat × Place) → State → State × List Landing
  | [], s => (s, [])
  | (l, q) :: r, s =>
    let (s, x) := perform s l q
    let (s, y) := performLanes perform r (keepLeaves s q)
    (s, x ++ y)

/-- Is a code delivered replay in place also for an access that commits partially: FABRIC and QUEUE (07 R212)? -/
def inPlace (code : Nat) : Bool := code == 0x12 || code == 0x18

/-- Does a fault of a partially committing access leave every element from ELEM upward pending (12 R331, R355)? QUEUE alone
leaves the faulting ones. -/
def cutsOff (code : Nat) : Bool := code != 0x18

/-- DELIVERY of a fault of a partially committing access: partial commit, but for the codes that 07 R212 delivers replay in
place (log 87). -/
def partialKind (code : Nat) : BitVec 2 := if inPlace code then 1 else 2

/-- The fault of a lane access that some lanes met. -/
def laneFault (i : Instr) (p : LaneMem) (act : Lanes) (bad : List (Nat × MFault)) (s : State) : State :=
  match bad with
  | [] => retireMem i act s
  | (l, m) :: _ =>
    let pending := if p.partialCommit && cutsOff m.code then act &&& mkLanes (fun j => decide (l ≤ j))
                   else maskOf (bad.map Prod.fst)
    faultPart i (if p.partialCommit then partialKind m.code else 1) pending (sameCode bad) m.code m.va
      (laneAux p.kind (if p.partialCommit then l else 0) 0 m) (some (laneFlag s p act)) s

/-- The lanes of an access that are performed: all that met no fault, but of a partially committing access only those below
the lowest faulting lane. -/
def goodLanes (p : LaneMem) (bad : List (Nat × MFault)) (rs : List (Nat × Except MFault Place)) : List (Nat × Place) :=
  let cut := match bad with
    | (l, m) :: _ => if p.partialCommit && cutsOff m.code then l else 32
    | [] => 32
  rs.filterMap (fun x => match x.2 with
    | .error _ => none
    | .ok q => if cut < x.1 then none else some (x.1, q))

/-- The replies of a lane access: one for each line, but one for all lanes of a partially committing load, whose
destinations at or above a lane that is lost are not written (12 R331). -/
def replyGroups (p : LaneMem) (as : List (Nat × W64)) : List Lanes :=
  if p.partialCommit && p.kind = .read && !as.isEmpty then [maskOf (as.map Prod.fst)] else lineGroups as

/-- The bytes that a lane access reads. -/
def readsOf (p : LaneMem) (as : List (Nat × W64)) : List (Nat × Nat × Nat) :=
  if p.kind = .write then [] else as.map (fun a => (a.1, a.2.toNat, p.n))

/-- A lane access of the active lanes `act` at addresses `addr`: alignment first, then waits for engines, collector and
earlier reads, then the lanes that translate are performed in ascending order and the others fault. -/
def laneAccess (i : Instr) (p : LaneMem) (align : Nat) (addr : Nat → W64)
    (perform : State → Nat → Place → State × List Landing) (after : State → State) (s : State) : State :=
  let act := actSet s
  let as := (lanesOf act).map (fun l => (l, addr l))
  let crooked := as.filter (fun x => x.2.toNat % align != 0)
  if !crooked.isEmpty then alignFault p.kind crooked s
  else
    let rs := as.map (fun x => (x.1, laneResolve s p x.2 x.1))
    let bad := rs.filterMap (fun x => match x.2 with
      | .error m => some (x.1, m)
      | .ok _ => none)
    let good := goodLanes p bad rs
    if good.any (fun x => fillHeld s x.2 p.n) then holdAt .fill s
    else if collHeld s as p.n || orderHeld s as p.n || (p.store && good.any (fun x => wakeHeld s x.2 p.n)) then
      holdAt .collect (sendGroups (ofFront s) s)
    else
      let (t, lands) := performLanes perform good s
      let t := after t
      let fl := laneFlag s p act
      let done := as.filter (fun x => good.any (fun g => g.1 == x.1))
      laneFault i p act bad (startMemory i t fl.1 fl.2 (replyGroups p done) lands (readsOf p done) bad.isEmpty)

/-! ### Loads and stores (12 R330 to R332) -/

/-- A loaded value of a type as its register holds it. -/
def loadExt (t v : Nat) : Nat := if 12 ≤ t then v else extend t v

/-- The landings of `n` registers in one lane. -/
def laneWords (n d l v : Nat) : List Landing :=
  (List.range n).map (fun j => .lane (regKey (d + j) l) (BitVec.ofNat 32 (v / 2 ^ (32 * j))))

/-- A load into d. -/
def loadLane (t n : Nat) (d : BitVec 8) (bytes : Nat) (s : State) (l : Nat) (q : Place) : State × List Landing :=
  let (s, v) := loadAt s q bytes
  (s, laneWords n d.toNat l (loadExt t v))

/-- A store of d's `bytes` low bytes. -/
def storeLane (v : State → Nat → Nat) (bytes : Nat) (s : State) (l : Nat) (q : Place) : State × List Landing :=
  (storeThrough s q (v s l) bytes, [])

/-- A load's accesses, and a store's. -/
def loadMem (n : Nat) (at' : At) : LaneMem :=
  { n := n, kind := .read, store := false, partialCommit := false, globalOnly := false, flagA := true, place := at' }
def storeMem (n : Nat) (at' : At) : LaneMem :=
  { n := n, kind := .write, store := true, partialCommit := false, globalOnly := false, flagA := false, place := at' }

/-- `ld` and `ldi`. -/
def loadOp (i : Instr) (d : BitVec 8) (addr : Nat → W64) (s : State) : State :=
  let t := modeType s
  laneAccess i (loadMem (memBytes t) (.plain (modeLevel s))) (memBytes t) addr (loadLane t (opWidth s) d (memBytes t)) id s

/-- `st` and `sti`: the sources are read before any write (12 R329). -/
def storeOp (i : Instr) (d : BitVec 8) (addr : Nat → W64) (s : State) : State :=
  let t := modeType s
  let n := opWidth s
  laneAccess i (storeMem (memBytes t) (.plain (modeLevel s))) (memBytes t) addr
    (storeLane (fun _ l => srcN s n d.toNat l) (memBytes t)) id s

/-- The byte offset of a VI access (12 R332). -/
def immAddr (s : State) (a : BitVec 8) (imm : BitVec 10) (l : Nat) : W64 := src64 s a.toNat l + imm.signExtend 64

def execLd (d a b : BitVec 8) (s : State) := issue (.ld d a b) (fun s => loadOp (.ld d a b) d (genAddr s a b) s) s
def execSt (d a b : BitVec 8) (s : State) := issue (.st d a b) (fun s => storeOp (.st d a b) d (genAddr s a b) s) s
def execLdi (d a : BitVec 8) (imm : BitVec 10) (s : State) :=
  issue (.ldi d a imm) (fun s => loadOp (.ldi d a imm) d (immAddr s a imm) s) s
def execSti (d a : BitVec 8) (imm : BitVec 10) (s : State) :=
  issue (.sti d a imm) (fun s => storeOp (.sti d a imm) d (immAddr s a imm) s) s

/-- `ldq`: 16 bytes in four pieces (12 R331). -/
def execLdq (d a b : BitVec 8) (s : State) :=
  issue (.ldq d a b) (fun s => laneAccess (.ldq d a b)
    { loadMem 16 (.plain (modeLevel s)) with partialCommit := true } 16 (genAddr s a b) (loadLane 15 4 d 16) id s) s

/-- The value of four registers in a lane. -/
def quad (s : State) (d l : Nat) : Nat := pack 32 ((List.range 4).map (fun j => (readLane s (d + j) l).toNat))

def execStq (d a b : BitVec 8) (s : State) :=
  issue (.stq d a b) (fun s => laneAccess (.stq d a b)
    { storeMem 16 (.plain (modeLevel s)) with partialCommit := true } 16 (genAddr s a b)
    (storeLane (fun _ l => quad s d.toNat l) 16) id s) s

/-- The scope of an access to a place: block for the banks, system at the controller and for a register of the hub, else by
the level of the mode (03 R86, R90). -/
def placeScope (lvl : Nat) (q : Place) : Nat :=
  match q with
  | .win _ => 1
  | .dev _ => 3
  | .mem _ ps => if ps.any (fun p => !eC p.leaf.e) then 3 else levelScope lvl

/-- The scope of a release or acquire by the places of its lanes: the widest of theirs. -/
def accessScope (lvl : Nat) (qs : List Place) : Nat := qs.foldl (fun n q => max n (placeScope lvl q)) 0

/-- The places that a lane access reaches without a fault. -/
def placesOf (s : State) (p : LaneMem) (as : List (Nat × W64)) : List Place :=
  as.filterMap (fun a => match laneResolve s p a.2 a.1 with
    | .ok q => some q
    | .error _ => none)

/-- `ldacq`: an acquire access (03 R90). -/
def execLdacq (d a b : BitVec 8) (s : State) :=
  issue (.ldacq d a b) (fun s =>
    let t := modeType s
    let p := loadMem (memBytes t) (.sync (modeLevel s))
    let qs := placesOf s p ((lanesOf (actSet s)).map (fun l => (l, genAddr s a b l)))
    laneAccess (.ldacq d a b) p (memBytes t) (genAddr s a b) (loadLane t (opWidth s) d (memBytes t))
      (acquireAt (accessScope (modeLevel s) qs)) s) s

/-- `strel`: a release access (03 R90, R91). It waits until the lanes' earlier accesses have been performed, writes back,
and stores. -/
def execStrel (d a b : BitVec 8) (s : State) :=
  issue (.strel d a b) (afterWork (fun s =>
    let t := modeType s
    let n := opWidth s
    let p := storeMem (memBytes t) (.sync (modeLevel s))
    let scope := accessScope (modeLevel s) (placesOf s p ((lanesOf (actSet s)).map (fun l => (l, genAddr s a b l))))
    laneAccess (.strel d a b) p (memBytes t) (genAddr s a b)
      (fun s' l q => storeLane (fun _ l => srcN s n d.toNat l) (memBytes t) (releaseAt scope s') l q) id s)) s

/-! ### Atomics and home reductions (12 R333 to R335, 02 R60) -/

/-- The new value of an atomic add. -/
def atomAdd (t old b : Nat) : Nat := arith2 t home (· + ·) (add 0) old b

/-- An atomic at the lane's address in a: `f` gives the new value from the old one, b and d. -/
def atomic (i : Instr) (a : BitVec 8) (d b : BitVec 8) (ret : Bool) (f : Nat → Nat → Nat → Nat → Nat) (s : State) : State :=
  let t := modeType s
  let n := opWidth s
  let bytes := memBytes t
  laneAccess i { n := bytes, kind := .rmw, store := true, partialCommit := false, globalOnly := false, flagA := ret,
                 place := .home } bytes
    (fun l => src64 s a.toNat l)
    (fun s' l q =>
      let (s', old) := rmwAt s' q bytes (fun old => f t old (srcN s n b.toNat l) (srcN s n d.toNat l))
      (s', if ret then laneWords n d.toNat l old else [])) id s

def execAadd (d a b : BitVec 8) (s : State) :=
  issue (.aadd d a b) (atomic (.aadd d a b) a d b true (fun t o x _ => atomAdd t o x)) s
def execAmin (d a b : BitVec 8) (s : State) :=
  issue (.amin d a b) (atomic (.amin d a b) a d b true (fun t o x _ => minMax t false false o x)) s
def execAmax (d a b : BitVec 8) (s : State) :=
  issue (.amax d a b) (atomic (.amax d a b) a d b true (fun t o x _ => minMax t false true o x)) s
def execAand (d a b : BitVec 8) (s : State) :=
  issue (.aand d a b) (atomic (.aand d a b) a d b true (fun _ o x _ => o &&& x)) s
def execAor (d a b : BitVec 8) (s : State) :=
  issue (.aor d a b) (atomic (.aor d a b) a d b true (fun _ o x _ => o ||| x)) s
def execAxor (d a b : BitVec 8) (s : State) :=
  issue (.axor d a b) (atomic (.axor d a b) a d b true (fun _ o x _ => o ^^^ x)) s
def execAxch (d a b : BitVec 8) (s : State) :=
  issue (.axch d a b) (atomic (.axch d a b) a d b true (fun _ _ x _ => x)) s
def execAcas (d a b : BitVec 8) (s : State) :=
  issue (.acas d a b) (atomic (.acas d a b) a d b true (fun _ o x c => if o = c then x else o)) s
def execAinc (d a b : BitVec 8) (s : State) :=
  issue (.ainc d a b) (atomic (.ainc d a b) a d b true (fun _ o x _ => if x ≤ o then 0 else o + 1)) s
def execGred (a b : BitVec 8) (s : State) :=
  issue (.gred a b) (atomic (.gred a b) a 0 b false (fun t o x _ => atomAdd t o x)) s
def execGmin (a b : BitVec 8) (s : State) :=
  issue (.gmin a b) (atomic (.gmin a b) a 0 b false (fun t o x _ => minMax t false false o x)) s
def execGmax (a b : BitVec 8) (s : State) :=
  issue (.gmax a b) (atomic (.gmax a b) a 0 b false (fun t o x _ => minMax t false true o x)) s

/-! ### Gathers and scatters (12 R336 to R338, 02 R64 to R69) -/

/-- Bits of a group's line that its entries cover. -/
def groupBytes (s : State) (core : Nat) (key : Nat × Nat) : BitVec 128 :=
  (s.colls.filter (fun c => c.core == core && c.kind == key.2)).foldl (fun m c =>
    (c.elems.filter (fun e => !e.sent && e.line == key.1)).foldl (fun m e =>
      m ||| byteMask (e.va.toNat % 128) (memBytes c.ty.toNat)) m) 0

/-- Merge window of the block's priority class (02 R65): a window of 0 sends requests as soon as they are grouped. -/
def mergeWindow (s : State) (core : Nat) : Nat :=
  let cls := ((gridOf s).map Grid.cls).getD 0
  min 64 (bits (colcfgAt s core).toNat (8 * cls) 8)

/-- The groups of an operation that must leave at once: those that cover their line, all with a window of 0, and the oldest
one while 448 or more entries are held (02 R64, R65). -/
def sendDue (c : Coll) (s : State) : State :=
  let full := c.groups.filter (fun k => groupBytes s c.core k == BitVec.allOnes 128)
  let s := sendKeys c.core (if mergeWindow s c.core = 0 then c.groups else full) s
  if 448 ≤ collEntries s c.core then sendOldest c.core s else s

/-- Groups of the fragment with another kind whose bytes a new request overlaps (02 R64, case 4). -/
def clashing (s : State) (kind : Nat) (es : List Elem) (n : Nat) : Coll → Bool := fun c =>
  ofFront s c && c.kind != kind && c.elems.any (fun x => es.any (fun e =>
    e.va.toNat < x.va.toNat + memBytes c.ty.toNat && x.va.toNat < e.va.toNat + n))

/-- Puts the elements of the active lanes into the collector, under a flag, once it has entries for them (02 R78). The merge
window ends by MERGE_WINDOW_EXPIRY; a window element takes the same way (12 R338). The note takes effect when the operation
retires. -/
def collect (i : Instr) (kind : Nat) (d a : BitVec 8) (k : BitVec 4) (s : State) : State :=
  let t := modeType s
  let act := actSet s
  let base := readS s (2 * k.toNat)
  let core := collectorOf s.w.core
  if base.toNat % memBytes t != 0 then
    precise 0x05 s.f.mask base (MFault.aux { code := 5, cause := 0, level := 15, pool := 0, va := 0 } 0 0 (if kind = 0 then 0 else if kind = 1 then 1 else 2)) s
  else if act = 0 then retire i s
  else
    let es := collElems s t kind d.toNat a.toNat k.toNat act
    if orderHeld s (es.map (fun e => (e.lane, e.va))) (memBytes t) then holdAt .collect s
    else if 512 < collEntries s core + es.length then holdAt .collect (sendOldest core s)
    else
      let id := s.uid
      let c : Coll := { id := id, core := core, blk := s.blk.uid, wp := s.w.idx, instr := i, kind := kind,
                        ty := BitVec.ofNat 4 t, d := d.toNat, elems := es, note := BitVec.ofNat 2 (noteAt s.f s.f.pc),
                        own := s.f.mask, stopped := false, losses := 0, pc := s.f.pc, user := isUser s, mode := s.f.mode }
      let s := sendGroups (clashing s kind es (memBytes t)) s
      let owes := (List.range (opWidth s)).flatMap (fun j => (lanesOf act).map (regKey (d.toNat + j)))
      let s := if kind = 0 then addPend s (setA s.f) none .collector act [] 0 owes
               else addPend s (setB s.f) (some act) .collector act []
      sendDue c (push .mergeWindowExpiry (.unit id) { (advance s) with colls := s.colls ++ [c] })

def execGth (d a : BitVec 8) (k : BitVec 4) (s : State) := issue (.gth d a k) (collect (.gth d a k) 0 d a k) s
def execSct (d a : BitVec 8) (k : BitVec 4) (s : State) := issue (.sct d a k) (collect (.sct d a k) 1 d a k) s
def execScad (d a : BitVec 8) (k : BitVec 4) (s : State) := issue (.scad d a k) (collect (.scad d a k) 2 d a k) s

/-- The address of a `gthh` lane's second read, for an index within the extent (12 R339). -/
def elemAddr (base extent : W64) (w i : Nat) : Option W64 :=
  if extent.toNat ≤ i then none else some (base + BitVec.ofNat 64 (i * w))

/-- The two reads of `gthh` in one lane (12 R339, 02 R61): the value, or the fault and its unit. -/
def gthhLane (s : State) (g base extent : W64) (w : Nat) : Except (MFault × Nat) (State × Nat) :=
  match resolveGlobal s (isUser s) .read .home g 4 with
  | .error m => .error (m, 0)
  | .ok p =>
    let (s, i) := loadAt s p 4
    let s := keepLeaves s p
    match elemAddr base extent w i with
    | none => .ok (s, 0)
    | some e =>
      match resolveGlobal s (isUser s) .read .home e w with
      | .error m => .error (m, 6)
      | .ok q =>
        let (t, v) := loadAt s q w
        .ok (keepLeaves t q, v)

/-- The lanes of a `gthh` in ascending order: state, values and faults. -/
def gthhLanes (addr : Nat → W64) (base extent : W64) (w : Nat) :
    List Nat → State → State × List (Nat × Nat) × List (Nat × MFault × Nat)
  | [], s => (s, [], [])
  | l :: r, s =>
    match gthhLane s (addr l) base extent w with
    | .error (m, u) =>
      let (s, vs, bad) := gthhLanes addr base extent w r s
      (s, vs, (l, m, u) :: bad)
    | .ok (s, v) =>
      let (s, vs, bad) := gthhLanes addr base extent w r s
      (s, (l, v) :: vs, bad)

/-- The address of a lane's second read as its index now stands; none where there is no such read. -/
def secondAddr (s : State) (addr : Nat → W64) (base extent : W64) (w l : Nat) : Option W64 :=
  match resolveGlobal s (isUser s) .read .home (addr l) 4 with
  | .error _ => none
  | .ok p => elemAddr base extent w (loadAt s p 4).2

/-- Does an access of `gthh` meet bytes that a copy still owes? -/
def gthhHeld (s : State) (addr : Nat → W64) (base extent : W64) (w l : Nat) : Bool :=
  let held := fun (g : W64) (n : Nat) => match resolveGlobal s (isUser s) .read .home g n with
    | .error _ => false
    | .ok p => fillHeld s p n
  held (addr l) 4 || (secondAddr s addr base extent w l).any (fun e => held e w)

/-- `gthh` (12 R339). Both reads wait for the lane's own earlier elements in the collector and its earlier reads of the same
bytes (03 R80). -/
def execGthh (d a : BitVec 8) (k : BitVec 4) (s : State) :=
  issue (.gthh d a k) (fun s =>
    let i := Instr.gthh d a k
    let t := modeType s
    let w := memBytes t
    let act := actSet s
    let base := readS s (2 * k.toNat)
    let extent := readS s (2 * k.toNat + 1)
    let addr := fun l => src64 s a.toNat l
    let first := (lanesOf act).map (fun l => (l, addr l))
    let second := (lanesOf act).filterMap (fun l => (secondAddr s addr base extent w l).map (fun e => (l, e)))
    let crooked := first.filter (fun x => x.2.toNat % 4 != 0)
    if base.toNat % w != 0 then
      precise 0x05 s.f.mask base (MFault.aux { code := 5, cause := 0, level := 15, pool := 0, va := 0 } 0 0 0) s
    else if !crooked.isEmpty then alignFault .read crooked s
    else if (lanesOf act).any (gthhHeld s addr base extent w) then holdAt .fill s
    else if collHeld s first 4 || collHeld s second w || orderHeld s first 4 || orderHeld s second w then
      holdAt .collect (sendGroups (ofFront s) s)
    else
      let (u, vs, bad) := gthhLanes addr base extent w (lanesOf act) s
      let done := fun (as : List (Nat × W64)) => as.filter (fun x => vs.any (fun v => v.1 == x.1))
      let u := startMemory i u (setA s.f) none (lineGroups (done first))
        (vs.flatMap (fun x => laneWords (opWidth s) d.toNat x.1 (loadExt t x.2)))
        ((done first).map (fun x => (x.1, x.2.toNat, 4)) ++ (done second).map (fun x => (x.1, x.2.toNat, w))) bad.isEmpty
      match bad with
      | [] => retireMem i act u
      | (_, m, unit) :: _ =>
        faultPart i 1 (maskOf (bad.map Prod.fst)) (sameCode (bad.map (fun x => (x.1, x.2.1)))) m.code m.va
          (laneAux .read 0 unit m) (some (setA s.f, none)) u) s

/-! ### Prefetch (12 R340) -/

/-- A prefetch of one lane's line: into the home slice, at level stream with evict-first priority, and at level l1 into the
L1 as well. A window address, a page with C = 0 and an access that would fault or wait have no effect (01 R36). -/
def prefLane (l : Nat) (g : W64) (s : State) : State :=
  let lvl := (At.plain (modeLevel s)).level s (isPrivate g)
  match resolve s (isUser s) .read (.plain 1) g 1 l with
  | .ok (.mem k (p :: r)) =>
    if lvl != 2 && eC p.leaf.e && !fillHeld s (.mem k (p :: r)) 1 then
      let b := p.pa % 128
      let line := p.at (p.va - BitVec.ofNat 64 b) (p.pa - b) 128
      let s := keepLeaves s (.mem k (p :: r))
      if lvl = 0 then (l1Fill s line).1 else (homeRead s lvl line).1
    else s
  | _ => s

def execPref (a b : BitVec 8) (s : State) :=
  issue (.pref a b) (fun s =>
    retire (.pref a b) ((lanesOf (actSet s)).foldl (fun t l => prefLane l (genAddr s a b l) t) s)) s

end Sys2Proof.Machine
end

