-- ==== Sys2Proof/Machine/Scalar.lean ====
section
/-!
DEFINITION. The S page (10 R288 to R297): scalar arithmetic, scalar memory, lane reads, special registers, predicates,
partition, accumulator base and mode fields; and the scalar and mode forms of the L class (R300, R301).
-/
namespace Sys2Proof.Machine
open Sys2Proof.Machine.Num

/-! ### Arithmetic (10 R289) -/

/-- A scalar result, written and retired. -/
def scalar (i : Instr) (sd : BitVec 6) (v : W64) (s : State) : State := retire i (writeS s sd.toNat v)

/-- A scalar operation of two registers. -/
def sBin (i : Instr) (sd sa sb : BitVec 6) (f : W64 → W64 → W64) (s : State) : State :=
  scalar i sd (f (readS s sa.toNat) (readS s sb.toNat)) s

/-- A scalar operation of a register and the sign-extended immediate. -/
def sImm (i : Instr) (sd sa : BitVec 6) (imm : BitVec 10) (f : W64 → W64 → W64) (s : State) : State :=
  scalar i sd (f (readS s sa.toNat) (imm.signExtend 64)) s

/-- A truth value as 1 or 0. -/
def flag64 (b : Bool) : W64 := if b then 1 else 0

def execSAdd (sd sa sb : BitVec 6) (s : State) := issue (.sAdd sd sa sb) (sBin (.sAdd sd sa sb) sd sa sb (· + ·)) s
def execSSub (sd sa sb : BitVec 6) (s : State) := issue (.sSub sd sa sb) (sBin (.sSub sd sa sb) sd sa sb (· - ·)) s
def execSMul (sd sa sb : BitVec 6) (s : State) := issue (.sMul sd sa sb) (sBin (.sMul sd sa sb) sd sa sb (· * ·)) s
def execSMulh (sd sa sb : BitVec 6) (s : State) :=
  issue (.sMulh sd sa sb) (sBin (.sMulh sd sa sb) sd sa sb (fun x y => BitVec.ofInt 64 (x.toInt * y.toInt / 2 ^ 64))) s
def execSAnd (sd sa sb : BitVec 6) (s : State) := issue (.sAnd sd sa sb) (sBin (.sAnd sd sa sb) sd sa sb (· &&& ·)) s
def execSOr (sd sa sb : BitVec 6) (s : State) := issue (.sOr sd sa sb) (sBin (.sOr sd sa sb) sd sa sb (· ||| ·)) s
def execSXor (sd sa sb : BitVec 6) (s : State) := issue (.sXor sd sa sb) (sBin (.sXor sd sa sb) sd sa sb (· ^^^ ·)) s
def execSShl (sd sa sb : BitVec 6) (s : State) :=
  issue (.sShl sd sa sb) (sBin (.sShl sd sa sb) sd sa sb (fun x y => x <<< (y.toNat % 64))) s
def execSShr (sd sa sb : BitVec 6) (s : State) :=
  issue (.sShr sd sa sb) (sBin (.sShr sd sa sb) sd sa sb (fun x y => x >>> (y.toNat % 64))) s
def execSSar (sd sa sb : BitVec 6) (s : State) :=
  issue (.sSar sd sa sb) (sBin (.sSar sd sa sb) sd sa sb (fun x y => x.sshiftRight (y.toNat % 64))) s
def execSMin (sd sa sb : BitVec 6) (s : State) :=
  issue (.sMin sd sa sb) (sBin (.sMin sd sa sb) sd sa sb (fun x y => if y.slt x then y else x)) s
def execSMax (sd sa sb : BitVec 6) (s : State) :=
  issue (.sMax sd sa sb) (sBin (.sMax sd sa sb) sd sa sb (fun x y => if x.slt y then y else x)) s
def execSMinu (sd sa sb : BitVec 6) (s : State) :=
  issue (.sMinu sd sa sb) (sBin (.sMinu sd sa sb) sd sa sb (fun x y => if y.ult x then y else x)) s
def execSMaxu (sd sa sb : BitVec 6) (s : State) :=
  issue (.sMaxu sd sa sb) (sBin (.sMaxu sd sa sb) sd sa sb (fun x y => if x.ult y then y else x)) s
def execSMov (sd sa : BitVec 6) (s : State) :=
  issue (.sMov sd sa) (fun s => scalar (.sMov sd sa) sd (readS s sa.toNat) s) s
def execSCeq (sd sa sb : BitVec 6) (s : State) :=
  issue (.sCeq sd sa sb) (sBin (.sCeq sd sa sb) sd sa sb (fun x y => flag64 (x == y))) s
def execSClt (sd sa sb : BitVec 6) (s : State) :=
  issue (.sClt sd sa sb) (sBin (.sClt sd sa sb) sd sa sb (fun x y => flag64 (x.slt y))) s
def execSCltu (sd sa sb : BitVec 6) (s : State) :=
  issue (.sCltu sd sa sb) (sBin (.sCltu sd sa sb) sd sa sb (fun x y => flag64 (x.ult y))) s
def execSAddi (sd sa : BitVec 6) (imm : BitVec 10) (s : State) :=
  issue (.sAddi sd sa imm) (sImm (.sAddi sd sa imm) sd sa imm (· + ·)) s
def execSAndi (sd sa : BitVec 6) (imm : BitVec 10) (s : State) :=
  issue (.sAndi sd sa imm) (sImm (.sAndi sd sa imm) sd sa imm (· &&& ·)) s
def execSOri (sd sa : BitVec 6) (imm : BitVec 10) (s : State) :=
  issue (.sOri sd sa imm) (sImm (.sOri sd sa imm) sd sa imm (· ||| ·)) s
def execSXori (sd sa : BitVec 6) (imm : BitVec 10) (s : State) :=
  issue (.sXori sd sa imm) (sImm (.sXori sd sa imm) sd sa imm (· ^^^ ·)) s
def execSShli (sd sa : BitVec 6) (imm : BitVec 10) (s : State) :=
  issue (.sShli sd sa imm) (fun s => scalar (.sShli sd sa imm) sd (readS s sa.toNat <<< (imm.toNat % 64)) s) s
def execSShri (sd sa : BitVec 6) (imm : BitVec 10) (s : State) :=
  issue (.sShri sd sa imm) (fun s => scalar (.sShri sd sa imm) sd (readS s sa.toNat >>> (imm.toNat % 64)) s) s
def execSMuli (sd sa : BitVec 6) (imm : BitVec 10) (s : State) :=
  issue (.sMuli sd sa imm) (sImm (.sMuli sd sa imm) sd sa imm (· * ·)) s
def execSPopc (sd sa : BitVec 6) (s : State) :=
  issue (.sPopc sd sa) (fun s => scalar (.sPopc sd sa) sd (BitVec.ofNat 64 (popN 64 (readS s sa.toNat).toNat)) s) s
def execSClz (sd sa : BitVec 6) (s : State) :=
  issue (.sClz sd sa) (fun s => scalar (.sClz sd sa) sd (BitVec.ofNat 64 (clzN 64 (readS s sa.toNat).toNat)) s) s
def execLiS (sd : BitVec 6) (imm : BitVec 20) (s : State) :=
  issue (.liS sd imm) (fun s => scalar (.liS sd imm) sd (imm.signExtend 64) s) s

/-! ### Memory (10 R290, R291) -/

/-- A scalar access. -/
def scalarMem (k : Access) (n : Nat) (at' : At) (flagA : Bool) : LaneMem :=
  { n := n, kind := k, store := k != .read, partialCommit := false, globalOnly := false, flagA := flagA, place := at' }

/-- One scalar access of `n` bytes, an event of every lane of MASK: alignment precisely, waits for engines, collector and
earlier reads, then the access, or its fault replayed in place. A load lands under flag A in `sd`, a store completes under
flag B. -/
def scalarAccess (i : Instr) (k : Access) (at' : At) (n : Nat) (g : W64) (sd : Option (BitVec 6))
    (perform : State → Place → State × Nat) (after : Place → State → State) (s : State) : State :=
  let m := s.f.mask
  let p := scalarMem k n at' sd.isSome
  let flag := if sd.isSome then setA s.f else setB s.f
  let as := (lanesOf m).map (fun l => (l, g))
  if g.toNat % n != 0 then alignFault k as s
  else match laneResolve s p g (lowLane m) with
    | .error e => faultPart i 1 m m e.code e.va (laneAux k 0 0 e) (some (flag, some m)) s
    | .ok q =>
      if fillHeld s q n then holdAt .fill s
      else if collHeld s as n || orderHeld s as n || (p.store && wakeHeld s q n) then
        holdAt .collect (sendGroups (ofFront s) s)
      else
        let (t, v) := perform s q
        let t := after q (keepLeaves t q)
        retireMem i m (startMemory i t flag (some m) [m] (match sd with
          | some d => [.scalar d.toNat (BitVec.ofNat 64 v)]
          | none => []) (readsOf p as) true)

/-- The address of shape M. -/
def sAddr (s : State) (sa : BitVec 6) (imm : BitVec 10) : W64 := readS s sa.toNat + imm.signExtend 64

/-- A scalar load. -/
def sLoad (i : Instr) (n : Nat) (sd sa : BitVec 6) (imm : BitVec 10) (s : State) : State :=
  scalarAccess i .read (.plain (modeLevel s)) n (sAddr s sa imm) (some sd) (fun s q => loadAt s q n) (fun _ => id) s

/-- A scalar store. -/
def sStore (i : Instr) (n : Nat) (sd sa : BitVec 6) (imm : BitVec 10) (s : State) : State :=
  scalarAccess i .write (.plain (modeLevel s)) n (sAddr s sa imm) none
    (fun s q => (storeThrough s q (readS s sd.toNat).toNat n, 0)) (fun _ => id) s

def execSLd (sd sa : BitVec 6) (imm : BitVec 10) (s : State) := issue (.sLd sd sa imm) (sLoad (.sLd sd sa imm) 8 sd sa imm) s
def execSLd32 (sd sa : BitVec 6) (imm : BitVec 10) (s : State) :=
  issue (.sLd32 sd sa imm) (sLoad (.sLd32 sd sa imm) 4 sd sa imm) s
def execSSt (sd sa : BitVec 6) (imm : BitVec 10) (s : State) := issue (.sSt sd sa imm) (sStore (.sSt sd sa imm) 8 sd sa imm) s
def execSSt32 (sd sa : BitVec 6) (imm : BitVec 10) (s : State) :=
  issue (.sSt32 sd sa imm) (sStore (.sSt32 sd sa imm) 4 sd sa imm) s

/-- `s.ldacq`: an acquire access (03 R90). -/
def execSLdacq (sd sa : BitVec 6) (imm : BitVec 10) (s : State) :=
  issue (.sLdacq sd sa imm) (fun s =>
    scalarAccess (.sLdacq sd sa imm) .read (.sync (modeLevel s)) 8 (sAddr s sa imm) (some sd) (fun s q => loadAt s q 8)
      (fun q => acquireAt (placeScope (modeLevel s) q)) s) s

/-- `s.strel`: a release access (03 R90, R91). -/
def execSStrel (sd sa : BitVec 6) (imm : BitVec 10) (s : State) :=
  issue (.sStrel sd sa imm) (afterWork (fun s =>
    scalarAccess (.sStrel sd sa imm) .write (.sync (modeLevel s)) 8 (sAddr s sa imm) none (fun s q =>
      (storeThrough (releaseAt (placeScope (modeLevel s) q) s) q (readS s sd.toNat).toNat 8, 0)) (fun _ => id) s)) s

/-- A scalar atomic of 64 or 32 bits. -/
def sAtomic (i : Instr) (sd sa : BitVec 6) (w : BitVec 1) (f : Nat → Nat) (s : State) : State :=
  let n := if w = 1 then 4 else 8
  scalarAccess i .rmw .home n (readS s sa.toNat) (some sd) (fun s q => rmwAt s q n f) (fun _ => id) s

def execSAadd (sd sa sb : BitVec 6) (w : BitVec 1) (s : State) :=
  issue (.sAadd sd sa sb w) (fun s => sAtomic (.sAadd sd sa sb w) sd sa w (fun old => old + (readS s sb.toNat).toNat) s) s
def execSAcas (sd sa sb : BitVec 6) (w : BitVec 1) (s : State) :=
  issue (.sAcas sd sa sb w) (fun s =>
    let m := if w = 1 then 2 ^ 32 else 2 ^ 64
    sAtomic (.sAcas sd sa sb w) sd sa w (fun old =>
      if old = (readS s sd.toNat).toNat % m then (readS s sb.toNat).toNat % m else old) s) s

/-! ### Lane reads and special registers (10 R292, R293, 09 R267) -/

/-- `s.rdl`: flag A; a lane that the fragment does not hold reads 0. -/
def execSRdl (sd : BitVec 6) (r : BitVec 8) (lane : BitVec 5) (s : State) :=
  issue (.sRdl sd r lane) (fun s =>
    let v := if s.f.mask.getLsbD lane.toNat then readLane s r.toNat lane.toNat else 0
    retire (.sRdl sd r lane) (startLong s (some s.f.mask) s.f.mask [.scalar sd.toNat (v.setWidth 64)])) s

/-- The thread's linear index within its block, for the lowest lane of MASK. -/
def threadLin (s : State) : Nat := s.w.idx * (if narrow s then 4 else 32) + lowLane s.f.mask

/-- The context slot of a block on one of its cores. -/
def slotOn (b : Block) (core : Nat) : Nat := b.slots.getD (b.cores.findIdx (fun c => c == core)) 0

/-- A special register as `s.srd` reads it (09 R267). -/
def special (s : State) (idx : Nat) : W64 :=
  let dx := max 1 (rec s 0x14 2)
  let dy := max 1 (rec s 0x16 2)
  let n : Nat → W64 := BitVec.ofNat 64
  let g := gridOf s
  if idx = 0x000 then n (lowLane s.f.mask)
  else if idx = 0x001 then n (s.w.idx % 2 ^ 16)
  else if idx = 0x002 then n (s.blk.bx % 2 ^ 32)
  else if idx = 0x003 then n (s.blk.byy % 2 ^ 32)
  else if idx = 0x004 then n (s.blk.bz % 2 ^ 32)
  else if idx = 0x005 then n (threadLin s % dx)
  else if idx = 0x006 then n (threadLin s / dx % dy)
  else if idx = 0x007 then n (threadLin s / (dx * dy))
  else if idx = 0x008 then n (s.blk.gid % 2 ^ 32)
  else if idx = 0x009 then n ((g.map Grid.depth).getD 0)
  else if idx = 0x00A then n (coreOf s)
  else if idx = 0x00B then n (clusterOf s.w.core)
  else if idx = 0x00C then n (clusterOf s.w.core / 32)
  else if idx = 0x00D then n ((g.map Grid.cls).getD 0)
  else if idx = 0x010 then s.f.mode.setWidth 64
  else if idx = 0x011 then n s.w.part
  else if idx = 0x012 then s.w.acb.setWidth 64
  else if idx = 0x013 then s.w.xthr.setWidth 64
  else if idx = 0x014 then s.w.twbase
  else if idx = 0x015 then flag64 s.f.exp.isSome
  else if idx = 0x020 then n (s.cycles - Config.clockSkew (coreOf s))
  else if idx = 0x021 then n (s.timeUnits / 5045040)
  else if idx = 0x100 then s.w.trapcode
  else if idx = 0x101 then s.w.trapmask
  else if idx = 0x102 then s.w.trapva
  else if idx = 0x103 then s.w.trappc
  else if idx = 0x104 then s.w.trapaux
  else if idx = 0x105 then s.w.tvec
  else if idx = 0x106 then s.w.pool
  else if idx = 0x107 then n (asidOf s)
  else if idx = 0x108 then n (slotOn s.blk s.w.core)
  else 0

def execSSrd (sd : BitVec 6) (idx : BitVec 10) (s : State) :=
  issue (.sSrd sd idx) (fun s => scalar (.sSrd sd idx) sd (special s idx.toNat) s) s

/-- The fields that `s.swr` writes (10 R293, 07 R208, 01 R37). -/
def writeSpecial (s : State) (idx : Nat) (v : W64) : State :=
  let w := s.w
  let low := fun (n : Nat) => v &&& ~~~BitVec.ofNat 64 (2 ^ n - 1)
  let w :=
    if idx = 0x013 then { w with xthr := if 8 < v.toNat % 16 then 8 else BitVec.ofNat 4 v.toNat }
    else if idx = 0x014 then { w with twbase := v }
    else if idx = 0x100 then
      { w with trapcode := if v.getLsbD 17 then w.trapcode ||| 0x20000 else w.trapcode &&& ~~~0x20000 }
    else if idx = 0x103 then { w with trappc := low 2 }
    else if idx = 0x105 then { w with tvec := low 3 }
    else if idx = 0x106 then { w with pool := BitVec.ofNat 64 ((low 6).toNat % 2 ^ 56) }
    else w
  { s with w := w }

def execSSwr (idx : BitVec 10) (sa : BitVec 6) (s : State) :=
  issue (.sSwr idx sa) (fun s => retire (.sSwr idx sa) (writeSpecial s idx.toNat (readS s sa.toNat))) s

/-! ### Predicates (10 R294) -/

/-- The lanes that a predicate instruction writes: MASK, or all 32 bits under NOMASK. -/
def predWrite (s : State) : Lanes := if modeNomask s then 0xFFFFFFFF else s.f.mask

/-- A predicate operation. -/
def predOp (i : Instr) (pd : BitVec 3) (f : Nat → Bool) (s : State) : State :=
  retire i (writeP s pd.toNat (predWrite s) (mkLanes f))

def execPAnd (pd pa pb : BitVec 3) (s : State) :=
  issue (.pAnd pd pa pb) (fun s => predOp (.pAnd pd pa pb) pd (fun l => predBit s pa.toNat l && predBit s pb.toNat l) s) s
def execPOr (pd pa pb : BitVec 3) (s : State) :=
  issue (.pOr pd pa pb) (fun s => predOp (.pOr pd pa pb) pd (fun l => predBit s pa.toNat l || predBit s pb.toNat l) s) s
def execPXor (pd pa pb : BitVec 3) (s : State) :=
  issue (.pXor pd pa pb) (fun s => predOp (.pXor pd pa pb) pd (fun l => predBit s pa.toNat l != predBit s pb.toNat l) s) s
def execPAndn (pd pa pb : BitVec 3) (s : State) :=
  issue (.pAndn pd pa pb) (fun s => predOp (.pAndn pd pa pb) pd (fun l => predBit s pa.toNat l && !predBit s pb.toNat l) s) s
def execPNot (pd pa : BitVec 3) (s : State) :=
  issue (.pNot pd pa) (fun s => predOp (.pNot pd pa) pd (fun l => !predBit s pa.toNat l) s) s
def execPMov (pd : BitVec 3) (sa : BitVec 6) (s : State) :=
  issue (.pMov pd sa) (fun s => predOp (.pMov pd sa) pd (fun l => (readS s sa.toNat).getLsbD l) s) s

/-- A predicate within MASK. -/
def predMask (s : State) (pa : BitVec 3) : Lanes := readP s pa.toNat s.f.mask

def execPGet (sd : BitVec 6) (pa : BitVec 3) (s : State) :=
  issue (.pGet sd pa) (fun s => scalar (.pGet sd pa) sd ((predMask s pa).setWidth 64) s) s
def execPPop (sd : BitVec 6) (pa : BitVec 3) (s : State) :=
  issue (.pPop sd pa) (fun s => scalar (.pPop sd pa) sd (BitVec.ofNat 64 (lanesOf (predMask s pa)).length) s) s
def execPFfs (sd : BitVec 6) (pa : BitVec 3) (s : State) :=
  issue (.pFfs sd pa) (fun s => scalar (.pFfs sd pa) sd (BitVec.ofNat 64 ((lanesOf (predMask s pa)).headD 32)) s) s

/-! ### Partition, accumulator base, mode (10 R295 to R297, R301) -/

def execPart (imm : BitVec 10) (s : State) :=
  issue (.part imm) (fun s =>
    let n := if ownNarrow s then min 4 imm.toNat else imm.toNat
    retire (.part imm) { s with w := { s.w with part := n } }) s

/-- Accumulator tiles of the block on the issuing core (02 R46); a narrow block has none. -/
def tileCount (s : State) : Nat := if narrow s then 0 else s.blk.ntiles

def execAcb (sa : BitVec 6) (imm : BitVec 10) (s : State) :=
  issue (.acb sa imm) (fun s =>
    let n := (readS s sa.toNat).toNat + imm.toNat
    if tileCount s ≤ n then precise 0x10 s.f.mask 0 (BitVec.ofNat 64 (min n 0x7FF)) s
    else retire (.acb sa imm) { s with w := { s.w with acb := BitVec.ofNat 11 n } }) s

/-- A mode image with `n` bits at `lo` replaced. -/
def setField (m : BitVec 26) (lo n v : Nat) : BitVec 26 :=
  (m &&& ~~~BitVec.ofNat 26 ((2 ^ n - 1) * 2 ^ lo)) ||| BitVec.ofNat 26 (v % 2 ^ n * 2 ^ lo)

/-- The field that a code of `msf` names: place and width (09 R258). -/
def modeField (code : Nat) : Nat × Nat :=
  if code = 0 then (22, 4) else if code = 1 then (20, 2) else if code = 2 then (19, 1) else if code = 3 then (18, 1)
  else if code = 4 then (17, 1) else if code = 5 then (13, 4) else if code = 6 then (10, 3) else (8, 2)

def execMsf (val : BitVec 6) (code : BitVec 4) (s : State) :=
  issue (.msf val code) (fun s =>
    let (lo, n) := modeField code.toNat
    let s := retire (.msf val code) s
    { s with f := { s.f with mode := setField s.f.mode lo n val.toNat } }) s

def execMode (image : BitVec 26) (s : State) :=
  issue (.mode image) (fun s =>
    let s := retire (.mode image) s
    { s with f := { s.f with mode := image } }) s

end Sys2Proof.Machine
end

