-- ==== Sys2Proof/Machine/Control.lean ====
section
/-!
DEFINITION. The B class (10 R276 to R286): branches, divergence and reconvergence, export, calls, the end of lanes, and
flag waits; the marks and meetings of the join stack (05 R156, R157) and the end of warps (05 R150, R167).
-/
namespace Sys2Proof.Machine

/-! ### Targets and predicates (10 R276, R277) -/

/-- The target of an offset: counted in 8-byte units from the branch's own clause header. -/
def target (s : State) (off : BitVec 20) : W64 := s.f.hdr + 8 * off.signExtend 64

/-- Where the fragment falls through to. -/
def fallThrough (s : State) : W64 := nextClause s.f.pc

/-- The lanes of MASK in which a predicate selector is true. -/
def selected (s : State) (c : BitVec 4) : Lanes :=
  mkLanes (fun l => s.f.mask.getLsbD l && (predBit s (c.toNat % 8) l != c.getLsbD 3))

/-- A uniform branch. -/
def branchIf (i : Instr) (taken : Bool) (off : BitVec 20) (s : State) : State :=
  retireTo i (if taken then target s off else fallThrough s) s

def execBra (off : BitVec 20) (s : State) := issue (.bra off) (branchIf (.bra off) true off) s
def execBany (c : BitVec 4) (off : BitVec 20) (s : State) :=
  issue (.bany c off) (fun s => branchIf (.bany c off) (selected s c != 0) off s) s
def execBall (c : BitVec 4) (off : BitVec 20) (s : State) :=
  issue (.ball c off) (fun s => branchIf (.ball c off) (selected s c == s.f.mask) off s) s
def execBnon (c : BitVec 4) (off : BitVec 20) (s : State) :=
  issue (.bnon c off) (fun s => branchIf (.bnon c off) (selected s c == 0) off s) s
def execSbr (c : BitVec 4) (off : BitVec 20) (s : State) :=
  issue (.sbr c off) (fun s => branchIf (.sbr c off) (readS s (32 + c.toNat) != 0) off s) s

/-- `loop` (10 R278). -/
def execLoop (c : BitVec 4) (off : BitVec 20) (s : State) :=
  issue (.loop c off) (fun s =>
    let v := readS s (32 + c.toNat) - 1
    branchIf (.loop c off) (v != 0) off (writeS s (32 + c.toNat) v)) s

/-! ### Divergent branches (10 R279, 05 R151, R158, R159) -/

/-- STACK, precisely, with its cause. -/
def stackFault (cause : Nat) (s : State) : State := precise 0x0D s.f.mask 0 (BitVec.ofNat 64 (cause * 256)) s

/-- Splits the fragment at the front: the taken lanes keep the entry, the others receive a new one. -/
def split (i : Instr) (taken : Lanes) (off : BitVec 20) (s : State) : State :=
  let dest := target s off
  let fall := fallThrough s
  let rest := s.f.mask &&& ~~~taken
  let e := freeEnt s
  let s := retireTo i dest s
  let new : Frag := { s.f with ent := e, mask := rest, pc := fall, waited := 0, promoted := none }
  { s with f := { s.f with mask := taken }, w := { s.w with frags := insertBy Frag.ent new s.w.frags } }

/-- `brd`: moves whole, or splits; with no free entry an export is repatriated first, and in place the branch raises
STACK with cause 0x02. -/
def divergeBy (i : Instr) (c : BitVec 4) (off : BitVec 20) (s : State) : State :=
  let t := selected s c
  if t = s.f.mask then retireTo i (target s off) s
  else if t = 0 then retireTo i (fallThrough s) s
  else if entryFree s then split i t off s
  else
    let s := repatriateFront s
    if entryFree s then split i t off s else stackFault 0x02 s

def execBrd (c : BitVec 4) (off : BitVec 20) (s : State) := issue (.brd c off) (divergeBy (.brd c off) c off) s

/-- Does a block stand in a context slot? One that leaves does until it has streamed out. -/
def inSlot (b : Block) : Bool := b.st == .running || b.st == .shadow || b.st == .leaving

/-- Every warp of the device's blocks that stand in a context slot, with its block. -/
def residentWarps (s : State) : List Warp :=
  s.w :: (if inSlot s.blk then s.blk.warps else []) ++ (s.blocks.filter inSlot).flatMap Block.warps

/-- Warp slots of a narrow core that are held by its own warps or by exports (05 R158). -/
def slotsUsed (s : State) (core : Nat) : Nat :=
  (residentWarps s).foldl (fun n w =>
    n + (if w.core = core && w.launched != w.exited then 1 else 0)
      + ((w.exps.filter (fun e => e.core == core)).foldl (fun m e => m + e.nwarps) 0)) 0

/-- Narrow core of a cluster: half k (00 R3). -/
def narrowCore (cluster k : Nat) : Nat := 256 + 2 * cluster + k

/-- The narrow core that takes an export of `n` warps: the wide core's own k first. -/
def exportCore (s : State) (n : Nat) : Option Nat :=
  let c := clusterOf s.w.core
  let k := coreK s.w.core
  [narrowCore c k, narrowCore c (1 - k)].find? (fun x => slotsUsed s x + n ≤ 64)

/-- The minority side of a split: the one with fewer lanes, the not-taken one on a tie. -/
def minority (mask taken : Lanes) : Lanes :=
  let rest := mask &&& ~~~taken
  if (lanesOf taken).length < (lanesOf rest).length then taken else rest

/-- Exports the minority side (05 R159): one fragment per narrow warp of four lanes. -/
def exportSide (i : Instr) (side taken : Lanes) (core : Nat) (off : BitVec 20) (s : State) : State :=
  let pcSide := if side = taken then target s off else fallThrough s
  let pcMain := if side = taken then fallThrough s else target s off
  let map := lanesOf side
  let n := (map.length + 3) / 4
  let id := s.uid
  let s := fresh (retireTo i pcMain s)
  let part := fun j => maskOf ((map.drop (4 * j)).take 4)
  let e : Export := { id := id, core := core, nwarps := n, total := n, map := map, level := s.f.level, pulled := [],
                      held := [], dirty := [], pheld := [], pdirty := [], jst := [] }
  let jst := updLevel s.w.jst s.f.level.toNat (fun j => { j with counter := j.counter + n })
  let s := { s with f := { s.f with mask := s.f.mask &&& ~~~side }, w := { s.w with exps := s.w.exps ++ [e], jst := jst } }
  (List.range n).foldl (fun s j =>
    let new : Frag := { s.f with ent := freeEnt s, mask := part j, pc := pcSide, exp := some id, nw := j, waited := 0,
                                 promoted := none, wave := none }
    { s with w := { s.w with frags := insertBy Frag.ent new s.w.frags } }) s

/-- May the fragment export the lanes `side` (05 R158)? The narrow core that takes them. -/
def mayExport (s : State) (side : Lanes) : Option Nat :=
  let m := (lanesOf side).length
  let n := (m + 3) / 4
  if narrow s || s.f.exp.isSome || s.f.sup || s.w.xthr = 0 || s.w.xthr.toNat ≤ m || s.f.level = 0xFFFF
      || 16 < entriesUsed s.w s.f + 4 * n then none
  else exportCore s n

def execBrdx (c : BitVec 4) (off : BitVec 20) (s : State) :=
  issue (.brdx c off) (fun s =>
    let t := selected s c
    let side := minority s.f.mask t
    if t = s.f.mask || t = 0 then divergeBy (.brdx c off) c off s
    else match mayExport s side with
      | some core => exportSide (.brdx c off) side t core off s
      | none => divergeBy (.brdx c off) c off s) s

/-! ### The join stack and its spill area (05 R153 to R155) -/

/-- A new entry of `mark`. -/
def newEntry (s : State) (rejoin : W64) : JEntry :=
  { rejoin := rejoin, expected := s.f.mask, mode := s.f.mode, counter := 0, parent := s.f.level, free := false,
    spilled := false }

/-- Pushes an entry onto the warp's stack: the fragment's LEVEL becomes its level. -/
def pushEntry (i : Instr) (rejoin : W64) (s : State) : State :=
  let n := s.w.jst.length
  let e := newEntry s rejoin
  let s := retire i { s with w := { s.w with jst := s.w.jst ++ [e] } }
  { s with f := { s.f with level := BitVec.ofNat 16 n } }

/-- `mark` in place: pushes an entry, spilling the lowest one held when 16 are. -/
def markInPlace (i : Instr) (rejoin : W64) (s : State) : State :=
  let n := s.w.jst.length
  if (narrow s && 8 ≤ n) || (!narrow s && 16 + spillMax s ≤ n) then stackFault 0x03 s
  else if narrow s || heldEntries s < 16 then pushEntry i rejoin s
  else match spillPlace s with
    | .error m => faultPart i 1 s.f.mask s.f.mask m.code m.va (laneAux .write 0 0 m) none s
    | .ok q => if fillHeld s q 32 then holdAt .fill s else pushEntry i rejoin (spillTo q s)

/-- Entries of narrow warp `nw` on the narrow join stacks of its export: those that it freed at its top no longer count. -/
def narrowEntries (e : Export) (nw : Nat) : Nat :=
  (trimJoin ((e.jst.filter (fun p => p.1 == nw)).map Prod.snd)).length

/-- `mark` in an export: pushes onto the narrow join stack of 8 entries, or repatriates (05 R162). -/
def execMark (off : BitVec 20) (s : State) :=
  issue (.mark off) (fun s =>
    let i := Instr.mark off
    let dest := target s off
    match exportOf s with
    | none => markInPlace i dest s
    | some e =>
      if 8 ≤ narrowEntries e s.f.nw then markInPlace i dest (repatriateFront s)
      else
        let n := e.jst.length
        let s := updExport (retire i s) e.id (fun x => { x with jst := x.jst ++ [(s.f.nw, newEntry s dest)] })
        { s with f := { s.f with level := BitVec.ofNat 16 (narrowLevel + n) } }) s

/-- The join-stack entry of the fragment's LEVEL: on the narrow stack of its export, or on the warp's. -/
def levelEntry (s : State) : Option JEntry :=
  if s.f.level = 0xFFFF then none
  else if narrowLevel ≤ s.f.level.toNat then
    (match exportOf s with
     | some e => (e.jst[s.f.level.toNat - narrowLevel]?).map Prod.snd
     | none => none)
  else s.w.jst[s.f.level.toNat]?

/-- An exported narrow warp has finished once every part of it waits at the join of its parent's level or has exited
(05 R161): its return is due. -/
def noteReturn (x nw : Nat) (s : State) : State :=
  match s.w.exps.find? (fun e => e.id == x) with
  | none => s
  | some e =>
    let parts := (warpFrags s).filter (fun f => f.exp == some x && f.nw == nw)
    let a := EvArg.pull s.blk.uid s.w.idx x nw
    if parts.all (fun f => f.st == .atJoin && f.level == e.level) && !s.agenda.contains (.exportReturn, a) then
      push .exportReturn a s
    else s

/-- `join` (10 R281, 05 R156). The fragment waits; the join completes after the step (`settle`). -/
def execJoin (s : State) :=
  issue .join (fun s =>
    match levelEntry s with
    | none => stackFault 0x01 s
    | some e =>
      if e.spilled then
        let a := EvArg.triple s.blk.uid s.w.idx s.f.ent
        let s := holdAt .refill s
        if s.agenda.contains (.joinStackRefill, a) then s else push .joinStackRefill a s
      else if e.free || s.f.hdr != e.rejoin then stackFault 0x01 s
      else
        let s := retire .join s
        let s := { s with f := { s.f with st := .atJoin, inClause := false } }
        match s.f.exp with
        | some x => noteReturn x s.f.nw s
        | none => s) s

/-- `regang` (10 R282, 05 R157): the fragment waits at its own level; its group resumes after the step (`settle`). -/
def execRegang (s : State) :=
  issue .regang (fun s =>
    let s := retire .regang s
    { s with f := { s.f with st := .atRegang, inClause := false } }) s

/-! ### Calls (10 R283) -/

def execCall (off : BitVec 20) (s : State) :=
  issue (.call off) (fun s => retireTo (.call off) (target s off) (writeS s 46 (fallThrough s))) s

/-- A register jump: its target must be 8-byte aligned. -/
def jumpTo (i : Instr) (dest : W64) (s : State) : State :=
  if dest.toNat % 8 != 0 then alignFault .fetch ((lanesOf s.f.mask).map (fun l => (l, dest))) s else retireTo i dest s

def execRet (s : State) := issue .ret (fun s => jumpTo .ret (readS s 46) s) s
def execJr (c : BitVec 4) (s : State) := issue (.jr c) (fun s => jumpTo (.jr c) (readS s (32 + c.toNat)) s) s

/-! ### Ending lanes (10 R284) -/

/-- A register lane returned to its donor, with undefined contents (05 R167). -/
def undefinedRegs (tick low upTo : Nat) (v : Cells 32) : Cells 32 :=
  (List.range (upTo - low)).foldl (fun v j => (laneList).foldl (fun v l =>
    Cells.set v (regKey (low + j) l) (Config.returnedReg tick (regKey (low + j) l))) v) v

/-- Takes up to `n` blocks of registers back through the donations to a warp, the latest first: each donor gets what of its
donation the warp still holds. -/
def giveBack (s : State) : Nat → List (Nat × Nat × Nat) → State
  | _, [] => s
  | n, d :: r =>
    let k := min n d.2.2
    let give := fun (w : Warp) => if w.idx == d.1 then
      { w with allot := w.allot + 8 * k, v := undefinedRegs s.tick w.allot (w.allot + 8 * k) w.v } else w
    giveBack { s with w := { s.w with allot := s.w.allot - 8 * k }, blk := { s.blk with warps := s.blk.warps.map give } } (n - k) r

/-- The registers that an ended warp holds beyond its header allotment return to their donors, the latest donation first
(05 R167). Registers that it has donated onward stay where they are. -/
def returnDonations (s : State) : State :=
  let header := ((gridOf s).map (fun g => leBytes g.record 0x1C 1)).getD 0
  let s := giveBack s (s.w.allot / 8 - header) (s.blk.donations.filter (fun d => d.2.1 == s.w.idx)).reverse
  { s with blk := { s.blk with donations := s.blk.donations.filter (fun d => d.2.1 != s.w.idx) } }

/-- Have all warps of the block ended? -/
def warpsEnded (s : State) : Bool := (s.w :: s.blk.warps).all (fun w => w.launched == w.exited)

/-- What follows when lanes of the warp at the front have exited: barriers expect them no more (14 R387), an ended warp
returns donated registers, and the end of a block's last warp makes the block's end due. -/
def afterExit (s : State) : State :=
  let s := exitedThreads s
  if s.w.exited != s.w.launched then s
  else
    let s := returnDonations s
    if warpsEnded s then push .blockEnd (.unit s.blk.uid) s else s

/-- `exit` in a handler fragment: its lanes end, with the pending part discarded for them; the last handler fragment to
leave ends the handler (07 R210). -/
def exitHandler (s : State) : State :=
  let s := { s with w := { s.w with exited := s.w.exited ||| s.f.mask } }
  match otherHandlers s with
  | [] => endHandler 0 s
  | _ => { s with f := { s.f with mask := 0 } }

/-- Has a walk lanes of the fragment at the front? -/
def walksFor (s : State) (k : Walk) : Bool :=
  k.blk == s.blk.uid && k.wp == s.w.idx && k.lanes.any (fun p => s.f.mask.getLsbD p.1)

/-- A handler that ends its lanes with `exit` lets their suspended walks go on, as 07 R215 says they always do: the `exit`
then waits for their final stores. A walk whose next fault is queued stays suspended (log 88). -/
def wakeWalks (s : State) : State :=
  let queued := fun (k : Walk) => s.w.faultq.any (fun q => q.part == .walk k.id)
  let go := s.walks.filter (fun k => walksFor s k && k.suspended && !queued k)
  if !s.f.sup || go.isEmpty then s
  else go.foldl (fun s k => push .publicationWalk (.unit k.id) s)
    { s with walks := s.walks.map (fun k => if walksFor s k && !queued k then { k with suspended := false } else k) }

/-- `exit` sends the collector groups of its lanes and waits for the final stores of their `pub`s. -/
def execExit (s : State) :=
  issue .exit (fun s =>
    let s := sendGroups (ofFront s) s
    if s.walks.any (walksFor s) then holdAt .walks (wakeWalks s)
    else if s.f.sup then afterExit (exitHandler s)
    else
      let x := s.f.exp
      let nw := s.f.nw
      let s := { s with w := { s.w with exited := s.w.exited ||| s.f.mask }, f := { s.f with mask := 0, hold := .free } }
      let s := match x with
        | some x => noteReturn x nw s
        | none => s
      afterExit s) s

/-! ### Waiting in a clause (10 R285) -/

def execWait (mask : BitVec 12) (s : State) :=
  issue (.wait mask) (fun s => if flagsDone s.w s.f mask then retire (.wait mask) s else holdAt (.waits mask) s) s

end Sys2Proof.Machine
end

