-- ==== Sys2Proof/Machine/Fetch.lean ====
section
/-!
DEFINITION. Which fragment issues next (06 R180, R181), arriving at a clause header (09 R247, 02 R70), fetching and
decoding an instruction word (10 R276), and what follows every step: joins that complete (05 R156, R157, 02 R70) and
time.
-/
namespace Sys2Proof.Machine

/-! ### Wave splitting (02 R70) -/

/-- SPLIT of a clause header. -/
def splitBit (h0 : W32) : Bool := h0.getLsbD 1

/-- WAIT of a clause header. -/
def waitMask (h0 : W32) : BitVec 12 := BitVec.ofNat 12 (h0.toNat / 2 ^ 14)

/-- The lanes of a fragment whose parts of every waited flag are complete; all waited operations must have per-lane
parts, or no lane goes ahead. -/
def lanesDone (w : Warp) (f : Frag) (m : BitVec 12) : Lanes :=
  let mine := w.pend.filter (fun p => m.getLsbD p.flag.toNat && p.flag.toNat < 12 && p.counts f)
  if mine.any (fun p => !p.perLane) then 0 else mine.foldl (fun l p => l &&& ~~~p.lanes) f.mask

/-- Can the fragment be split at its header's wait? -/
def canWave (s : State) (b : Block) (w : Warp) (f : Frag) : Bool :=
  match f.hold with
  | .flags m => splitBit f.h0 && lanesDone w f m != 0 && lanesDone w f m != f.mask && entryFreeFor s b w f
  | _ => false

/-- Is every flag that the fragment's clause header waits on complete? -/
def headerDone (s : State) : Bool :=
  match s.f.hold with
  | .flags m => flagsDone s.w s.f m
  | _ => true

/-- Splits the fragment at the front: the lanes whose parts are complete continue, the others wait in a new entry. -/
def waveSplit (s : State) : State :=
  match s.f.hold with
  | .flags m =>
    let go := lanesDone s.w s.f m
    let id := s.f.wave.getD s.uid
    let rest : Frag := { s.f with ent := freeEnt s, mask := s.f.mask &&& ~~~go, wave := some id }
    let s := fresh { s with w := { s.w with frags := insertBy Frag.ent rest s.w.frags } }
    { s with f := { s.f with mask := go, hold := .free, wave := some id } }
  | _ => s

/-- The other parts of a wave split. -/
def waveParts (w : Warp) (f : Frag) : List Frag :=
  w.frags.filter (fun g => f.wave.isSome && g.wave == f.wave && g.ent != f.ent)

/-! ### May a held fragment be tried again? -/

/-- Is batch `b` numbered `n` or below in the window of 02 R75? -/
def batchUpTo (n b : BitVec 32) : Bool := (n - b).toNat < 2 ^ 31

/-- Have the warp's batches up to `n` completed (02 R75)? Copies of the open batch carry the number it will get. -/
def batchesDone (s : State) (blk wp : Nat) (n : BitVec 32) : Bool :=
  s.kicks.all (fun k => !(k.blk == blk && k.wp == wp && batchUpTo n k.batch))
    && s.copies.all (fun c => !(c.blk == blk && c.wp == wp && batchUpTo n c.batch))

/-- Does a wait word's condition hold (14 R397)? -/
def condHolds (cond : BitVec 2) (w v : Nat) : Bool :=
  if cond = 0 then w == v else if cond = 1 then w != v else v ≤ w

/-- The value of a wait word at its home or in the banks; none where the access faults. -/
def wordValue (s : State) (b : Block) (asid : Nat) (va : W64) : Option Nat :=
  if isWindow va then some (Cells.load b.win (va.toNat % 2 ^ 56) 8)
  else match agentRead s asid va 8 false with
    | .ok v => some v
    | .error _ => none

/-- Is an offer of a `rdon` the oldest that its warp makes to that recipient (14 R399)? -/
def firstOffer (w : Warp) (f : Frag) (other : Nat) : Bool :=
  w.frags.all (fun g => match g.hold with
    | .donate o _ => o != other || f.count ≤ g.count
    | _ => true)

/-- A graph, and a node of it. -/
def graphAt (s : State) (g : Nat) : Option Graph := s.graphs.find? (fun x => x.id == g)
def nodeAt (s : State) (g n : Nat) : Option Node := (graphAt s g).bind (fun x => x.nodes[n]?)

/-- Records in a cluster's queue for the node. -/
def Node.held (n : Node) (cluster : Nat) : Nat := (n.queue.filter (fun r => r.cluster == cluster)).length

/-- Launches that a die dispatcher holds: those with blocks still to start (06 R177). -/
def heldLaunches (s : State) (die : Nat) : Nat :=
  (s.grids.filter (fun g => g.die == die && g.next < g.total && g.dead.isNone)).length

/-- Has a full queue of active messages room: the receive queue of a cluster, or from 128 on the send queue of a port
(16 R420)? -/
def messageRoom (s : State) (c : Nat) : Bool :=
  if c < 128 then decide ((s.recvq.filter (fun m => m.cluster == c)).length < 64)
  else decide ((s.sendq.filter (fun m => s.dev.peers.any (fun p => p.n == m.peer && p.port.toNat == c - 128))).length < 256)

/-- Is there what a held `rpush` or `rpop` waits for (06 R202)? -/
def recordRoom (s : State) (b : Block) (asid : Nat) (w : Warp) (f : Frag) : Bool :=
  match f.hold with
  | .space g n => (match nodeAt s g n with
    | some x => decide (x.held (clusterOf w.core) < 64) || decide (x.ovf.length < x.ovfCap)
    | none => true)
  | .heldSpace va => (match agentRead s asid va 4 false, agentRead s asid (va + 0x10) 8 false with
    | .ok c, .ok v => c == 0 || decide (v / 2 ^ 32 < v % 2 ^ 32)
    | _, _ => true)
  | .record g n => (match nodeAt s g n with
    | some x => x.held (b.clusters.headD 0) != 0 || !x.ovf.isEmpty
    | none => true)
  | _ => true

/-- The address of handover entry `e` of a launch (06 R187). -/
def handoverVa (g : Grid) (e : Nat) : W64 := BitVec.ofNat 64 (leBytes g.record 0xE8 8 + 64 * e)

/-- Has the handover table of a block's launch a free entry (06 R187, R202)? One whose state cannot be read lets the
instruction be tried again, which then faults. -/
def handoverRoom (s : State) (b : Block) : Bool :=
  match s.grids.find? (fun g => g.gid == b.gid) with
  | none => true
  | some g => (List.range 256).any (fun e => match agentRead s g.asid (handoverVa g e + 0x36) 1 false with
    | .ok v => v == 0
    | .error _ => true)

/-- Does what the fragment is held for let its instruction be tried again? Holds that another agent ends are never
tried. -/
def holdOk (s : State) (b : Block) (asid : Nat) (w : Warp) (f : Frag) : Bool :=
  match f.hold with
  | .flags m => flagsDone w f m || canWave s b w f
  | .waits m => flagsDone w f m
  | .copies n => batchesDone s b.uid w.idx n
  | .word va cond v registered woken =>
    woken || (registered && (match wordValue s b asid va with
      | some x => condHolds cond x v.toNat
      | none => false))
  | .donate other _ => firstOffer w f other && w.exps.isEmpty && b.warps.any (fun r =>
      r.idx == other && r.exps.isEmpty && r.frags.any (fun g => g.hold == .accept w.idx))
  | .arrival _ | .barrier _ _ | .accept _ | .yield => false
  | .space _ _ | .heldSpace _ | .record _ _ => recordRoom s b asid w f
  | .entry => handoverRoom s b
  | .launch _ => heldLaunches s (clusterOf w.core / 32) < 64
  | .frames pool => !s.poolReqs.contains pool
  | .message c => messageRoom s c
  | .kick => (s.kicks.filter (fun k => k.core == w.core)).length < 16
  | .collect => laneWorkDone s b.uid w f
  | .walks => true
  | .fuse _ => (waveParts w f).all (fun g => match g.hold with | .fuse _ => true | _ => false)
  | .tret => w.pend.all (fun p => !p.sup) && (w.frags.all (fun g => !g.sup || g.ent == f.ent || g.hold == .tret))
  | _ => true

/-- May a fragment be chosen? Its block runs, it neither waits at a join or regang nor is stopped by a queued fault of
its own. -/
def mayIssue (s : State) (b : Block) (asid : Nat) (w : Warp) (f : Frag) : Bool :=
  f.mask != 0 && (f.st == .ready || f.st == .sleeping) && (f.sup || w.faultq.all (fun q => q.ent != f.ent))
    && holdOk s b asid w f

/-- The core that issues a fragment's instructions (05 R158). -/
def issueCore (w : Warp) (f : Frag) : Nat :=
  match f.exp with
  | none => w.core
  | some x => match w.exps.find? (fun e => e.id == x) with
    | some e => e.core
    | none => w.core

/-- A fragment that could issue. -/
structure Cand where
  blk : Nat
  wp : Nat
  ent : Nat
  core : Nat
  waited : Nat
  promoted : Option Nat
  deriving DecidableEq, Repr

/-- The ASID of a block's grid. -/
def blockAsid (s : State) (b : Block) : Nat :=
  ((s.grids.find? (fun g => g.gid == b.gid)).map Grid.asid).getD 0

/-- The fragments that could issue, every fragment put back among its warp's. -/
def candidates (s : State) : List Cand :=
  let s := unfocus s
  (s.blocks.filter (fun b => b.st == .running)).flatMap (fun b =>
    b.warps.flatMap (fun w =>
      (w.frags.filter (fun f => mayIssue s b (blockAsid s b) w f)).map (fun f =>
        { blk := b.uid, wp := w.idx, ent := f.ent, core := issueCore w f, waited := f.waited, promoted := f.promoted })))

/-- Does one candidate of a core go before another (06 R181)? Promoted fragments in the order of promotion, then the one
ready longest. -/
def before (a b : Cand) : Bool :=
  match a.promoted, b.promoted with
  | some m, some n => m ≤ n
  | some _, none => true
  | none, some _ => false
  | none, none => b.waited ≤ a.waited

/-- A core's choice among the candidates: of two that have been ready equally long, the one first by block, warp and entry
(log 90). -/
def bestOf : List Cand → Option Cand
  | [] => none
  | c :: r => match bestOf r with
    | none => some c
    | some d => if before c d then some c else some d

/-- The candidates that their cores choose: one for each core. -/
def perCore : List Nat → List Cand → List Cand
  | [], _ => []
  | n :: r, cs => match bestOf (cs.filter (fun c => c.core == n)) with
    | some c => c :: perCore r cs
    | none => perCore r cs

/-- The fragment that issues next: the choice of one core, which core being free (log 1). -/
def choose (s : State) : Option Cand :=
  let cs := candidates s
  match perCore (cs.map Cand.core).eraseDups cs with
  | [] => none
  | [c] => some c
  | c :: r => (c :: r)[Config.issuePick s.tick % (r.length + 1)]?

/-! ### Fetch -/

/-- The line that the instruction cache of the issuing core holds. A line may have been replaced by now (log 6). -/
def icacheFind (s : State) (pc : W64) : Option ILine :=
  let core := issueCore s.w s.f
  match s.icache.find? (fun x => x.core == core && x.asid == effAsid (asidOf s) (vaOf pc) && x.la == lineOf pc) with
  | some x => if Config.fetchReplaced s.tick (lineOf pc) then none else some x
  | none => none

/-- Reads `n` instruction bytes at a global address (01 R28, R30, 10 R276): from the core's instruction cache, or from their
home, which fills it. A page with C = 0 is never kept (01 R32). -/
def fetch (s : State) (pc : W64) (n : Nat) : Except MFault (Nat × State) :=
  let off := vaOf pc % 128
  match notGlobal pc, icacheFind s pc with
  | some m, _ => .error m
  | none, some x =>
    (match denied x.leaf.toNat .fetch (!s.f.sup) with
     | some c => .error (prot c pc)
     | none => .ok (Cells.load x.data off n, s))
  | none, none =>
    match translate s (asidOf s) (!s.f.sup) .fetch pc n with
    | .error m => .error m
    | .ok p =>
      let line := p.at (p.va - BitVec.ofNat 64 off) (p.pa - off) 128
      let (s, v) := homeRead (keepLeaves s (.mem 1 [p])) 1 line
      let x : ILine := { core := issueCore s.w s.f, asid := p.asid, la := lineOf pc, data := Cells.store [] 0 v 128,
                         leaf := BitVec.ofNat 64 p.leaf.e }
      let rest := s.icache.filter (fun y => !(y.core == x.core && y.asid == x.asid && y.la == x.la))
      .ok (v / 256 ^ off % 256 ^ n, if eC p.leaf.e then { s with icache := x :: rest } else s)

/-- An instruction fetch fault: precise, in the whole fragment, TRAPPC holding the word's address (10 R276). -/
def fetchFault (m : MFault) (s : State) : State := precise m.code s.f.mask m.va (m.aux 0 1 3) s

/-- Does the b field of a V3 op carry a register? The op is looked at with operands that every instruction accepts; a value
of the op field that names no instruction has no register operand. -/
def takesB (op : Nat) : Bool :=
  let b := fun (i : Instr) => match i with
    | .gth _ _ _ | .sct _ _ _ | .scad _ _ _ | .gthh _ _ _ => true
    | i => !(operands { State.reset with f := { Frag.empty with mode := 0 } } i).vb.isEmpty
  match Decode.decodeWord (BitVec.ofNat 32 (op * 2 ^ 24)), Decode.decodeWord (BitVec.ofNat 32 (op * 2 ^ 24 + 4 * 2 ^ 16)) with
  | .ok i, _ | _, .ok i => b i
  | _, _ => false

/-- Is a word of a class that takes a note, and may it carry that one (09 R247)? -/
def noteOk (w note : Nat) : Bool :=
  if note = 0 then true
  else if w / 2 ^ 31 = 0 then note != 3 || takesB (w / 2 ^ 24)
  else w / 2 ^ 30 = 2 && note != 3

/-- Are the fields of a clause header ones that 09 R247 accepts? `words` are the clause's words, where they can be read. -/
def headerOk (h0 h1 : Nat) (words : List (Option Nat)) : Bool :=
  let count := bits h0 2 4
  let set := fun n => n < 12 || n = 15
  h0 / 2 ^ 26 = 63 && !bit h0 0 && set (bits h0 10 4) && set (bits h0 6 4) && h1 / 4 ^ (count + 1) = 0
    && ((List.range (count + 1)).all (fun i => match words.getD i none with
        | some w => noteOk w (bits h1 (2 * i) 2)
        | none => true))

/-- The words of a clause, each where its fetch succeeds. -/
def clauseWords (s : State) (pc : W64) (count : Nat) : List (Option Nat) :=
  (List.range (count + 1)).map (fun i =>
    match fetch s (pc + 8 + 4 * BitVec.ofNat 64 i) 4 with
    | .ok (w, _) => some w
    | .error _ => none)

/-- The fragment arrives at a clause header. A bad header is ILL, precisely (09 R247). A part of a wave split that
reaches a clause whose split bit is clear waits for the other parts and fuses with them (02 R70). -/
def arrive (s : State) : State :=
  match fetch s s.f.pc 8 with
  | .error m => fetchFault m s
  | .ok (h, s) =>
    let h0 := h % 2 ^ 32
    let h1 := h / 2 ^ 32
    if !headerOk h0 h1 (clauseWords s s.f.pc (bits h0 2 4)) then
      precise 0x01 s.f.mask 0 (BitVec.ofNat 64 h0) s
    else if s.f.wave.isSome && !splitBit (BitVec.ofNat 32 h0) && !(waveParts s.w s.f).all (fun g => match g.hold with
        | .fuse _ => g.pc == s.f.pc
        | _ => false) then
      holdAt (.fuse (s.f.wave.getD 0)) s
    else
      let fuse := s.f.wave.isSome && !splitBit (BitVec.ofNat 32 h0)
      let parts := if fuse then waveParts s.w s.f else []
      let mask := parts.foldl (fun m g => m ||| g.mask) s.f.mask
      let frags := s.w.frags.filter (fun g => !parts.any (fun p => p.ent == g.ent))
      let w0 := waitMask (BitVec.ofNat 32 h0)
      { s with
        f := { s.f with mask := mask, wave := if fuse then none else s.f.wave, hdr := s.f.pc, inClause := true,
                        h0 := BitVec.ofNat 32 h0, h1 := BitVec.ofNat 32 h1, pc := s.f.pc + 8, latch := [],
                        hold := if w0 = 0 then .free else .flags w0 }
        w := { s.w with frags := frags } }

/-- Is an instruction a control transfer (09 R247): every B-class op except `wait`? -/
def isTransfer (i : Instr) : Bool :=
  match i with
  | .bra _ | .brd _ _ | .brdx _ _ | .bany _ _ | .ball _ _ | .bnon _ _ | .mark _ | .call _ | .jr _ | .loop _ _
  | .sbr _ _ | .join | .regang | .ret | .exit => true
  | _ => false

/-- What the word at the program counter gives: an instruction, or the fault that fetching or decoding it raises. A
control transfer that is not its clause's last word is ILL (09 R247, R266). -/
inductive Fetched where
  | instr (i : Instr) (s : State)
  | bad (w : Nat) (s : State)
  | fault (m : MFault)

/-- Fetches and decodes the word at the program counter. -/
def fetchInstr (s : State) : Fetched :=
  match fetch s s.f.pc 4 with
  | .error m => .fault m
  | .ok (w, s) =>
    match Decode.decodeWord (BitVec.ofNat 32 w) with
    | .error _ => .bad w s
    | .ok i => if isTransfer i && !lastWord s.f then .bad w s else .instr i s

/-- A word that decodes to no instruction: ILL, precisely (07 R212). -/
def illegalWord (w : Nat) (s : State) : State := precise 0x01 s.f.mask 0 (BitVec.ofNat 64 w) s

/-! ### After a step -/

/-- Replaces the fragments for which `p` holds by one. -/
def fuseInto (fs : List Frag) (p : Frag → Bool) (g : Frag) : List Frag := insertBy Frag.ent g (fs.filter (fun x => !p x))

/-- The union of fragments' lanes. -/
def lanesUnion (fs : List Frag) : Lanes := fs.foldl (fun m f => m ||| f.mask) 0

/-- The fragments that wait at one join merge into one entry; once its lanes are the expected ones that have not exited
and no exported warp is outstanding, it takes the saved mode and the parent level and continues (05 R156). The result is
the fragment and whether the join has completed. -/
def joined (e : JEntry) (exited : Lanes) (fs : List Frag) : Option (Frag × Bool) :=
  match fs with
  | [] => none
  | g :: _ =>
    let g := { g with mask := lanesUnion fs, wave := none }
    if e.free || e.counter != 0 || g.mask &&& ~~~exited != e.expected &&& ~~~exited then some (g, false)
    else some ({ g with mode := e.mode, level := e.parent, st := .ready, hold := .free }, true)

/-- The join of level `n` of the warp's stack. Returned lanes of exports are lanes of the waiting fragment. -/
def settleJoin (s : State) (n : Nat) : State :=
  let here := fun (f : Frag) => f.st == .atJoin && f.level.toNat == n && f.exp.isNone
  match s.w.jst[n]? with
  | none => s
  | some e =>
    match joined e s.w.exited (s.w.frags.filter here) with
    | none => s
    | some (g, done) =>
      let jst := if done then trimJoin (updLevel s.w.jst n (fun j => { j with free := true })) else s.w.jst
      { s with w := { s.w with frags := fuseInto s.w.frags here g, jst := jst } }

/-- Drops the free entries at the top of an export's narrow join stacks. -/
def trimNarrow (l : List (Nat × JEntry)) : List (Nat × JEntry) := (l.reverse.dropWhile (fun p => p.2.free)).reverse

/-- The join of entry `n` of an export's narrow join stacks. -/
def settleNarrow (x : Nat) (s : State) (n : Nat) : State :=
  let here := fun (f : Frag) => f.st == .atJoin && f.level.toNat == narrowLevel + n && f.exp == some x
  match s.w.exps.find? (fun e => e.id == x) with
  | none => s
  | some e =>
    match e.jst[n]? with
    | none => s
    | some p =>
      match joined p.2 s.w.exited (s.w.frags.filter here) with
      | none => s
      | some (g, done) =>
        let s := { s with w := { s.w with frags := fuseInto s.w.frags here g } }
        if done then updExport s x (fun e => { e with jst := trimNarrow (e.jst.modify n (fun q => (q.1, { q.2 with free := true }))) })
        else s

/-- The fragments of a group that wait at one regang resume as one fragment, which keeps the mode of the lowest lane's. -/
def fuseRegang (s : State) (grp : List Frag) : State :=
  let mask := lanesUnion grp
  match grp.find? (fun f => f.mask.getLsbD (lowLane mask)) with
  | none => s
  | some low =>
    let fused : Frag := { low with mask := mask, st := .ready, hold := .free }
    { s with w := { s.w with frags := fuseInto s.w.frags (fun f => grp.any (fun h => h.ent == f.ent)) fused } }

/-- Resumes the group waiting at the lowest regang address of a level (05 R157), once every live fragment of the level
waits, sleeps or has exited: every one in place, those of a handler among them, or every part of one export. The parts of
an export fuse within each narrow warp, and fragments of a handler only with one another (log 23). -/
def settleRegang (s : State) (lv : BitVec 16) (x : Option Nat) : State :=
  let peers := s.w.frags.filter (fun f => f.level == lv && f.exp == x)
  let waiting := peers.filter (fun f => f.st == .atRegang)
  match waiting with
  | [] => s
  | g :: _ =>
    if !peers.all (fun f => f.st == .atRegang || f.st == .atJoin || f.st == .sleeping) then s
    else
      let pc := waiting.foldl (fun (m : W64) f => if f.pc < m then f.pc else m) g.pc
      let grp := waiting.filter (fun f => f.pc == pc)
      let seats := (grp.map (fun f => (f.nw, f.sup))).eraseDups
      seats.foldl (fun s k => fuseRegang s (grp.filter (fun f => (f.nw, f.sup) == k))) s

/-- The joins and regangs of the warp at the front that have become complete. -/
def settle (s : State) : State :=
  let s := unfocusFrag s
  let s := (List.range s.w.jst.length).foldl settleJoin s
  let s := s.w.exps.foldl (fun s e => (List.range e.jst.length).foldl (settleNarrow e.id) s) s
  let keys := ((s.w.frags.filter (fun f => f.st == .atRegang)).map (fun f => (f.level, f.exp))).eraseDups
  keys.foldl (fun s k => settleRegang s k.1 k.2) s

/-- Cycles that the present step takes (log 9). -/
def stepCycles (s : State) : Nat := 1 + Config.stallCycles s.tick

/-- The candidates of a step that is not theirs have been ready and unchosen for its cycles too; at 48 they are to be
promoted. A fragment that could not issue is not ready, and its time begins anew (06 R181). -/
def ageWaiters (c : Option Cand) (s : State) : State :=
  let cs := (candidates s).filter (fun d => some d != c)
  let n := stepCycles s
  let ageF := fun (b : Block) (w : Warp) (f : Frag) =>
    { f with waited := if cs.any (fun d => d.blk == b.uid && d.wp == w.idx && d.ent == f.ent) then f.waited + n else 0 }
  let ageW := fun (b : Block) (w : Warp) => { w with frags := w.frags.map (ageF b w) }
  let s := unfocus s
  let s := { s with blocks := s.blocks.map (fun b => { b with warps := b.warps.map (ageW b) }) }
  (cs.filter (fun d => d.waited < 48 && 48 ≤ d.waited + n && d.promoted.isNone)).foldl
    (fun s d => push .issuePromotion (.triple d.blk d.wp d.ent) s) s

/-- Time passes: the step's cycles, and the nanoseconds they take at the arithmetic clock's present rate (19 R445). -/
def passTime (s : State) : State :=
  let n := stepCycles s
  { s with tick := s.tick + 1, cycles := s.cycles + n,
           timeUnits := s.timeUnits + n * (64 * 720720 / (16 - s.trust.throttle)) }

end Sys2Proof.Machine
end

