-- ==== Sys2Proof/Machine/Objects.lean ====
section
/-!
DEFINITION. Object memory (04): references and their targets, the destination checks of `stref`, and the instructions
`ldref`, `stref`, `pub` and `ohdr` (R131 to R136). The walker's own steps are events (Machine/Walker.lean).
-/
namespace Sys2Proof.Machine

/-! ### Targets and owners (04 R134) -/

/-- What a reference names: nothing, or an object with its header granule's state, its owner and its size in granules. -/
inductive Target where
  | none
  | obj (state owner size : Nat)
  deriving DecidableEq, Repr

/-- A fault of OBJ or ESCAPE (04 R135). -/
def objFault (cause : Nat) (va : W64) : MFault :=
  { code := if cause < 0x30 then 0x0A else 0x09, cause := cause, level := 15, pool := 0, va := va }

/-- The header word of the HEAD granule in which a piece lies, read at its home. -/
def headerWord (s : State) (p : Piece) : Nat := homeValueOf s p.header

/-- target_of of 04 R134, with the checks 0x20 and 0x21; `at'` is the address that such a fault reports. -/
def targetOf (s : State) (asid : Nat) (user : Bool) (ref at' : W64) : Except MFault Target :=
  if ref = 0 then .ok .none
  else if ref.toNat / 2 ^ 55 != 0 then .error (objFault 0x20 at')
  else match translate s asid user .read ref 1 with
    | .error m => .error m
    | .ok p =>
      let g := gran s p.pa
      if !eOBJ p.leaf.e || isDevLeaf p.leaf.e || granState g = 0 then .ok .none
      else if !(granHead g && ref.toNat % 64 == 0) then .error (objFault 0x21 at')
      else
        let h := headerWord s p
        .ok (.obj (granState g) (bits h 40 16) (bits h 0 32))

/-- Must a look at a reference's target wait for a copy that still owes bytes of its header's line (02 R74)? -/
def refHeld (s : State) (asid : Nat) (ref : W64) : Bool :=
  ref.toNat / 2 ^ 55 == 0 && ref != 0 && rangeHeld s (effAsid asid (vaOf ref)) ref

/-- The object granule at a virtual address, on OBJ pages of the lower half only (04 R123). -/
def objGranule (s : State) (asid va : Nat) : Option Piece :=
  if bit va 55 then none
  else match leafOf s asid (genOf va) with
    | .error _ => none
    | .ok l => if eOBJ l.e && !isDevLeaf l.e then
        some { asid := asid, va := genOf va, pa := leafPa s l va, n := 8, leaf := l, hit := false } else none

/-- The nearest HEAD granule at or below a granule's address, over at most `fuel` granules, and how many granules below
it lies. -/
def findHead (s : State) (asid va : Nat) : Nat → Nat → Option (Piece × Nat)
  | 0, _ => none
  | fuel + 1, k =>
    match objGranule s asid (va - 64 * k) with
    | none => none
    | some p =>
      if granHead (gran s p.pa) then some (p, k)
      else if va < 64 * (k + 1) then none
      else findHead s asid va fuel (k + 1)

/-- The HEAD granule from which the object of a destination is found (04 R134). -/
def destHead (s : State) (d : W64) : Option (Piece × Nat) := findHead s (asidOf s) (vaOf d / 64 * 64) 16384 0

/-- Is the object in which a destination lies owned by the block (04 R134)? -/
def destOwned (s : State) (d : W64) : Bool :=
  match destHead s d with
  | none => false
  | some (p, k) =>
    let h := headerWord s p
    decide (k < bits h 0 32) && bits h 40 16 == s.blk.owner.toNat

/-- The destination checks of 04 R134: the cause of an ESCAPE. -/
def destCheck (s : State) (d : W64) (p : Place) (t : Target) : Option Nat :=
  match t, p with
  | .none, _ => none
  | .obj st owner _, .mem _ [q] =>
    if st = 3 then none
    else
      let g := if eOBJ q.leaf.e then granState (gran s q.pa) else 0
      if g = 0 then some (if st = 2 then 0x33 else 0x30)
      else if g = 1 then
        (if destOwned s d && (st = 2 || owner == s.blk.owner.toNat) then none else some 0x32)
      else some (if st = 2 then 0x33 else 0x31)
  | .obj st _ _, .dev _ => if st = 3 then none else some (if st = 2 then 0x33 else 0x30)
  | .obj _ _ _, _ => none

/-- The reference that a lane stores. -/
def refOf (s : State) (d : BitVec 8) (l : Nat) : W64 := src64 s d.toNat l

/-! ### `ldref` (04 R133) -/

/-- The tag of an 8-byte word that a load has just read: an L1 copy carries its own (04 R124). A private word, which is two
pieces, has none. -/
def loadedTag (s : State) (q : Place) : Bool :=
  match q with
  | .mem lvl [p] =>
    if !eOBJ p.leaf.e then false
    else if atL1 lvl p then
      (match l1Find s (halfOf s (lineOf p.va)) p.asid (lineOf p.va) with
       | some x => x.tags.getLsbD (p.pa % 128 / 8)
       | none => tagAt s p.pa)
    else tagAt s p.pa
  | _ => false

def execLdref (d a b : BitVec 8) (s : State) :=
  issue (.ldref d a b) (fun s => laneAccess (.ldref d a b) (loadMem 8 (.plain (modeLevel s))) 8 (genAddr s a b)
    (fun s l q =>
      let (s, v) := loadAt s q 8
      (s, laneWords 2 d.toNat l (v % 2 ^ 63 + (if loadedTag s q then 2 ^ 63 else 0)))) id s) s

/-! ### `stref` (04 R134) -/

/-- The place of a reference store: the home slice, or the controller where the mode says sys. -/
def refAt (s : State) : At := .plain (if modeLevel s = 2 then 2 else 1)

/-- Phase 1 for one lane: the destination's place. -/
def strefCheck (s : State) (g ref : W64) (l : Nat) : Except MFault Place :=
  match targetOf s (asidOf s) (isUser s) ref g with
  | .error m => .error m
  | .ok t =>
    match resolve s (isUser s) .ref (refAt s) g 8 l with
    | .error m => .error m
    | .ok p =>
      match checkHeader s p g with
      | .error m => .error m
      | .ok p =>
        match destCheck s g p t with
        | some c => .error (objFault c g)
        | none => .ok p

/-- Must phase 1 wait for bytes that a copy still owes: in the target's header, or in the header of the destination's
object (02 R74)? -/
def strefHeld (s : State) (g ref : W64) : Bool :=
  refHeld s (asidOf s) ref || (isGlobal g && (destHead s g).any (fun h => rangeHeld s h.1.asid h.1.va))

/-- Sets the tag of a word just stored: at its home unless the L1 took the store, and of the issuing half's copy. -/
def setRefTag (s : State) (q : Place) (ref : W64) : State :=
  match q with
  | .mem lvl [p] =>
    if !eOBJ p.leaf.e || ref = 0 then s
    else
      let s := if atL1 lvl p then s else setTag s p.pa true
      match l1Find s (halfOf s (lineOf p.va)) p.asid (lineOf p.va) with
      | some x => l1Keep s { x with tags := x.tags ||| BitVec.ofNat 16 (2 ^ (p.pa % 128 / 8)) }
      | none => s
  | _ => s

/-- Stores a reference with its tag. -/
def storeRef (ref : W64) (s : State) (q : Place) : State := setRefTag (storeThrough s q ref.toNat 8) q ref

/-- Is a fault one of the precise checks of `stref` and `pub`? -/
def isObj (m : MFault) : Bool := m.code == 0x09 || m.code == 0x0A

def execStref (d a b : BitVec 8) (s : State) :=
  issue (.stref d a b) (fun s =>
    let i := Instr.stref d a b
    let act := actSet s
    let as := (lanesOf act).map (fun l => (l, genAddr s a b l))
    let crooked := as.filter (fun x => x.2.toNat % 8 != 0)
    let rs := as.map (fun x => (x.1, strefCheck s x.2 (refOf s d x.1) x.1))
    let bad := rs.filterMap (fun x => match x.2 with
      | .error m => some (x.1, m)
      | .ok _ => none)
    let good := rs.filterMap (fun x => match x.2 with
      | .error _ => none
      | .ok q => some (x.1, q))
    let objs := bad.filter (fun x => isObj x.2)
    if !crooked.isEmpty then alignFault .ref crooked s
    else if good.any (fun x => fillHeld s x.2 8) || as.any (fun x => strefHeld s x.2 (refOf s d x.1)) then holdAt .fill s
    else if collHeld s as 8 || orderHeld s as 8 || good.any (fun x => wakeHeld s x.2 8) then
      holdAt .collect (sendGroups (ofFront s) s)
    else match objs with
      | (_, m) :: _ => precise m.code (sameCode objs) m.va (laneAux .ref 0 0 m) s
      | [] =>
        let t := good.foldl (fun t x => keepLeaves (storeRef (refOf s d x.1) t x.2) x.2) s
        let t := startMemory i t (setB s.f) (some act) (lineGroups (as.filter (fun x => good.any (fun g => g.1 == x.1)))) [] []
          bad.isEmpty
        match bad with
        | [] => retireMem i act t
        | (_, m) :: _ =>
          faultPart i 1 (maskOf (bad.map Prod.fst)) (sameCode bad) m.code m.va (laneAux .ref 0 0 m)
            (some (setB s.f, some act)) t) s

/-! ### `ohdr` (04 R132) -/

/-- The granules of an object from a virtual address upward, lowest first: all lie in the lower half (04 R123). -/
def granules (s : State) (va : W64) : Nat → Except MFault (List Piece)
  | 0 => .ok []
  | n + 1 =>
    match granules s va n with
    | .error m => .error m
    | .ok r =>
      let g := va + BitVec.ofNat 64 (64 * n)
      if g.toNat / 2 ^ 55 != 0 then .error (objFault 0x22 va)
      else match translate s (asidOf s) (isUser s) .rmw g 8 with
      | .error m => .error m
      | .ok p => if eOBJ p.leaf.e && !isDevLeaf p.leaf.e then .ok (r ++ [p]) else .error (objFault 0x22 va)

/-- The checks of one lane before anything is claimed: where its granules lie. A template whose SIZE is out of range names
no object: only its header's page is looked at (log 22). -/
def ohdrCheck (s : State) (g : W64) (t : Nat) : Except MFault (List Piece) :=
  let size := bits t 0 32
  match granules s g (if size = 0 || 16384 < size then 1 else size) with
  | .error m => .error { m with va := if isObj m then g else m.va }
  | .ok ps => if size = 0 || 16384 < size || bits t 32 24 != 0 then .error (objFault 0x23 g) else .ok ps

/-- Creates an object over its granules: state, HEAD, tags and header (04 R132), at their homes. -/
def createObject (s : State) (t : Nat) (ps : List Piece) : State :=
  let s := dropCopies s ps
  let s := ps.foldl (fun s p => setGran s p.pa 0x100) s
  match ps.head? with
  | none => s
  | some h =>
    let s := homeWrite s 1 h (bits t 56 8 * 2 ^ 56 + s.blk.owner.toNat * 2 ^ 40 + 2 ^ 32 + bits t 0 32)
    setGran s h.pa 0x500

/-- Does an object lie in lines that a copy still owns (02 R74)? -/
def objHeld (s : State) (ps : List Piece) : Bool := ps.any (fun p => rangeHeld s p.asid p.va)

/-- Lanes in ascending order claim their granules; those that meet a granule that is not PLAIN fail. -/
def ohdrLanes : List (Nat × W64 × Nat × List Piece) → State → State × List (Nat × MFault)
  | [], s => (s, [])
  | (l, g, t, ps) :: r, s =>
    if ps.any (fun p => granState (gran s p.pa) != 0) then
      let (s, bad) := ohdrLanes r s
      (s, (l, objFault 0x25 g) :: bad)
    else ohdrLanes r (createObject s t ps)

def execOhdr (d a b : BitVec 8) (s : State) :=
  issue (.ohdr d a b) (fun s =>
    let i := Instr.ohdr d a b
    let act := actSet s
    let as := (lanesOf act).map (fun l => (l, genAddr s a b l))
    let crooked := as.filter (fun x => x.2.toNat % 64 != 0)
    let rs := as.map (fun x => (x.1, x.2, (refOf s d x.1).toNat, ohdrCheck s x.2 (refOf s d x.1).toNat))
    let bad := rs.filterMap (fun x => match x.2.2.2 with
      | .error m => some (x.1, m)
      | .ok _ => none)
    let good := rs.filterMap (fun x => match x.2.2.2 with
      | .error _ => none
      | .ok ps => some (x.1, x.2.1, x.2.2.1, ps))
    let (t, clash) := ohdrLanes good s
    let objs := insertAll (bad.filter (fun x => isObj x.2)) clash
    if !crooked.isEmpty then alignFault .write crooked s
    else if good.any (fun x => objHeld s x.2.2.2) then holdAt .fill s
    else if collHeld s as 64 || orderHeld s as 64 then holdAt .collect (sendGroups (ofFront s) s)
    else match objs with
      | (_, m) :: _ => precise m.code (sameCode objs) m.va (laneAux .write 0 0 m) s
      | [] =>
        let t := startMemory i t (setB s.f) (some act) (lineGroups (as.filter (fun x => good.any (fun g => g.1 == x.1)))) [] []
          bad.isEmpty
        match bad with
        | [] => retireMem i act t
        | (_, m) :: _ =>
          faultPart i 1 (maskOf (bad.map Prod.fst)) (sameCode bad) m.code m.va (laneAux .rmw 0 0 m)
            (some (setB s.f, some act)) t) s
where
  /-- Two lists of lanes merged in ascending order. -/
  insertAll (x y : List (Nat × MFault)) : List (Nat × MFault) := y.foldl (fun l p => insertBy Prod.fst p l) x

/-! ### `pub` (04 R136) -/

/-- Phase 1 of `pub` for one lane: the checks 0x20, 0x21 and 0x24, and the ownership of a PRIVATE root. -/
def pubCheck (s : State) (g ref : W64) (l : Nat) : Except MFault Unit :=
  match targetOf s (asidOf s) (isUser s) ref g with
  | .error m => .error m
  | .ok t =>
    match resolve s (isUser s) .ref (.sync (modeLevel s)) g 8 l with
    | .error m => .error m
    | .ok p =>
      match checkHeader s p g with
      | .error m => .error m
      | .ok _ =>
        match t with
        | .obj 1 owner _ => if owner == s.blk.owner.toNat then .ok () else .error (objFault 0x32 g)
        | _ => .ok ()

/-- Lane entries in a cluster's pub queue (04 R145); walks of stopped blocks have left it (R144). -/
def pubQueued (s : State) (cluster : Nat) : Nat :=
  (s.walks.filter (fun w => w.cluster == cluster && !w.parked)).foldl (fun n w => n + w.lanes.length) 0

/-- The final store of a `pub`, as an access of its lanes. -/
def pubMem (s : State) : LaneMem := { storeMem 8 (.sync (modeLevel s)) with kind := .ref }

/-- The walk of a `pub` for its lanes: lane, destination and reference. -/
def newWalk (s : State) (cluster : Nat) (lanes : List (Nat × W64 × W64)) : Walk :=
  { id := s.uid, blk := s.blk.uid, wp := s.w.idx, cluster := cluster, pend := s.uid, lanes := lanes, active := false,
    queue := [], pos := 0, word := 0, flipped := false, waits := [], suspended := false, parked := false, pc := s.f.pc,
    mode := s.f.mode, user := isUser s }

/-- `pub`: the checks, the release, and an entry of each lane in the cluster's walker. PAGE and PROT met by the checks
leave the whole instruction pending (log 22). -/
def execPub (d a b : BitVec 8) (s : State) :=
  issue (.pub d a b) (fun s =>
    let i := Instr.pub d a b
    let act := actSet s
    let as := (lanesOf act).map (fun l => (l, genAddr s a b l))
    let crooked := as.filter (fun x => x.2.toNat % 8 != 0)
    let bad := as.filterMap (fun x => match pubCheck s x.2 (refOf s d x.1) x.1 with
      | .error m => some (x.1, m)
      | .ok _ => none)
    let objs := bad.filter (fun x => isObj x.2)
    let cluster := clusterOf s.w.core
    if !crooked.isEmpty then alignFault .ref crooked s
    else if as.any (fun x => refHeld s (asidOf s) (refOf s d x.1)) then holdAt .fill s
    else match objs, bad with
      | (_, m) :: _, _ => precise m.code (sameCode objs) m.va (laneAux .ref 0 0 m) s
      | [], (_, m) :: _ =>
        faultPart i 1 act (sameCode bad) m.code m.va (laneAux .ref 0 0 m) (some (setB s.f, some act)) s
      | [], [] =>
        if act = 0 then retire i s
        else afterWork (fun s =>
          if 64 < pubQueued s cluster + as.length then holdAt .walks s
          else
            let t := releaseAt (accessScope (modeLevel s) (placesOf s (pubMem s) as)) s
            let w := newWalk t cluster (as.map (fun x => (x.1, x.2, refOf s d x.1)))
            let t := addPend t (setB t.f) (some act) .other act []
            retire i (push .publicationWalk (.unit w.id) { t with walks := t.walks ++ [w] })) s) s

end Sys2Proof.Machine
end

