-- ==== Sys2Proof/Machine/Tile.lean ====
section
/-!
DEFINITION. The matrix engine (13 R357 to R369, R378, R379): handles, the operand cache (02 R48), quarter operations, the
accumulator tiles, sparsity, and the tile predicates.
-/
namespace Sys2Proof.Machine
open Sys2Proof.Machine.Num

/-! ### Handles (13 R357 to R359, 02 R53) -/

/-- The fields of a handle (13 R357). -/
structure HandleF where
  rows : Nat
  pitch : Nat
  off : Nat
  aux : Nat
  res : Nat                  -- reserved bits
  tr : Bool
  bud : Bool
  swz : Nat
  slot : Nat
  cols : Nat
  deriving DecidableEq, Repr

/-- The fields of a handle's 128 bits; word 0 is the low half. -/
def handleOf (v : BitVec 128) : HandleF :=
  let n := v.toNat
  { rows := bits n 48 16, pitch := bits n 32 16, off := bits n 0 32, aux := bits n 96 32, res := bits n 88 8,
    tr := bit n 87, bud := bit n 86, swz := bits n 83 3, slot := bits n 80 3, cols := bits n 64 16 }

/-- Handle `h` of quarter `q`. -/
def handleBits (s : State) (q : Nat) (h : BitVec 4) : BitVec 128 := Cells.get s.w.h (16 * q + h.toNat)
def handleAt (s : State) (q : Nat) (h : BitVec 4) : HandleF := handleOf (handleBits s q h)

/-- Where the byte at a logical offset lies (02 R53). -/
def HandleF.swizzle (h : HandleF) (o : Nat) : Nat :=
  if h.swz = 0 || h.pitch = 0 then o
  else
    let t := 4 + h.swz
    o ^^^ (((o - h.off) / h.pitch % 2 ^ (11 - t) * 2 ^ t) &&& 0x7E0)

/-- The type that a slot's element format stands for (08 R238). -/
def codeType (code : Nat) : Nat :=
  if code = 1 then 2 else if code = 2 then 3 else if code = 3 then 4 else if code = 4 then 5 else if code = 8 then 10
  else if code = 9 then 11 else if code = 10 then 8 else if code = 11 then 9 else if code = 12 then 0 else 1

/-- Bytes of an element, or of a Zennis block. -/
def unitBytes (code : Nat) : Nat := if isZb code then zbBytes code else memBytes (codeType code)

/-- Stored rows and columns of a handle's matrix. -/
def HandleF.srows (h : HandleF) : Nat := if h.tr then h.cols else h.rows
def HandleF.scols (h : HandleF) : Nat := if h.tr then h.rows else h.cols

/-- Bytes of a stored row. -/
def HandleF.rowBytes (h : HandleF) (code : Nat) : Nat :=
  if isZb code then (h.scols + 15) / 16 * unitBytes code else h.scols * unitBytes code

/-- Stored row and position of a logical element. -/
def HandleF.stored (h : HandleF) (r c : Nat) : Nat × Nat := if h.tr then (c, r) else (r, c)

/-- Bytes from a stored row's start to an element, or to the block that holds it. -/
def inRow (code sc : Nat) : Nat := if isZb code then sc / 16 * unitBytes code else sc * unitBytes code

/-- The logical window offset of an element, or of the block that holds it (13 R359). -/
def HandleF.place (h : HandleF) (code r c : Nat) : Nat :=
  h.off + (h.stored r c).1 * h.pitch + inRow code (h.stored r c).2

/-- Is a logical element within the handle's extent? -/
def HandleF.has (h : HandleF) (r c : Nat) : Bool := r < h.rows && c < h.cols

/-- What an instruction uses a handle for: an A or B operand, a destination, or the source of `accld` (13 R359; log 25). -/
inductive Role where
  | a | b | dst | src
  deriving DecidableEq, Repr

/-- Does a handle break a check of 13 R359? -/
def HandleF.bad (h : HandleF) (s : State) (slot code : Nat) (role : Role) : Bool :=
  let z := unitBytes code
  h.slot != slot
    || (if isZb code then
          (role == .a && h.tr) || (role == .b && !h.tr) || (role == .dst && (h.tr || h.cols % 16 != 0))
        else h.off % z != 0 || h.pitch % z != 0)
    || (h.rows != 0 && h.cols != 0 &&
        decide (s.blk.winSize < h.off + (h.srows - 1) * h.pitch + h.rowBytes code))

/-! ### Live quarters and checks (13 R358, R360) -/

/-- The tile-guard bits in force (13 R378): z0 reads all ones. -/
def tileGuard (s : State) : BitVec 4 := if modeTguard s = 0 then 15 else s.w.z.getD (modeTguard s) 15

/-- The lanes of a quarter. -/
def quarterMask (q : Nat) : Lanes := BitVec.ofNat 32 (0xFF * 2 ^ (8 * q))

/-- The active lanes of a quarter. -/
def quarterLanes (s : State) (q : Nat) : Lanes := actSet s &&& quarterMask q

/-- The live quarters, in ascending order. -/
def liveQuarters (s : State) : List Nat :=
  [0, 1, 2, 3].filter (fun q => quarterLanes s q != 0 && (tileGuard s).getLsbD q)

/-- The active lanes of some quarters. -/
def lanesOfQuarters (s : State) (qs : List Nat) : Lanes := qs.foldl (fun m q => m ||| quarterLanes s q) 0

/-- A check made in every live quarter: its code, and the TRAPAUX of a quarter that fails it. -/
abbrev Check := Nat × (Nat → Option Nat)

/-- The first check that fails: code, the active lanes of the quarters that fail it, and the lowest one's TRAPAUX. -/
def firstFault (s : State) (qs : List Nat) : List Check → Option (Nat × Lanes × Nat)
  | [] => none
  | (code, f) :: r =>
    match qs.filterMap (fun q => (f q).map (fun a => (q, a))) with
    | [] => firstFault s qs r
    | (q, a) :: t => some (code, lanesOfQuarters s (q :: t.map Prod.fst), a)

/-- A quarter operation: early checks, waits, checks that read the window, and the effect in the live quarters. -/
def tileOp (i : Instr) (early : List Check) (held : List Nat → Bool) (late : List Check)
    (k : List Nat → State → State) (s : State) : State :=
  let qs := liveQuarters s
  if qs.isEmpty then retire i s
  else match firstFault s qs early with
    | some (code, m, a) => precise code m 0 (BitVec.ofNat 64 a) s
    | none =>
      if held qs then holdAt .fill s
      else match firstFault s qs late with
        | some (code, m, a) => precise code m 0 (BitVec.ofNat 64 a) s
        | none => k qs s

/-- A truth value as a check's result. -/
def failIf (b : Bool) (aux : Nat) : Option Nat := if b then some aux else none

/-- FMT of a slot whose code the instruction does not take (08 R239). -/
def fmtCheck (k : Slot) (ok : List Nat) : Check := (0x16, fun _ => failIf (!ok.contains k.code) (k.n + 256 * k.code))

/-- The codes of matrix operands, of sparse ones, and of conversions (08 R238, 13 R360). -/
def matrixCodes : List Nat := [2, 3, 8, 9, 0x10, 0x11, 0x12]
def sparseCodes : List Nat := [2, 3, 8, 9]
def storeCodes : List Nat := [1, 2, 3, 4, 8, 9, 10, 11, 12, 13, 0x10, 0x11, 0x12]

/-- K of a code (08 R238). -/
def matrixK (code : Nat) : Nat := if code = 2 || code = 3 then 32 else if code = 0x11 then 128 else if code = 0x12 then 256 else 64

/-- HANDLE of a handle in a role. -/
def handleCheck (s : State) (k : Slot) (h : BitVec 4) (role : Role) : Check :=
  (0x11, fun q => failIf ((handleAt s q h).bad s k.n k.code role) h.toNat)

/-- HANDLE of several handles together: within a quarter in the order given. -/
def handleChecks (s : State) (k : Slot) (l : List (BitVec 4 × Role)) (more : Nat → Option Nat) : Check :=
  (0x11, fun q => match l.filterMap (fun p => (handleCheck s k p.1 p.2).2 q) with
    | a :: _ => some a
    | [] => more q)

/-- Starts a flag-B operation with one part per live quarter (13 R382). -/
def startQuarters (qs : List Nat) (s : State) : State :=
  let act := lanesOfQuarters s qs
  let id := s.uid
  qs.foldl (fun t q => push .quarterOperationCompletion (.lanes s.blk.uid s.w.idx id (quarterLanes s q)) t)
    (addPend s (setB s.f) (some act) .quarter act [])

/-! ### Accumulator tiles (02 R46, 13 R367, R370) -/

/-- The place of the warp's core among its block's. -/
def coreIdx (s : State) : Nat := s.blk.cores.idxOf s.w.core

/-- The key of word `i` of a tile. -/
def tileKey (s : State) (t i : Nat) : Nat := (coreIdx s * 2048 + t) * 512 + i

/-- Word `i` of a tile. -/
def tileWord (s : State) (t i : Nat) : W32 := Cells.get s.blk.tiles (tileKey s t i)

/-- Writes words of a tile. -/
def setTile (s : State) (t : Nat) (l : List (Nat × Nat)) : State :=
  { s with blk := { s.blk with tiles := l.foldl (fun c p => Cells.set c (tileKey s t p.1) (BitVec.ofNat 32 p.2)) s.blk.tiles } }

/-- Tiles of a list of length k (13 R370). -/
def listTiles (k : Nat) : Nat := (16 * k + 255) / 256

/-- Does a ranked list of the warp's core hold a tile? -/
def RankList.holds (s : State) (x : RankList) (t : Nat) : Bool :=
  x.core == coreIdx s && decide (x.first ≤ t) && decide (t < x.first + listTiles x.k)

/-- Is a tile one of a ranked list? -/
def listed (s : State) (t : Nat) : Bool := s.blk.lists.any (fun x => x.holds s t)

/-- Undeclares the lists that hold one of `n` tiles from `t`. -/
def undeclare (s : State) (t n : Nat) : State :=
  { s with blk := { s.blk with lists := s.blk.lists.filter (fun x => !(List.range n).any (fun j => x.holds s (t + j))) } }

/-- ACC of a tile beyond the block's count (02 R46), or, for a plain tile, of a ranked list. -/
def accBad (s : State) (plain : Bool) (t : Nat) : Option Nat := failIf (tileCount s ≤ t || (plain && listed s t)) (t % 2048)

/-- The tile of a quarter: ACB + 4 × off + q (13 R360). -/
def tileOf (s : State) (off : BitVec 5) (q : Nat) : Nat := s.w.acb.toNat + 4 * off.toNat + q

/-! ### The operand cache (02 R48, R49, 03 R108; log 24) -/

/-- A byte of the operand tile, its stored rows one after another; where it lies in the window. -/
def HandleF.packed (h : HandleF) (code b : Nat) : Option Nat :=
  let rb := h.rowBytes code
  if rb = 0 || h.srows ≤ b / rb then none else some (h.swizzle (h.off + b / rb * h.pitch + b % rb))

/-- Does a granule that a copy still owes hold one of some window bytes (02 R74)? -/
def bytesHeld (s : State) (l : List Nat) : Bool := s.blk.fillPend.any (fun f => l.any (fun o => o / 128 == f.1))

/-- The window bytes of a piece. -/
def pieceBytes (h : HandleF) (code p : Nat) : List Nat := (List.range 1024).filterMap (fun i => h.packed code (1024 * p + i))

/-- A piece of an operand tile as the window holds it. -/
def pieceData (s : State) (h : HandleF) (code p : Nat) : List Byte :=
  (List.range 1024).map (fun i => match h.packed code (1024 * p + i) with
    | some o => Cells.get s.blk.win o
    | none => 0)

/-- The first 64 entries of a core, and those of the others. -/
def trimOperands (core : Nat) (l : List OpLine) : List OpLine :=
  (l.filter (fun e => e.core == core)).take 64 ++ l.filter (fun e => e.core != core)

/-- Reads a piece through the operand cache: under the handle's contents and the window generation an entry still held
gives what it was filled with, which may have been replaced meanwhile; otherwise the piece is filled from the window. -/
def cachePiece (s : State) (hv : BitVec 128) (code p : Nat) : State × List Byte :=
  let hit := fun (e : OpLine) => e.core == s.w.core && e.blk == s.blk.uid && e.handle == hv && e.gen == s.blk.gen && e.piece == p
  let new : OpLine := { core := s.w.core, blk := s.blk.uid, handle := hv, gen := s.blk.gen, piece := p,
                        data := pieceData s (handleOf hv) code p }
  let e := match s.opc.find? hit with
    | some e => if Config.operandReplaced s.tick p then new else e
    | none => new
  ({ s with opc := trimOperands s.w.core (e :: s.opc.filter (fun x => !hit x)) }, e.data)

/-- Reads pieces in order. -/
def cachePieces (hv : BitVec 128) (code : Nat) : List Nat → State → State × List (Nat × List Byte)
  | [], s => (s, [])
  | p :: r, s =>
    let (s, d) := cachePiece s hv code p
    let (s, l) := cachePieces hv code r s
    (s, (p, d) :: l)

/-- The byte of an operand tile at which an element, or its block, starts. -/
def HandleF.packedAt (h : HandleF) (code r c : Nat) : Nat :=
  (h.stored r c).1 * h.rowBytes code + inRow code (h.stored r c).2

/-- The pieces that some logical elements lie in. -/
def piecesOf (h : HandleF) (code : Nat) (l : List (Nat × Nat)) : List Nat :=
  (l.flatMap (fun x => if h.has x.1 x.2 then
    [h.packedAt code x.1 x.2 / 1024, (h.packedAt code x.1 x.2 + unitBytes code - 1) / 1024] else [])).eraseDups

/-- Do pieces of a quarter's operand meet granules that a copy still owes? -/
def operandHeld (s : State) (q : Nat) (h : BitVec 4) (code : Nat) (l : List (Nat × Nat)) : Bool :=
  let f := handleAt s q h
  !s.blk.fillPend.isEmpty && (piecesOf f code l).any (fun p => bytesHeld s (pieceBytes f code p))

/-- The number that bytes of pieces hold. -/
def fromPieces (ps : List (Nat × List Byte)) (b : Nat) : Nat → Nat
  | 0 => 0
  | n + 1 => (((lookup (b / 1024) ps).getD []).getD (b % 1024) 0).toNat + 256 * fromPieces ps (b + 1) n

/-- An element of a matrix format, exactly (08 R241): `raw` is the element, or the block that holds it. -/
def matrixVal (code raw i : Nat) : Val := if isZb code then zbElem code raw i else valOf (codeType code) false raw

/-- Reads logical elements of a quarter's operand: their raw bits, zero outside the extent. -/
def readOperand (q : Nat) (h : BitVec 4) (code : Nat) (l : List (Nat × Nat)) (s : State) : State × (Nat → Nat → Nat) :=
  let hv := handleBits s q h
  let f := handleOf hv
  let (s, ps) := cachePieces hv code (piecesOf f code l) s
  (s, fun r c => if f.has r c then fromPieces ps (f.packedAt code r c) (unitBytes code) else 0)

/-- The exact value of a logical element whose raw bits have been read; an ordinary zero outside the extent (08 R241). -/
def HandleF.val (h : HandleF) (code : Nat) (raw : Nat → Nat → Nat) (r c : Nat) : Val :=
  if h.has r c then matrixVal code (raw r c) ((h.stored r c).2 % 16) else .fin false 0 1 0

/-- A window read through a handle that does not go through the cache (13 R359, 03 R109). -/
def winUnit (s : State) (h : HandleF) (o n : Nat) : Nat :=
  (List.range n).foldr (fun i a => (Cells.get s.blk.win (h.swizzle (o + i))).toNat + 256 * a) 0

/-- The elements with rows and columns below bounds. -/
def grid (rows cols : List Nat) : List (Nat × Nat) := rows.flatMap (fun r => cols.map (fun c => (r, c)))

/-! ### Products (08 R241, R242) -/

/-- The exact sum of a group's products. -/
def groupSum : List Val → Val
  | [] => .fin false 0 1 0
  | p :: r => r.foldl (add 0) p

/-- Adds group sums to an accumulator element, rounding once per group. -/
def accumulate (acc : Nat) (groups : List (List Val)) : Nat :=
  groups.foldl (fun a g => f32.round home (add 0 (f32.decode a) (groupSum g))) acc

/-- A dense element over K positions. -/
def denseCell (acc k : Nat) (a b : Nat → Val) : Nat :=
  accumulate acc ((List.range (k / 16)).map (fun g => (List.range 16).map (fun j => mul (a (16 * g + j)) (b (16 * g + j)))))

/-- The words of a tile for a function of row and column. -/
def tileCells (f : Nat → Nat → Nat) : List (Nat × Nat) :=
  (grid (List.range 16) (List.range 32)).map (fun x => (32 * x.1 + x.2, f x.1 x.2))

/-- The dense product of one quarter with A rows given by `rows`. -/
def densePart (q : Nat) (hA hB : BitVec 4) (code : Nat) (rows : Nat → Nat) (direct : Bool) (acc : Nat → Nat → Nat)
    (s : State) : State × List (Nat × Nat) :=
  let k := matrixK code
  let fA := handleAt s q hA
  let fB := handleAt s q hB
  let (s, rawA) := if direct then (s, fun r c => if fA.has r c then winUnit s fA (fA.place code r c) (unitBytes code) else 0)
    else readOperand q hA code (grid ((List.range 16).map rows) (List.range k)) s
  let (s, rawB) := readOperand q hB code (grid (List.range k) (List.range 32)) s
  (s, tileCells (fun r c => denseCell (acc r c) k (fA.val code rawA (rows r)) (fun j => fB.val code rawB j c)))

/-- The old accumulator element, or +0 under zero-init. -/
def oldCell (s : State) (t : Nat) (z : BitVec 1) (r c : Nat) : Nat := if z = 1 then 0 else (tileWord s t (32 * r + c)).toNat

/-- Computes every live quarter's tile, then writes them all. -/
def writeTiles (i : Instr) (qs : List Nat) (tile : Nat → Nat) (f : Nat → State → State × List (Nat × Nat)) (s : State) :
    State :=
  let (s, rs) := qs.foldl (fun (sr : State × List (Nat × List (Nat × Nat))) q =>
    let (s, r) := f q sr.1
    (s, sr.2 ++ [(tile q, r)])) (s, [])
  let s := rs.foldl (fun s p => setTile s p.1 p.2) s
  retire i (startQuarters qs s)

/-- Does the dense product of a quarter meet granules still owed? -/
def denseHeld (s : State) (hA hB : BitVec 4) (code : Nat) (rows : Nat → Nat → Nat) (q : Nat) : Bool :=
  operandHeld s q hA code (grid ((List.range 16).map (rows q)) (List.range (matrixK code)))
    || operandHeld s q hB code (grid (List.range (matrixK code)) (List.range 32))

/-- `mm` (13 R361). -/
def execMm (hA hB : BitVec 4) (slot : BitVec 3) (off : BitVec 5) (z : BitVec 1) (s : State) :=
  issue (.mm hA hB slot off z) (fun s =>
    let i := Instr.mm hA hB slot off z
    let k := slotOf s slot.toNat
    tileOp i
      [fmtCheck k matrixCodes, handleChecks s k [(hA, .a), (hB, .b)] (fun _ => none), (0x10, fun q => accBad s true (tileOf s off q))]
      (fun qs => qs.any (denseHeld s hA hB k.code (fun _ r => r))) []
      (fun qs s => writeTiles i qs (tileOf s off)
        (fun q s => densePart q hA hB k.code id false (oldCell s (tileOf s off q) z) s) s) s) s

/-! ### Gathered products (13 R363) -/

/-- The table row that supplies row r of a quarter. -/
def gatherRow (s : State) (x : BitVec 8) (q r : Nat) : Nat := bits (src32 s x.toNat (8 * q + r / 2)).toNat (16 * (r % 2)) 16

/-- BOUND of a quarter: the first row whose index is at or beyond the table's rows. -/
def gatherBound (s : State) (hT : BitVec 4) (x : BitVec 8) (q : Nat) : Option Nat :=
  match (List.range 16).find? (fun r => (handleAt s q hT).rows ≤ gatherRow s x q r) with
  | some r => some ((16 * q + r) * 2 ^ 48 + gatherRow s x q r)
  | none => none

/-- `mmg` (13 R363): the gather unit reads the table's rows from the window (03 R109). -/
def execMmg (hA hB : BitVec 4) (slot : BitVec 3) (x : BitVec 8) (z : BitVec 1) (s : State) :=
  issue (.mmg hA hB slot x z) (fun s =>
    let i := Instr.mmg hA hB slot x z
    let k := slotOf s slot.toNat
    let rows := gatherRow s x
    let bytes := fun q =>
      let f := handleAt s q hA
      (grid ((List.range 16).map (rows q)) (List.range (matrixK k.code))).flatMap (fun p => if f.has p.1 p.2 then
        (List.range (unitBytes k.code)).map (fun j => f.swizzle (f.place k.code p.1 p.2 + j)) else [])
    if !(liveQuarters s).isEmpty && !collected s then holdAt .collect (sendGroups (ofFront s) s)
    else tileOp i
      [fmtCheck k matrixCodes, handleChecks s k [(hA, .a), (hB, .b)] (fun _ => none),
       (0x10, fun q => accBad s true (tileOf s 0 q)), (0x08, gatherBound s hA x)]
      (fun qs => !s.blk.fillPend.isEmpty && qs.any (fun q => bytesHeld s (bytes q)
        || operandHeld s q hB k.code (grid (List.range (matrixK k.code)) (List.range 32)))) []
      (fun qs s => writeTiles i qs (tileOf s 0)
        (fun q s => densePart q hA hB k.code (rows q) true (oldCell s (tileOf s 0 q) z) s) s) s) s

/-! ### Sparsity (13 R364 to R366) -/

/-- The budget of row r, from the table at AUX. -/
def budget (s : State) (h : HandleF) (r : Nat) : Nat := (Cells.get s.blk.win (h.aux + r)).toNat

/-- Does a handle lack a budget table within the window? -/
def noBudget (s : State) (h : HandleF) : Bool := !h.bud || s.blk.winSize < h.aux + 16

/-- The window bytes of a budget table. -/
def budgetBytes (h : HandleF) : List Nat := (List.range 16).map (h.aux + ·)

/-- The metadata byte of row r, group g of a quarter (13 R364). -/
def metaAt (s : State) (m : BitVec 8) (q r g : Nat) : Nat :=
  bits (readLane s (m.toNat + 2 * (g / 4) + r % 2) (8 * q + r / 2)).toNat (8 * (g % 4)) 8

/-- Groups of 8 that the B operand's rows make. -/
def sparseGroups (s : State) (hB : BitVec 4) (q : Nat) : Nat := (min (handleAt s q hB).rows 64 + 7) / 8

/-- MDF of a quarter (13 R366): the first row and group at fault. -/
def metaFault (s : State) (hA hB : BitVec 4) (m : BitVec 8) (q : Nat) : Option Nat :=
  let gs := sparseGroups s hB q
  let row := fun r =>
    let n := budget s (handleAt s q hA) r
    if 8 < n then some 0
    else (List.range 8).find? (fun g => if g < gs then popN 8 (metaAt s m q r g) != n else metaAt s m q r g != 0)
  match (List.range 16).find? (fun r => (row r).isSome) with
  | some r => some (256 * q + 16 * r + (row r).getD 0)
  | none => none

/-- The products of one element by group of 16 along K. -/
def sparseProducts (gs : Nat) (mask : Nat → Nat) (n : Nat) (a b : Nat → Val) : List (List Val) :=
  let at8 := fun g => ((List.range 8).filter (fun p => bit (mask g) p)).map (fun p =>
    mul (a (g * n + popN 8 (mask g % 2 ^ p))) (b (8 * g + p)))
  (List.range ((gs + 1) / 2)).map (fun j => (if 2 * j < gs then at8 (2 * j) else []) ++
    (if 2 * j + 1 < gs then at8 (2 * j + 1) else []))

/-- The sparse product of one quarter; a row of budget 0 is skipped. -/
def sparsePart (q : Nat) (hA hB : BitVec 4) (code : Nat) (m : BitVec 8) (acc : Nat → Nat → Nat) (s : State) :
    State × List (Nat × Nat) :=
  let gs := sparseGroups s hB q
  let fA := handleAt s q hA
  let fB := handleAt s q hB
  let n := fun r => budget s fA r
  let mask := fun r g => metaAt s m q r g
  let (s, rawA) := readOperand q hA code ((List.range 16).flatMap (fun r => (List.range (gs * n r)).map (fun c => (r, c)))) s
  let (s, rawB) := readOperand q hB code (grid (List.range (8 * gs)) (List.range 32)) s
  (s, tileCells (fun r c => if n r = 0 then acc r c
    else accumulate (acc r c) (sparseProducts gs (mask r) (n r) (fA.val code rawA r) (fun j => fB.val code rawB j c))))

/-- `mmsp` (13 R366). -/
def execMmsp (hA hB : BitVec 4) (slot : BitVec 3) (m : BitVec 8) (z : BitVec 1) (s : State) :=
  issue (.mmsp hA hB slot m z) (fun s =>
    let i := Instr.mmsp hA hB slot m z
    let k := slotOf s slot.toNat
    tileOp i
      [fmtCheck k sparseCodes,
       handleChecks s k [(hA, .a), (hB, .b)] (fun q => failIf (noBudget s (handleAt s q hA)) hA.toNat),
       (0x10, fun q => accBad s true (tileOf s 0 q))]
      (fun qs => !s.blk.fillPend.isEmpty && qs.any (fun q => bytesHeld s (budgetBytes (handleAt s q hA))
        || operandHeld s q hA k.code (grid (List.range 16) (List.range 64))
        || operandHeld s q hB k.code (grid (List.range 64) (List.range 32))))
      [(0x0B, metaFault s hA hB m)]
      (fun qs s => writeTiles i qs (tileOf s 0)
        (fun q s => sparsePart q hA hB k.code m (oldCell s (tileOf s 0 q) z) s) s) s) s

/-- Does the magnitude at p go before the one at p' (13 R365)? NaN is above every number. -/
def keptBefore (v : Nat → Val) (p p' : Nat) : Bool :=
  let mag := fun (x : Val) => match x with
    | .fin _ n d e => Val.fin false n d e
    | .inf _ => .inf false
    | .nan => .nan
  let c : Int := if isNan (v p) && isNan (v p') then 0 else if isNan (v p) then 1 else if isNan (v p') then -1
    else cmp (mag (v p)) (mag (v p'))
  decide (0 < c) || (decide (c = 0) && decide (p < p'))

/-- The n positions of largest magnitude of a group, ascending. -/
def keptPositions (v : Nat → Val) (n : Nat) : List Nat :=
  (List.range 8).filter (fun p => ((List.range 8).filter (fun p' => keptBefore v p' p)).length < n)

/-- HANDLE of a quarter beyond 13 R359 (13 R365): the source's columns, the budget table, and the packed row's length. -/
def packedFault (s : State) (hS hD : BitVec 4) (q : Nat) : Option Nat :=
  let fS := handleAt s q hS
  let fD := handleAt s q hD
  if fS.cols % 8 != 0 || 64 < fS.cols then some hS.toNat
  else if noBudget s fD then some hD.toNat
  else if (List.range 16).any (fun r => fD.cols < fS.cols / 8 * budget s fD r) then some hD.toNat
  else none

/-- What `spcmp` keeps of a quarter: raw values by logical destination, and the metadata by register and lane. -/
def packedPart (q : Nat) (hS hD : BitVec 4) (code : Nat) (s : State) : State × List (Nat × Nat × Nat) × List (Nat × Nat × Nat) :=
  let fS := handleAt s q hS
  let n := fun r => budget s (handleAt s q hD) r
  let gs := fS.cols / 8
  let (s, raw) := readOperand q hS code (grid (List.range 16) (List.range 64)) s
  let kept := fun r g => if g < gs then keptPositions (fun p => fS.val code raw r (8 * g + p)) (n r) else []
  let values := (grid (List.range 16) (List.range gs)).flatMap (fun x =>
    (List.range (kept x.1 x.2).length).map (fun j =>
      (x.1, x.2 * n x.1 + j, raw x.1 (8 * x.2 + (kept x.1 x.2).getD j 0))))
  let byte := fun r g => (kept r g).foldl (fun a p => a + 2 ^ p) 0
  let words := (grid (List.range 4) (List.range 8)).map (fun x =>
    (x.1, 8 * q + x.2, pack 8 ((List.range 4).map (fun j => byte (2 * x.2 + x.1 % 2) (4 * (x.1 / 2) + j)))))
  (s, values, words)

/-- Writes `n` bytes through a handle at a logical offset (13 R359). -/
def winPut (s : State) (h : HandleF) (o v n : Nat) : State :=
  (List.range n).foldl (fun s i => winStore s (h.swizzle (o + i)) (v / 256 ^ i % 256) 1) s

/-- The window bytes of a handle's elements. -/
def handleBytes (h : HandleF) (code : Nat) (l : List (Nat × Nat)) : List Nat :=
  l.flatMap (fun x => if h.has x.1 x.2 then
    (List.range (unitBytes code)).map (fun j => h.swizzle (h.place code x.1 x.2 + j)) else [])

/-- `spcmp` (13 R365): every quarter's source is read before a destination is written. -/
def execSpcmp (hS hD : BitVec 4) (slot : BitVec 3) (m : BitVec 8) (s : State) :=
  issue (.spcmp hS hD slot m) (fun s =>
    let i := Instr.spcmp hS hD slot m
    let k := slotOf s slot.toNat
    if !(liveQuarters s).isEmpty && !collected s then holdAt .collect (sendGroups (ofFront s) s)
    else if (liveQuarters s).any (fun q => bytesHeld s (budgetBytes (handleAt s q hD))) then holdAt .fill s
    else tileOp i
      [fmtCheck k sparseCodes, handleChecks s k [(hS, .a), (hD, .dst)] (packedFault s hS hD),
       (0x0B, fun q => ((List.range 16).find? (fun r => decide (8 < budget s (handleAt s q hD) r))).map (fun r => 256 * q + 16 * r))]
      (fun qs => !s.blk.fillPend.isEmpty && qs.any (fun q =>
        bytesHeld s (handleBytes (handleAt s q hD) k.code (grid (List.range 16) (List.range 64)))
        || operandHeld s q hS k.code (grid (List.range 16) (List.range 64)))) []
      (fun qs s =>
        let (s, rs) := qs.foldl (fun (sr : State × List (Nat × List (Nat × Nat × Nat) × List (Nat × Nat × Nat))) q =>
          let (s, v, w) := packedPart q hS hD k.code sr.1
          (s, sr.2 ++ [(q, v, w)])) (s, [])
        let s := rs.foldl (fun s x =>
          let f := handleAt s x.1 hD
          x.2.1.foldl (fun s p => if f.has p.1 p.2.1 then winPut s f (f.place k.code p.1 p.2.1) p.2.2 (unitBytes k.code) else s) s) s
        let lanes := qs.foldl (fun (a : Lanes) q => a ||| quarterMask q) 0
        let lands := rs.flatMap (fun x => x.2.2.map (fun p => Landing.lane (regKey (m.toNat + p.1) p.2.1) (BitVec.ofNat 32 p.2.2)))
        retire i (startLong (startQuarters qs s) none lanes lands)) s) s

/-! ### Clearing, storing and loading tiles (13 R367 to R369) -/

/-- `accclr` (13 R367). -/
def execAccclr (n : BitVec 4) (off : BitVec 5) (s : State) :=
  issue (.accclr n off) (fun s =>
    let ts := fun q => (List.range (n.toNat + 1)).map (fun j => tileOf s off q + 4 * j)
    tileOp (.accclr n off) [(0x10, fun q => ((ts q).filterMap (accBad s false)).head?)] (fun _ => false) []
      (fun qs s => retire (.accclr n off) ((qs.flatMap ts).foldl (fun s t =>
        setTile (undeclare s t 1) t (tileCells (fun _ _ => 0))) s)) s) s

/-- The conversion of a tile's element into a slot's element format (13 R368): its bytes, and whether it overflows into
the outlier list. -/
def storeElem (m : Md) (k : Slot) (v : Nat) : Nat × Bool :=
  let t := codeType k.code
  let q := quotient 2 m k v
  if k.outl && (k.code == 2 || k.code == 3) && overflows t m.rnd q then (0, true) else (toElem t m q, false)

/-- The writes of `accst` in one quarter: logical place, value and bytes; and the entries of the outlier list. -/
def storePart (s : State) (k : Slot) (h : HandleF) (t q : Nat) : List (Nat × Nat × Nat) × List Append :=
  let m := slotMd s k
  let v := fun r c => (tileWord s t (32 * r + c)).toNat
  let entry := fun o idx r c =>
    { lanes := quarterLanes s q, list := k.list, tag := BitVec.ofNat 64 (0xFE * 2 ^ 56 + o), idx := idx, val := entryVal 2 (v r c),
      got := none : Append }
  if isZb k.code then
    let parts := ((grid (List.range 16) [0, 1]).filter (fun x => h.has x.1 (16 * x.2))).map (fun x =>
      let o := h.place k.code x.1 (16 * x.2)
      let e := zbEncode k.code k.policy k.ceiling m.rnd k.outl
        ((List.range 16).map (fun j => quotient 2 m k (v x.1 (16 * x.2 + j))))
      ((o, e.1, zbBytes k.code), e.2.map (fun j => entry o j x.1 (16 * x.2 + j))))
    (parts.map Prod.fst, parts.flatMap Prod.snd)
  else
    let parts := ((grid (List.range 16) (List.range 32)).filter (fun x => h.has x.1 x.2)).map (fun x =>
      let o := h.place k.code x.1 x.2
      let e := storeElem m k (v x.1 x.2)
      ((o, e.1, unitBytes k.code), if e.2 then [entry o 0 x.1 x.2] else []))
    (parts.map Prod.fst, parts.flatMap Prod.snd)

/-- The checks that `accst` and `accld` share. -/
def moveChecks (s : State) (k : Slot) (h : BitVec 4) (role : Role) (off : BitVec 5) : List Check :=
  [fmtCheck k storeCodes, handleChecks s k [(h, role)] (fun _ => none), (0x10, fun q => accBad s true (tileOf s off q))]

/-- Do the elements of a handle that a tile covers meet granules still owed? -/
def moveHeld (s : State) (k : Slot) (h : BitVec 4) (qs : List Nat) : Bool :=
  !s.blk.fillPend.isEmpty && qs.any (fun q => bytesHeld s (handleBytes (handleAt s q h) k.code (grid (List.range 16) (List.range 32))))

/-- The entries that an `accst` appends to the slot's outlier list, quarter by quarter. -/
def storeEntries (s : State) (k : Slot) (h : BitVec 4) (off : BitVec 5) (qs : List Nat) : List Append :=
  qs.flatMap (fun q => (storePart s k (handleAt s q h) (tileOf s off q) q).2)

/-- `accst` (13 R368). -/
def execAccst (h : BitVec 4) (slot : BitVec 3) (off : BitVec 5) (s : State) :=
  issue (.accst h slot off) (fun s =>
    let i := Instr.accst h slot off
    let k := slotOf s slot.toNat
    if !(liveQuarters s).isEmpty && !collected s then holdAt .collect (sendGroups (ofFront s) s)
    else tileOp i (moveChecks s k h .dst off) (fun qs => moveHeld s k h qs || appendsHeld s (storeEntries s k h off qs)) []
      (fun qs s =>
        let parts := qs.map (fun q => (handleAt s q h, storePart s k (handleAt s q h) (tileOf s off q) q))
        let entries := storeEntries s k h off qs
        let t := parts.foldl (fun s p => p.2.1.foldl (fun s x => winPut s p.1 x.1 x.2.1 x.2.2) s) s
        if entries.isEmpty then retire i (startQuarters qs t)
        else
          let act := lanesOfQuarters s qs
          let t := retire i (addPend t (setB t.f) (some act) .other act [])
          makeAppends entries s.uid s.f.pc t) s) s

/-- An element as `accld` loads it: decoded with the slot's scale and rounded to f32 in the mode; +0 outside the
extent. -/
def loadElem (s : State) (k : Slot) (h : HandleF) (r c : Nat) : Nat :=
  if !h.has r c then 0
  else
    let m := slotMd s k
    let raw := winUnit s h (h.place k.code r c) (unitBytes k.code)
    let x := if isZb k.code then zbElem k.code raw ((h.stored r c).2 % 16) else valOf (codeType k.code) m.ftz raw
    f32.round m (mul x k.scale)

/-- `accld` (13 R368). -/
def execAccld (h : BitVec 4) (slot : BitVec 3) (off : BitVec 5) (s : State) :=
  issue (.accld h slot off) (fun s =>
    let i := Instr.accld h slot off
    let k := slotOf s slot.toNat
    if !(liveQuarters s).isEmpty && !collected s then holdAt .collect (sendGroups (ofFront s) s)
    else tileOp i (moveChecks s k h .src off) (moveHeld s k h) []
      (fun qs s => writeTiles i qs (tileOf s off) (fun q s => (s, tileCells (loadElem s k (handleAt s q h)))) s) s) s

/-- The tile that a lane names (13 R369). -/
def laneTile (s : State) (a : BitVec 8) (l : Nat) : Nat := s.w.acb.toNat + (src32 s a.toNat l).toNat % 2048

/-- The lanes of a write set whose tile fails a check raise ACC, precisely. -/
def laneTiles (bad : Nat → Bool) (a : BitVec 8) (k : State → State) (s : State) : State :=
  let fails := (lanesOf (wset s)).filter (fun l => bad (laneTile s a l))
  match fails with
  | [] => k s
  | l :: _ => precise 0x10 (maskOf fails) 0 (BitVec.ofNat 64 (laneTile s a l % 2048)) s

/-- `accrd` (13 R369). -/
def execAccrd (d a : BitVec 8) (s : State) :=
  issue (.accrd d a) (fun s => laneTiles (fun t => (accBad s true t).isSome) a (fun s =>
    let w := wset s
    retire (.accrd d a) (startLong s none w ((lanesOf w).flatMap (fun l => (List.range 16).map (fun j =>
      .lane (regKey (d.toNat + j) l) (tileWord s (laneTile s a l) (32 * j + l)))))) ) s) s

/-- `accwr` (13 R369). -/
def execAccwr (d a : BitVec 8) (s : State) :=
  issue (.accwr d a) (fun s => laneTiles (fun t => (accBad s true t).isSome) a (fun s =>
    let w := wset s
    let id := s.uid
    let t := (lanesOf w).foldl (fun t l => setTile t (laneTile s a l) ((List.range 16).map (fun j =>
      (32 * j + l, (readLane s (d.toNat + j) l).toNat)))) s
    retire (.accwr d a) (if w = 0 then t
      else push .quarterOperationCompletion (.lanes s.blk.uid s.w.idx id w) (addPend t (setB t.f) (some w) .quarter w []))) s) s

/-! ### Handles, tile predicates, generation (13 R358, R378, R379) -/

/-- Does a handle break a check of `hset` and `hadj` (13 R358)? -/
def HandleF.broken (h : HandleF) : Bool :=
  h.res != 0 || 4 ≤ h.swz || (h.swz != 0 && (h.off % 2048 != 0 || h.pitch == 0 || h.pitch % 2 ^ (4 + h.swz) != 0))

/-- A handle with `n` bits at `lo` replaced. -/
def setHandle (v : BitVec 128) (lo n x : Nat) : BitVec 128 :=
  (v &&& ~~~BitVec.ofNat 128 ((2 ^ n - 1) * 2 ^ lo)) ||| BitVec.ofNat 128 (x % 2 ^ n * 2 ^ lo)

/-- Writes a handle in every live quarter after checking it in each. -/
def writeHandles (i : Instr) (h : BitVec 4) (new : Nat → BitVec 128) (s : State) : State :=
  tileOp i [(0x11, fun q => failIf (handleOf (new q)).broken h.toNat)] (fun _ => false) []
    (fun qs s => retire i { s with w := { s.w with h := qs.foldl (fun c q => Cells.set c (16 * q + h.toNat) (new q)) s.w.h } }) s

/-- `hset` and `hset.st`. -/
def execHset (h : BitVec 4) (sa sb : BitVec 6) (st : BitVec 1) (s : State) :=
  issue (.hset h sa sb st) (fun s =>
    let v : BitVec 128 := BitVec.ofNat 128 ((readS s sa.toNat).toNat + 2 ^ 64 * (readS s sb.toNat).toNat)
    let f := handleOf v
    writeHandles (.hset h sa sb st) h
      (fun q => if st = 1 then setHandle v 0 32 (f.off + 16 * f.pitch * q) else v) s) s

/-- `hadj`. -/
def execHadj (h : BitVec 4) (sa : BitVec 6) (sl : BitVec 2) (s : State) :=
  issue (.hadj h sa sl) (fun s =>
    let x := (readS s sa.toNat).toNat
    writeHandles (.hadj h sa sl) h (fun q =>
      let v := handleBits s q h
      let f := handleOf v
      if sl = 0 then setHandle v 0 32 (f.off + x) else if sl = 1 then setHandle v 96 32 (f.aux + x)
      else if sl = 2 then setHandle v 64 16 x else setHandle v 48 16 x) s) s

/-- A tile predicate as read (13 R378). -/
def readZ (s : State) (z : BitVec 3) : BitVec 4 := if z = 0 then 15 else s.w.z.getD z.toNat 15

/-- Writes a tile predicate; a write to z0 is discarded. -/
def writeZ (s : State) (z : BitVec 3) (v : BitVec 4) : State :=
  if z = 0 then s else { s with w := { s.w with z := s.w.z.set z.toNat v } }

def execZset (z : BitVec 3) (imm : BitVec 4) (s : State) :=
  issue (.zset z imm) (fun s => retire (.zset z imm) (writeZ s z imm)) s

def execZlog (z za zb : BitVec 3) (fn : BitVec 2) (s : State) :=
  issue (.zlog z za zb fn) (fun s =>
    let a := readZ s za
    let b := readZ s zb
    retire (.zlog z za zb fn) (writeZ s z (if fn = 0 then a &&& b else if fn = 1 then a ||| b else a &&& ~~~b))) s

def execZtst (z p : BitVec 3) (s : State) :=
  issue (.ztst z p) (fun s =>
    retire (.ztst z p) (writeP s p.toNat (wset s) (mkLanes (fun l => (readZ s z).getLsbD (l / 8))))) s

/-- `spfen` (13 R379): after its lanes' earlier window writes; a wrap drops the block's operand-cache entries (02 R49). -/
def execSpfen (s : State) :=
  issue .spfen (afterWork (fun s =>
    let g := s.blk.gen + 1
    let s := if g = 0 then { s with opc := s.opc.filter (fun e => e.blk != s.blk.uid) } else s
    retire .spfen { s with blk := { s.blk with gen := g } })) s

end Sys2Proof.Machine
end

