-- ==== Sys2Proof/Machine/Copies.lean ====
section
/-!
DEFINITION. The copy engines (02 R71 to R77, 12 R341 to R353): the instructions that kick, close and await copies, arrival
objects, and the engine's own steps COPY_ISSUE and COPY_GRANULE_WRITE. COPY_COMPLETION stands in Machine/FrontEnd.lean.
-/
namespace Sys2Proof.Machine
open Sys2Proof.Machine.Num

/-! ### Arrival objects (12 R350, 02 R76) -/

/-- The end of an `arwt`: the copies' completion happens before what follows (12 R352). -/
def wakeArrivals (off : Nat) (s : State) : State :=
  eachFrag (fun f => f.hold == .arrival off) (fun s => endWait (acquireAt 2 s)) s

/-- A copy subtracts `n` bytes from the arrival object at a window offset; `skipped` marks discarded rows. -/
def arriveSub (off n : Nat) (skipped : Bool) (s : State) : State :=
  let rem := Cells.load s.blk.win off 8
  let ph := Cells.load s.blk.win (off + 8) 4
  let zero := rem != 0 && decide (rem ≤ n)
  let ph1 := if zero then ph / 2 ^ 30 * 2 ^ 30 + (ph + 1) % 2 ^ 30 else ph
  let ph2 := ph1 ||| ((if rem < n then 2 ^ 31 else 0) + (if skipped then 2 ^ 30 else 0))
  let s := winStore (winStore s off (rem - n) 8) (off + 8) ph2 4
  if zero then wakeArrivals off s else s

/-- The same for the object that a copy names, if any, while the block exists. -/
def arriveFor (c : Copy) (n : Nat) (skipped : Bool) (s : State) : State :=
  let a := c.fld 0x38 8
  if a = 0 || n = 0 || s.blk.st == .none then s else arriveSub (a % 2 ^ 56) n skipped s

/-- The address checks of `cpk`, `arin` and `arwt` (12 R347): alignment, then the window. -/
def windowCheck (g : W64) (align n : Nat) (k : State → State) (s : State) : State :=
  if g.toNat % align != 0 then alignFault .read ((lanesOf s.f.mask).map (fun l => (l, g))) s
  else if !isWindow g then precise 0x07 s.f.mask g (laneAux .read 0 0 (prot 0x14 g)) s
  else if s.blk.winSize < vaOf g + n then precise 0x07 s.f.mask g (laneAux .read 0 0 (prot 0x15 g)) s
  else k s

/-- The frame of `arin` and `arwt`: the object's address, the wait for engines, and its reserved word. -/
def arrivalOp (sa : BitVec 6) (k : Nat → State → State) (s : State) : State :=
  let g := readS s sa.toNat
  windowCheck g 16 16 (fun s =>
    let off := vaOf g
    if fillHeld s (.win off) 16 then holdAt .fill s
    else if Cells.load s.blk.win (off + 12) 4 != 0 then precise 0x19 s.f.mask 0 (BitVec.ofNat 64 0x200) s
    else k off s) s

/-- `arin`: adds to REMAIN. -/
def execArin (sa sb : BitVec 6) (s : State) :=
  issue (.arin sa sb) (arrivalOp sa (fun off s =>
    retire (.arin sa sb) (winStore s off (Cells.load s.blk.win off 8 + (readS s sb.toNat).toNat) 8))) s

/-- `arin.set`: writes REMAIN and clears OVER and SKIPPED. -/
def execArinSet (sa sb : BitVec 6) (s : State) :=
  issue (.arinSet sa sb) (arrivalOp sa (fun off s =>
    let ph := Cells.load s.blk.win (off + 8) 4 % 2 ^ 30
    retire (.arinSet sa sb) (winStore (winStore s off (readS s sb.toNat).toNat 8) (off + 8) ph 4))) s

/-- `arwt`: completes at once when REMAIN reads 0, and otherwise sleeps until the subtraction that reaches 0. -/
def execArwt (sa : BitVec 6) (s : State) :=
  issue (.arwt sa) (arrivalOp sa (fun off s =>
    if Cells.load s.blk.win off 8 = 0 then retire (.arwt sa) (acquireAt 2 s) else sleepAt (.arrival off) s)) s

/-! ### Kicking, closing and awaiting batches (12 R347 to R349) -/

/-- Requests in a core's kick queue. -/
def queued (s : State) (core : Nat) : Nat := (s.kicks.filter (fun k => k.core == core)).length

/-- `cpk` appends its requests as entries free; while it waits, `count` holds 32 × its operation + requests appended. -/
def kickRequests (i : Instr) (g : W64) (n : Nat) (s : State) : State :=
  let id := if s.f.count = 0 then s.uid else s.f.count / 32
  let done := s.f.count % 32
  let s := if s.f.count = 0 then addPend s (setB s.f) (some s.f.mask) .other s.f.mask [] n else s
  let core := s.w.core
  let room := min (n - done) (16 - queued s core)
  let ks := (List.range room).map (fun j =>
    { core := core, blk := s.blk.uid, wp := s.w.idx, lanes := s.f.mask, req := vaOf g + 64 * (done + j), pend := id,
      pc := s.f.pc, word := wordAux i, user := isUser s, stream := modeLevel s == 3, batch := s.w.batch + 1,
      stopped := false : Kick })
  let s := { s with kicks := s.kicks ++ ks }
  let s := if room = 0 then s else push .copyIssue (.unit core) s
  if done + room = n then retire i s
  else holdAt .kick { s with f := { s.f with count := 32 * id + done + room } }

/-- `cpk` (12 R347): a device-scope release toward its copies (03 R104). -/
def execCpk (sa : BitVec 6) (n : BitVec 4) (s : State) :=
  issue (.cpk sa n) (fun s =>
    let g := readS s sa.toNat
    windowCheck g 64 (64 * (n.toNat + 1)) (fun s =>
      afterWork (fun s =>
        if 16 ≤ queued s s.w.core then holdAt .kick s
        else kickRequests (.cpk sa n) g (n.toNat + 1) (releaseAt 2 s)) s) s) s

/-- `cpcl` (12 R348). -/
def execCpcl (res : BitVec 1) (sd : BitVec 6) (s : State) :=
  issue (.cpcl res sd) (fun s =>
    let n := s.w.batch + 1
    let s := { s with w := { s.w with batch := n } }
    retire (.cpcl res sd) (if res = 1 then writeS s sd.toNat (n.setWidth 64) else s)) s

/-- `cpwt` (12 R349): what follows is ordered after the copies (03 R106). -/
def execCpwt (res : BitVec 1) (sd : BitVec 6) (rel : BitVec 1) (sa k : BitVec 6) (s : State) :=
  issue (.cpwt res sd rel sa k) (fun s =>
    let i := Instr.cpwt res sd rel sa k
    let n : BitVec 32 := if rel = 1 then s.w.batch - k.setWidth 32 else (readS s sa.toNat).setWidth 32
    let ahead := (n - s.w.batch).toNat
    if rel = 0 && 0 < ahead && ahead < 2 ^ 31 then precise 0x19 s.f.mask 0 (BitVec.ofNat 64 0x100) s
    else if !batchesDone s s.blk.uid s.w.idx n then holdAt (.copies n) s
    else
      let s := acquireAt 2 s
      let s := if res = 1 then
          writeS { s with w := { s.w with copyErr := 0 } } sd.toNat (s.w.copyErr.setWidth 64) else s
      retire i s) s

/-! ### Requests (12 R341, R343, R344) -/

/-- A field of a request. -/
def reqFld (b : List Byte) (off n : Nat) : Nat := leBytes b off n

/-- Is an endpoint a window or global address? -/
def isEndpoint (v : Nat) : Bool := isWindow (BitVec.ofNat 64 v) || isGlobal (BitVec.ofNat 64 v)

/-- The fields of a request that an operation uses, by offset and size (12 R341). -/
def usedFields (op : Nat) : List Nat :=
  if op = 0 then [0x04, 0x18] else if op = 1 then [0x04, 0x0C, 0x10, 0x18]
  else if op = 2 then [0x0C, 0x10, 0x14, 0x18, 0x28, 0x30, 0x34] else if op = 3 then [0x0C, 0x10, 0x14, 0x18, 0x28, 0x30]
  else [0x04, 0x10, 0x34]

/-- Bytes of a destination row; none where the row bytes do not fit the source format (12 R343). -/
def destLength (b slots : List Byte) : Option Nat :=
  let rb := reqFld b 0x08 4
  if !bit (reqFld b 0x01 1) 0 then some rb
  else
    let ss := (slotIn slots (bits (reqFld b 0x02 1) 0 3)).code
    let ds := (slotIn slots (bits (reqFld b 0x02 1) 3 3)).code
    if rb % unitBytes ss != 0 then none
    else
      let e := rb / unitBytes ss * (if isZb ss then 16 else 1)
      some (if isZb ds then (e + 15) / 16 * zbBytes ds else e * unitBytes ds)

/-- Does a swizzled window endpoint break 02 R53? -/
def badSwizzle (z addr pitch : Nat) : Bool :=
  4 ≤ z || (z != 0 && isWindow (BitVec.ofNat 64 addr) && (addr % 2048 != 0 || pitch == 0 || pitch % 2 ^ (4 + z) != 0))

/-- The first group of checks, but for limits on the destination row. -/
def malformedRequest (b : List Byte) (winSize : Nat) : Bool :=
  let op := reqFld b 0x00 1
  let fl := reqFld b 0x01 1
  let sl := reqFld b 0x02 1
  let sw := reqFld b 0x03 1
  let f4 := fun (o : Nat) => reqFld b o 4
  let used := usedFields op
  let rows := if op = 2 || op = 3 then f4 0x14 else f4 0x04
  let arr := reqFld b 0x38 8
  4 < op || 8 ≤ fl || 64 ≤ sl || 64 ≤ sw
    || [(0x04, 4), (0x0C, 4), (0x10, 4), (0x14, 4), (0x18, 8), (0x28, 8), (0x30, 4), (0x34, 4)].any (fun (o : Nat × Nat) =>
        !used.contains o.1 && reqFld b o.1 o.2 != 0)
    || (!bit fl 0 && sl != 0) || (bit fl 0 && bit fl 2) || (op == 4 && (bit fl 0 || bit fl 2))
    || (op == 0 && sw != 0) || (op == 4 && 8 ≤ sw)
    || f4 0x08 == 0 || (op == 4 && f4 0x08 % 4 != 0) || rows == 0
    || badSwizzle (sw % 8) (reqFld b 0x20 8) (f4 0x10) || badSwizzle (sw / 8) (reqFld b 0x18 8) (f4 0x0C)
    || !isEndpoint (reqFld b 0x20 8) || (op != 4 && !isEndpoint (reqFld b 0x18 8))
    || ((op == 2 || op == 3) && (!isEndpoint (reqFld b 0x28 8) || reqFld b 0x28 8 % 4 != 0))
    || (arr != 0 && (!isWindow (BitVec.ofNat 64 arr) || arr % 16 != 0 || winSize < arr % 2 ^ 56 + 16))

/-- A slot of a converting request that the engine does not take: the source before the destination. -/
def badSlot (b slots : List Byte) : Option Slot :=
  if !bit (reqFld b 0x01 1) 0 then none
  else [slotIn slots (bits (reqFld b 0x02 1) 0 3), slotIn slots (bits (reqFld b 0x02 1) 3 3)].find? (fun k =>
    !storeCodes.contains k.code)

/-- Does the destination pitch break its limit? -/
def badPitch (b : List Byte) (len : Nat) : Bool :=
  let op := reqFld b 0x00 1
  (op == 1 || op == 2 || op == 4) && decide (reqFld b 0x10 4 < len)

/-- The verdict on a request: the fault code and TRAPAUX, or the bytes of a destination row. -/
def validate (b slots : List Byte) (winSize : Nat) (word : W64) : Except (Nat × W64) Nat :=
  if malformedRequest b winSize then .error (0x01, word)
  else match badSlot b slots with
    | some k => .error (0x16, BitVec.ofNat 64 (k.n + 256 * k.code))
    | none =>
      match destLength b slots with
      | none => .error (0x01, word)
      | some len => if badPitch b len then .error (0x01, word) else .ok len

/-! ### Issue (02 R71, R74, 12 R344) -/

/-- Bytes from a copy's destination start that it may write (02 R74). -/
def copySpan (b : List Byte) (rows len : Nat) : Nat :=
  let op := reqFld b 0x00 1
  if op = 0 then rows * len
  else if op = 3 then (if reqFld b 0x30 4 = 0 then 0 else (reqFld b 0x30 4 - 1) * reqFld b 0x10 4 + len)
  else (rows - 1) * reqFld b 0x10 4 + len

/-- Swizzle codes of a copy's destination and source (02 R54). -/
def Copy.dstSwz (c : Copy) : Nat := c.fld 0x03 1 % 8
def Copy.srcSwz (c : Copy) : Nat := c.fld 0x03 1 / 8

/-- The byte at an offset of a swizzled region (02 R53). -/
def swizzled (z base pitch o : Nat) : Nat :=
  HandleF.swizzle { rows := 0, pitch := pitch, off := base, aux := 0, res := 0, tr := false, bud := false, swz := z, slot := 0,
                    cols := 0 } o

/-- The runs of destination bytes that lie in a window granule. A swizzle moves runs of 32 bytes within 2 KiB (02 R53). -/
def Copy.runsOf (c : Copy) (g : Nat) : List (Nat × Nat) :=
  if c.dstSwz = 0 then [(128 * g, 128 * g + 128)]
  else
    let os := (List.range 64).map (fun i => 128 * g / 2048 * 2048 + 32 * i)
    (os.filter (fun o => swizzled c.dstSwz (vaOf c.dst) c.pitch o / 128 == g)).map (fun o => (o, o + 32))

/-- Does a copy still owe bytes of a window granule that it marked at its issue? -/
def Copy.owes (c : Copy) (g : Nat) : Bool :=
  let rs := c.runsOf g
  rs.any (fun r => c.left r.1 r.2) || !rs.any (fun r => c.ever r.1 r.2)

/-- The granules that a copy marks at its issue: all that it may write, of a row-scatter those of the rows' span. -/
def copyGranules (s : State) (c : Copy) : List (Nat × Nat) :=
  if !isWindow c.dst then []
  else
    let within := fun (r : Nat × Nat) =>
      if c.fld 0x00 1 = 3 then decide (vaOf c.dst < r.2) && decide (r.1 < vaOf c.dst + c.span) else c.ever r.1 r.2
    ((List.range ((s.blk.winSize + 127) / 128)).filter (fun g => (c.runsOf g).any within)).map (fun g => (g, c.id))

/-- The dies whose slices register a copy's destination: all four where it holds an interleaved page, else the homes of its
affine pages (02 R74). -/
def diesOf (s : State) (c : Copy) : List Nat :=
  if !isGlobal c.dst || c.span = 0 then []
  else
    let v := vaOf c.dst
    ((List.range ((v % 65536 + c.span + 65535) / 65536)).flatMap (fun i =>
      match leafOf s c.asid (genOf (v / 65536 * 65536 + 65536 * i)) with
      | .error _ => []
      | .ok l => if eHOME l.e < 4 then List.range 4 else [homeDie l.e (v / 65536 * 65536 + 65536 * i)])).eraseDups

/-- Would a copy meet a full engine range table (02 R74, R78)? -/
def rangesFull (s : State) (c : Copy) : Bool :=
  let live := s.copies.filter (fun o => isGlobal o.dst && !o.done)
  if live.length < 64 then false
  else (diesOf s c).any (fun d => decide (64 ≤ (live.filter (fun o => (diesOf s o).contains d)).length))

/-- Copies in flight of a core. -/
def inFlight (s : State) (core : Nat) : Nat := (s.copies.filter (fun c => c.core == core && c.queue.isNone)).length

/-- Removes the first request of a core from its queue. -/
def dropKick (core : Nat) : List Kick → List Kick
  | [] => []
  | k :: r => if k.core = core then r else k :: dropKick core r

/-- The bad request at the head of a core's queue stops it; with no fault lane left it is discarded and recorded
(12 R344, R346). -/
def stopRequest (k : Kick) (code : Nat) (aux : W64) (s : State) : State :=
  let lanes := k.lanes &&& ~~~s.w.exited
  let fr : FaultRec := { ent := 16, code := BitVec.ofNat 8 code, kind := 1, lanes := lanes, va := windowVa' k.req, aux := aux,
                         pc := k.pc, part := .request k.core }
  let s := { s with kicks := s.kicks.map (fun x => if x == k then { x with stopped := true } else x) }
  if lanes = 0 then dropFault fr s else raiseLater k.user fr s
where
  windowVa' (o : Nat) : W64 := BitVec.ofNat 64 (0xFE * 2 ^ 56 + o)

/-- The copy that an accepted request becomes. -/
def newCopy (s : State) (k : Kick) (b : List Byte) (len : Nat) : Copy :=
  let op := reqFld b 0x00 1
  let rows := if op = 2 || op = 3 then reqFld b 0x14 4 else reqFld b 0x04 4
  { id := s.uid, core := k.core, blk := k.blk, wp := k.wp, asid := asidOf s, lanes := k.lanes, req := b, slots := slotBytes s,
    cpk := k.pend, pc := k.pc, user := k.user, gid := s.blk.gid, lin := blockLin s, row := 0, rows := rows, pos := 0, buf := [],
    places := [], tagged := [], carry := [], idx := [], wrote := [], outs := [], srcLen := reqFld b 0x08 4, len := len, span := copySpan b rows len, done := false, errs := 0,
    batch := k.batch, strict := bit (reqFld b 0x01 1) 1 || bit (rec s 0x1D 1) 2, stream := k.stream, suspended := false,
    skip := false, queue := none, fault := none, losses := 0 }

/-- The issuing core's L1 keeps no clean line of a global destination: an access that the issue happens-before reads what
the copy writes (04 R105). -/
def dropDestination (c : Copy) (s : State) : State :=
  if isGlobal c.dst then dropClean s (fun x => ownHalf s x && c.owns x.asid x.la) else s

/-- COPY_ISSUE: the engine of a core takes its oldest request, validates it and issues the copy. -/
def issueRequest (core : Nat) (s : State) : State :=
  match s.kicks.find? (fun k => k.core == core) with
  | none => s
  | some k =>
    if k.stopped || 64 ≤ inFlight s core then s
    else
      let s := focusWarp s k.blk k.wp
      if fillHeld s (.win k.req) 64 then push .copyIssue (.unit core) s
      else
        let b := (List.range 64).map (fun j => Cells.get s.blk.win (k.req + j))
        match validate b (slotBytes s) s.blk.winSize k.word with
        | .error e => stopRequest k e.1 e.2 s
        | .ok len =>
          let c := newCopy s k b len
          if rangesFull s c then push .copyIssue (.unit core) s else
          let s := fresh { s with kicks := dropKick core s.kicks, copies := s.copies ++ [c],
                                  blk := { s.blk with fillPend := s.blk.fillPend ++ copyGranules s c } }
          push .copyIssue (.unit core) (push .copyGranuleWrite (.unit c.id) (requestDone (dropDestination c s) k.pend))

def execCopyIssue (s : State) : Host.Outcome State Fault Refusal :=
  .next (match s.arg with
    | .unit core => issueRequest core s
    | _ => s)

/-! ### Reading and writing rows (02 R73, 12 R342, R343) -/

/-- The parts of `n` bytes at an address that lie in one line each, by offset and length. -/
def lineParts (a n : Nat) : List (Nat × Nat) :=
  (List.range ((a % 128 + n + 127) / 128)).map (fun i =>
    let lo := 128 * i - a % 128
    (lo, min n (128 * (i + 1) - a % 128) - lo))

/-- The pieces of the parts of a global access by a copy, lowest first. The requests of a COPY packet originate on the
hub. -/
def enginePieces (s : State) (c : Copy) (k : Access) (g : W64) : List (Nat × Nat) → Except MFault (List Piece)
  | [] => .ok []
  | (o, n) :: r =>
    let a := g + BitVec.ofNat 64 o
    if !isGlobal a then .error (prot 0x14 a)
    else match translate s c.asid c.user k a n 1 c.queue.isSome with
      | .error m => .error m
      | .ok p => match enginePieces s c k g r with
        | .error m => .error m
        | .ok ps => .ok (p :: ps)

/-- Keeps what the engine's translations found. -/
def keepPieces (c : Copy) (ps : List Piece) (s : State) : State :=
  (ps.filter (fun q => !q.hit)).foldl (fun s q => tlbKeep s c.asid q.va q.leaf c.queue.isSome) s

/-- Reads pieces at their homes at level l2 (02 R73). -/
def readPieces (s : State) : List Piece → State × List Byte
  | [] => (s, [])
  | p :: r =>
    let (s, v) := homeRead s 1 p
    let (s, b) := readPieces s r
    (s, toBytes v p.n ++ b)

/-- Reads `n` bytes at an endpoint; `z`, `base` and `pitch` give a window endpoint's swizzle. -/
def engineRead (s : State) (c : Copy) (z base pitch : Nat) (g : W64) (n : Nat) : Except MFault (State × List Byte) :=
  if isWindow g then
    (if s.blk.winSize < vaOf g + n then .error (prot 0x15 g)
     else .ok (s, (List.range n).map (fun j => Cells.get s.blk.win (swizzled z base pitch (vaOf g + j)))))
  else match enginePieces s c .read g (lineParts (vaOf g) n) with
    | .error m => .error m
    | .ok ps => .ok (readPieces (keepPieces c ps s) ps)

/-- The window granules in which `n` bytes of an endpoint lie. -/
def granulesAt (z base pitch o n : Nat) : List Nat :=
  if z = 0 then (lineParts o n).map (fun x => (o + x.1) / 128)
  else ((List.range n).map (fun j => swizzled z base pitch (o + j) / 128)).eraseDups

/-- Must a copy wait for others' bytes at an endpoint? A write waits for copies issued before it only (02 R77). -/
def engineHeld (s : State) (c : Copy) (write : Bool) (z base pitch : Nat) (g : W64) (n : Nat) : Bool :=
  let other := fun (id : Nat) => id != c.id && (!write || decide (id < c.id))
  if isWindow g then
    let gs := granulesAt z base pitch (vaOf g) n
    s.blk.fillPend.any (fun f => other f.2 && gs.contains f.1)
  else s.copies.any (fun o => other o.id && (lineParts (vaOf g) n).any (fun x =>
    o.owns (effAsid c.asid (vaOf g)) (lineOf (g + BitVec.ofNat 64 x.1))))

/-- A slot's parameters in a copy: to nearest, with the slot's own flags (08 R240). -/
def copyMd (k : Slot) : Md := { rnd := 0, sat := k.sat, ftz := k.ftz }

/-- The exact source values of a row, with the source slot's scale. -/
def rowValues (k : Slot) (b : List Byte) : List Val :=
  let u := unitBytes k.code
  let one := fun j => leBytes b (j * u) u
  if isZb k.code then (List.range (b.length / u)).flatMap (fun j => (List.range 16).map (fun i => mul (zbElem k.code (one j) i) k.scale))
  else (List.range (b.length / u)).map (fun j => mul (valOf (codeType k.code) k.ftz (one j)) k.scale)

/-- A source value as an outlier entry holds it. -/
def outVal (v : Val) : W32 := BitVec.ofNat 32 (f32.round home v)

/-- Converts a row (12 R343): its destination bytes, and its outlier entries as offset, element and value. -/
def convertRow (ss ds : Slot) (b : List Byte) : List Byte × List (Nat × Nat × W32) :=
  let vs := rowValues ss b
  let q := fun v => div v ds.scale
  if isZb ds.code then
    let parts := (List.range ((vs.length + 15) / 16)).map (fun j =>
      let xs := (List.range 16).map (fun i => vs.getD (16 * j + i) (.fin false 0 1 0))
      let e := zbEncode ds.code ds.policy ds.ceiling 0 ds.outl (xs.map q)
      (toBytes e.1 (zbBytes ds.code),
       e.2.map (fun i => (j * zbBytes ds.code, i, outVal (xs.getD i (.fin false 0 1 0))))))
    (parts.flatMap Prod.fst, parts.flatMap Prod.snd)
  else
    let t := codeType ds.code
    let u := unitBytes ds.code
    let out := fun v => ds.outl && (ds.code == 2 || ds.code == 3) && overflows t 0 (q v)
    (vs.flatMap (fun v => toBytes (if out v then 0 else toElem t (copyMd ds) (q v)) u),
     ((List.range vs.length).map (fun j => (j, vs.getD j .nan))).filterMap (fun x =>
       if out x.2 then some (x.1 * u, 0, outVal x.2) else none))

/-- The fill of a row that is out of range: the fill value in every unit, or zeros (12 R342). -/
def fillRow (c : Copy) : List Byte :=
  if c.len % 4 = 0 then (List.replicate (c.len / 4) (toBytes (c.fld 0x34 4) 4)).flatten else List.replicate c.len 0

/-- Does the copy write a granule of object memory in full (04 R128)? -/
def Copy.fills (c : Copy) (rowVa g : Nat) : Bool :=
  if c.fld 0x00 1 != 3 && c.pitch == c.len then vaOf c.dst ≤ g && g + 64 ≤ vaOf c.dst + c.rows * c.len
  else rowVa ≤ g && g + 64 ≤ rowVa + c.len

/-- Do the flags of a copy keep tags (04 R128)? -/
def Copy.keeps (c : Copy) : Bool := bit (c.fld 0x01 1) 2

/-- The header word of a HEAD granule that a piece of a destination row may not write: any with keep-tags, else one of a
granule that the copy writes only in part (04 R126, R128). -/
def headMet (s : State) (c : Copy) (rowVa : Nat) (p : Piece) : Option MFault :=
  if !eOBJ p.leaf.e then none
  else
    let v := vaOf p.va
    ((List.range ((p.pa % 64 + p.n + 63) / 64)).find? (fun i =>
      let g := p.pa / 64 * 64 + 64 * i
      granHead (gran s g) && decide (p.pa < g + 8) && (c.keeps || !c.fills rowVa (v / 64 * 64 + 64 * i)))).map (fun i =>
        objFault 0x24 (if i = 0 then p.va else p.va + BitVec.ofNat 64 (64 * i - p.pa % 64)))

/-- The checks of a piece that a copy writes: a register of the hub takes no copy (15 R406), nor does a header word. -/
def pieceFault (s : State) (c : Copy) (rowVa : Nat) (p : Piece) : Option MFault :=
  if isDevLeaf p.leaf.e then some { code := 0x18, cause := 0, level := 15, pool := 0, va := p.va } else headMet s c rowVa p

/-- The destination checks of `stref` for a word whose tag is carried (04 R128). -/
def tagFault (s : State) (c : Copy) (ps : List Piece) (x : W64 × W64) : Option MFault :=
  match ps.find? (fun p => lineOf p.va == lineOf x.1) with
  | none => none
  | some p =>
    if !eOBJ p.leaf.e then none
    else match targetOf s c.asid c.user x.2 x.1 with
      | .error m => some m
      | .ok t => (destCheck s x.1 (.mem 1 [p.at x.1 (p.pa / 128 * 128 + vaOf x.1 % 128) 8]) t).map (fun cause => objFault cause x.1)

/-- The checks of a whole destination row: its pieces, or the first fault. -/
def rowPieces (s : State) (c : Copy) (dst : W64) : Except MFault (List Piece) :=
  if isWindow dst then (if s.blk.winSize < vaOf dst + c.len then .error (prot 0x15 dst) else .ok [])
  else match enginePieces s c .write dst (lineParts (vaOf dst) c.len) with
    | .error m => .error m
    | .ok ps =>
      match (ps.findSome? (pieceFault s c (vaOf dst))).orElse (fun _ => c.tagged.findSome? (tagFault s c ps)) with
      | some m => .error m
      | none => .ok ps

/-- Must a row wait to be written: for an earlier copy's bytes in it, or to look at the headers that its tagged words and
their places name (02 R74, R77)? -/
def rowHeld (s : State) (c : Copy) (dst : W64) : Bool :=
  engineHeld s c true c.dstSwz (vaOf c.dst) c.pitch dst c.len || c.tagged.any (fun x =>
    (x.2 != 0 && x.2.toNat / 2 ^ 55 == 0 && engineHeld s c false 0 0 0 x.2 8)
      || (destHead s x.1).any (fun h => engineHeld s c false 0 0 0 h.1.va 8))

/-- Writes bytes of a row in the banks. -/
def putWindow (c : Copy) (dst : W64) (o n : Nat) (s : State) : State :=
  (List.range n).foldl (fun s j =>
    winStore s (swizzled c.dstSwz (vaOf c.dst) c.pitch (vaOf dst + (o + j))) (c.buf.getD (o + j) 0).toNat 1) s

/-- Writes a piece of a row, from offset `o` of it, at its home. On an object page a granule that the copy writes in full
becomes PLAIN, and keep-tags carries the tag of each word that ends in the piece (04 R128). -/
def putPiece (c : Copy) (dst : W64) (o : Nat) (p : Piece) (s : State) : State :=
  let s := homeWrite s (if c.stream then 3 else 1) p (leBytes c.buf o p.n)
  if !eOBJ p.leaf.e then s
  else if c.keeps then
    let ends := fun (x : W64 × W64) => lineOf x.1 == lineOf p.va && decide (vaOf p.va ≤ vaOf x.1 + 7)
      && decide (vaOf x.1 + 7 < vaOf p.va + p.n)
    (c.tagged.filter ends).foldl (fun s x => setTag s (p.pa / 128 * 128 + vaOf x.1 % 128) true) s
  else
    let v := vaOf p.va
    (List.range ((p.pa % 64 + p.n + 63) / 64)).foldl (fun s i =>
      if c.fills (vaOf dst) (v / 64 * 64 + 64 * i) then setGran s (p.pa / 64 * 64 + 64 * i) 0 else s) s

/-- The bytes of a row with the places that they come from and go to; none are traced without keep-tags. -/
def traced (c : Copy) (src dst : W64) (b : List Byte) : List (W64 × W64 × Byte) :=
  if c.keeps then b.mapIdx (fun j v => (dst + BitVec.ofNat 64 j, src + BitVec.ofNat 64 j, v)) else []

/-- The word that a byte of a row ends, where the copy has moved all of its bytes from one word: its source and its value. -/
def endedWord (l : List (W64 × W64 × Byte)) (x : W64 × W64 × Byte) : Option (W64 × W64 × W64) :=
  if x.1.toNat % 8 != 7 || x.2.1.toNat % 8 != 7 then none
  else
    let bs := (List.range 8).filterMap (fun k =>
      (l.find? (fun y => y.1 == x.1 - BitVec.ofNat 64 (7 - k) && y.2.1 == x.2.1 - BitVec.ofNat 64 (7 - k))).map (fun y => y.2.2))
    if bs.length = 8 then some (x.1 - 7, x.2.1 - 7, BitVec.ofNat 64 (leBytes bs 0 8)) else none

/-- Does a word of a source carry a tag? -/
def srcTagged (s : State) (c : Copy) (w : W64) : Bool :=
  isGlobal w && (match translate s c.asid c.user .read w 8 with
    | .ok p => eOBJ p.leaf.e && !isDevLeaf p.leaf.e && tagAt s p.pa
    | .error _ => false)

/-- The tagged words that end in a row, with their references. -/
def rowTags (s : State) (c : Copy) (src dst : W64) (b : List Byte) : List (W64 × W64) :=
  let new := traced c src dst b
  (new.filterMap (fun x => endedWord (c.carry ++ new) x)).filterMap (fun x =>
    if srcTagged s c x.2.1 then some (x.1, x.2.2) else none)

/-! ### The copy's progress -/

/-- Replaces a copy. -/
def putCopy (c : Copy) (s : State) : State := { s with copies := s.copies.map (fun x => if x.id == c.id then c else x) }

/-- Fetches up to `n` indices from row `j` on, up to the first that cannot be read or that a copy still owes. -/
def fetchIdx (c : Copy) (j : Nat) : Nat → State → State × List Nat
  | 0, s => (s, [])
  | n + 1, s =>
    let g := BitVec.ofNat 64 (c.fld 0x28 8 + 4 * j)
    if engineHeld s c false 0 0 0 g 4 then (s, [])
    else match engineRead s c 0 0 1 g 4 with
      | .error _ => (s, [])
      | .ok (s, b) =>
        let (s, l) := fetchIdx c (j + 1) n s
        (s, leBytes b 0 4 :: l)

/-- Does a copy take its rows' places from an index list (12 R342)? -/
def Copy.indexed (c : Copy) : Bool := c.fld 0x00 1 == 2 || c.fld 0x00 1 == 3

/-- The index of the row in progress, or the row itself (12 R342). -/
def Copy.at (c : Copy) : Nat := if c.indexed then c.idx.headD 0 else c.row

/-- Is the row in progress out of range (12 R342)? -/
def Copy.outRow (c : Copy) : Bool := c.indexed && decide (c.fld 0x30 4 ≤ c.at)

/-- Source and destination addresses of the row in progress. -/
def rowSrc (c : Copy) : W64 :=
  let op := c.fld 0x00 1
  BitVec.ofNat 64 (c.fld 0x18 8 + (if op = 0 then c.row * c.srcLen else (if op = 2 then c.at else c.row) * c.fld 0x0C 4))
def rowDst (c : Copy) : W64 :=
  BitVec.ofNat 64 (c.fld 0x20 8 + (if c.fld 0x00 1 = 3 then c.at else c.row) * c.pitch)

/-- Is some copy's row written in part? Invalidation waits for its end, so that the pieces of a row stay where
its checks found them (01 R31, log 91). -/
def rowsOpen (s : State) : Bool := s.copies.any (fun c => c.pos != 0 && !c.done)

/-- Every byte that the copy writes has been written or discarded. -/
def endCopy (c : Copy) (s : State) : State :=
  let s := putCopy { c with done := true, pos := 0, buf := [], outs := [] } s
  push .copyCompletion (.unit c.id)
    { s with blk := { s.blk with fillPend := s.blk.fillPend.filter (fun f => f.2 != c.id) } }

/-- The rows from the one in progress on are discarded (07 R215, 12 R346); none of them has been counted (12 R345). -/
def discardRows (c : Copy) (s : State) : State :=
  let n := c.rows - c.row
  endCopy { c with errs := c.errs + n } (arriveFor c (n * c.len) true s)

/-- Is an earlier copy of the same `cpk` still on its way (12 R344)? -/
def earlierRuns (s : State) (c : Copy) : Bool :=
  s.copies.any (fun o => o.cpk == c.cpk && o.queue.isNone && decide (o.id < c.id) && !o.done && !o.suspended)

/-- A fault at the row in progress, of which no byte has been written (12 R344, R346): the copy is suspended there, and its
fault lanes receive it; with none left it is recorded and the copy ends as under SKIP. A COPY packet's fault halts its
queue. -/
def stopCopy (c : Copy) (code : Nat) (va aux : W64) (s : State) : State :=
  if c.queue.isSome then endCopy { c with fault := some (code, aux) } s
  else if earlierRuns s c then push .copyGranuleWrite (.unit c.id) (putCopy c s)
  else
    let lanes := if s.w.launched = 0 then 0 else c.lanes &&& ~~~s.w.exited
    if lanes = 0 then
      let r : FwRec := { code := BitVec.ofNat 8 code, mask := 0, va := va, pc := c.pc, aux := aux, gid := c.gid, lin := c.lin }
      discardRows c { s with fw := r :: s.fw }
    else raiseLater c.user { ent := 16, code := BitVec.ofNat 8 code, kind := partialKind code, lanes := lanes, va := va, aux := aux,
                             pc := c.pc, part := .copy c.id } (putCopy { c with suspended := true } s)

/-- A memory fault of the engine (01 R34): UNIT 2, and the row as ELEM. -/
def stopAt (c : Copy) (k : Access) (m : MFault) (s : State) : State :=
  stopCopy c m.code m.va (laneAux k (c.row % 2 ^ 16) 2 m) s

/-- The row in progress has been passed: an out-of-range one counts as an error (12 R342, R345). -/
def nextRow (c : Copy) (s : State) : State :=
  let wrote := if c.fld 0x00 1 != 3 || c.outRow then c.wrote else addOnce (if c.pitch = 0 then 0 else c.at) c.wrote
  let moved := c.carry ++ traced c (rowSrc c) (rowDst c) c.buf
  push .copyGranuleWrite (.unit c.id)
    (putCopy { c with errs := c.errs + (if c.outRow then 1 else 0), row := c.row + 1, pos := 0, buf := [], places := [],
                      tagged := [], carry := moved.drop (moved.length - 7), idx := c.idx.tail, wrote := wrote, outs := [] } s)

/-- The bytes of a row that has been read, converted where the request says so, and its outlier entries. -/
def rowBytes (c : Copy) (b : List Byte) : List Byte × List Append :=
  if bit (c.fld 0x01 1) 0 && c.fld 0x00 1 != 4 && !c.outRow then
    let ds := slotIn c.slots (bits (c.fld 0x02 1) 3 3)
    let (b, es) := convertRow (slotIn c.slots (bits (c.fld 0x02 1) 0 3)) ds b
    (b, es.map (fun e => { lanes := c.lanes, list := ds.list, tag := rowDst c + BitVec.ofNat 64 e.1, idx := e.2.1,
                           val := e.2.2, got := none }))
  else (b, [])

/-- Reads the row in progress. -/
def readRow (c : Copy) (s : State) : State :=
  let op := c.fld 0x00 1
  let src := rowSrc c
  let again := push .copyGranuleWrite (.unit c.id) (putCopy c s)
  if c.outRow && c.strict then stopCopy { c with idx := [] } 0x08 0 (BitVec.ofNat 64 (c.row % 2 ^ 16 * 2 ^ 48 + c.at)) s
  else if c.outRow && op = 3 then nextRow c (arriveFor c c.len false s)
  else if op != 4 && !c.outRow && engineHeld s c false c.srcSwz (c.fld 0x18 8 % 2 ^ 56) (c.fld 0x0C 4) src c.srcLen then again
  else
    let data : Except MFault (State × List Byte) := if op = 4 || c.outRow then .ok (s, fillRow c)
      else engineRead s c c.srcSwz (c.fld 0x18 8 % 2 ^ 56) (c.fld 0x0C 4) src c.srcLen
    match data with
    | .error m => stopAt { c with idx := [] } .read m s
    | .ok (s, b) =>
      let (b, outs) := rowBytes c b
      let tags := if c.keeps && op != 4 && !c.outRow then rowTags s c src (rowDst c) b else []
      push .copyGranuleWrite (.unit c.id) (putCopy { c with buf := b, tagged := tags, outs := outs, pos := 0 } s)

/-- Fetches the indices of the next rows, up to 8 in one request, and then reads the row (12 R342). -/
def startRow (c : Copy) (s : State) : State :=
  if !c.indexed || !c.idx.isEmpty then readRow c s
  else
    let g := BitVec.ofNat 64 (c.fld 0x28 8 + 4 * c.row)
    let (t, l) := fetchIdx c c.row (min (8 - c.row % 8) (c.rows - c.row)) s
    if !l.isEmpty then readRow { c with idx := l } t
    else if engineHeld s c false 0 0 0 g 4 then push .copyGranuleWrite (.unit c.id) s
    else match engineRead s c 0 0 1 g 4 with
      | .error m => stopAt c .read m s
      | .ok (s, _) => push .copyGranuleWrite (.unit c.id) s

/-- Writes the next granule of the row in progress: its fill-pending bits clear, and the arrival object counts down
(02 R74, R76). -/
def writeGranule (c : Copy) (s : State) : State :=
  let dst := rowDst c
  let n := min (c.len - c.pos) (128 - (vaOf dst + c.pos) % 128)
  let s := if isWindow dst then putWindow c dst c.pos n s
    else match c.places.find? (fun p => p.va == dst + BitVec.ofNat 64 c.pos) with
      | some p => putPiece c dst c.pos p s
      | none => s
  let c := { c with pos := c.pos + n }
  let left := fun (f : Nat × Nat) => f.2 != c.id || c.owes f.1
  let s := putCopy c { s with blk := { s.blk with fillPend := s.blk.fillPend.filter left } }
  push .copyGranuleWrite (.unit c.id) (arriveFor c n false s)

/-- Appends the row's outlier entries, before any of its bytes is written (08 R236, 12 R344). -/
def appendRow (c : Copy) (s : State) : State :=
  let e := appendAll s c.user c.outs
  let c := { c with outs := e.left }
  match e.fault with
  | some m => stopAt c .rmw m e.s
  | none => push .copyGranuleWrite (.unit c.id) (putCopy c e.s)

/-- The first granule of a row: the whole row is checked, its outlier entries are appended, and then it is written. -/
def beginRow (c : Copy) (s : State) : State :=
  let dst := rowDst c
  if rowHeld s c dst then push .copyGranuleWrite (.unit c.id) s
  else match rowPieces s c dst with
    | .error m => stopAt c (if c.keeps && isObj m then .ref else .write) m s
    | .ok ps => if c.outs.isEmpty then writeGranule { c with places := ps } (keepPieces c ps s) else appendRow c s

/-- One step of a copy. -/
def copyStep (id : Nat) (s : State) : State :=
  match s.copies.find? (fun c => c.id == id) with
  | none => s
  | some c =>
    if c.suspended || c.done then s
    else
      let s := if c.queue.isSome then s else focusWarp s c.blk c.wp
      if c.skip then discardRows c s
      else if c.rows ≤ c.row then endCopy c s
      else if c.buf.isEmpty then startRow c s
      else if c.pos = 0 then beginRow c s
      else if c.pos < c.len then writeGranule c s
      else nextRow c s

def execCopyGranuleWrite (s : State) : Host.Outcome State Fault Refusal :=
  .next (match s.arg with
    | .unit id => copyStep id s
    | _ => s)

end Sys2Proof.Machine
end

