-- ==== Sys2Proof/Machine/Sync.lean ====
section
/-!
DEFINITION. Synchronisation within a block and on memory words: barriers (14 R387, 03 R110), wait words (R397, R398),
register donation (R399, 05 R167), `yld` (R400), fences (03 R89) and L1 maintenance (12 R354).
-/
namespace Sys2Proof.Machine

/-! ### Barriers (14 R387) -/

/-- The count of a CNT form, within 1 to the block's threads. -/
def barCount (s : State) (cnt : BitVec 1) (sa : BitVec 6) : Option Nat :=
  if cnt = 1 then some (min (max 1 ((readS s sa.toNat).toNat % 2 ^ 32)) s.blk.nthreads) else none

/-- The fragment's lanes arrive, after the release half (03 R110). -/
def arriveAt (id : BitVec 4) (cnt : BitVec 1) (sa : BitVec 6) (s : State) : State :=
  let n := barCount s cnt sa
  let s := releaseAt 1 s
  updBarrier id.toNat (fun b => arrivals s b n (laneKeys s.w.idx s.f.mask)) s

def execBar (id : BitVec 4) (cnt : BitVec 1) (sa : BitVec 6) (s : State) :=
  issue (.bar id cnt sa) (afterWork (fun s =>
    let ph := (barrierAt s id.toNat).phase
    let s := arriveAt id cnt sa s
    if phaseDone (barrierAt s id.toNat) then
      completePhase id.toNat (retire (.bar id cnt sa) (acquireAt 1 s))
    else holdAt (.barrier id.toNat ph) s)) s

def execBara (id : BitVec 4) (cnt : BitVec 1) (sa : BitVec 6) (s : State) :=
  issue (.bara id cnt sa) (afterWork (fun s =>
    let ph := (barrierAt s id.toNat).phase
    let s := arriveAt id cnt sa s
    let keys := (lanesOf s.f.mask).map (fun l => 32 * id.toNat + l)
    let s := { s with w := { s.w with arrived := keys.foldl (fun l k => keep k ph l) s.w.arrived } }
    completePhase id.toNat (retire (.bara id cnt sa) s))) s

/-- `barw`: sends the fragment's collector groups (02 R64), and waits while the open phase is that of a lane's last
`bara`. -/
def execBarw (id : BitVec 4) (s : State) :=
  issue (.barw id) (fun s =>
    let s := sendGroups (ofFront s) s
    let ph := (barrierAt s id.toNat).phase
    if (lanesOf s.f.mask).any (fun l => lookup (32 * id.toNat + l) s.w.arrived == some ph) then
      holdAt (.barrier id.toNat ph) s
    else retire (.barw id) (acquireAt 1 s)) s

/-! ### Wait words (14 R397, R398) -/

/-- The home slice of an address's line, its die included; slice 0 where it has no leaf. -/
def homeSlice (s : State) (asid : Nat) (va : W64) : Nat :=
  match leafOf s asid va with
  | .ok l => sliceOf asid l.e (vaOf va)
  | .error _ => 0

/-- Wait-word waiters that a home slice has registered. -/
def registeredAt (s : State) (slice : Nat) : Nat :=
  let hit := fun (b : Block) (f : Frag) => match f.hold with
    | .word va _ _ true _ => !isWindow va && homeSlice s (blockAsid s b) va == slice
    | _ => false
  let t := unfocus s
  (t.blocks.flatMap (fun b => b.warps.flatMap (fun w => w.frags.filter (hit b)))).length

/-- The common part of `bwt` and `bwk`: alignment, private space, then the access's own faults, which are replayed in
place. -/
def wordOp (i : Instr) (k : Access) (sa : BitVec 6) (act : W64 → Place → State → State) (s : State) : State :=
  let g := readS s sa.toNat
  if g.toNat % 8 != 0 then alignFault k ((lanesOf s.f.mask).map (fun l => (l, g))) s
  else if isPrivate g then precise 0x19 s.f.mask 0 (BitVec.ofNat 64 0x200) s
  else
    let q : Except MFault Place := match resolve s (isUser s) k .home g 8 0 with
      | .error m => .error m
      | .ok p => if k = .write then checkHeader s p g else .ok p
    match q with
    | .error m => faultPart i 1 s.f.mask s.f.mask m.code m.va (laneAux k 0 0 m) none s
    | .ok p =>
      if fillHeld s p 8 then holdAt .fill s
      else
        let as := (lanesOf s.f.mask).map (fun l => (l, g))
        if collHeld s as 8 || orderHeld s as 8 then holdAt .collect (sendGroups (ofFront s) s) else act g p s

/-- `bwt`: an acquiring read at the home or in the banks; the fragment sleeps while the condition does not hold, and a
waiter beyond the 64 that its slice registers looks again by WAIT_WORD_REREAD. -/
def execBwt (sa sb : BitVec 6) (cond : BitVec 2) (s : State) :=
  issue (.bwt sa sb cond) (wordOp (.bwt sa sb cond) .read sa (fun g p s =>
    let (t, v) := loadAt s p 8
    let t := keepLeaves t p
    if condHolds cond v (readS s sb.toNat).toNat then retire (.bwt sa sb cond) (acquireAt 2 t)
    else
      let reg := isWindow g || registeredAt s (homeSlice s (asidOf s) g) < 64
      let t := sleepAt (.word g cond (readS s sb.toNat) reg false) t
      if reg then t else push .waitWordReread (.triple t.blk.uid t.w.idx t.f.ent) t)) s

/-- `bwk`: a device-scope release, and the write at the home or in the banks. -/
def execBwk (sa sb : BitVec 6) (s : State) :=
  issue (.bwk sa sb) (wordOp (.bwk sa sb) .write sa (fun _ p => afterWork (fun s =>
    retire (.bwk sa sb) (keepLeaves (storeThrough (releaseAt 2 s) p (readS s sb.toNat).toNat 8) p)))) s

/-- WAIT_WORD_REREAD: a waiter that no slice has registered reads its word; one whose condition holds repeats its
acquiring read, any other looks again later. -/
def rereadWord (s : State) : State :=
  match s.f.hold with
  | .word va cond v false _ =>
    let go := match wordValue s s.blk (asidOf s) va with
      | some x => condHolds cond x v.toNat
      | none => true
    if go then { s with f := { s.f with hold := .word va cond v false true } }
    else push .waitWordReread (.triple s.blk.uid s.w.idx s.f.ent) s
  | _ => s

def execWaitWordReread (s : State) : Host.Outcome State Fault Refusal :=
  .next (match s.arg with
    | .triple b w e => rereadWord (focus s b w e)
    | _ => s)

/-! ### Register donation (14 R399, 05 R167) -/

/-- Live fragments of a warp that is not at the front. -/
def lonely (w : Warp) : Bool := w.frags.length ≤ 1

/-- Moves `n` registers from the top of the donor's allotment to the top of the recipient's, with their contents and
their last-read marks; the donor is at the front. -/
def donateRegs (other n : Nat) (s : State) : State :=
  let a := s.w.allot
  let moved := fun (k : Nat) => decide (32 * (a - n) ≤ k) && decide (k < 32 * a)
  let vals := s.w.v.filter (fun p => moved p.1)
  let marks := s.w.lastRead.filter moved
  let give := fun (w : Warp) => if w.idx != other then w else
    let dest := fun (k : Nat) => k - 32 * (a - n) + 32 * w.allot
    { w with allot := w.allot + n, v := vals.foldl (fun v p => Cells.set v (dest p.1) p.2) w.v,
             lastRead := marks.foldl (fun l k => addOnce (dest k) l) w.lastRead }
  { s with
    w := { s.w with allot := a - n, v := s.w.v.filter (fun p => !moved p.1), lastRead := s.w.lastRead.filter (fun k => !moved k) }
    blk := { s.blk with warps := s.blk.warps.map give, donations := s.blk.donations ++ [(s.w.idx, other, n / 8)] } }

/-- DONATE, precisely, in the donor. -/
def donateFault (i : Instr) (s : State) : State := precise 0x17 s.f.mask 0 (wordAux i) s

/-- The accepting fragment of a recipient: the oldest `racc` that names the donor. -/
def accepting (r : Warp) (donor : Nat) : Option Frag :=
  r.frags.foldl (fun a f => if f.hold == .accept donor then (match a with
    | none => some f
    | some g => if f.count < g.count then some f else a) else a) none

/-- Ends the recipient's `racc` and comes back to the donor's fragment. -/
def endAccept (wp ent : Nat) (s : State) : State :=
  let b := s.blk.uid
  let w := s.w.idx
  let e := s.f.ent
  focus (endWait (focus s b wp ent)) b w e

/-- The rendezvous of a `rdon` with a waiting `racc`. -/
def rendezvous (i : Instr) (other n : Nat) (r : Warp) (g : Frag) (s : State) : State :=
  if other = s.w.idx || !s.w.frags.isEmpty || !lonely r || s.w.allot < 16 + 8 * n || 216 < r.allot + 8 * n then donateFault i s
  else endAccept other g.ent (retire i (donateRegs other (8 * n) s))

def execRdon (sa : BitVec 6) (n : BitVec 5) (s : State) :=
  issue (.rdon sa n) (fun s =>
    let i := Instr.rdon sa n
    let other := (readS s sa.toNat).toNat % 2 ^ 16
    let t := if s.f.count = 0 then { s with f := { s.f with count := s.tick + 1 } } else s
    let wait := sleepAt (.donate other n.toNat) t
    if n = 0 then donateFault i s
    else match (s.w :: s.blk.warps).find? (fun w => w.idx == other && w.core == s.w.core && w.launched != w.exited) with
      | none => donateFault i s
      | some r =>
        match accepting r s.w.idx with
        | none => wait
        | some g => if !s.w.exps.isEmpty || !r.exps.isEmpty then wait else rendezvous i other n.toNat r g s) s

/-- `racc`: waits for the rendezvous, which the donor's `rdon` carries out. -/
def execRacc (sa : BitVec 6) (s : State) :=
  issue (.racc sa) (fun s =>
    let t := if s.f.count = 0 then { s with f := { s.f with count := s.tick + 1 } } else s
    sleepAt (.accept ((readS s sa.toNat).toNat % 2 ^ 16)) t) s

/-! ### `yld` (14 R400) -/

def execYld (s : State) :=
  issue .yld (fun s =>
    let s := retire .yld s
    let s := { s with f := { s.f with hold := .yield, waited := 0, promoted := none } }
    push .yieldExpiry (.triple s.blk.uid s.w.idx s.f.ent) s) s

/-- YIELD_EXPIRY. -/
def execYieldExpiry (s : State) : Host.Outcome State Fault Refusal :=
  .next (match s.arg with
    | .triple b w e =>
      let s := focus s b w e
      if s.f.hold = .yield then { s with f := { s.f with hold := .free } } else s
    | _ => s)

/-- ISSUE_PROMOTION (06 R181): promoted fragments issue in the order of their promotion. -/
def execIssuePromotion (s : State) : Host.Outcome State Fault Refusal :=
  .next (match s.arg with
    | .triple b w e =>
      let s := focus s b w e
      if s.f.mask != 0 && s.f.promoted.isNone && 48 ≤ s.f.waited then
        { s with f := { s.f with promoted := some s.promos }, promos := s.promos + 1 }
      else s
    | _ => s)

/-! ### Fences (03 R89, R91) -/

/-- A fence waits until the earlier accesses of its lanes have been performed; kinds are 0 acq, 1 rel, 2 acqrel, 3 sc. -/
def execFence (scope kind : BitVec 2) (s : State) :=
  issue (.fence scope kind) (afterWork (fun s =>
    let s := if kind = 0 then s else releaseAt scope.toNat s
    let s := if kind = 1 then s else acquireAt scope.toNat s
    retire (.fence scope kind) s)) s

/-! ### L1 maintenance (12 R354) -/

/-- The lines of the issuing L1 half, or cluster L1, that `l1wb` and `l1inv` act on. -/
def maintained (s : State) (rng : BitVec 1) (sa sb : BitVec 6) (x : L1Line) : Bool :=
  let lo := readS s sa.toNat
  let hi := lo.toNat + (readS s sb.toNat).toNat
  let g := (genOf (128 * x.la)).toNat
  ownHalf s x && (rng == 0 || (isGlobal lo && x.asid == effAsid (asidOf s) (128 * x.la) && lo.toNat < g + 128 && g < hi
    && lo.toNat != hi))

def execL1wb (rng : BitVec 1) (sa sb : BitVec 6) (s : State) :=
  issue (.l1wb rng sa sb) (fun s => retire (.l1wb rng sa sb) (writeBackHalf s (maintained s rng sa sb) false)) s

def execL1inv (rng : BitVec 1) (sa sb : BitVec 6) (s : State) :=
  issue (.l1inv rng sa sb) (fun s =>
    let m := maintained s rng sa sb
    retire (.l1inv rng sa sb) (dropClean (writeBackHalf s m false) m)) s

end Sys2Proof.Machine
end

