-- ==== Sys2Proof/Machine/Launch.lean ====
section
/-!
DEFINITION. Launches: the checks of a launch record (06 R172, R173, with 01 R13, 02 R46, R50, 05 R154, R166, R168,
08 R239, 06 R183, R185), acceptance (06 R174 to R177) and the instruction `launch` (14 R395).
-/
namespace Sys2Proof.Machine

/-! ### Reading -/

/-- Reads `n` bytes for a core or the front end, each translated under an ASID and privilege, at their homes. -/
def recordBytes (s : State) (asid : Nat) (user hub : Bool) (va : W64) : Nat → Except MFault (List Byte)
  | 0 => .ok []
  | n + 1 =>
    match notGlobal va with
    | some m => .error m
    | none =>
      match translate s asid user .read va 1 1 hub with
      | .error m => .error m
      | .ok p => match recordBytes s asid user hub (va + 1) n with
        | .error m => .error m
        | .ok r => .ok (BitVec.ofNat 8 (homeValueOf s p) :: r)

/-- Must a launching agent's read wait for bytes that a copy owes (02 R74)? -/
def recordHeld (s : State) (asid : Nat) (va : W64) : Bool :=
  agentHeld s asid va 256 || (match agentBytes s asid (va + 0x30) 8 with
    | .ok b => leBytes b 0 8 != 0 && agentHeld s asid (BitVec.ofNat 64 (leBytes b 0 8)) 64
    | .error _ => false)

/-- Is a value a global address of an alignment? -/
def globalAt (v align : Nat) : Bool := isGlobal (BitVec.ofNat 64 v) && v % align == 0

/-- The offset of the first check that fails. -/
def firstBad (l : List (Bool × Nat)) : Option Nat := (l.find? Prod.fst).map Prod.snd

/-! ### The checks (06 R172, R173) -/

/-- Threads, warps and wide cores that a record asks for (05 R168). -/
def recordThreads (r : List Byte) : Nat := leBytes r 0x14 2 * leBytes r 0x16 2 * leBytes r 0x18 2
def warpsPerCore (allot : Nat) : Nat := min 64 (4096 / allot)
def coresOfWarps (allot wpb : Nat) : Nat := (wpb + warpsPerCore allot - 1) / warpsPerCore allot

/-- The checks of offsets 0x00 to 0x27. `root` is what the graph root flag must be, if it matters. -/
def earlyChecks (s : State) (r : List Byte) (depth : Nat) (root : Option Bool) : List (Bool × Nat) :=
  let f := leBytes r
  let narrow := f 0x1A 1 == 1
  let t := recordThreads r
  let a := 8 * f 0x1C 1
  let tiles := f 0x24 2
  let (q0, q1, q2) := s.quotas
  [(!globalAt (f 0x00 8) 8, 0x00), (f 0x08 4 == 0, 0x08), (f 0x0C 4 == 0, 0x0C), (f 0x10 4 == 0, 0x10),
   (1 < f 0x1A 1, 0x1A), (t == 0 || (if narrow then 256 else 16384) < t, 0x1A), (1 < f 0x1B 1, 0x1B),
   (f 0x1C 1 < 2 || 27 < f 0x1C 1, 0x1C), (!narrow && 8 < coresOfWarps a ((t + 31) / 32), 0x1C),
   (8 ≤ f 0x1D 1 || (match root with
      | some b => bit (f 0x1D 1) 1 != b
      | none => false), 0x1D),
   (3 < f 0x1E 1, 0x1E), (9 < depth, 0x1F), (f 0x20 4 % 2048 != 0 || 0x400000 < f 0x20 4, 0x20),
   (if narrow then tiles != 0 else max q0 (max q1 q2) < tiles, 0x24), (8 < f 0x26 1, 0x26), (f 0x27 1 != 0, 0x27)]

/-- The checks of a format slot at an offset of the record (08 R237, R239). -/
def slotChecks (r : List Byte) (o : Nat) : List (Bool × Nat) :=
  let f := fun (k n : Nat) => leBytes r (o + k) n
  let code := f 0 1
  let zb := code == 0x10 || code == 0x11 || code == 0x12
  let known := [0x01, 0x02, 0x03, 0x04, 0x08, 0x09, 0x0A, 0x0B, 0x0C, 0x0D, 0x10, 0x11, 0x12].contains code
  let outl := bit (f 3 1) 2
  let e := bits (f 4 4) 23 8
  if code = 0 then []
  else [(!known, o), (if zb then 2 < f 1 1 else f 1 1 != 0, o + 1),
        (if f 1 1 = 1 || f 1 1 = 2 then f 2 1 == 255 else f 2 1 != 0, o + 2),
        (8 ≤ f 3 1 || (outl && !(zb || code == 2 || code == 3)), o + 3),
        (bit (f 4 4) 31 || e == 0 || e == 255, o + 4),
        (if outl then !globalAt (f 8 8) 16 else f 8 8 != 0, o + 8)]

/-- The nesting order of ORDER: the dimension at each level (06 R184). -/
def orderDims (order : Nat) : List Nat := [bits order 6 2, bits order 4 2, bits order 2 2, bits order 0 2]

/-- The validity of a set of gear values, by record offset (06 R185). ORDER's levels at and above DIMS hold 0 (06 R184;
log 92). -/
def gearChecks (dims : Nat) (grain tile : List Nat) (order place : Nat) : List (Bool × Nat) :=
  let ds := orderDims order
  let dimBad := fun (i : Nat) =>
    let t := tile.getD i 0
    let g := grain.getD i 0
    if i < dims then t == 0 || 0xFFFF < t || (g != 0 && t % g != 0) else t != 0
  let perm := (List.range dims).all (fun i => (ds.take dims).contains i) && (ds.drop dims).all (· == 0)
  let mode := bits place 0 4
  (List.range 4).map (fun i => (dimBad i, 0xD8 + 2 * i))
    ++ [(decide (256 ≤ order) || !perm, 0xE0),
        (bits place 9 23 != 0 || bits place 56 8 != 0 || decide (2 < mode) || (mode == 1 && decide (dims ≤ bits place 4 4)), 0xE1)]

/-- Grains of a dimension (06 R183). -/
def grains (ext grain : Nat) : Nat := (ext + grain - 1) / grain

/-- Lists of the gear fields of a record. -/
def recExt (r : List Byte) : List Nat := (List.range 4).map (fun i => leBytes r (0xC4 + 3 * i) 3)
def recGrain (r : List Byte) : List Nat := (List.range 4).map (fun i => leBytes r (0xD0 + 2 * i) 2)
def recTile (r : List Byte) : List Nat := (List.range 4).map (fun i => leBytes r (0xD8 + 2 * i) 2)
def recPlace (r : List Byte) : Nat := leBytes r 0xE1 3 + 2 ^ 32 * leBytes r 0xE4 2 + 2 ^ 48 * leBytes r 0xE6 1

/-- The number of grains below DIMS. -/
def grainTotal (dims : Nat) (ext grain : List Nat) : Nat :=
  (List.range dims).foldl (fun n i => n * grains (ext.getD i 0) (grain.getD i 0)) 1

/-- The checks from offset 0x38 on. -/
def lateChecks (r : List Byte) : List (Bool × Nat) :=
  let f := leBytes r
  let dims := f 0xC0 1
  let ext := recExt r
  let grain := recGrain r
  [(f 0x38 8 != 0 && !globalAt (f 0x38 8) 8, 0x38)]
    ++ (List.range 8).flatMap (fun n => slotChecks r (0x40 + 16 * n))
    ++ [(decide (4 < dims), 0xC0), (f 0xC1 1 != 0, 0xC1), (f 0xC2 1 != 0, 0xC2), (f 0xC3 1 != 0, 0xC3)]
    ++ (List.range 4).map (fun i => ((ext.getD i 0 == 0) == decide (i < dims), 0xC4 + 3 * i))
    ++ (List.range 4).flatMap (fun i =>
        [((grain.getD i 0 == 0) == decide (i < dims), 0xD0 + 2 * i),
         (i + 1 == dims && decide (2 ^ 32 < grainTotal dims ext grain), 0xD0 + 2 * i)])
    ++ gearChecks dims grain (recTile r) (f 0xE0 1) (recPlace r)
    ++ [(f 0xE7 1 != 0, 0xE7), (dims != 0 && f 0xE8 8 % 0x4000 != 0, 0xE8),
        (f 0xF0 8 != 0 && !globalAt (f 0xF0 8) 1, 0xF0), (f 0xF8 8 != 0 && !globalAt (f 0xF8 8) 8, 0xF8)]

/-- Private region, private bytes, spill region and spilled entries of the spill-area header (01 R13, 05 R154); none
where the header breaks a limit. -/
def spillHeader (s : State) (asid : Nat) (user hub : Bool) (r : List Byte) : Except MFault (Option (Nat × Nat × Nat × Nat)) :=
  let sa := leBytes r 0x30 8
  if sa = 0 then .ok (some (0, 0, 0, 0))
  else if !globalAt sa 1 then .ok none
  else match recordBytes s asid user hub (BitVec.ofNat 64 sa) 64 with
    | .error m => .error m
    | .ok h =>
      let f := leBytes h
      let p := f 0x08 4
      let e := f 0x18 4
      let bad := f 0x0C 4 != 0 || p % 16 != 0 || 0x100000 < p || !globalAt (f 0x00 8) 128
        || (h.drop 0x1C).any (fun b => b != 0) || 4096 < e || !globalAt (f 0x10 8) 64 || (e != 0 && f 0x10 8 == 0)
      .ok (if bad then none else some (f 0x00 8, p, f 0x10 8, e))

/-! ### Acceptance (06 R174 to R177) -/

/-- What a launching agent asks for. -/
structure LaunchReq where
  asid : Nat
  user : Bool
  va : W64                   -- the record
  depth : Nat
  parent : Option Nat
  queue : Option (Nat × Nat)
  cls : Nat                  -- most urgent class allowed
  root : Option Bool         -- what the graph root flag must be
  graph : Option Nat
  die : Nat
  deriving DecidableEq, Repr

/-- The outcome of a launch. -/
inductive Accepted where
  | full
  | bad (offset : Nat)
  | fault (m : MFault)
  | ok (s : State) (gid : Nat)
  deriving DecidableEq, Repr

/-- The gear set of a record (06 R182). -/
def newGear (r : List Byte) : Option Gear :=
  if leBytes r 0xC0 1 = 0 then none
  else
    let tile := (recTile r).map (BitVec.ofNat 64)
    let order := BitVec.ofNat 64 (leBytes r 0xE0 1)
    let place := BitVec.ofNat 64 (recPlace r)
    some { tile := tile, order := order, place := place, stTile := tile, stOrder := order, stPlace := place, gen := 0,
           recalls := 0, cursors := [], queues := [], held := [], tt := [], handed := [], claims := [] }

/-- The grid of an accepted record. -/
def newGrid (s : State) (q : LaunchReq) (r : List Byte) (h : Nat × Nat × Nat × Nat) : Grid :=
  let r := r.set 0x1F (BitVec.ofNat 8 q.depth)
  { gid := s.uid, record := r, recVa := q.va, depth := q.depth, parent := q.parent, queue := q.queue, asid := q.asid,
    cls := max q.cls (leBytes r 0x1E 1), accepted := true, die := q.die, turn := s.uid, next := 0,
    total := leBytes r 0x08 4 * leBytes r 0x0C 4 * leBytes r 0x10 4, live := 0, children := 0, dead := none,
    retired := false, mapFault := none, privVa := h.1, privP := h.2.1, spillVa := h.2.2.1, spillE := h.2.2.2,
    quotas := s.quotas, gear := newGear r, graph := q.graph, service := none }

/-- Does the front end launch, on the hub, and not the lanes of a grid? -/
def LaunchReq.hub (q : LaunchReq) : Bool := q.parent.isNone

/-- The depth write of 06 R175, a store at level sys: not performed where translation or the page denies it. -/
def writeDepth (s : State) (q : LaunchReq) : State :=
  match translate s q.asid q.user .write (q.va + 0x1F) 1 2 q.hub with
  | .error _ => s
  | .ok p =>
    if isDevLeaf p.leaf.e || headerHit s p then s
    else if q.hub then homeWrite s 2 p q.depth
    else homeStore s 2 p q.depth

/-- Reads and checks a record: the record and its spill header, or why it fails. -/
def checkRecord (s : State) (q : LaunchReq) : Except Accepted (List Byte × Nat × Nat × Nat × Nat) :=
  match recordBytes s q.asid q.user q.hub q.va 256 with
  | .error m => .error (.fault m)
  | .ok r =>
    match firstBad (earlyChecks s r q.depth q.root) with
    | some o => .error (.bad o)
    | none =>
      match spillHeader s q.asid q.user q.hub r with
      | .error m => .error (.fault m)
      | .ok none => .error (.bad 0x30)
      | .ok (some h) =>
        match firstBad (lateChecks r) with
        | some o => .error (.bad o)
        | none => .ok (r, h)

/-- Accepts a launch: the record is read once and checked, its depth is written, and its blocks are to start. -/
def acceptLaunch (s : State) (q : LaunchReq) : Accepted :=
  match checkRecord s q with
  | .error e => e
  | .ok (r, h) =>
    if 64 ≤ heldLaunches s q.die then .full
    else
      let g := newGrid s q r h
      let s := fresh (writeDepth { s with grids := s.grids ++ [g] } q)
      let s := match q.parent with
        | some p => updGrid s p (fun x => { x with children := x.children + 1 })
        | none => s
      .ok (push .blockStart (.unit g.gid) s) g.gid

/-! ### `launch` (14 R395) -/

/-- `launch`: a device-scope release; a full die dispatcher makes the fragment sleep. Each failure is precise. -/
def execLaunch (sa : BitVec 6) (s : State) :=
  issue (.launch sa) (fun s =>
    let i := Instr.launch sa
    let g := readS s sa.toNat
    let m := s.f.mask
    if g.toNat % 256 != 0 then alignFault .read ((lanesOf m).map (fun l => (l, g))) s
    else if !isGlobal g then
      let e := prot (if isWindow g || isPrivate g then 0x19 else 0x14) g
      precise e.code m e.va (laneAux .read 0 0 e) s
    else if recordHeld s (asidOf s) g then holdAt .fill s
    else afterWork (fun s =>
      let t := releaseAt 2 s
      let grid := gridOf t
      let q : LaunchReq :=
        { asid := asidOf t, user := isUser t, va := g, depth := (grid.map Grid.depth).getD 0 + 1, parent := some t.blk.gid,
          queue := none, cls := 0, root := some false, graph := grid.bind Grid.graph, die := clusterOf t.w.core / 32 }
      match acceptLaunch t q with
      | .full => sleepAt (.launch t.blk.gid) t
      | .bad o => precise 0x0E m 0 (BitVec.ofNat 64 (o * 256)) s
      | .fault e => precise e.code m e.va (laneAux .read 0 0 e) s
      | .ok t _ => retire i t) s) s

end Sys2Proof.Machine
end

