-- ==== Sys2Proof/Machine/Gear.lean ====
section
/-!
DEFINITION. The gear set of a launch (06 R182 to R197, 14 R388 to R391): the coverage map, enumeration and claiming,
handover, shifts, and the instructions `schn`, `schd`, `schp`, `schs`, `schc`, `schh`, `schq`.
-/
namespace Sys2Proof.Machine

/-! ### The coverage map (06 R183, R186) -/

/-- A launch's coverage map and who reaches it: lanes, through whose L1 half it is kept coherent (03 R87), or the
dispatcher alone. -/
structure MapRef where
  asid : Nat
  user : Bool
  half : Bool
  base : Nat
  dims : Nat
  ext : List Nat
  grain : List Nat
  deriving DecidableEq, Repr

/-- The coverage map of a grid. -/
def Grid.map (g : Grid) (user : Bool) (half : Bool := true) : MapRef :=
  { asid := g.asid, user := user, half := half, base := leBytes g.record 0xE8 8, dims := leBytes g.record 0xC0 1,
    ext := recExt g.record, grain := recGrain g.record }

/-- Grains along a dimension. -/
def MapRef.n (m : MapRef) (i : Nat) : Nat := grains (m.ext.getD i 0) (m.grain.getD i 0)

/-- Grains of the launch. -/
def MapRef.total (m : MapRef) : Nat := grainTotal m.dims m.ext m.grain

/-- Map lines of grain fields. -/
def MapRef.lineCount (m : MapRef) : Nat := (m.total + 511) / 512

/-- Where the summary bits and the grain fields begin. -/
def MapRef.summary (m : MapRef) : Nat := m.base + 0x4000
def MapRef.fields (m : MapRef) : Nat := m.base + 0x4000 + (m.lineCount + 1023) / 1024 * 128

/-- The linear index of grain coordinates. -/
def MapRef.linear (m : MapRef) (x : List Nat) : Nat :=
  (List.range m.dims).foldr (fun i a => x.getD i 0 + m.n i * a) 0

/-- Every grain of a box, given by first grains and counts: coordinates in the order of the dimensions. -/
def boxGrains : List (Nat × Nat) → List (List Nat)
  | [] => [[]]
  | (o, k) :: r => (List.range k).flatMap (fun j => (boxGrains r).map (fun x => (o + j) :: x))

/-- The byte of the map at an address: a home-ALU access (06 R186). -/
def mapCell (s : State) (m : MapRef) (va : Nat) : Except MFault Piece :=
  let g := BitVec.ofNat 64 va
  match notGlobal g with
  | some e => .error e
  | none =>
    match translate s m.asid m.user .rmw g 1 1 (!m.half) with
    | .error e => .error e
    | .ok p =>
      if isDevLeaf p.leaf.e then .error { code := 0x18, cause := 0, level := 15, pool := 0, va := g }
      else if headerHit s p then .error { code := 0x0A, cause := 0x24, level := 15, pool := 0, va := g }
      else .ok p

/-- The bytes of the map at these addresses, or the first fault that their accesses meet. -/
def mapPieces (s : State) (m : MapRef) : List Nat → Except MFault (List Piece)
  | [] => .ok []
  | va :: r =>
    match mapCell s m va with
    | .error e => .error e
    | .ok p => match mapPieces s m r with
      | .error e => .error e
      | .ok ps => .ok (p :: ps)

/-- How steps on the map begin: with a fault, with a wait for bytes that a copy owes (02 R74), or, the issuing half's dirty
bytes written back (03 R87), in a state in which none of them fails. -/
inductive MapStart where
  | fault (e : MFault)
  | held
  | ok (s : State)

/-- Begins steps on the map's bytes at these addresses. -/
def mapStart (s : State) (m : MapRef) (vas : List Nat) : MapStart :=
  match mapPieces s m vas with
  | .error e => .fault e
  | .ok ps =>
    if ps.any (fun q => rangeHeld s q.asid q.va) then .held
    else if m.half then .ok (ps.foldl (fun s q => beforeHome s q.asid q.va) (keepLeaves s (.mem 1 ps)))
    else .ok s

/-- Reads and writes a byte of the map whose access has been found to meet no fault. A write drops the issuing half's
copy (03 R87). -/
def mapGet (s : State) (m : MapRef) (va : Nat) : Nat :=
  match mapCell s m va with
  | .ok p => homeValueOf s p
  | .error _ => 0
def mapPut (s : State) (m : MapRef) (va v : Nat) : State :=
  match mapCell s m va with
  | .ok p => homeWrite (if m.half then dropCopy s p.asid p.va else s) 1 p v
  | .error _ => s

/-- `n` bytes of the map as a number, and their write. -/
def mapGetN (s : State) (m : MapRef) (va : Nat) : Nat → Nat
  | 0 => 0
  | n + 1 => mapGet s m va + 256 * mapGetN s m (va + 1) n
def mapPutN (s : State) (m : MapRef) (va v : Nat) : Nat → State
  | 0 => s
  | n + 1 => mapPutN (mapPut s m va (v % 256)) m (va + 1) (v / 256) n

/-- The field of a grain. -/
def fieldOf (s : State) (m : MapRef) (g : Nat) : Nat := bits (mapGet s m (m.fields + g / 4)) (2 * (g % 4)) 2

/-- Moves the grains among `gs` that are in state `old` to another state (06 R188): the grains moved. -/
def moveGrains (m : MapRef) (old dest : Nat) : List Nat → State → State × List Nat
  | [], s => (s, [])
  | g :: r, s =>
    if fieldOf s m g = old then
      let va := m.fields + g / 4
      let v := mapGet s m va + dest * 4 ^ (g % 4) - old * 4 ^ (g % 4)
      let (s, l) := moveGrains m old dest r (mapPut s m va v)
      (s, g :: l)
    else moveGrains m old dest r s

/-- The map lines of grains. -/
def linesOf (gs : List Nat) : List Nat := (gs.map (· / 512)).eraseDups

/-- The addresses of the fields of grains. -/
def fieldAddrs (m : MapRef) (gs : List Nat) : List Nat := (gs.map (fun g => m.fields + g / 4)).eraseDups

/-- The addresses of the summary bits of their lines, and of every field of those lines, which a claim looks at. -/
def summaryAddrs (m : MapRef) (gs : List Nat) : List Nat := ((linesOf gs).map (fun k => m.summary + k / 8)).eraseDups
def claimAddrs (m : MapRef) (gs : List Nat) : List Nat :=
  (linesOf gs).flatMap (fun k => fieldAddrs m ((List.range (min 512 (m.total - 512 * k))).map (512 * k + ·)))

/-- Is a map line's summary bit set? -/
def summaryBit (s : State) (m : MapRef) (k : Nat) : Bool := bit (mapGet s m (m.summary + k / 8)) (k % 8)

/-- Sets the summary bits of lines in which no grain of the launch is free (06 R186). -/
def setSummary (m : MapRef) (lines : List Nat) (s : State) : State :=
  lines.foldl (fun s k =>
    let gs := (List.range (min 512 (m.total - 512 * k))).map (512 * k + ·)
    if summaryBit s m k || gs.any (fun g => fieldOf s m g == 0) then s
    else mapPut s m (m.summary + k / 8) (mapGet s m (m.summary + k / 8) + 2 ^ (k % 8))) s

/-! ### Tiles in elements and in grains (06 R192) -/

/-- The tile of a box of grains, in elements. -/
def boxTile (m : MapRef) (gen : BitVec 32) (b : List (Nat × Nat)) : Tile :=
  let org := fun (i : Nat) => (b.getD i (0, 0)).1 * m.grain.getD i 0
  { org := (List.range 4).map (fun i => if i < m.dims then org i else 0),
    ext := (List.range 4).map (fun i =>
      if i < m.dims then min ((b.getD i (0, 0)).2 * m.grain.getD i 0) (m.ext.getD i 0 - org i) else 1),
    gen := gen, entry := none }

/-- The box of grains that a tile covers, within the launch: every grain that it touches (log 92). -/
def grainBox (m : MapRef) (t : Tile) : List (Nat × Nat) :=
  (List.range m.dims).map (fun i =>
    let g := max 1 (m.grain.getD i 0)
    let o := t.org.getD i 0 / g
    (o, min (m.n i) ((t.org.getD i 0 + t.ext.getD i 0 + g - 1) / g) - o))

/-- The linear indices of the grains that a tile covers. -/
def tileGrains (m : MapRef) (t : Tile) : List Nat := (boxGrains (grainBox m t)).map m.linear

/-- Do two tiles have the same origin and extents? -/
def sameShape (a b : Tile) : Bool := a.org == b.org && a.ext == b.ext

/-! ### Enumeration (06 R184, R189) -/

/-- Committed TILE, MODE, DIM and STEAL. -/
def Gear.tileAt (g : Gear) (i : Nat) : Nat := (g.tile.getD i 0).toNat
def Gear.mode (g : Gear) : Nat := bits g.place.toNat 0 4
def Gear.dim (g : Gear) : Nat := bits g.place.toNat 4 4
def Gear.steal (g : Gear) : Bool := bit g.place.toNat 8

/-- Boxes along a dimension. -/
def boxesAlong (m : MapRef) (g : Gear) (i : Nat) : Nat :=
  let tg := max 1 (g.tileAt i / max 1 (m.grain.getD i 0))
  (m.n i + tg - 1) / tg

/-- All boxes of the generation. -/
def boxCount (m : MapRef) (g : Gear) : Nat := (List.range m.dims).foldl (fun n i => n * boxesAlong m g i) 1

/-- Box `k` of the enumeration, in grains: the innermost dimension advances fastest. -/
def boxAt (m : MapRef) (g : Gear) (k : Nat) : List (Nat × Nat) :=
  let ds := ((orderDims g.order.toNat).take m.dims).reverse
  let pos := (ds.foldl (fun (a : Nat × List (Nat × Nat)) d =>
    (a.1 / boxesAlong m g d, (d, a.1 % boxesAlong m g d) :: a.2)) (k, [])).2
  (List.range m.dims).map (fun i =>
    let tg := max 1 (g.tileAt i / max 1 (m.grain.getD i 0))
    let o := (lookup i pos).getD 0 * tg
    (o, min tg (m.n i - o)))

/-- Clusters of benches and positions; a mask of 0 counts as all ones (06 R178). -/
def clusterSet (bench pos : Nat) : List Nat :=
  let b := if bench % 2 ^ 16 = 0 then 0xFFFF else bench
  let p := if pos % 2 ^ 8 = 0 then 0xFF else pos
  (List.range 128).filter (fun c => bit b (c / 8) && bit p (c % 8))

/-- The placement set of a launch: by the committed PLACE of its gear set, or by its record. -/
def placementSet (g : Grid) : List Nat :=
  let p := match g.gear with
    | some x => x.place.toNat
    | none => recPlace g.record
  clusterSet (bits p 32 16) (bits p 48 8)

/-- Is box `k` in the share of a cluster? -/
def inShare (m : MapRef) (g : Gear) (ps : List Nat) (c k : Nat) : Bool :=
  if g.mode = 0 then true
  else if !ps.contains c then false
  else
    let i := ps.findIdx (· == c)
    let n := ps.length
    if g.mode = 2 then k % n == i
    else
      let o := ((boxAt m g k).getD g.dim (0, 0)).1
      decide (i * m.n g.dim / n ≤ o) && decide (o < (i + 1) * m.n g.dim / n)

/-- The next box of a cluster's share at or after `k`. -/
def nextBox (m : MapRef) (g : Gear) (ps : List Nat) (c k : Nat) : Nat → Option Nat
  | 0 => none
  | fuel + 1 => if inShare m g ps c k then some k else nextBox m g ps c (k + 1) fuel

/-- The key of a cluster's cursor: the launch cursor in MODE 0. -/
def cursorKey (g : Gear) (c : Nat) : Nat := if g.mode = 0 then 128 else c

/-! ### Pieces (06 R191) -/

/-- The ranges within `o` to `o + k`, each by its first grain and count. -/
def subRanges (p : Nat × Nat) : List (Nat × Nat) :=
  (List.range p.2).flatMap (fun a => (List.range (p.2 - a)).map (fun b => (p.1 + a, b + 1)))

/-- The sub-boxes of a box. -/
def subBoxes : List (Nat × Nat) → List (List (Nat × Nat))
  | [] => [[]]
  | p :: r => (subRanges p).flatMap (fun x => (subBoxes r).map (fun y => x :: y))

/-- Grains of a box. -/
def boxSize (b : List (Nat × Nat)) : Nat := b.foldl (fun n p => n * p.2) 1

/-- Does an origin come first in the ORDER enumeration? -/
def originBefore (ds : List Nat) (a b : List (Nat × Nat)) : Bool :=
  match ds with
  | [] => false
  | d :: r =>
    let x := (a.getD d (0, 0)).1
    let y := (b.getD d (0, 0)).1
    if x = y then originBefore r a b else decide (x < y)

/-- The box of grains inside `h` with the most grains; among equals the one whose origin comes first, and among those of one
origin the one that `subBoxes` lists first (log 92). -/
def bestPiece (m : MapRef) (ds : List Nat) (h : List Nat) (box : List (Nat × Nat)) : Option (List (Nat × Nat)) :=
  (subBoxes box).foldl (fun best p =>
    if (boxGrains p).all (fun x => h.contains (m.linear x)) then
      match best with
      | none => some p
      | some q => if boxSize q < boxSize p || (boxSize q == boxSize p && originBefore ds p q) then some p else best
    else best) none

/-- Splits the claimed grains of a box into pieces, largest first. -/
def cutPieces (m : MapRef) (ds : List Nat) (box : List (Nat × Nat)) (h : List Nat) : Nat → List (List (Nat × Nat))
  | 0 => []
  | fuel + 1 =>
    match bestPiece m ds h box with
    | none => []
    | some p =>
      let gs := (boxGrains p).map m.linear
      p :: cutPieces m ds box (h.filter (fun g => !gs.contains g)) fuel

/-- How the claim of a box ends: with a fault or a wait, or with its pieces, none when the box is skipped. -/
inductive ClaimEnd where
  | fault (e : MFault)
  | held
  | ok (s : State) (pieces : List Tile)

/-- Claims a box (06 R191). One whose lines have all their summary bits set needs no step on the fields. -/
def claimBox (m : MapRef) (g : Gear) (box : List (Nat × Nat)) (s : State) : ClaimEnd :=
  let gs := (boxGrains box).map m.linear
  match mapStart s m (summaryAddrs m gs) with
  | .fault e => .fault e
  | .held => .held
  | .ok s =>
    if (linesOf gs).all (summaryBit s m) then .ok s []
    else match mapStart s m (claimAddrs m gs) with
      | .fault e => .fault e
      | .held => .held
      | .ok s =>
        let (s, h) := moveGrains m 0 1 gs s
        let s := setSummary m (linesOf gs) s
        .ok s ((cutPieces m ((orderDims g.order.toNat).take m.dims) box h h.length).map (boxTile m g.gen))

/-! ### Handover entries (06 R187, R190, R194) -/

/-- The address of an entry. -/
def entryVa (m : MapRef) (e : Nat) : Nat := m.base + 64 * e

/-- An entry's state. -/
def entryState (s : State) (m : MapRef) (e : Nat) : Nat := mapGet s m (entryVa m e + 0x36)

/-- An entry's tile. -/
def entryTile (s : State) (m : MapRef) (e : Nat) : Tile :=
  { org := (List.range 4).map (fun i => mapGetN s m (entryVa m e + 0x10 + 4 * i) 4),
    ext := (List.range 4).map (fun i => mapGetN s m (entryVa m e + 0x20 + 4 * i) 4),
    gen := BitVec.ofNat 32 (mapGetN s m (entryVa m e + 0x30) 4), entry := some e }

/-- The addresses of the bytes of the handover table, or of an entry. -/
def tableAddrs (m : MapRef) : List Nat := (List.range 256).map (entryVa m)
def entryAddrs (m : MapRef) (e : Nat) : List Nat := [entryVa m e, entryVa m e + 63]

/-- The lowest free entry (log 92). -/
def freeEntry (s : State) (m : MapRef) : Option Nat := (List.range 256).find? (fun e => entryState s m e == 0)

/-- Writes a whole entry in state handed. -/
def writeEntry (m : MapRef) (e : Nat) (t : Tile) (buf prog : W64) (cluster : Nat) (s : State) : State :=
  let va := entryVa m e
  let s := mapPutN s m va buf.toNat 8
  let s := mapPutN s m (va + 8) prog.toNat 8
  let s := (List.range 4).foldl (fun s i => mapPutN s m (va + 0x10 + 4 * i) (t.org.getD i 0) 4) s
  let s := (List.range 4).foldl (fun s i => mapPutN s m (va + 0x20 + 4 * i) (t.ext.getD i 0) 4) s
  let s := mapPutN s m (va + 0x30) t.gen.toNat 4
  let s := mapPutN s m (va + 0x34) cluster 2
  mapPutN (mapPut s m (va + 0x36) 1) m (va + 0x37) 0 9

/-- Changes the gear set of a grid. -/
def updGear (gid : Nat) (u : Gear → Gear) (s : State) : State :=
  updGrid s gid (fun g => { g with gear := g.gear.map u })

/-- The outcome of a handover of a tile. -/
inductive HandEnd where
  | fault (e : MFault)
  | held
  | full
  | ok (s : State)

/-- Hands a tile over into a free entry. -/
def handOver (gid : Nat) (m : MapRef) (t : Tile) (buf prog : W64) (cluster : Nat) (s : State) : HandEnd :=
  match mapStart s m (tableAddrs m) with
  | .fault e => .fault e
  | .held => .held
  | .ok s =>
    match freeEntry s m with
    | none => .full
    | some e =>
      let gs := tileGrains m t
      match mapStart s m (entryAddrs m e ++ fieldAddrs m gs) with
      | .fault f => .fault f
      | .held => .held
      | .ok s =>
        let s := writeEntry m e t buf prog cluster s
        let s := (moveGrains m 1 2 gs s).1
        .ok (updGear gid (fun g => { g with handed := g.handed.filter (· != e) ++ [e] }) s)

/-- What a run of handovers has left: the pieces, and why the first of them was not handed over. -/
structure HandsEnd where
  s : State
  left : List Tile
  why : HandEnd

/-- Hands over pieces that do not fit their queue, in order. -/
def handPieces (gid : Nat) (m : MapRef) (cluster : Nat) : List Tile → State → HandsEnd
  | [], s => { s := s, left := [], why := .full }
  | t :: r, s =>
    match handOver gid m t 0 0 cluster s with
    | .ok s => handPieces gid m cluster r s
    | why => { s := s, left := t :: r, why := why }

/-! ### Serving a `schn` (06 R190, R195) -/

/-- What a `schn` receives. -/
inductive Served where
  | tile (t : Tile) (buf prog : W64) (owed : List Tile)
  | exhausted
  | held
  | fault (e : MFault)
  deriving DecidableEq, Repr

/-- Pieces in a cluster's tile queue, of all launches (06 R191). -/
def queuedPieces (s : State) (cluster : Nat) : Nat :=
  s.grids.foldl (fun n g => n + ((g.gear.map (fun x => (x.queues.filter (fun q => q.1 == cluster)).length)).getD 0)) 0

/-- Step 1: a piece in the cluster's tile queue. -/
def queuedPiece (g : Gear) (cluster : Nat) : Option Tile := (g.queues.find? (fun q => q.1 == cluster)).map Prod.snd

/-- Removes the first element for which `p` holds. -/
def dropFirst {α : Type} (p : α → Bool) : List α → List α
  | [] => []
  | x :: r => if p x then r else x :: dropFirst p r

/-- Step 2: the oldest handover entry in state handed. -/
def pickUp (gid : Nat) (m : MapRef) (g : Gear) (s : State) : Option (State × Served) :=
  match mapStart s m (g.handed.flatMap (entryAddrs m)) with
  | .fault e => some (s, .fault e)
  | .held => some (s, .held)
  | .ok s =>
    match g.handed.find? (fun e => entryState s m e == 1) with
    | none => none
    | some e =>
      let t := entryTile s m e
      let gs := tileGrains m t
      match mapStart s m (fieldAddrs m gs) with
      | .fault f => some (s, .fault f)
      | .held => some (s, .held)
      | .ok s =>
        let buf := BitVec.ofNat 64 (mapGetN s m (entryVa m e) 8)
        let prog := BitVec.ofNat 64 (mapGetN s m (entryVa m e + 8) 8)
        let s := (moveGrains m 2 1 gs s).1
        let s := mapPut s m (entryVa m e + 0x36) 2
        some (updGear gid (fun g => { g with handed := g.handed.filter (· != e) }) s, .tile t buf prog [])

/-- Steps 3 and 4 on one cursor: boxes are taken until one yields a piece. -/
def takeBox (gid : Nat) (m : MapRef) (g : Gear) (ps : List Nat) (c : Nat) : Nat → State → State × Option Served
  | 0, s => (s, none)
  | fuel + 1, s =>
    let key := cursorKey g c
    let cur := (((s.grids.find? (fun x => x.gid == gid)).bind Grid.gear).bind (fun x => lookup key x.cursors)).getD 0
    let set := fun (k : Nat) => updGear gid (fun x => { x with cursors := keep key k x.cursors })
    match nextBox m g ps c cur (boxCount m g - cur) with
    | none => (set (boxCount m g) s, none)
    | some k =>
      match claimBox m g (boxAt m g k) s with
      | .fault e => (s, some (.fault e))
      | .held => (s, some .held)
      | .ok s [] => takeBox gid m g ps c fuel (set (k + 1) s)
      | .ok s (t :: r) => (set (k + 1) s, some (.tile t 0 0 r))

/-- The clusters whose cursors STEAL tries (06 R195): bench, die, other dies, each upward from the next cluster. -/
def stealOrder (ps : List Nat) (c : Nat) : List Nat :=
  let near := fun (x : Nat) => if x / 8 = c / 8 then 0 else if x / 32 = c / 32 then 1 else 2
  let key := fun (x : Nat) => 128 * near x + (x + 128 - c) % 128
  (ps.filter (· != c)).foldl (fun l x => insertBy key x l) []

/-- Tries cursors in turn. -/
def takeFrom (gid : Nat) (m : MapRef) (g : Gear) (ps : List Nat) : List Nat → State → State × Served
  | [], s => (s, .exhausted)
  | c :: r, s =>
    match takeBox gid m g ps c (boxCount m g + 1) s with
    | (s, some v) => (s, v)
    | (s, none) => takeFrom gid m g ps r s

/-- The four steps of 06 R190. -/
def serve (gid : Nat) (m : MapRef) (g : Gear) (ps : List Nat) (c : Nat) (s : State) : State × Served :=
  match queuedPiece g c with
  | some t => (updGear gid (fun x => { x with queues := dropFirst (fun q => q.1 == c) x.queues }) s, .tile t 0 0 [])
  | none =>
    match (if g.recalls.getLsbD c then none else pickUp gid m g s) with
    | some v => v
    | none => takeFrom gid m g ps (if g.steal && g.mode != 0 then c :: stealOrder ps c else [c]) s

/-- Adds pieces to the cluster's tile queue while it has room: those that do not fit. -/
def enqueue (gid cluster : Nat) (l : List Tile) (s : State) : State × List Tile :=
  let room := 64 - queuedPieces s cluster
  (updGear gid (fun x => { x with queues := x.queues ++ (l.take room).map (fun t => (cluster, t)) }) s, l.drop room)

/-! ### A cluster with no block of the launch left (06 R191) -/

/-- Hands over the queued pieces of a cluster; a map fault is recorded for firmware, and the grains of the pieces that
were not handed over stay claimed. -/
def flushCluster (gid cluster : Nat) (s : State) : State :=
  match s.grids.find? (fun g => g.gid == gid) with
  | none => s
  | some gr =>
    match gr.gear with
    | none => s
    | some g =>
      let mine := (g.queues.filter (fun q => q.1 == cluster)).map Prod.snd
      if mine.isEmpty then s
      else
        let m := gr.map false false
        let rest := fun (l : List Tile) => updGear gid (fun x =>
          { x with queues := x.queues.filter (fun q => q.1 != cluster) ++ l.map (fun t => (cluster, t)) })
        let h := handPieces gid m cluster mine s
        match h.why with
        | .fault e =>
          let r : FwRec := { code := BitVec.ofNat 8 e.code, mask := 0, va := BitVec.ofNat 64 m.base, pc := 0,
                             aux := e.aux 0 0 2, gid := gid, lin := 0 }
          updGrid (rest [] { h.s with fw := r :: h.s.fw }) gid (fun x => { x with mapFault := some (BitVec.ofNat 8 e.code) })
        | _ => rest h.left h.s

/-- Has a cluster a running or shadow block of a launch? -/
def clusterServed (s : State) (gid cluster : Nat) : Bool :=
  (s.blk :: s.blocks).any (fun b => b.gid == gid && (b.st == .running || b.st == .shadow) && b.clusters.contains cluster)

/-- Does so for every cluster that has none left. -/
def flushIdle (gid : Nat) (s : State) : State :=
  let qs := ((s.grids.find? (fun g => g.gid == gid)).bind Grid.gear).map (fun g => (g.queues.map Prod.fst).eraseDups)
  ((qs.getD []).filter (fun c => !clusterServed s gid c)).foldl (fun s c => flushCluster gid c s) s

/-! ### The instructions -/

/-- SCHED, precisely, with its cause. -/
def schedFault (cause : Nat) (s : State) : State := precise 0x0F s.f.mask 0 (BitVec.ofNat 64 (cause * 256)) s

/-- A gear instruction needs a gear set (14 R391). -/
def withGear (k : Grid → Gear → State → State) (s : State) : State :=
  match gridOf s with
  | none => schedFault 0x01 s
  | some gr => match gr.gear with
    | none => schedFault 0x01 s
    | some g => k gr g s

/-- A coverage-map fault: replayed in place (07 R216). -/
def gearFault (i : Instr) (e : MFault) (s : State) : State :=
  faultPart i 1 s.f.mask s.f.mask e.code e.va (laneAux .rmw 0 0 e) none s

/-- The tile in a group of registers (14 R388). -/
def groupTile (s : State) (sa : BitVec 6) : Tile :=
  { org := (List.range 4).map (fun i => (readS s (sa.toNat + i)).toNat),
    ext := (List.range 4).map (fun i => (readS s (sa.toNat + 4 + i)).toNat), gen := 0, entry := none }

/-- Writes scalar registers from `r` upward. -/
def writeGroup (r : Nat) (vs : List W64) (s : State) : State :=
  ((List.range vs.length).map (fun i => (r + i, vs.getD i 0))).foldl (fun s p => writeS s p.1 p.2) s

/-- The results of a `schn` (14 R388), with the acquire (03 R112). -/
def giveTile (i : Instr) (sd : BitVec 6) (gid cluster : Nat) (t : Tile) (buf prog : W64) (s : State) : State :=
  let s := acquireAt 2 s
  let s := updGear gid (fun g => { g with held := g.held ++ [(cluster, t, s.cycles)] }) s
  retire i (writeGroup sd.toNat (t.org.map (BitVec.ofNat 64) ++ t.ext.map (BitVec.ofNat 64) ++ [buf, prog]) s)

/-- The result of exhaustion. -/
def giveNone (i : Instr) (sd : BitVec 6) (s : State) : State :=
  let ones : W64 := 0xFFFFFFFFFFFFFFFF
  retire i (writeGroup sd.toNat [ones, ones, ones, ones, 0, 0, 0, 0, 0, 0] (acquireAt 2 s))

/-- Goes on with a claim whose pieces exceed the cluster's queue: they are handed over, and the fragment sleeps while no
entry is free. Pieces that have been handed over are no longer owed. -/
def settleClaim (i : Instr) (sd : BitVec 6) (gr : Grid) (m : MapRef) (c : Claim) (s : State) : State :=
  let mine := fun (x : Claim) => x.blk == c.blk && x.wp == c.wp && x.lane == c.lane
  let put := fun (l : List Tile) => updGear gr.gid (fun g =>
    { g with claims := g.claims.filter (fun x => !mine x) ++ (if l.isEmpty then [] else [{ c with owed := l }]) })
  let h := handPieces gr.gid m c.cluster c.owed s
  let s := put h.left h.s
  if h.left.isEmpty then giveTile i sd gr.gid c.cluster c.tile 0 0 s
  else match h.why with
    | .fault e => gearFault i e s
    | .held => holdAt .fill s
    | _ => sleepAt .entry s

/-- `schn` (14 R388). -/
def execSchn (sd : BitVec 6) (s : State) :=
  issue (.schn sd) (withGear (fun gr g s =>
    let i := Instr.schn sd
    let m := gr.map (isUser s)
    let cl := clusterOf s.w.core
    let low := lowLane s.f.mask
    match g.claims.find? (fun x => x.blk == s.blk.uid && x.wp == s.w.idx && x.lane == low) with
    | some c => settleClaim i sd gr m c s
    | none =>
      match serve gr.gid m g (placementSet gr) cl s with
      | (s, .fault e) => gearFault i e s
      | (s, .held) => holdAt .fill s
      | (s, .exhausted) => giveNone i sd s
      | (s, .tile t buf prog []) => giveTile i sd gr.gid cl t buf prog s
      | (s, .tile t _ _ owed) =>
        let (s, rest) := enqueue gr.gid cl owed s
        settleClaim i sd gr m { blk := s.blk.uid, wp := s.w.idx, lane := low, cluster := cl, tile := t, owed := rest } s)) s

/-- The entry in state picked up that holds a tile (06 R190, R194). -/
def pickedEntry (s : State) (m : MapRef) (t : Tile) : Option Nat :=
  (List.range 256).find? (fun e => entryState s m e == 2 && sameShape (entryTile s m e)
    { t with org := t.org.map (· % 2 ^ 32), ext := t.ext.map (· % 2 ^ 32) })

/-- TT after a tile that took `n` cycles (06 R196). -/
def meanTime (tt : Option Nat) (n : Nat) : Nat :=
  match tt with
  | none => min n 0xFFFFFFFF
  | some v => min (if v ≤ n then v + (n - v) / 8 else v - (v - n) / 8) 0xFFFFFFFF

/-- A tile is no longer out; `timed` counts its time on the cluster. -/
def tileBack (gid cluster : Nat) (t : Tile) (timed : Bool) (s : State) : State :=
  updGear gid (fun g =>
    let mine := fun (x : Nat × Tile × Nat) => x.1 == cluster && sameShape x.2.1 t
    let tt := match g.held.find? mine with
      | some x => if timed then keep cluster (meanTime (lookup cluster g.tt) (s.cycles - x.2.2)) g.tt else g.tt
      | none => g.tt
    { g with held := dropFirst mine g.held, tt := tt }) s

/-- `schd` (14 R389): a device-scope release. -/
def execSchd (sa : BitVec 6) (s : State) :=
  issue (.schd sa) (withGear (fun gr _ s =>
    let i := Instr.schd sa
    let m := gr.map (isUser s)
    let t := groupTile s sa
    let gs := tileGrains m t
    afterWork (fun s =>
      match mapStart (releaseAt 2 s) m (fieldAddrs m gs ++ tableAddrs m) with
      | .fault e => gearFault i e s
      | .held => holdAt .fill s
      | .ok s =>
        let s := (moveGrains m 1 3 gs s).1
        let s := match pickedEntry s m t with
          | some e => flushIdle gr.gid (mapPut s m (entryVa m e + 0x36) 0)
          | none => s
        retire i (tileBack gr.gid (clusterOf s.w.core) t true s)) s)) s

/-- `schp` (14 R390). -/
def execSchp (sd : BitVec 6) (s : State) :=
  issue (.schp sd) (withGear (fun _ g s =>
    retire (.schp sd) (writeS s sd.toNat (flag64 (g.recalls.getLsbD (clusterOf s.w.core)))))) s

/-- Is the warp the launch's tuner (06 R182)? -/
def isTuner (s : State) : Bool := bit (rec s 0x1D 1) 0 && blockLin s == 0 && s.w.idx == 0

/-- A staged register, or RECALL, after a write (06 R182). -/
def stage (g : Gear) (idx : Nat) (v : W64) : Option Gear :=
  if 0x09 ≤ idx && idx ≤ 0x0C then some { g with stTile := g.stTile.set (idx - 0x09) v }
  else if idx = 0x0D then some { g with stOrder := v }
  else if idx = 0x0E then some { g with stPlace := v }
  else if idx = 0x10 then some { g with recalls := (g.recalls &&& ~~~0xFFFFFFFFFFFFFFFF) ||| v.setWidth 128 }
  else if idx = 0x11 then some { g with recalls := (g.recalls &&& 0xFFFFFFFFFFFFFFFF) ||| (v.setWidth 128 <<< 64) }
  else none

/-- `schs` (14 R391). -/
def execSchs (idx : BitVec 8) (sa : BitVec 6) (s : State) :=
  issue (.schs idx sa) (withGear (fun gr g s =>
    if !isTuner s then schedFault 0x02 s
    else match stage g idx.toNat (readS s sa.toNat) with
      | none => schedFault 0x04 s
      | some g' => retire (.schs idx sa) (updGear gr.gid (fun _ => g') s))) s

/-- The gear set after a shift (06 R193). -/
def shifted (g : Gear) : Gear :=
  { g with tile := g.stTile, order := g.stOrder, place := g.stPlace, gen := g.gen + 1, cursors := [] }

/-- `schc` (14 R391): a device-scope release. -/
def execSchc (s : State) :=
  issue .schc (withGear (fun gr g s =>
    let m := gr.map (isUser s)
    if !isTuner s then schedFault 0x02 s
    else if (firstBad (gearChecks m.dims m.grain (g.stTile.map BitVec.toNat) g.stOrder.toNat g.stPlace.toNat)).isSome then
      schedFault 0x03 s
    else afterWork (fun s => retire .schc (updGear gr.gid (fun _ => shifted g) (releaseAt 2 s))) s)) s

/-- `schh` (14 R389, 06 R194): a device-scope release. A picked-up tile reuses its entry. -/
def execSchh (sa sb sc : BitVec 6) (s : State) :=
  issue (.schh sa sb sc) (withGear (fun gr g s =>
    let i := Instr.schh sa sb sc
    let m := gr.map (isUser s)
    let t := groupTile s sa
    let cl := clusterOf s.w.core
    let gs := tileGrains m t
    let gen := match g.held.find? (fun x => sameShape x.2.1 t) with
      | some x => x.2.1.gen
      | none => g.gen
    let t := { t with gen := gen }
    let buf := readS s sb.toNat
    let prog := readS s sc.toNat
    afterWork (fun s =>
      match mapStart (releaseAt 2 s) m (tableAddrs m) with
      | .fault e => gearFault i e s
      | .held => holdAt .fill s
      | .ok u =>
        match pickedEntry u m t with
        | some e =>
          (match mapStart u m (fieldAddrs m gs) with
           | .fault f => gearFault i f s
           | .held => holdAt .fill s
           | .ok s =>
             let s := writeEntry m e { entryTile s m e with entry := none } buf prog cl s
             let s := (moveGrains m 1 2 gs s).1
             let s := updGear gr.gid (fun g => { g with handed := g.handed.filter (· != e) ++ [e] }) s
             retire i (tileBack gr.gid cl t false s))
        | none =>
          match handOver gr.gid m t buf prog cl u with
          | .fault e => gearFault i e s
          | .held => holdAt .fill s
          | .full => sleepAt .entry u
          | .ok s => retire i (tileBack gr.gid cl t false s)) s)) s

/-- Grains of the launch in a state (06 R196). -/
def countState (s : State) (m : MapRef) (v : Nat) : Nat :=
  ((List.range m.total).filter (fun g => fieldOf s m g == v)).length

/-- A gear register as `schq` reads it, the counts aside (06 R182). -/
def gearReg (m : MapRef) (g : Gear) (idx : Nat) : W64 :=
  let n : Nat → W64 := BitVec.ofNat 64
  if idx = 0x00 then n m.dims
  else if idx ≤ 0x04 then n (m.ext.getD (idx - 1) 0)
  else if idx ≤ 0x08 then n (m.grain.getD (idx - 5) 0)
  else if idx ≤ 0x0C then g.tile.getD (idx - 9) 0
  else if idx = 0x0D then g.order
  else if idx = 0x0E then g.place
  else if idx = 0x0F then g.gen.setWidth 64
  else if idx = 0x10 then g.recalls.setWidth 64
  else if idx = 0x11 then (g.recalls >>> 64).setWidth 64
  else if 0x40 ≤ idx && idx ≤ 0xBF then n ((lookup (idx - 0x40) g.tt).getD 0)
  else 0

/-- `schq` (14 R390). -/
def execSchq (idx : BitVec 8) (sd : BitVec 6) (s : State) :=
  issue (.schq idx sd) (withGear (fun gr g s =>
    let i := Instr.schq idx sd
    let m := gr.map (isUser s)
    let count := idx.toNat = 0x20 || idx.toNat = 0x21 || idx.toNat = 0x22
    if count then
      (match mapStart s m (fieldAddrs m (List.range m.total)) with
       | .fault e => gearFault i e s
       | .held => holdAt .fill s
       | .ok s =>
         let v := if idx.toNat = 0x20 then 3 else if idx.toNat = 0x21 then 1 else 2
         retire i (writeS s sd.toNat (BitVec.ofNat 64 (countState s m v))))
    else retire i (writeS s sd.toNat (gearReg m g idx.toNat)))) s

end Sys2Proof.Machine
end

