-- ==== Sys2Proof/Machine/Blocks.lean ====
section
/-!
DEFINITION. Blocks: placement (02 R50, R52, 05 R168, R170, 06 R178), start (06 R176, R177) under the cadence ramp (R179,
15 R417), pre-emption, switching and restore (06 R202 to R204, 07 R217 to R221), and the end of a block (10 R284).
-/
namespace Sys2Proof.Machine

/-! ### What a block needs -/

/-- A field of a grid's record. -/
def Grid.fld (g : Grid) (off n : Nat) : Nat := leBytes g.record off n

/-- The grid of an identifier. -/
def gridAt (s : State) (gid : Nat) : Option Grid := s.grids.find? (fun g => g.gid == gid)

/-- Is a grid of narrow core class? Its allotment and lanes per warp. -/
def Grid.narrow (g : Grid) : Bool := g.fld 0x1A 1 == 1
def Grid.allot (g : Grid) : Nat := 8 * g.fld 0x1C 1
def Grid.lanes (g : Grid) : Nat := if g.narrow then 4 else 32

/-- Warps of a block of `t` threads. -/
def Grid.warps (g : Grid) (t : Nat) : Nat := (t + g.lanes - 1) / g.lanes

/-- What a block occupies: warps, accumulator tiles on each core, and window bytes. -/
structure Need where
  warps : Nat
  tiles : Nat
  bytes : Nat
  deriving DecidableEq, Repr

/-- Cores that a block occupies (05 R168): a narrow block stands on one. -/
def coreCount (g : Grid) (n : Need) : Nat := if g.narrow then 1 else coresOfWarps g.allot n.warps

/-- Warps on each core, in placement order (05 R168). -/
def coreLoads (g : Grid) (n : Need) : List Nat :=
  let k := coreCount g n
  let per := (n.warps + k - 1) / k
  (List.range k).map (fun j => min per (n.warps - j * per))

/-- Clusters that a block occupies (02 R52). -/
def clusterCount (g : Grid) (n : Need) : Nat :=
  let c := coreCount g n
  let byCores := if c ≤ 2 then 1 else if c ≤ 4 then 2 else 4
  let byWindow := if n.bytes ≤ 0x100000 then 1 else if n.bytes ≤ 0x200000 then 2 else 4
  max byCores byWindow

/-- A window share (02 R52). -/
def shareOf (bytes clusters : Nat) : Nat := (bytes + 2048 * clusters - 1) / (2048 * clusters) * 2048

/-! ### Room (02 R46, R50, 05 R166, R170) -/

/-- Warps of a block on a core. -/
def warpsOn (b : Block) (core : Nat) : Nat := (b.warps.filter (fun w => w.core == core)).length

/-- The blocks in a context slot of a core. -/
def slotBlocks (s : State) (core k : Nat) : List Block :=
  s.blocks.filter (fun b => inSlot b && b.cores.contains core && slotOn b core == k)

/-- May a slot of a wide core hold accumulators of a grid (02 R46)? A quota of 1,536 tiles leaves the other slots none. -/
def quotaOf (q : Nat × Nat × Nat) (k : Nat) : Nat :=
  let l := [q.1, q.2.1, q.2.2]
  if (List.range 3).any (fun j => j != k && l.getD j 0 == 1536) then 0 else l.getD k 0

/-- The quotas of the slots of a wide core that hold blocks, but for slot `k` (02 R46, 05 R170). -/
def otherQuotas (s : State) (core k : Nat) : Nat :=
  ((List.range 3).filter (· != k)).foldl (fun n j => match slotBlocks s core j with
    | b :: _ => n + quotaOf (((gridAt s b.gid).map Grid.quotas).getD (0, 0, 0)) j
    | [] => n) 0

/-- Has a slot of a core room for `n` warps of a grid? A slot holds blocks of one grid, and the quotas of a core's slots
sum to at most 1,536 tiles. -/
def slotRoom (s : State) (g : Grid) (core n tiles k : Nat) : Bool :=
  let bs := slotBlocks s core k
  let sole := !g.narrow && [g.quotas.1, g.quotas.2.1, g.quotas.2.2].contains 1536 && quotaOf g.quotas k == 0
  !sole && bs.all (fun b => b.gid == g.gid) &&
    (if g.narrow then
      let regs := (s.blocks.filter inSlot).foldl (fun r b => b.warps.foldl (fun r w =>
        if w.core = core then r + w.allot * 16 else r) r) 0
      decide (slotsUsed s core + n ≤ 64) && decide (regs + n * g.allot * 16 ≤ 224 * 1024)
    else
      decide (bs.foldl (fun m b => m + warpsOn b core) n ≤ warpsPerCore g.allot)
        && decide (otherQuotas s core k + quotaOf g.quotas k ≤ 1536)
        && decide (bs.foldl (fun m b => m + b.ntiles) tiles ≤ quotaOf g.quotas k))

/-- The slot of a core that takes `n` warps: one that the grid already has, else an empty one. -/
def slotFor (s : State) (g : Grid) (tiles core n : Nat) : Option Nat :=
  let ks := (List.range (if g.narrow then 2 else 3)).filter (slotRoom s g core n tiles)
  match ks.find? (fun k => !(slotBlocks s core k).isEmpty) with
  | some k => some k
  | none => ks.head?

/-- What a block of a grid's record needs. -/
def Grid.need (g : Grid) : Need :=
  { warps := g.warps g.threads, tiles := if g.narrow then 0 else g.fld 0x24 2, bytes := g.fld 0x20 4 }

/-- The scratchpad partition that a launch needs (02 R50): the smallest multiple of 64 KiB that holds the shares of as many
of its blocks as a cluster's context slots can hold and 1,024 KiB has room for (log 93). -/
def launchSplit (g : Grid) : Nat :=
  let share := shareOf g.need.bytes (clusterCount g g.need)
  if share = 0 then 0
  else
    let each := max 1 ((coreLoads g g.need).headD 1)
    let onCore := if g.narrow then 64 / each else 3 * (warpsPerCore g.allot / each)
    let blocks := if !g.narrow && 2 ≤ coreCount g g.need then onCore else 2 * onCore
    (share * max 1 (min blocks (0x100000 / share)) + 65535) / 65536 * 65536

/-- Has a cluster room for a window share (02 R50)? Resident blocks keep its partition and its L1 mode; a group with no
window asks for none. -/
def clusterRoom (s : State) (g : Grid) (sp : Option Nat) (share c : Nat) : Bool :=
  let bs := s.blocks.filter (fun b => inSlot b && b.clusters.contains c)
  bs.isEmpty || (bs.all (fun b => ((gridAt s b.gid).map (fun x => x.fld 0x1B 1)).getD 0 == g.fld 0x1B 1)
    && sp.all (fun n => n == splitOf s c && decide (bs.foldl (fun n b => n + shareOf b.winSize b.clusters.length) share ≤ n)))

/-- Free warp slots of a cluster for a core class (06 R178): of a wide core, 64 in each context slot (log 93). -/
def freeWarps (s : State) (narrow : Bool) (c : Nat) : Nat :=
  if narrow then (64 - slotsUsed s (256 + 2 * c)) + (64 - slotsUsed s (257 + 2 * c))
  else 384 - (s.blocks.filter inSlot).foldl (fun n b => n + warpsOn b (2 * c) + warpsOn b (2 * c + 1)) 0

/-- The cores of a cluster of the grid's class. -/
def clusterCores (g : Grid) (c : Nat) : List Nat := if g.narrow then [256 + 2 * c, 257 + 2 * c] else [2 * c, 2 * c + 1]

/-- Cores, each with its slot, for these loads out of a pool. -/
def pickCores (s : State) (g : Grid) (tiles : Nat) : List Nat → List Nat → Option (List (Nat × Nat))
  | [], _ => some []
  | n :: r, pool =>
    match pool.find? (fun c => (slotFor s g tiles c n).isSome) with
    | none => none
    | some c =>
      match pickCores s g tiles r (pool.filter (· != c)) with
      | none => none
      | some l => some ((c, (slotFor s g tiles c n).getD 0) :: l)

/-- Clusters, in order, that together hold `need` shares and the loads. -/
def pickClusters (s : State) (g : Grid) (sp : Option Nat) (share tiles : Nat) : List Nat → Nat → List Nat → Option (List Nat × List (Nat × Nat))
  | [], need, loads => if need = 0 && loads.isEmpty then some ([], []) else none
  | c :: r, need, loads =>
    if need = 0 then (if loads.isEmpty then some ([], []) else none)
    else if !clusterRoom s g sp share c then pickClusters s g sp share tiles r need loads
    else match pickCores s g tiles (loads.take 2) (clusterCores g c) with
      | none => pickClusters s g sp share tiles r need loads
      | some cs =>
        match pickClusters s g sp share tiles r (need - 1) (loads.drop 2) with
        | none => none
        | some (cl, l) => some (c :: cl, cs ++ l)

/-- Where a block can be placed among these clusters (06 R178): on clusters of one bench, those with the most free warp slots
first, ties to the lower number. The fragment at the front has been put back. -/
def findPlace (s : State) (ps : List Nat) (g : Grid) (n : Need) : Option (List Nat × List (Nat × Nat)) :=
  let k := clusterCount g n
  let key := fun (c : Nat) => 128 * (384 - freeWarps s g.narrow c) + c
  let order := ps.foldl (fun l c => insertBy key c l) []
  order.findSome? (fun c => pickClusters s g (some (launchSplit g)) (shareOf n.bytes k) n.tiles
    (c :: order.filter (fun d => d != c && d / 8 == c / 8)) k (coreLoads g n))

/-- Every cluster of the module. -/
def allClusters : List Nat := List.range Config.nClusters

/-! ### L1 halves of a block's clusters -/

/-- Clusters that hold no block take the new partition, their L1 written back and emptied first (02 R50); what the block's
first instruction reads is fresh: it is an acquire (03 R111, R115). -/
def freshenClusters (sp : Option Nat) (cs : List Nat) (s : State) : State :=
  let idle := cs.filter (fun c => !s.blocks.any (fun b => inSlot b && b.clusters.contains c))
  let s := drainClusters idle s
  let cuts := match sp with
    | some n => s.split.filter (fun p => !idle.contains p.1) ++ (if n = 0 then [] else idle.map (fun c => (c, n)))
    | none => s.split
  dropClean { s with l1 := s.l1.filter (fun x => !onClusters idle x), split := cuts } (onClusters cs)

/-! ### Running and waiting -/

/-- Blocks that run on a core of the block in another slot (05 R170: one slot of a core runs). -/
def rivals (s : State) (b : Block) : List Block :=
  s.blocks.filter (fun x => x.st == .running && x.uid != b.uid && b.cores.any (fun c =>
    x.cores.contains c && slotOn x c != slotOn b c))

/-- Priority class of a block. -/
def blockCls (s : State) (b : Block) : Nat := ((gridAt s b.gid).map Grid.cls).getD 0

/-- Changes a block that is not at the front. -/
def updBlock (uid : Nat) (u : Block → Block) (s : State) : State :=
  { s with blocks := s.blocks.map (fun b => if b.uid == uid then u b else b) }

/-- Lets a resident block issue: its quantum begins (06 R204), and its walks resume (04 R144). -/
def runBlock (uid : Nat) (s : State) : State :=
  let ids := (s.walks.filter (fun w => w.blk == uid && w.parked)).map Walk.id
  let s := { s with walks := s.walks.map (fun w => if w.blk == uid then { w with parked := false } else w) }
  let s := ids.foldl (fun s id => push .publicationWalk (.unit id) s) s
  push .quantumExpiry (.unit uid) (updBlock uid (fun b => { b with st := .running }) s)

/-- Switches a running block to a shadow slot (07 R218); it goes to the end of the rotation (05 R171). -/
def shadeBlock (uid : Nat) (s : State) : State :=
  let s := settleBlock uid s
  fresh (updBlock uid (fun b => { b with st := .shadow, turn := s.uid }) s)

/-- Is a block wholly asleep (06 R202)? -/
def asleep (b : Block) : Bool :=
  b.warps.all (fun w => w.faultq.isEmpty && w.frags.all (fun f => f.st == .sleeping))
    && b.warps.any (fun w => !w.frags.isEmpty)

/-- Lets every shadow block run whose cores run nothing else: those that are not wholly asleep first, in ascending class and
order of turns. -/
def activate (s : State) : State :=
  let key := fun (b : Block) => ((if asleep b then 4 else 0) + blockCls s b) * 2 ^ 64 + b.turn
  let order := (s.blocks.filter (fun b => b.st == .shadow)).foldl (fun l b => insertBy key b l) []
  order.foldl (fun s b => if (rivals s b).isEmpty then runBlock b.uid s else s) s

/-- A block that has received slots runs at once if nothing else runs on its cores. An express block switches less urgent
ones to the shadow (06 R203, R205). -/
def enter (uid : Nat) (s : State) : State :=
  match s.blocks.find? (fun b => b.uid == uid) with
  | none => s
  | some b =>
    let rs := rivals s b
    if rs.isEmpty then runBlock uid s
    else if blockCls s b = 0 && rs.all (fun x => blockCls s x != 0) then
      runBlock uid (rs.foldl (fun s x => shadeBlock x.uid s) s)
    else s

/-- A block begins to leave its cores for its save image (07 R217 to R219): it stops, its operand-cache entries are dropped,
and its queued gear pieces are handed over when it was the last of its launch on a cluster. -/
def saveBlock (uid : Nat) (s : State) : State :=
  match s.blocks.find? (fun b => b.uid == uid) with
  | none => s
  | some b =>
    let s := settleBlock uid s
    let s := { s with opc := s.opc.filter (fun o => o.blk != uid) }
    let s := updBlock uid (fun b => { b with st := .leaving }) s
    push .blockRestore (.unit uid) (flushIdle b.gid s)

/-- The block that the operation of an event belongs to. -/
def eventBlock : EvArg → Option Nat
  | .triple b _ _ => some b
  | .lanes b _ _ _ => some b
  | _ => none

/-- Has every operation of a block landed or been recorded as pending, and has every copy completed that writes its window or
counts down an arrival object in it (07 R218)? Requests behind a stopped one stay in their queue. -/
def settled (s : State) (uid : Nat) : Bool :=
  s.agenda.all (fun e => !((e.1 == .longLatencyResult || e.1 == .memoryReply) && eventBlock e.2 == some uid))
    && s.colls.all (fun c => c.blk != uid || c.stopped)
    && s.copies.all (fun c => c.queue.isSome || c.blk != uid || c.suspended || !(isWindow c.dst || c.fld 0x38 8 != 0))
    && s.kicks.all (fun k => k.blk != uid || s.kicks.any (fun x => x.core == k.core && x.stopped))

/-! ### The cadence ramp (15 R417) -/

/-- Core starts that placing a block makes, in fifths. -/
def coreStarts (s : State) (cores : List Nat) : Nat :=
  cores.foldl (fun n c => if s.blocks.any (fun b => inSlot b && b.cores.contains c) then n
    else n + (if c < 256 then 5 else 1)) 0

/-- Makes the end of the present 100 ns step due. -/
def wantCadence (s : State) : State :=
  if s.agenda.contains (.cadenceStep, .none) then s else push .cadenceStep .none s

/-- Core starts that a core counts for, in fifths. -/
def coreWeight (core : Nat) : Nat := if core < 256 then 5 else 1

/-- The cores that still wait to stop once `n` fifths of core stops have been made. -/
def stopSome : Nat → List Nat → List Nat
  | _, [] => []
  | n, c :: r => if n < coreWeight c then c :: r else stopSome (n - coreWeight c) r

/-- Fifths of core stops in one step: CAP, or what spreads the waiting ones over the steps that STAG leaves. -/
def stopAllowance (s : State) : Nat :=
  let k := max 1 s.stopSteps
  max (5 * rampCap s) ((s.stops.foldl (fun n c => n + coreWeight c) 0 + k - 1) / k)

/-- CADENCE_STEP: the next step's allowance, and the stops that take place in it. -/
def execCadenceStep (s : State) : Host.Outcome State Fault Refusal :=
  .next (let cap := rampCap s
    let a := if s.ramp.2 = 0 then min cap s.dev.rampSlope else min cap (s.ramp.1 + s.dev.rampSlope)
    let left := stopSome (stopAllowance s) s.stops
    let t := { s with ramp := (a, 0), stops := left, stopSteps := if left.isEmpty then s.dev.rampStag else s.stopSteps - 1 }
    if s.ramp.2 = 0 && t.stops.isEmpty then t else wantCadence t)

/-- Cores that hold no block any more wait to stop. -/
def coreStops (cores : List Nat) (s : State) : State :=
  let new := cores.filter (fun c => !s.stops.contains c && !s.blocks.any (fun b => inSlot b && b.cores.contains c))
  if new.isEmpty then s else wantCadence { s with stops := s.stops ++ new }

/-- A block takes cores: core starts are counted, and none of them waits to stop. -/
def takeCores (cores : List Nat) (s : State) : State :=
  let k := coreStarts s cores
  let s := { s with stops := s.stops.filter (fun c => !cores.contains c) }
  if k = 0 then s else wantCadence { s with ramp := (s.ramp.1, s.ramp.2 + k) }

/-! ### Starting a block (06 R176, R177) -/

/-- The lowest owner block instance that no block holds (04 R127). -/
def freeOwner (s : State) : Nat :=
  ((List.range (s.blocks.length + 1)).find? (fun n => !s.blocks.any (fun b => b.owner.toNat == n))).getD 0

/-- A warp at its first instruction (06 R176). -/
def newWarp (s : State) (g : Grid) (entry : W64) (idx core lanes : Nat) (s1 s2 s3 : W64) : Warp :=
  let launched := BitVec.ofNat 32 (2 ^ lanes - 1)
  { Warp.empty with idx := idx, core := core, launched := launched, allot := g.allot,
                    s := Cells.set (Cells.set (Cells.set [] 1 s1) 2 s2) 3 s3,
                    part := g.lanes, xthr := BitVec.ofNat 4 (g.fld 0x26 1), tvec := BitVec.ofNat 64 (g.fld 0x38 8 / 8 * 8),
                    pool := s.poolTable, frags := [{ Frag.empty with pc := entry, mask := launched }] }

/-- The core of each warp: core j holds the next load. -/
def warpCores (cores loads : List Nat) : List Nat :=
  ((cores.zip loads).map (fun p => List.replicate p.2 p.1)).flatten

/-- A block of `t` threads as it is placed. -/
def newBlock (s : State) (g : Grid) (t : Nat) (xyz : Nat × Nat × Nat) (n : Need) (cl : List Nat) (cs : List (Nat × Nat))
    (entry s1 s2 s3 : W64) : Block :=
  let cores := cs.map Prod.fst
  let wc := warpCores cores (coreLoads g n)
  let ws := (List.range n.warps).map (fun j =>
    newWarp s g entry j (wc.getD j 0) (min g.lanes (t - j * g.lanes)) s1 s2 s3)
  { Block.empty with uid := s.uid, gid := g.gid, bx := xyz.1, byy := xyz.2.1, bz := xyz.2.2, nthreads := t,
                     owner := BitVec.ofNat 16 (freeOwner s), st := .shadow, slots := cs.map Prod.snd, clusters := cl,
                     cores := cores, winSize := n.bytes, ntiles := n.tiles, turn := s.uid, warps := ws }

/-- The outcome of trying to place a block. -/
inductive Placed where
  | noRoom
  | behind                   -- others go first, or no owner block instance is free (04 R127)
  | later                    -- the ramp's allowance of this step is spent
  | at_ (cl : List Nat) (cs : List (Nat × Nat))
  deriving DecidableEq, Repr

/-- Puts a new block on its cores; its grid counts it among the running ones. -/
def startBlock (g : Grid) (sp : Option Nat) (t : Nat) (xyz : Nat × Nat × Nat) (n : Need) (cl : List Nat) (cs : List (Nat × Nat))
    (entry s1 s2 s3 : W64) (u : Block → Block) (s : State) : State :=
  let b := u (newBlock s g t xyz n cl cs entry s1 s2 s3)
  let s := takeCores b.cores (freshenClusters sp cl s)
  let s := fresh { s with blocks := insertBy Block.uid b s.blocks }
  enter b.uid (updGrid s g.gid (fun g => { g with live := g.live + 1 }))

/-- Has a grid a block that waits to start? -/
def waitsToStart (s : State) (g : Grid) : Bool :=
  g.accepted && g.dead.isNone && !g.retired && (decide (g.next < g.total) || s.ready.any (fun r => r.gid == g.gid))

/-- Does a saved block have something to do when it runs (06 R202)? -/
def wakened (s : State) (b : Block) : Bool :=
  b.warps.any (fun w => !w.faultq.isEmpty || w.frags.any (fun f => mayIssue s b (blockAsid s b) w f))
    || s.walks.any (fun k => k.blk == b.uid && !k.suspended)

/-- What a saved block needs. -/
def savedNeed (b : Block) : Need := { warps := b.warps.length, tiles := b.ntiles, bytes := b.winSize }

/-! ### What waits for room (06 R200, R203) -/

/-- The grid of a node group of `count` threads. Its turn is that of its graph's root. -/
def groupGrid (s : State) (gr : Graph) (nd : Node) (count : Nat) : Grid :=
  let r := ((nd.record.set 0x14 (BitVec.ofNat 8 count)).set 0x15 (BitVec.ofNat 8 (count / 256))).set 0x1F 0
  { gid := s.uid, record := r, recVa := nd.recVa, depth := 0, parent := none, queue := none, asid := gr.asid,
    cls := max gr.cls (leBytes r 0x1E 1), accepted := true, die := 0,
    turn := ((gridAt s gr.root).map Grid.turn).getD gr.root, next := 1, total := 1, live := 0, children := 0,
    dead := none, retired := false, mapFault := none, privVa := nd.hdr.1, privP := nd.hdr.2.1, spillVa := nd.hdr.2.2.1,
    spillE := nd.hdr.2.2.2, quotas := s.quotas, gear := newGear r, graph := some gr.id, service := none }

/-- Takes up to `k` records of a node: its cluster's, oldest first, then those of the overflow area. -/
def takeRecs (nd : Node) (cluster k : Nat) : List QRec × Node :=
  let mine := (nd.queue.filter (fun r => r.cluster == cluster)).take k
  let more := nd.ovf.take (k - mine.length)
  (mine ++ more, { nd with queue := (nd.queue.filter (fun r => r.cluster != cluster))
                             ++ (nd.queue.filter (fun r => r.cluster == cluster)).drop mine.length,
                           ovf := nd.ovf.drop more.length })

/-- Number that stands for the overflow area among the clusters. -/
def overflow : Nat := 128

/-- Clusters on which a group may start: the queue's own, or for overflow records each of the placement set. -/
def groupClusters (g : Grid) (cluster : Nat) : List Nat :=
  if cluster < overflow then [cluster].filter (placementSet g).contains else allClusters.filter (placementSet g).contains

/-- Do a node's records on a cluster, or in the overflow area, start a group? -/
def groupDue (s : State) (nd : Node) (cluster : Nat) : Bool :=
  let l := if cluster < overflow then nd.queue.filter (fun r => r.cluster == cluster) else nd.ovf
  match l with
  | [] => false
  | r :: _ => nd.group ≤ l.length || nd.timer ≤ s.cycles - r.since

/-- Where a group that must begin on a cluster can be placed. -/
def placeOn (s : State) (g : Grid) (c : Nat) : Option (List Nat × List (Nat × Nat)) :=
  let k := clusterCount g g.need
  let mates := (placementSet g).filter (fun d => d != c && d / 8 == c / 8)
  match pickClusters s g (some (launchSplit g)) (shareOf g.need.bytes k) g.need.tiles (c :: mates) k (coreLoads g g.need) with
  | some (h :: t, cs) => if h = c then some (h :: t, cs) else none
  | _ => none

/-- The first cluster on which the group that a node's records form can be placed: the grid and the place. -/
def groupPlace (s : State) (gr : Graph) (nd : Node) (cluster : Nat) : Option (Nat × Grid × List Nat × List (Nat × Nat)) :=
  (groupClusters (groupGrid s gr nd nd.group) cluster).findSome? (fun c =>
    let g := groupGrid s gr nd (takeRecs nd c nd.group).1.length
    (placeOn s g c).map (fun p => (c, g, p)))

/-- The node groups that are due: graph, node and cluster. -/
def dueGroups (s : State) : List (Graph × Node × Nat) :=
  s.graphs.flatMap (fun gr => gr.nodes.flatMap (fun nd =>
    ((List.range (overflow + 1)).filter (groupDue s nd)).map (fun c => (gr, nd, c))))

/-- Where the handler of an active message can be placed: one warp, on its cluster, with no window. -/
def handlerPlace (s : State) (g : Grid) (cluster : Nat) : Option (List Nat × List (Nat × Nat)) :=
  pickClusters s g none 0 0 [cluster] 1 [1]

/-- The oldest message of each receive queue, with its grid. -/
def dueMessages (s : State) : List (Msg × Grid) :=
  (s.recvq.filter (fun m => (s.recvq.find? (fun x => x.cluster == m.cluster)).any (· == m))).filterMap (fun m =>
    (gridAt s m.src).map (fun g => (m, g)))

/-- Does what waits for room ahead of a class and turn find a place (06 R203)? -/
def aheadOf (s : State) (cls turn : Nat) : Bool :=
  let first := fun (g : Grid) => decide (g.cls < cls) || (g.cls == cls && decide (g.turn < turn))
  s.grids.any (fun g => waitsToStart s g && first g && (findPlace s (placementSet g) g g.need).isSome)
    || s.blocks.any (fun b => b.st == .saved && (gridAt s b.gid).any (fun g =>
      first g && wakened s b && (findPlace s allClusters g (savedNeed b)).isSome))
    || (dueGroups s).any (fun x => first (groupGrid s x.1 x.2.1 1) && (groupPlace s x.1 x.2.1 x.2.2).isSome)
    || (dueMessages s).any (fun x => first x.2 && (handlerPlace s x.2 x.1.cluster).isSome)

/-- Does something wait for room, of a class or of any, that could use a core of a block and finds no place? -/
def waiting (s : State) (b : Block) (any : Bool) : Bool :=
  let same := fun (g : Grid) => any || g.cls == blockCls s b
  s.blocks.any (fun x => x.st == .saved && wakened s x && (gridAt s x.gid).any (fun g =>
      same g && (findPlace s allClusters g (savedNeed x)).isNone))
    || s.grids.any (fun g => waitsToStart s g && same g && (placementSet g).any b.clusters.contains
      && (findPlace s (placementSet g) g g.need).isNone)
    || (dueGroups s).any (fun x =>
      let g := groupGrid s x.1 x.2.1 1
      same g && (groupClusters g x.2.2).any b.clusters.contains && (groupPlace s x.1 x.2.1 x.2.2).isNone)
    || (dueMessages s).any (fun x => same x.2 && b.clusters.contains x.1.cluster && (handlerPlace s x.2 x.1.cluster).isNone)

/-- What comes of a place that has been looked for: others may go first, the module may be out of owner block instances for
a new block, and the ramp's allowance may be spent. -/
def givePlace (s : State) (g : Grid) (new : Bool) (p : Option (List Nat × List (Nat × Nat))) : Placed :=
  if aheadOf s g.cls g.turn || (new && decide (65536 ≤ s.blocks.length)) then .behind
  else match p with
    | none => .noRoom
    | some (cl, cs) => if 5 * s.ramp.1 < s.ramp.2 + coreStarts s (cs.map Prod.fst) then .later else .at_ cl cs

/-- Makes room on clusters: an express block pre-empts the most recently started block of the lowest class on a core that
could hold it (06 R203). Any waiting block displaces one that is wholly asleep (R202). Room that a leaving block is about to
free is waited for. -/
def makeRoom (ps : List Nat) (g : Grid) (s : State) : State :=
  let could := fun (b : Block) => inSlot b && b.clusters.any (fun c => ps.contains c)
    && b.cores.all (fun c => decide (256 ≤ c) == g.narrow)
  let sleepers := s.blocks.filter (fun b => could b && b.st == .running && asleep b)
  let victims := s.blocks.filter (fun b => could b && g.cls == 0 && blockCls s b != 0)
  let worst := victims.foldl (fun (a : Option Block) b => match a with
    | none => some b
    | some x => if blockCls s x < blockCls s b || (blockCls s x == blockCls s b && x.uid < b.uid) then some b else a) none
  if s.blocks.any (fun b => b.st == .leaving && could b) then s
  else match sleepers with
  | b :: _ => activate (saveBlock b.uid s)
  | [] => match worst with
    | some b => activate (saveBlock b.uid s)
    | none => s

/-! ### Passing blocks to the benches and starting them (06 R177) -/

/-- Blocks that a bench dispatcher holds ready. -/
def benchHeld (s : State) (bench : Nat) : Nat := (s.ready.filter (fun r => r.bench == bench)).length

/-- The bench dispatcher that takes the next block of a grid: of those of its placement set with fewer than 16 blocks ready, the
one with the fewest, ties to the lower number (log 93). -/
def nextBench (s : State) (g : Grid) : Option Nat :=
  let bs := (((placementSet g).map (· / 8)).eraseDups).filter (fun b => decide (benchHeld s b < 16))
  bs.foldl (fun a b => match a with
    | none => some b
    | some x => if benchHeld s b < benchHeld s x then some b else a) none

/-- The die dispatchers pass a grid's next block on. -/
def passNext (g : Grid) (s : State) : State :=
  if g.total ≤ g.next then s
  else match nextBench s g with
    | none => s
    | some b => updGrid { s with ready := s.ready ++ [{ bench := b, gid := g.gid, lin := g.next }] } g.gid
        (fun g => { g with next := g.next + 1 })

/-- BLOCK_START for a grid: a block is passed to a bench dispatcher, and the lowest-numbered one that is ready is placed when
nothing that goes ahead of it could take the room. -/
def startNext (gid : Nat) (s : State) : State :=
  match gridAt s gid with
  | none => s
  | some g =>
    if !waitsToStart s g then s
    else
      let s := passNext g s
      let again := push .blockStart (.unit gid)
      match s.ready.find? (fun r => r.gid == gid) with
      | none => again s
      | some r =>
        match givePlace s g true (findPlace s (placementSet g) g g.need) with
        | .noRoom => again (makeRoom (placementSet g) g s)
        | .behind => again s
        | .later => again (wantCadence s)
        | .at_ cl cs =>
          let gx := g.fld 0x08 4
          let gy := g.fld 0x0C 4
          let n := r.lin
          again (startBlock g (some (launchSplit g)) g.threads (n % gx, n / gx % gy, n / (gx * gy)) g.need cl cs
            (BitVec.ofNat 64 (g.fld 0x00 8)) (BitVec.ofNat 64 (g.fld 0x28 8)) g.recVa 0 id
            { s with ready := s.ready.filter (· != r) })

def execBlockStart (s : State) : Host.Outcome State Fault Refusal :=
  .next (match s.arg with
    | .unit gid => startNext gid (unfocus s)
    | _ => s)

/-! ### Quanta and restore (06 R202, R204, 07 R217, R220) -/

/-- Does a resident shadow of another block wait for a core of this one, of its class or of any? -/
def shadowed (s : State) (b : Block) (any : Bool) : Bool :=
  s.blocks.any (fun x => x.st == .shadow && x.uid != b.uid && (any || blockCls s x == blockCls s b)
    && x.cores.any b.cores.contains)

/-- QUANTUM_EXPIRY: a running block is switched out when another of its class waits for its core, or when it is wholly
asleep and any block waits: to the shadow for a resident one, to its save image otherwise. Its launch goes to the end of its
class's rotation (05 R171). -/
def endQuantum (uid : Nat) (s : State) : State :=
  match s.blocks.find? (fun b => b.uid == uid) with
  | none => s
  | some b =>
    let any := asleep b
    let last := fun (s : State) => fresh (updGrid s b.gid (fun g => { g with turn := s.uid }))
    if b.st != .running then s
    else if shadowed s b any then activate (shadeBlock uid (last s))
    else if waiting s b any then activate (saveBlock uid (last s))
    else push .quantumExpiry (.unit uid) s

def execQuantumExpiry (s : State) : Host.Outcome State Fault Refusal :=
  .next (match s.arg with
    | .unit uid => endQuantum uid (unfocus s)
    | _ => s)

/-- Moves a saved block to new cores: warp w goes to core j by the rule of 05 R168, and its walks to the walker there
(04 R144). -/
def restoreAt (g : Grid) (b : Block) (cl : List Nat) (cs : List (Nat × Nat)) (s : State) : State :=
  let cores := cs.map Prod.fst
  let wc := warpCores cores (coreLoads g (savedNeed b))
  let s := takeCores cores (freshenClusters (some (launchSplit g)) cl s)
  let s := updBlock b.uid (fun b => { b with st := .shadow, turn := s.uid, clusters := cl, cores := cores, slots := cs.map Prod.snd,
                                             warps := b.warps.map (fun w => { w with core := wc.getD w.idx 0 }) }) s
  let s := { s with walks := s.walks.map (fun w => if w.blk == b.uid then { w with cluster := clusterOf (wc.getD w.wp 0) } else w) }
  enter b.uid (fresh s)

/-- BLOCK_RESTORE: a leaving block streams out once it has settled; a saved one with something to do is restored on any
bench that can hold it (07 R220). -/
def restoreBlock (uid : Nat) (s : State) : State :=
  match s.blocks.find? (fun b => b.uid == uid) with
  | none => s
  | some b =>
    let again := push .blockRestore (.unit uid)
    match gridAt s b.gid with
    | none => s
    | some g =>
      if b.st == .leaving then
        (if !settled s uid then again s
         else again (coreStops b.cores (updBlock uid (fun b => { b with st := .saved }) (drainClusters b.clusters s))))
      else if b.st != .saved then s
      else if !wakened s b then again s
      else match givePlace s g false (findPlace s allClusters g (savedNeed b)) with
        | .noRoom => again (makeRoom allClusters g s)
        | .behind => again s
        | .later => again (wantCadence s)
        | .at_ cl cs => restoreAt g b cl cs s

def execBlockRestore (s : State) : Host.Outcome State Fault Refusal :=
  .next (match s.arg with
    | .unit uid => restoreBlock uid (unfocus s)
    | _ => s)

/-! ### The end of a block (10 R284) -/

/-- Does a copy hold the block's end back: one with an endpoint or arrival object in its window? -/
def copyHolds (uid : Nat) (c : Copy) : Bool :=
  c.queue.isNone && c.blk == uid &&
    (isWindow c.dst || (c.fld 0x00 1 != 4 && isWindow (BitVec.ofNat 64 (c.fld 0x18 8)))
      || ((c.fld 0x00 1 == 2 || c.fld 0x00 1 == 3) && isWindow (BitVec.ofNat 64 (c.fld 0x28 8))) || c.fld 0x38 8 != 0)

/-- Have a block's warps ended with nothing outstanding? -/
def blockOver (s : State) (b : Block) : Bool :=
  b.warps.all (fun w => w.launched == w.exited && w.pend.isEmpty && w.faultq.isEmpty)
    && s.kicks.all (fun k => k.blk != b.uid) && s.copies.all (fun c => !copyHolds b.uid c)
    && s.colls.all (fun c => c.blk != b.uid) && s.walks.all (fun w => w.blk != b.uid)

/-- Ends what the faults of ended warps left pending (12 R346). -/
def dropFaults (uid : Nat) (s : State) : State :=
  match s.blocks.find? (fun b => b.uid == uid) with
  | none => s
  | some b =>
    let ws := (b.warps.filter (fun w => w.launched == w.exited && !w.faultq.isEmpty)).map Warp.idx
    unfocus (ws.foldl (fun s i =>
      let s := focusWarp s uid i
      let q := s.w.faultq
      q.foldl (fun s fr => dropFault fr s) { s with w := { s.w with faultq := [] } }) s)

/-- BLOCK_END: the block is gone, its dirty l1 bytes reach their homes (03 R111), and its cores take others. -/
def endBlock (uid : Nat) (s : State) : State :=
  let s := dropFaults uid s
  match s.blocks.find? (fun b => b.uid == uid) with
  | none => s
  | some b =>
    if b.st = .escalated then s
    else if !blockOver s b then push .blockEnd (.unit uid) s
    else
      let s := drainClusters b.clusters s
      let s := { s with blocks := s.blocks.filter (fun x => x.uid != uid), opc := s.opc.filter (fun o => o.blk != uid) }
      let s := updGrid s b.gid (fun g => { g with live := g.live - 1 })
      let s := flushIdle b.gid (coreStops b.cores s)
      push .gridRetirement (.unit b.gid) (activate s)

def execBlockEnd (s : State) : Host.Outcome State Fault Refusal :=
  .next (match s.arg with
    | .unit uid => endBlock uid (unfocus s)
    | _ => s)

end Sys2Proof.Machine
end

