-- ==== Sys2Proof/Machine/Records.lean ====
section
/-!
DEFINITION. Work graphs (06 R198 to R201, 14 R392 to R394): node queues and overflow areas, node groups, dependency
counters, and the instructions `rpush`, `rpop`, `dadd`, `ddec`.
-/
namespace Sys2Proof.Machine

/-! ### Memory reached by the pushing lanes -/

/-- The bytes that lanes reach by home operations, each translated, or the first fault: a register of the hub takes none, and
with `hdr` a header word takes no write (04 R128). -/
def bytePieces (s : State) (asid : Nat) (user hdr : Bool) (k : Access) (va : W64) : Nat → Except MFault (List Piece)
  | 0 => .ok []
  | n + 1 =>
    match notGlobal va with
    | some m => .error m
    | none =>
      match translate s asid user k va 1 with
      | .error m => .error m
      | .ok p =>
        if k != .read && isDevLeaf p.leaf.e then .error { code := 0x18, cause := 0, level := 15, pool := 0, va := va }
        else if hdr && headerHit s p then .error { code := 0x0A, cause := 0x24, level := 15, pool := 0, va := va }
        else match bytePieces s asid user hdr k (va + 1) n with
          | .error m => .error m
          | .ok ps => .ok (p :: ps)

/-- Does a copy still own one of these bytes (02 R74)? -/
def piecesHeld (s : State) (ps : List Piece) : Bool := ps.any (fun q => rangeHeld s q.asid q.va)

/-- Writes bytes at their homes. -/
def putBytes : List Piece → List Byte → State → State
  | p :: ps, b :: r, s => putBytes ps r (homeStore s 1 p b.toNat)
  | _, _, s => s

/-- The bytes of a record, and a record's words. -/
def wordsBytes (ws : List W32) : List Byte := ws.flatMap (fun w => toBytes w.toNat 4)
def bytesWords (b : List Byte) : List W32 := (List.range (b.length / 4)).map (fun i => BitVec.ofNat 32 (leBytes b (4 * i) 4))

/-- The values of bytes as a home operation sees them once the issuing half has written its dirty bytes back. -/
def homeBytes (s : State) (ps : List Piece) : List Byte := ps.map (fun p => BitVec.ofNat 8 (homeValueOf s p))

/-- The issuing half's dirty bytes in the lines of these pieces are written back (03 R87). -/
def cleanPieces (s : State) (ps : List Piece) : State := ps.foldl (fun s q => beforeHome s q.asid q.va) s

/-! ### Nodes (06 R198, R199) -/

/-- Changes a node. -/
def updNode (g n : Nat) (u : Node → Node) (s : State) : State :=
  { s with graphs := s.graphs.map (fun x => if x.id == g then { x with nodes := x.nodes.modify n u } else x) }

/-- Words of a node's record. -/
def Node.words (n : Node) : Nat := n.recBytes / 4

/-- Makes the start of a node group on a cluster, or from the overflow area, due. -/
def wantGroup (g n cluster : Nat) (s : State) : State :=
  let a := EvArg.triple g n cluster
  if s.agenda.contains (.nodeTimerExpiry, a) then s else push .nodeTimerExpiry a s

/-- What became of one record. -/
inductive Pushed where
  | done (s : State)
  | wait (h : Hold)
  | held                     -- bytes that a copy still owes (02 R74)
  | fault (m : MFault)
  deriving DecidableEq, Repr

/-- Puts a record into a cluster's queue, or behind it into the overflow area (06 R199). `force` moves a held record,
which waits for nothing. -/
def enqueueRec (g n cluster : Nat) (user force : Bool) (ws : List W32) (s : State) : Pushed :=
  match graphAt s g, nodeAt s g n with
  | some gr, some nd =>
    let r : QRec := { cluster := cluster, since := s.cycles, words := ws }
    if nd.held cluster < 64 || (force && nd.ovfCap ≤ nd.ovf.length) then
      .done (wantGroup g n cluster (updNode g n (fun x => { x with queue := x.queue ++ [r] }) s))
    else if nd.ovf.length < nd.ovfCap then
      let va := nd.ovfVa + BitVec.ofNat 64 (nd.ovfNext * nd.recBytes)
      match bytePieces s gr.asid user true .write va nd.recBytes with
      | .error m => .fault m
      | .ok ps =>
        if piecesHeld s ps then .held else
        let s := putBytes ps (wordsBytes ws) s
        .done (wantGroup g n overflow (updNode g n (fun x =>
          { x with ovf := x.ovf ++ [r], ovfNext := (x.ovfNext + 1) % x.ovfCap }) s))
    else .wait (.space g n)
  | _, _ => .done s

/-! ### Node groups (06 R200) -/

/-- The record window of a group: record j at j × record bytes. -/
def recordWindow (nd : Node) (rs : List QRec) : Memory :=
  ((List.range rs.length).zip rs).foldl (fun m p =>
    ((List.range nd.recBytes).zip (wordsBytes p.2.words)).foldl (fun m q => Cells.set m (p.1 * nd.recBytes + q.1) q.2) m) []

/-- Starts a group of a node where it can be placed and nothing goes ahead of it (06 R203); its records need no more room than
they have lanes. The fragment at the front has been put back. -/
def startGroup (g n cluster : Nat) (s : State) : State :=
  match graphAt s g, nodeAt s g n with
  | some gr, some nd =>
    let probe := groupGrid s gr nd 1
    (match groupPlace s gr nd cluster with
     | none =>
       (match givePlace s probe true none with
        | .noRoom => makeRoom (groupClusters probe cluster) probe s
        | _ => s)
     | some (c, grid, p) =>
       match givePlace s grid true (some p) with
       | .at_ cl cs =>
         let (rs, nd') := takeRecs nd c nd.group
         let s := fresh { s with grids := s.grids ++ [grid] }
         startBlock grid (some (launchSplit grid)) rs.length (0, 0, 0) grid.need cl cs (BitVec.ofNat 64 (grid.fld 0x00 8))
           (BitVec.ofNat 64 (grid.fld 0x28 8)) nd.recVa (BitVec.ofNat 64 rs.length)
           (fun b => { b with node := some (g, n), win := recordWindow nd rs }) (updNode g n (fun _ => nd') s)
       | .later => wantCadence s
       | _ => s)
  | _, _ => s

/-- Starts a group of a node if one is due. -/
def tryGroup (g n cluster : Nat) (s : State) : State :=
  match nodeAt s g n with
  | none => s
  | some nd => if groupDue s nd cluster then startGroup g n cluster s else s

/-- NODE_TIMER_EXPIRY: a group starts once its records are as many as the group size, or the oldest has waited the node's
timer; while records remain, the node is looked at again. -/
def nodeTimer (g n cluster : Nat) (s : State) : State :=
  let s := tryGroup g n cluster s
  match nodeAt s g n with
  | none => s
  | some nd =>
    let left := if cluster < overflow then nd.held cluster != 0 else !nd.ovf.isEmpty
    if left then wantGroup g n cluster s else s

def execNodeTimerExpiry (s : State) : Host.Outcome State Fault Refusal :=
  .next (match s.arg with
    | .triple g n c => nodeTimer g n c (unfocus s)
    | _ => s)

/-- Starts the groups that a pushed record completes (NODE_GROUP_START), with the fragment at the front put back and
brought again. -/
def groupsNow (g n cluster : Nat) (s : State) : State :=
  match nodeAt s g n with
  | none => s
  | some nd =>
    if nd.held cluster < nd.group then s
    else focus (tryGroup g n cluster (unfocus s)) s.blk.uid s.w.idx s.f.ent

/-! ### Dependency counters (06 R201) -/

/-- A dependency counter as it stands in memory. -/
structure Counter where
  count : Nat
  node : Nat
  hold : Nat
  cap : Nat
  held : Nat
  deriving DecidableEq, Repr

/-- Reads a counter whose bytes have been found. -/
def counterAt (s : State) (ps : List Piece) : Counter :=
  let b := homeBytes s ps
  { count := leBytes b 0 4, node := leBytes b 4 2, hold := leBytes b 8 8, cap := leBytes b 0x10 4, held := leBytes b 0x14 4 }

/-- The common part of the instructions that name a counter: alignment, address space, the access's own faults, and the waits.
`k` is given the counter's bytes, with the issuing half's dirty bytes written back. -/
def counterOp (i : Instr) (m : Lanes) (va : W64) (k : List Piece → State → State) (s : State) : State :=
  let as := (lanesOf m).map (fun l => (l, va))
  if va.toNat % 32 != 0 then alignFault .rmw as s
  else match bytePieces s (asidOf s) (isUser s) false .rmw va 32 with
    | .error e => faultPart i 1 m m e.code e.va (laneAux .rmw 0 0 e) none s
    | .ok ps =>
      if piecesHeld s ps then holdAt .fill s
      else if collHeld s as 32 || orderHeld s as 32 then holdAt .collect (sendGroups (ofFront s) s)
      else k ps (cleanPieces (keepLeaves s (.mem 1 (ps.take 1))) ps)

/-- Writes a field of a counter at its home, the issuing half's copy dropped (03 R87). -/
def setCounter (ps : List Piece) (off v n : Nat) (s : State) : State :=
  let qs := (ps.drop off).take n
  putBytes qs (toBytes v n) (dropCopies s qs)

/-- A step that changes a counter's count, which may not be a header word (04 R128). -/
def countStep (i : Instr) (ps : List Piece) (va : W64) (k : State → State) (s : State) : State :=
  if (ps.take 4).any (headerHit s) then
    faultPart i 1 s.f.mask s.f.mask 0x0A va
      (laneAux .rmw 0 0 { code := 0x0A, cause := 0x24, level := 15, pool := 0, va := va }) none s
  else k s

/-- `dadd` (14 R394). -/
def execDadd (sa sb : BitVec 6) (s : State) :=
  issue (.dadd sa sb) (fun s =>
    let i := Instr.dadd sa sb
    let va := readS s sa.toNat
    let n := (readS s sb.toNat).toNat % 2 ^ 32
    counterOp i s.f.mask va (fun ps s =>
      let c := counterAt s ps
      if 2 ^ 32 ≤ c.count + n then schedFault 0x05 s
      else if n = 0 then retire i s
      else countStep i ps va (fun s => retire i (setCounter ps 0 (c.count + n) 4 s)) s) s) s

/-- The records in a counter's hold area, oldest first, with the bytes that hold them. -/
def heldRecords (s : State) (c : Counter) (nd : Node) : Except MFault (List Piece) :=
  bytePieces s (asidOf s) (isUser s) false .read (BitVec.ofNat 64 c.hold) (c.held * nd.recBytes)

/-- Moves held records, in order, into the node's queue on the issuing cluster: none is lost, and a fault or a wait of one of
them moves none. -/
def releaseHeld (g n : Nat) : List (List W32) → State → Pushed
  | [], s => .done s
  | r :: rs, s =>
    match enqueueRec g n (clusterOf s.w.core) (isUser s) true r s with
    | .done s => releaseHeld g n rs s
    | e => e

/-- The step that brings a counter to 0: it moves every held record, and resets the held count. -/
def zeroStep (i : Instr) (g : Nat) (ps : List Piece) (c : Counter) (nd : Node) (s : State) : State :=
  let bad := fun (k : Access) (e : MFault) => faultPart i 1 s.f.mask s.f.mask e.code e.va (laneAux k 0 0 e) none s
  match heldRecords s c nd with
  | .error e => bad .read e
  | .ok hs =>
    if piecesHeld s hs then holdAt .fill s
    else
      let t := cleanPieces s hs
      let b := homeBytes t hs
      let rs := (List.range c.held).map (fun j => bytesWords ((b.drop (j * nd.recBytes)).take nd.recBytes))
      match releaseHeld g c.node rs (setCounter ps 0x14 0 4 (setCounter ps 0 0 4 t)) with
      | .fault e => bad .write e
      | .held | .wait _ => holdAt .fill s
      | .done t => groupsNow g c.node (clusterOf t.w.core) (retire i t)

/-- `ddec` (14 R394): a device-scope release. -/
def execDdec (sa sb : BitVec 6) (s : State) :=
  issue (.ddec sa sb) (fun s =>
    let i := Instr.ddec sa sb
    let va := readS s sa.toNat
    let n := (readS s sb.toNat).toNat % 2 ^ 32
    counterOp i s.f.mask va (fun ps => afterWork (fun s =>
      let t := releaseAt 2 s
      let c := counterAt t ps
      if c.count = 0 || c.count < n then schedFault 0x05 s
      else if n = 0 then retire i t
      else countStep i ps va (fun t =>
        if n < c.count then retire i (setCounter ps 0 (c.count - n) 4 t)
        else
          let g := ((gridOf t).bind Grid.graph).getD 0
          match nodeAt t g c.node with
          | none => schedFault 0x06 s
          | some nd => zeroStep i g ps c nd t) t)) s) s

/-! ### `rpush` (14 R392) -/

/-- Decode faults of a register group whose size the node gives: a multiple of min(n, 8), within the vector or k registers
and the allotment. -/
def groupFault (d : BitVec 8) (n : Nat) (s : State) : Option Nat :=
  let p := (d.toNat, n)
  if !aligned p || (d.toNat < 216 && 216 < d.toNat + n) || 224 < d.toNat + n then some 0x01
  else if isK p && !s.f.sup then some 0x02
  else if beyond s p then some 0x03
  else none

/-- The words of a lane's record. -/
def recordWords (s : State) (d : BitVec 8) (n l : Nat) : List W32 :=
  (List.range n).map (fun j => readLane s (d.toNat + j) l)

/-- Appends a record to a counter's hold area. -/
def holdRec (va : W64) (ps : List Piece) (c : Counter) (nd : Node) (ws : List W32) (s : State) : Pushed :=
  if c.cap ≤ c.held then .wait (.heldSpace va)
  else match bytePieces s (asidOf s) (isUser s) true .write (BitVec.ofNat 64 (c.hold + c.held * nd.recBytes)) nd.recBytes with
    | .error m => .fault m
    | .ok qs =>
      if piecesHeld s qs then .held else .done (setCounter ps 0x14 (c.held + 1) 4 (putBytes qs (wordsBytes ws) s))

/-- Pushes one lane's record: to the node, or by a counter, given by its address and bytes. -/
def pushOne (ctr : Option (W64 × List Piece)) (g n : Nat) (nd : Node) (ws : List W32) (s : State) : Pushed :=
  let direct := enqueueRec g n (clusterOf s.w.core) (isUser s) false ws s
  match ctr with
  | none => direct
  | some (va, ps) =>
    let c := counterAt s ps
    if c.count = 0 then direct else holdRec va ps c nd ws s

/-- Pushes the lanes' records in ascending order. What a wait or a fault leaves is done later, and no record is pushed
twice. -/
def pushLanes (i : Instr) (d : BitVec 8) (ctr : Option (W64 × List Piece)) (g n : Nat) (nd : Node) : List Nat → State → State
  | [], s => groupsNow g n (clusterOf s.w.core) (retire i s)
  | l :: r, s =>
    match pushOne ctr g n nd (recordWords s d nd.words l) s with
    | .done s => pushLanes i d ctr g n nd r { s with f := { s.f with done := s.f.done ||| maskOf [l] } }
    | .wait h => groupsNow g n (clusterOf s.w.core) (sleepAt h s)
    | .held => groupsNow g n (clusterOf s.w.core) (holdAt .fill s)
    | .fault m => faultPart i 1 (maskOf (l :: r)) (maskOf (l :: r)) m.code m.va (laneAux .write 0 0 m) none s

/-- An export whose registers are still to be pulled waits for them (05 R160). -/
def withRegs (d : BitVec 8) (n : Nat) (k : State → State) (s : State) : State :=
  match exportOf s with
  | none => k s
  | some e =>
    let rs := ((List.range n).map (d.toNat + ·)).filter (fun r => !e.pulled.contains (256 * s.f.nw + r)
      && !((e.warpLanes s.f.nw).all (fun l => (lookup (viewKey s.f.nw (regKey r l)) e.held).isSome)))
    if rs.isEmpty then k s else askPulls rs (holdAt .pull s)

/-- The push of a fragment's active lanes to a node. -/
def pushTo (i : Instr) (d : BitVec 8) (ctr : Option (W64 × List Piece)) (n : Nat) (s : State) : State :=
  let g := (gridOf s).bind Grid.graph
  match g, nodeAt s (g.getD 0) n with
  | some g, some nd =>
    (match groupFault d nd.words s with
     | some c => precise c s.f.mask 0 (wordAux i) s
     | none =>
       withRegs d nd.words (afterWork (fun s =>
         pushLanes i d ctr g n nd (lanesOf (actSet s &&& ~~~s.f.done)) (releaseAt 2 s))) s)
  | _, _ => schedFault 0x06 s

/-- The decode faults of a register group that no size of record avoids come before any other check (07 R213): a record is
two words or more. -/
def groupDecoded (i : Instr) (d : BitVec 8) (k : State → State) (s : State) : State :=
  match groupFault d 2 s with
  | some c => precise c s.f.mask 0 (wordAux i) s
  | none => k s

def execRpush (d : BitVec 8) (sa sb : BitVec 6) (s : State) :=
  issue (.rpush d sa sb) (groupDecoded (.rpush d sa sb) d (fun s =>
    let i := Instr.rpush d sa sb
    if sb = 0 then pushTo i d none ((readS s sa.toNat).toNat % 256) s
    else
      let va := readS s sb.toNat
      counterOp i s.f.mask va (fun ps s => pushTo i d (some (va, ps)) (counterAt s ps).node s) s)) s

/-! ### `rpop` (14 R393) -/

/-- Is a producer in flight for a register of the group, in a lane that the instruction writes (09 R249)? -/
def groupBusy (d : BitVec 8) (n : Nat) (s : State) : Bool :=
  (List.range n).any (fun j => (lanesOf (actSet s)).any (fun l => (inflight s (regKey (d.toNat + j) l)).isSome))

/-- Hands records to lanes in ascending order; the others keep their registers and have their bit cleared. -/
def giveRecs (d : BitVec 8) (p : Nat) : List Nat → List QRec → State → State
  | [], _, s => s
  | l :: r, [], s => giveRecs d p r [] (writePBit s p l false)
  | l :: r, x :: xs, s =>
    let s := ((List.range x.words.length).zip x.words).foldl (fun s q => writeLane s (d.toNat + q.1) l q.2) s
    giveRecs d p r xs (writePBit s p l true)

/-- `rpop`: records come from the sources of the node's group (06 R200); receipt is an acquire. -/
def execRpop (d : BitVec 8) (p : BitVec 3) (w : BitVec 1) (s : State) :=
  issue (.rpop d p w) (groupDecoded (.rpop d p w) d (fun s =>
    let i := Instr.rpop d p w
    match s.blk.node with
    | none => schedFault 0x06 s
    | some (g, n) =>
      match nodeAt s g n with
      | none => schedFault 0x06 s
      | some nd =>
        match groupFault d nd.words s with
        | some c => precise c s.f.mask 0 (wordAux i) s
        | none =>
          let act := lanesOf (actSet s)
          let (rs, nd') := takeRecs nd (s.blk.clusters.headD 0) act.length
          if w = 1 && rs.isEmpty then sleepAt (.record g n) s
          else if groupBusy d nd.words s then s
          else retire i (giveRecs d p.toNat act rs (acquireAt 2 (updNode g n (fun _ => nd') s))))) s

end Sys2Proof.Machine
end

