-- ==== Sys2Proof/Machine/Messages.lean ====
section
/-!
DEFINITION. Active messages (14 R396, 16 R420 to R423): `amsd`, the handler groups that they start, and messages to and
from peers over Ethernet.
-/
namespace Sys2Proof.Machine

/-! ### Sending -/

/-- Firmware's peer-table entry of a number. -/
def peerAt (s : State) (n : Nat) : Option Peer := s.dev.peers.find? (fun p => p.n == n)

/-- The handler address that entry `idx` of a grid's handler table gives; none where the table or the entry is 0, or the
index is above 4,095. -/
def handlerEntry (s : State) (g : Grid) (user : Bool) (idx : Nat) : Except MFault (Option W64) :=
  let table := g.fld 0xF0 8
  if table = 0 || 4095 < idx then .ok none
  else match recordBytes s g.asid user false (BitVec.ofNat 64 (table + 8 * idx)) 8 with
    | .error m => .error m
    | .ok b => .ok (if leBytes b 0 8 = 0 then none else some (BitVec.ofNat 64 (leBytes b 0 8)))

/-- Must the look at a handler table's entry wait for a copy (02 R74)? -/
def handlerHeld (s : State) (g : Grid) (idx : Nat) : Bool :=
  g.fld 0xF0 8 != 0 && idx ≤ 4095 && agentHeld s g.asid (BitVec.ofNat 64 (g.fld 0xF0 8 + 8 * idx)) 8

/-- The traffic class of a priority class, as the SEND header carries it (16 R418). -/
def trafficClass (cls : Nat) : Nat := min cls 2

/-- The 144 bytes of a message to a peer (16 R423). -/
def sendBytes (cluster cls idx srcCluster warp lin : Nat) (payload : List W32) : List Byte :=
  toBytes cluster 1 ++ toBytes (trafficClass cls) 1 ++ toBytes idx 2 ++ toBytes srcCluster 1 ++ toBytes 0 1
    ++ toBytes warp 2 ++ toBytes lin 4 ++ toBytes 0 4 ++ payload.flatMap (fun w => toBytes w.toNat 4)

/-- The payload of an `amsd`: lanes outside the active set supply zero. -/
def payloadOf (s : State) (a : Nat) : List W32 :=
  laneList.map (fun l => if (actSet s).getLsbD l then readLane s a l else 0)

/-- The message of the fragment at the front. -/
def newMessage (s : State) (i : Instr) (a peer cluster idx : Nat) (entry : W64) : Msg :=
  let cls := ((gridOf s).map Grid.cls).getD 0
  let src := clusterOf s.w.core
  let pl := payloadOf s a
  { src := s.blk.gid, cls := cls, handler := idx, entry := entry, payload := pl, s1 := BitVec.ofNat 64 src,
    s2 := BitVec.ofNat 64 (blockLin s), s3 := BitVec.ofNat 64 s.w.idx, peer := peer, cluster := cluster,
    wire := sendBytes cluster cls idx src s.w.idx (blockLin s) pl, pend := none, resent := false,
    back := some (replayOf i (BitVec.ofNat 2 (noteAt s.f s.f.pc)) s.f.mask s.uid s) }

/-- The cause of a FABRIC fault of a message to a cluster: no route left, or lost twice (16 R425). -/
def messageLost (s : State) (cluster : Nat) : Option Nat :=
  let src := clusterOf s.w.core / 32
  let dst := cluster / 32
  if src != dst && s.cutoff.contains dst then some 0x42
  else match s.outage with
    | some (a, b, lost) => if 2 ≤ lost && ((src == a && dst == b) || (src == b && dst == a)) then some 0x40 else none
    | none => none

/-- Where a message waits: the receive queue of its cluster, or the send queue of its peer's port. -/
def messageQueue (s : State) (peer cluster : Nat) : Nat :=
  if peer = 0 then cluster else 128 + ((peerAt s peer).map (fun p => p.port.toNat)).getD 0

/-- Puts a message into its queue. One to this module has then been sent (14 R396), and names no operation; one to a peer
holds flag B until the receiver acknowledges it. -/
def sendMessage (i : Instr) (m : Msg) (s : State) : State :=
  if m.peer = 0 then
    let m := { m with pend := some (s.blk.uid, s.w.idx, 0) }
    retire i (push .activeMessageHandlerStart (.unit m.cluster) { s with recvq := s.recvq ++ [m] })
  else
    let id := s.uid
    let s := addPend s (setB s.f) (some s.f.mask) .other s.f.mask []
    retire i { s with sendq := s.sendq ++ [{ m with pend := some (s.blk.uid, s.w.idx, id) }] }

/-- `amsd` (14 R396): a device-scope release. A full queue stalls the issue. -/
def execAmsd (a : BitVec 8) (sb sc : BitVec 6) (s : State) :=
  issue (.amsd a sb sc) (fun s =>
    let i := Instr.amsd a sb sc
    let dest := (readS s sb.toNat).toNat
    let idx := (readS s sc.toNat).toNat % 2 ^ 16
    let peer := bits dest 16 16
    let cluster := bits dest 0 7
    let m := s.f.mask
    let bad := precise 0x1A m 0 (BitVec.ofNat 64 idx)
    let flag := some (setB s.f, some m)
    if bits dest 7 9 != 0 || bits dest 32 32 != 0 || (peer != 0 && !((peerAt s peer).any (fun p => p.v))) then bad s
    else match gridOf s with
      | none => bad s
      | some g =>
        if handlerHeld s g idx then holdAt .fill s
        else match handlerEntry s g (isUser s) idx with
        | .error e => faultPart i 1 m m e.code e.va (laneAux .read 0 0 e) flag s
        | .ok none => bad s
        | .ok (some entry) =>
          match (if peer = 0 then messageLost s cluster else none) with
          | some c => faultPart i 1 m m 0x12 0 (MFault.aux { code := 0x12, cause := c, level := 15, pool := 0, va := 0 } 0 0 1) flag s
          | none =>
            afterWork (fun s =>
              if !messageRoom s (messageQueue s peer cluster) then holdAt (.message (messageQueue s peer cluster)) s
              else sendMessage i (newMessage s i a.toNat peer cluster idx entry) (releaseAt 2 s)) s) s

/-! ### Handler groups (14 R396, 16 R421) -/

/-- Starts the handler of a message at its place. -/
def startHandler (g : Grid) (m : Msg) (cl : List Nat) (cs : List (Nat × Nat)) (s : State) : State :=
  let v : Cells 32 := ((List.range g.lanes).zip m.payload).foldl (fun v p => Cells.set v (regKey 0 p.1) p.2) []
  startBlock g none g.lanes (0, 0, 0) { warps := 1, tiles := 0, bytes := 0 } cl cs m.entry m.s1 m.s2 m.s3
    (fun b => { b with msg := true, warps := b.warps.map (fun w => { w with v := v }) }) s

/-- Removes the first element for which `p` holds. -/
def dropMsg (p : Msg → Bool) : List Msg → List Msg
  | [] => []
  | m :: r => if p m then r else m :: dropMsg p r

/-- ACTIVE_MESSAGE_HANDLER_START: the oldest message of a cluster's receive queue starts its handler. A message of a grid
that has ended is dropped. -/
def serveMessage (c : Nat) (s : State) : State :=
  match s.recvq.find? (fun m => m.cluster == c) with
  | none => s
  | some m =>
    let gone := { s with recvq := dropMsg (fun x => x.cluster == c) s.recvq }
    match gridAt s m.src with
    | none => gone
    | some g =>
      if g.dead.isSome then push .gridRetirement (.unit g.gid) gone
      else
        let again := push .activeMessageHandlerStart (.unit c)
        match givePlace gone g true (handlerPlace gone g c) with
        | .at_ cl cs => startHandler g m cl cs gone
        | .noRoom => again (makeRoom [c] g s)
        | .later => again (wantCadence s)
        | .behind => again s

def execActiveMessageHandlerStart (s : State) : Host.Outcome State Fault Refusal :=
  .next (match s.arg with
    | .unit c => serveMessage c (unfocus s)
    | _ => s)

/-! ### Peers (16 R422, R423) -/

/-- Completes the flag part of a message that has left its queue. -/
def messageDone (m : Msg) (s : State) : State :=
  match m.pend with
  | some (b, w, id) => unfocus (complete (focusWarp s b w) id)
  | none => s

/-- Is a peer's queue pair in the error state (16 R426)? -/
def peerDown (s : State) (n : Nat) : Bool := (peerAt s n).any (fun p => s.qpErrors.contains p.port.toNat)

/-- SEND_ACKNOWLEDGEMENT: the oldest message to a peer has entered its receive queue. -/
def execSendAcknowledgement (s : State) : Host.Outcome State Fault Refusal :=
  .next (match s.arg with
    | .unit n =>
      let s := unfocus s
      (match s.sendq.find? (fun m => m.peer == n && !peerDown s n) with
       | none => s
       | some m => messageDone m { s with sendq := dropMsg (fun x => x.peer == n) s.sendq })
    | _ => s)

/-- RNR_NAK: the hub sends the oldest message to the peer again; it keeps its place in the send queue. -/
def execRnrNak (s : State) : Host.Outcome State Fault Refusal := .next s

/-- An inbound message is dropped. -/
def dropInbound (p : Peer) (s : State) : State :=
  let n := if p.drops = 0xFFFFFFFF then p.drops else p.drops + 1
  { s with dev := { s.dev with peers := s.dev.peers.map (fun x => if x.n == p.n then { x with drops := n } else x) } }

/-- An inbound SEND on the queue pair of a peer entry: it enters the receive queue of its cluster and is acknowledged, is
answered with an RNR NAK while that queue is full, or is dropped. -/
def receiveSend (p : Peer) (b : List Byte) (s : State) : State :=
  let f := leBytes b
  let cluster := f 0 1 % 128
  let ack := fun (s : State) => { s with answers := .ack p.qpn.toNat :: s.answers }
  match s.grids.find? (fun g => g.service == some p.n && g.dead.isNone && !g.retired) with
  | none => ack (dropInbound p s)
  | some g =>
    if !p.inbound then ack (dropInbound p s)
    else match handlerEntry s g true (f 2 2) with
      | .error _ | .ok none => ack (dropInbound p s)
      | .ok (some entry) =>
        if !messageRoom s cluster then { s with answers := .rnr p.qpn.toNat :: s.answers }
        else
          let m : Msg :=
            { src := g.gid, cls := f 1 1, handler := f 2 2, entry := entry,
              payload := (List.range 32).map (fun l => BitVec.ofNat 32 (f (16 + 4 * l) 4)),
              s1 := BitVec.ofNat 64 (f 4 1 % 128 + 2 ^ 16 * p.n), s2 := BitVec.ofNat 64 (f 8 4), s3 := BitVec.ofNat 64 (f 6 2),
              peer := 0, cluster := cluster, wire := [], pend := none, resent := false, back := none }
          ack (push .activeMessageHandlerStart (.unit cluster) { s with recvq := s.recvq ++ [m] })

/-- RDMA_SEND. A SEND on a queue pair that no entry names has no receiver. -/
def execRdmaSend (s : State) : Host.Outcome State Fault Refusal :=
  .next (match s.arg with
    | .send qpn b =>
      let s := unfocus s
      (match s.dev.peers.find? (fun p => p.qpn == qpn && p.n != 0 && !peerDown s p.n) with
       | some p => receiveSend p b s
       | none => s)
    | _ => s)

end Sys2Proof.Machine
end

