-- ==== Sys2Proof/Machine/System.lean ====
section
/-!
DEFINITION. Trap-related instructions (14 R401), frame pools (14 R402, 01 R37, R38), mappings (14 R403, R404, 01 R31, R39)
and the refill of a pool.
-/
namespace Sys2Proof.Machine

/-! ### `trap`, `brk`, `nop`, `halt`, `tret` (14 R401) -/

/-- The instruction retires, and a notice is delivered (07 R212). -/
def notice (i : Instr) (code : Nat) (aux : W64) (s : State) : State :=
  let s := retire i s
  raise { ent := s.f.ent, code := BitVec.ofNat 8 code, kind := 3, lanes := s.f.mask, va := 0, aux := aux, pc := s.f.pc,
          part := .none } s

def execTrap (imm : BitVec 16) (s : State) := issue (.trap imm) (notice (.trap imm) 0x14 (imm.setWidth 64)) s
def execBrk (s : State) := issue .brk (notice .brk 0x15 0) s
def execNop (s : State) := issue .nop (retire .nop) s

/-- `halt`: an escalated block resumes after it. -/
def execHalt (s : State) :=
  issue .halt (fun s =>
    let s := retire .halt s
    escalate { ent := s.f.ent, code := 0, kind := 3, lanes := s.f.mask, va := 0, aux := 0, pc := s.f.pc, part := .none } s) s

def execTret (s : State) := issue .tret returnFrom s

/-! ### The steps of `tinv` (01 R31) -/

/-- Is a line one of an address range? -/
def inRange (asid v n : Nat) (a la : Nat) : Bool := a == asid && decide (v < 128 * la + 128) && decide (128 * la < v + n)

/-- Writes back and drops the lines of a range in every L1, then in every slice, and drops those of the instruction caches
(01 R31). The operand caches hold lines of block windows alone. -/
def dropLines (asid v n : Nat) (s : State) : State :=
  let s := writeBackHalf s (fun x => inRange asid v n x.asid x.la) false
  let s := { s with l1 := s.l1.filter (fun x => !inRange asid v n x.asid x.la) }
  let s := (s.l2.filter (fun x => inRange asid v n x.asid x.la)).foldl (fun s x => l2Write s x x.dirty) s
  { s with l2 := s.l2.filter (fun x => !inRange asid v n x.asid x.la),
           icache := s.icache.filter (fun x => !inRange asid v n x.asid x.la) }

/-- Drops the translations of a range: leaves in the TLBs, pointers in the walk caches, and homes in the cores' buffers. -/
def dropLeaves (asid v n : Nat) (s : State) : State :=
  let touches := fun (a i size : Nat) => a == asid && decide (i * size < v + n) && decide (v < i * size + size)
  { s with tlb := s.tlb.filter (fun t => !touches t.asid t.page t.size),
           wcache := s.wcache.filter (fun p => !touches p.asid p.index (2 ^ levelShift p.level)),
           homes := s.homes.filter (fun x => !touches x.asid x.page 0x10000) }

/-- The steps of `tinv` over bytes `v` to `v + n - 1` of an effective ASID. -/
def invalidate (asid v n : Nat) (s : State) : State := dropLeaves asid v n (dropLines asid v n s)

/-- A fault of a supervisor instruction: it escalates (14 R401). -/
def systemFault (i : Instr) (k : Access) (e : MFault) (s : State) : State :=
  faultPart i 1 s.f.mask s.f.mask e.code e.va (laneAux k 0 0 e) none s

/-- The range of `tinv` and `pumap`: 64 KiB multiples at a global address. -/
def rangeOp (i : Instr) (sa sb : BitVec 6) (k : Nat → Nat → Nat → State → State) (s : State) : State :=
  let g := readS s sa.toNat
  let n := (readS s sb.toNat).toNat
  if g.toNat % 0x10000 != 0 then alignFault .write ((lanesOf s.f.mask).map (fun l => (l, g))) s
  else if n % 0x10000 != 0 then alignFault .write ((lanesOf s.f.mask).map (fun l => (l, readS s sb.toNat))) s
  else if n = 0 then retire i s
  else if !isGlobal g then systemFault i .write (prot (if isWindow g || isPrivate g then 0x19 else 0x14) g) s
  else if rowsOpen s then holdAt .fill s
  else retire i (k (effAsid (asidOf s) (vaOf g)) (vaOf g) n s)

def execTinv (sa sb : BitVec 6) (s : State) := issue (.tinv sa sb) (rangeOp (.tinv sa sb) sa sb invalidate) s

/-! ### `pumap` (14 R404) -/

/-- The table that an entry of memory at levels 0 to 2 leads to, or the 1 GiB leaf that it is. -/
def nextTable (s : State) (t level va : Nat) : Option (Nat ⊕ Leaf) :=
  let e := physRead s (t + 8 * bits va (levelShift level) (if level = 0 then 8 else 9)) 8
  match walkPointer s e level 0 with
  | .ok x => some x
  | .error _ => none

/-- The valid leaf over an address: where its entry lies in memory, and the base and size of its page. -/
def leafPlace (s : State) (asid va : Nat) : Option (Nat × Nat × Nat) :=
  let entry := fun (pa size : Nat) => if eV (physRead s pa 8) then some (pa, va / size * size, size) else none
  match asidRoot s asid (genOf va) with
  | .error _ => none
  | .ok t => match nextTable s t 0 va with
    | none | some (.inr _) => none
    | some (.inl t) => match nextTable s t 1 va with
      | none | some (.inr _) => none
      | some (.inl t2) => match nextTable s t2 2 va with
        | none => none
        | some (.inr _) => entry (t2 + 8 * bits va 30 9) 0x40000000
        | some (.inl t3) =>
          let first := t3 + 8 * (bits va 21 9 * 32)
          if eTYPE (physRead s first 8) = 2 && eV (physRead s first 8) then entry first 0x200000
          else entry (t3 + 8 * bits va 16 14) 0x10000

/-- Clears V in the leaves whose pages lie wholly within a range. -/
def clearLeaves (asid v n : Nat) (s : State) : State :=
  let hits := (List.range (n / 0x10000)).filterMap (fun k => leafPlace s asid (v + 0x10000 * k))
  let whole := (hits.filter (fun h => v ≤ h.2.1 && h.2.1 + h.2.2 ≤ v + n)).map Prod.fst
  whole.eraseDups.foldl (fun s pa => physWrite s pa (physRead s pa 1 / 2 * 2) 1) s

def execPumap (sa sb : BitVec 6) (s : State) :=
  issue (.pumap sa sb) (rangeOp (.pumap sa sb) sa sb (fun a v n s => invalidate a v n (clearLeaves a v n s))) s

/-! ### Pools (01 R37, R38, 14 R402) -/

/-- A pool descriptor as it stands in memory. -/
structure PoolDesc where
  va : W64                   -- of the descriptor
  stack : W64
  cap : Nat
  count : Nat
  attrs : Nat
  low : Nat
  deriving DecidableEq, Repr

/-- PROT with cause 0x17 at an address. -/
def poolFault (va : W64) : MFault := { code := 7, cause := 0x17, level := 15, pool := 0, va := va }

/-- Does a descriptor break 01 R37? -/
def descBad (b : List Byte) : Bool :=
  let f := leBytes b
  let st := BitVec.ofNat 64 (f 0x00 8)
  let ty := bits (f 0x10 2) 12 2
  let home := bits (f 0x10 2) 9 3
  f 0x12 2 != 0 || (b.drop 0x18).any (fun x => x != 0) || st.toNat % 4 != 0 || st.toNat / 2 ^ 55 != 0x1FF
    || !(ty == 1 || ty == 2) || (1 ≤ home && home ≤ 3) || bits (f 0x10 2) 0 8 != 0 || bits (f 0x10 2) 14 2 != 0

/-- The descriptor's address of pool `n` of the table that a POOL value names. -/
def descVa (reg : W64) (n : Nat) : W64 := BitVec.ofNat 64 (0xFF * 2 ^ 56 + bits reg.toNat 6 50 * 64 + 64 * n)

/-- The descriptor of a pool (14 R402), checked before its stack is accessed. -/
def poolDesc (s : State) (hub : Bool) (reg : W64) (n : Nat) : Except MFault PoolDesc :=
  let va := descVa reg n
  if n = 0 || bits reg.toNat 6 50 = 0 then .error (poolFault va)
  else match recordBytes s 0 false hub va 64 with
    | .error m => .error m
    | .ok b =>
      if descBad b then .error (poolFault va)
      else
        let f := leBytes b
        .ok { va := va, stack := BitVec.ofNat 64 (f 0x00 8), cap := f 0x08 4, count := f 0x0C 4, attrs := f 0x10 2, low := f 0x14 4 }

/-- The address of place `k` of a pool's stack. -/
def PoolDesc.slot (d : PoolDesc) (k : Nat) : W64 := d.stack + BitVec.ofNat 64 (4 * k)

/-- Writes a 4-byte word of a pool's descriptor or stack at its home. -/
def poolWrite (hub : Bool) (va : W64) (v : Nat) (s : State) : Except MFault State :=
  match translate s 0 false .rmw va 4 1 hub with
  | .error m => .error m
  | .ok p =>
    if isDevLeaf p.leaf.e then .error { code := 0x18, cause := 0, level := 15, pool := 0, va := va }
    else if headerHit s p then .error { code := 0x0A, cause := 0x24, level := 15, pool := 0, va := va }
    else .ok (homeWrite s 1 p v)

/-- The step of a pop: the frame, with the count lowered. -/
def popFrame (hub : Bool) (d : PoolDesc) (s : State) : Except MFault (State × Nat) :=
  match recordBytes s 0 false hub (d.slot (d.count - 1)) 4 with
  | .error m => .error m
  | .ok b => match poolWrite hub (d.va + 0x0C) (d.count - 1) s with
    | .error m => .error m
    | .ok s => .ok (s, leBytes b 0 4)

/-- The step of a push onto a stack that is not full. -/
def pushFrame (hub : Bool) (d : PoolDesc) (frame : Nat) (s : State) : Except MFault State :=
  match poolWrite hub (d.slot d.count) frame s with
  | .error m => .error m
  | .ok s => poolWrite hub (d.va + 0x0C) (d.count + 1) s

/-- The key of a pool: its table and its number. -/
def poolKey (reg : W64) (n : Nat) : Nat := 64 * bits reg.toNat 6 50 + n

/-- Firmware is asked to refill a pool (01 R38). -/
def askRefill (key : Nat) (s : State) : State :=
  if s.poolReqs.contains key then s else push .poolRefill (.unit key) { s with poolReqs := key :: s.poolReqs }

/-- The issuing half's copy of an upper-half line is written back and dropped (03 R87). -/
def drainLine (va : W64) (s : State) : State :=
  let a := effAsid 0 (vaOf va)
  dropCopy (beforeHome s a va) a va

/-- The frame of an operation on a pool: the issuing half gives up the lines of the descriptor and, where it holds frame `at'`
of the stack, of that place, and no copy may still owe bytes of them (02 R74). -/
def poolOp (i : Instr) (n : Nat) (at' : PoolDesc → Nat) (k : PoolDesc → State → State) (s : State) : State :=
  let va := descVa s.w.pool n
  let t := drainLine va s
  if agentHeld s 0 va 64 then holdAt .fill s
  else match poolDesc t false s.w.pool n with
    | .error e => systemFault i .rmw e t
    | .ok d => if agentHeld s 0 (d.slot (at' d)) 4 then holdAt .fill s else k d (drainLine (d.slot (at' d)) t)

/-- `pool`: a pop on an empty pool sleeps until frames arrive. -/
def execPool (sd sa : BitVec 6) (s : State) :=
  issue (.pool sd sa) (fun s =>
    let i := Instr.pool sd sa
    let n := (readS s sa.toNat).toNat % 64
    let key := poolKey s.w.pool n
    poolOp i n (fun d => d.count - 1) (fun d s =>
      if d.count = 0 then sleepAt (.frames key) (askRefill key s)
      else match popFrame false d s with
        | .error e => systemFault i .rmw e s
        | .ok (t, frame) =>
          let t := if d.count - 1 < d.low then askRefill key t else t
          retire i (writeS t sd.toNat (BitVec.ofNat 64 frame))) s) s

/-- `pool.push`: on a full stack the frame returns to firmware. -/
def execPoolPush (sa sb : BitVec 6) (s : State) :=
  issue (.poolPush sa sb) (fun s =>
    let i := Instr.poolPush sa sb
    let n := (readS s sa.toNat).toNat % 64
    let frame := (readS s sb.toNat).setWidth 32
    poolOp i n PoolDesc.count (fun d s =>
      if d.cap ≤ d.count then retire i { s with poolBack := (n, frame) :: s.poolBack }
      else match pushFrame false d frame.toNat s with
        | .error e => systemFault i .rmw e s
        | .ok t => retire i t) s) s

/-! ### `pmap` (01 R39, 14 R403) -/

/-- The level-3 entry that `pmap` chooses: the group's first one for a 2 MiB page, otherwise the address's own. -/
def pmapEntry (s : State) (t va : Nat) : Nat × Bool :=
  let first := t + 8 * (bits va 21 9 * 32)
  let g := physRead s first 8
  if eTYPE g = 2 && (eV g || ePOOL g != 0) then (first, true) else (t + 8 * bits va 16 14, false)

/-- The entry as `pmap` writes it: V, TIER and HOME of the pool, and FRAME. -/
def pmapLeaf (e attrs frame : Nat) : Nat :=
  bits e 1 7 * 2 + 1 + bits attrs 8 1 * 2 ^ 8 + bits attrs 9 3 * 2 ^ 9 + bits e 12 12 * 2 ^ 12 + frame * 2 ^ 24
    + bits e 56 8 * 2 ^ 56

/-- `pmap` for an address that has a level-3 table. -/
def mapOver (i : Instr) (sd : BitVec 6) (g : W64) (t n frame : Nat) (s : State) : State :=
  let (at', two) := pmapEntry s t (vaOf g)
  let e := physRead s at' 8
  let ty := if two then 2 else 1
  let fault := systemFault i .rmw { code := 7, cause := 0x17, level := 3, pool := 0, va := g }
  if eV e then retire i (writeS s sd.toNat 0)
  else if ePOOL e = 0 || eTYPE e != ty then fault s
  else poolOp i n (fun _ => 0) (fun d s =>
    if bits d.attrs 12 2 != ty || (two && frame % 32 != 0) then fault s
    else retire i (writeS (physWrite s at' (pmapLeaf e d.attrs frame) 8) sd.toNat 1)) s

def execPmap (sd sa sb : BitVec 6) (s : State) :=
  issue (.pmap sd sa sb) (fun s =>
    let i := Instr.pmap sd sa sb
    let g := readS s sa.toNat
    let b := (readS s sb.toNat).toNat
    if !isGlobal g then systemFault i .rmw (prot (if isWindow g || isPrivate g then 0x19 else 0x14) g) s
    else match walkTable s (asidOf s) g with
      | .error e => systemFault i .rmw e s
      | .ok (.inr _) => retire i (writeS s sd.toNat 0)
      | .ok (.inl t) => mapOver i sd g t (bits b 32 6) (b % 2 ^ 32) s) s

/-! ### POOL_REFILL (01 R38) -/

/-- The memory of a page zeroed, with the carve-out entries of its granules. -/
def zeroFrame (attrs frame : Nat) (s : State) : State :=
  let e := bits attrs 8 1 * 2 ^ 8 + bits attrs 9 3 * 2 ^ 9 + bits attrs 12 2 * 2 ^ 12 + frame * 2 ^ 24
  let pa := regionBase (leafRegion s e).1 + frame * 0x10000
  let n := framesOf (bits attrs 12 2)
  let drop := fun (lo len : Nat) (m : Memory) => m.filter (fun c => c.1 < lo || decide (lo + len ≤ c.1))
  let m := drop pa (n * 0x10000) s.mem
  { s with mem := match granAddr s pa with
      | some a => drop a (n * 2048) m
      | none => m }

/-- Firmware's frames reach the stack of a pool, zero-filled, while it has room. -/
def refill (key : Nat) : List (BitVec 32) → State → State
  | [], s => s
  | f :: r, s =>
    match poolDesc s true (BitVec.ofNat 64 (key / 64 * 64)) (key % 64) with
    | .error _ => s
    | .ok d =>
      if d.cap ≤ d.count then s
      else match pushFrame true d f.toNat (zeroFrame d.attrs f.toNat s) with
        | .error _ => s
        | .ok s => refill key r s

/-- Must firmware wait for a copy that owes bytes of a pool's descriptor or stack (02 R74)? -/
def refillHeld (key : Nat) (s : State) : Bool :=
  let reg := BitVec.ofNat 64 (key / 64 * 64)
  agentHeld s 0 (descVa reg (key % 64)) 64 || (match poolDesc s true reg (key % 64) with
    | .ok d => agentHeld s 0 (d.slot d.count) (4 * (d.cap - d.count))
    | .error _ => false)

/-- POOL_REFILL: the frames that firmware gives are a free value; with none to give, the request stays posted. -/
def execPoolRefill (s : State) : Host.Outcome State Fault Refusal :=
  .next (match s.arg with
    | .unit key =>
      let s := unfocus s
      let fs := Config.refillFrames s.tick key
      if fs.isEmpty || refillHeld key s then push .poolRefill (.unit key) s
      else refill key fs { s with poolReqs := s.poolReqs.filter (· != key) }
    | _ => s)

end Sys2Proof.Machine
end

