-- ==== Sys2Proof/Machine/FrontEnd.lean ====
section
/-!
DEFINITION. The command front end (15 R405 to R415): queues and their wake registers, packets and their checks, halts and
restarts, tandem links, mapping to queue slots; the completion of copies (03 R106); the retirement of grids (05 R169, 15
R414) and graphs (R410); and the management commands about queues and blocks.
-/
namespace Sys2Proof.Machine

/-! ### Queues and their memory (15 R405, R408) -/

/-- A queue of an identifier, and its change. -/
def queueAt (s : State) (q : Nat) : Option Queue := s.queues.find? (fun x => x.id == q)
def updQueue (q : Nat) (u : Queue → Queue) (s : State) : State :=
  { s with queues := s.queues.map (fun x => if x.id == q then u x else x) }

/-- TIME, as register 0x021 reads it (09 R267). -/
def timeNow (s : State) : Nat := s.timeUnits / 5045040

/-- The state that the status area shows (15 R408). -/
def Queue.shown (q : Queue) : Nat :=
  if q.halted.isSome then 3 else if q.blocked then 2 else if q.started = q.widx.toNat then 1 else 0

/-- Writes bytes for a queue, each at its home; the first fault ends the write. -/
def queueWrite (q : Queue) (va : W64) : List Byte → State → Except MFault State
  | [], s => .ok s
  | b :: r, s =>
    match agentWrite s q.asid va b.toNat 1 with
    | .error m => .error m
    | .ok s => queueWrite q (va + 1) r s

/-- The status area's contents. -/
def Queue.statusBytes (q : Queue) : List Byte :=
  toBytes q.started 8 ++ toBytes q.done 8 ++ toBytes q.shown 1 ++ List.replicate 47 0

/-- Writes a queue's status area, or leaves the write owed while a copy owns the area or an error record is owed (02 R74). A
fault halts the queue (15 R405). -/
def writeStatus (q : Nat) (s : State) : State :=
  match queueAt s q with
  | none => s
  | some x =>
    if x.errOwed.isSome || agentHeld s x.asid x.status 64 then updQueue q (fun x => { x with owed := true }) s
    else match queueWrite x x.status x.statusBytes s with
    | .ok s => s
    | .error _ => updQueue q (fun x => { x with halted := some (x.halted.getD (x.started, false)) }) s

/-- An error record's contents (15 R411). -/
def errorBytes (n code off cause tag time gid : Nat) : List Byte :=
  toBytes n 8 ++ toBytes code 1 ++ toBytes off 1 ++ toBytes cause 1 ++ toBytes 0 1 ++ toBytes tag 4 ++ toBytes time 8
    ++ toBytes (gid % 2 ^ 32) 4 ++ toBytes 0 4

/-- Halts a queue (QUEUE_HALT, 15 R411): `halting` is its halting packet, the error record names packet `n`. -/
def haltQueue (q : Nat) (halting : Nat × Bool) (n code off cause tag gid : Nat) (s : State) : State :=
  match queueAt s q with
  | none => s
  | some x =>
    let b := errorBytes n code off cause tag (timeNow s) gid
    let held := x.errOwed.isSome || agentHeld s x.asid x.err 32
    let s := updQueue q (fun x => { x with halted := some halting, errOwed := if held then some b else none }) s
    writeStatus q (if held then s else match queueWrite x x.err b s with
      | .ok s => s
      | .error _ => s)

/-- Makes the writes that a queue owes, once no copy owns their bytes. -/
def settleQueue (q : Nat) (s : State) : State :=
  match queueAt s q with
  | none => s
  | some x =>
    let s := match x.errOwed with
      | none => s
      | some b =>
        if agentHeld s x.asid x.err 32 then s
        else
          let s := updQueue q (fun x => { x with errOwed := none }) s
          (match queueWrite x x.err b s with
           | .ok s => s
           | .error _ => s)
    if x.owed then writeStatus q (updQueue q (fun x => { x with owed := false }) s) else s

/-! ### Mapping to slots (15 R415) -/

/-- May the queue fetch: mapped, running, with a packet to start and nothing that holds it back? -/
def Queue.fetches (q : Queue) : Bool :=
  q.mapped && q.halted.isNone && !q.blocked && decide (q.started < q.widx.toNat)

/-- Are all 512 slots taken by queues that fetch? A queue to be mapped then waits. -/
def slotsBusy (s : State) : Bool :=
  decide (512 ≤ (s.queues.filter (fun q => q.mapped)).length) && s.queues.all (fun q => !q.mapped || q.fetches)

/-- QUEUE_UNMAP: with 512 queues mapped, the one idle or blocked longest leaves its slot. -/
def freeSlot (s : State) : State :=
  if (s.queues.filter (fun q => q.mapped)).length < 512 then s
  else
    let idle := s.queues.filter (fun q => q.mapped && !q.fetches)
    match idle.foldl (fun (a : Option Queue) q => match a with
        | none => some q
        | some x => if q.idleSince < x.idleSince then some q else a) none with
    | some q => updQueue q.id (fun x => { x with mapped := false }) s
    | none => s

/-- A wake of a queue that has no slot sets its wake-pending bit; it is mapped again when its turn comes. -/
def wantMap (q : Nat) (s : State) : State :=
  match queueAt s q with
  | none => s
  | some x =>
    if x.mapped || x.wakePending then s
    else push .queueRemap (.unit q) (updQueue q (fun x => { x with wakePending := true }) s)

/-! ### Fetching (15 R409, R410) -/

/-- The event that fetches, checks and starts a packet of an opcode. -/
def packetEvent : Nat → Option Instr
  | 0x00 => some .nopPacket
  | 0x01 => some .launchPacket
  | 0x02 => some .graphPacket
  | 0x03 => some .copyPacket
  | 0x04 => some .signalPacket
  | 0x05 => some .waitmemPacket
  | 0x06 => some .releasePacket
  | 0x07 => some .acquirePacket
  | 0x08 => some .fencePacket
  | 0x09 => some .timePacket
  | 0x0A => some .invalPacket
  | _ => none

/-- Is a packet event of a queue due? -/
def packetDue (s : State) (q : Nat) : Bool :=
  s.agenda.any (fun e => e.2 == .unit q && (e.1 == .launchAcceptance || (List.range 11).any (fun o => packetEvent o == some e.1)))

/-- Where packet `n` lies in the ring. -/
def Queue.slotVa (q : Queue) (n : Nat) : W64 := q.ring + BitVec.ofNat 64 (64 * (n % 2 ^ q.e))

/-- Makes the event of the queue's next packet due. A fault on the ring, or an unknown opcode, halts the queue. While a copy
owns the packet's bytes, the fetch waits (02 R74): LAUNCH_ACCEPTANCE looks again. -/
def poll (q : Nat) (s : State) : State :=
  match queueAt s q with
  | none => s
  | some x =>
    if !x.fetches || packetDue s q then s
    else if agentHeld s x.asid (x.slotVa x.started) 64 then push .launchAcceptance (.unit q) s
    else match agentBytes s x.asid (x.slotVa x.started) 64 with
      | .error m => haltQueue q (x.started, false) x.started m.code 0 m.cause 0 0 s
      | .ok b =>
        match packetEvent (leBytes b 0 1) with
        | some i => push i (.unit q) s
        | none => haltQueue q (x.started, false) x.started 0x40 0 0 (leBytes b 4 4) 0 s

/-- Removes the completed packets at the head, and counts them. -/
def foldDone (q : Queue) : Queue :=
  let n := (q.pkts.takeWhile (fun p => p.complete)).length
  { q with done := q.done + n, pkts := q.pkts.drop n }

/-- A packet has completed. -/
def completePacket (q n : Nat) (s : State) : State :=
  let s := updQueue q (fun x => foldDone { x with
    blocked := x.blocked && !x.pkts.any (fun p => p.n == n && (p.op == 5 || p.op == 7)),
    pkts := x.pkts.map (fun p => if p.n == n then { p with complete := true } else p), idleSince := s.tick }) s
  let s := if (queueAt s q).any (fun x => !x.mapped && x.halted.isNone && !x.blocked && decide (x.started < x.widx.toNat)) then
      wantMap q s else s
  poll q (writeStatus q s)

/-- A packet starts; performed again after a halt, it had started. -/
def startPacket (q n op : Nat) (b : List Byte) (block : Bool) (s : State) : State :=
  match queueAt s q with
  | none => s
  | some x =>
    if n < x.started then updQueue q (fun x => { x with blocked := x.blocked || block }) s
    else
      writeStatus q (updQueue q (fun x =>
        { x with started := n + 1, blocked := x.blocked || block, idleSince := s.tick,
                 pkts := x.pkts ++ [{ n := n, op := op, bytes := b, complete := false }] }) s)

/-! ### The checks of a packet (15 R411, R412) -/

/-- The fields of a packet from 0x08 on: offset and bytes. -/
def packetFields (op : Nat) : List (Nat × Nat) :=
  if op = 1 || op = 9 then [(0x08, 8)]
  else if op = 2 then [(0x08, 8), (0x10, 2), (0x18, 8), (0x20, 8)]
  else if op = 3 then [(0x08, 8), (0x10, 8), (0x18, 8), (0x20, 1)]
  else if op = 4 then [(0x08, 8), (0x10, 8), (0x18, 1)]
  else if op = 5 then [(0x08, 8), (0x10, 8), (0x18, 8), (0x20, 1)]
  else if op = 6 || op = 7 then [(0x08, 2), (0x0C, 4)]
  else if op = 10 then [(0x08, 8), (0x10, 8)]
  else []

/-- The limits of the fields (15 R409). -/
def packetLimits (op : Nat) (b : List Byte) : List (Bool × Nat) :=
  let f := leBytes b
  let off := fun (o align : Nat) => (f o 8 % align != 0, o)
  if op = 1 then [off 0x08 256]
  else if op = 2 then [off 0x08 64, (f 0x10 2 == 0 || 256 < f 0x10 2, 0x10), off 0x18 256, off 0x20 8]
  else if op = 3 then [(f 0x18 8 == 0 || 2 ^ 40 < f 0x18 8, 0x18), (1 < f 0x20 1, 0x20)]
  else if op = 4 then [off 0x08 8, (1 < f 0x18 1, 0x18)]
  else if op = 5 then [off 0x08 8, (2 < f 0x20 1, 0x20)]
  else if op = 6 || op = 7 then [(f 0x0C 4 == 0 || 2 ^ 31 < f 0x0C 4, 0x0C)]
  else if op = 9 then [off 0x08 8]
  else if op = 10 then [off 0x08 0x10000, (f 0x10 8 == 0 || f 0x10 8 % 0x10000 != 0, 0x10)]
  else []

/-- The offset of the first reserved byte that is not zero, or field outside its limits. -/
def badField (op : Nat) (b : List Byte) : Option Nat :=
  let used := fun (k : Nat) => (4 ≤ k && k < 8) || (packetFields op).any (fun p => decide (p.1 ≤ k) && decide (k < p.1 + p.2))
  let zero := ((List.range 64).filter (fun k => k != 0 && !used k)).map (fun k => (b.getD k 0 != 0, k))
  let bad := (zero ++ packetLimits op b).filter Prod.fst
  bad.foldl (fun a p => match a with
    | none => some p.2
    | some k => some (min k p.2)) none

/-- Does a RELEASE or ACQUIRE name a link that the queue may not use? -/
def badLink (s : State) (q : Nat) (op : Nat) (b : List Byte) : Bool :=
  let n := leBytes b 0x08 2
  if op != 6 && op != 7 then false
  else match lookup n s.dev.links with
    | none => true
    | some l => decide (255 < n) || !l.bound || l.torn.contains q || (if op = 6 then l.rel.toNat != q else l.acq.toNat != q)

/-- The halt that a binding or unbinding of a link asked of a queue has taken place (15 R413). -/
def untear (q n : Nat) (s : State) : State :=
  match lookup n s.dev.links with
  | none => s
  | some l => { s with dev := { s.dev with links := keep n { l with torn := l.torn.filter (· != q) } s.dev.links } }

/-- The address fields of a packet that the capability covers: offset, access size, and permissions needed. -/
def capFields (op : Nat) (b : List Byte) : List (Nat × Nat × Nat) :=
  let f := leBytes b
  if op = 1 then [(0x08, 256, 0x05)]
  else if op = 2 then [(0x08, 64 * f 0x10 2, 0x41), (0x18, 256, 0x45)] ++ (if f 0x20 8 = 0 then [] else [(0x20, 8, 0x02)])
  else if op = 3 then [(0x08, f 0x18 8, 0x09), (0x10, f 0x18 8, 0x0A)]
  else if op = 4 || op = 9 then [(0x08, 8, 0x02)]
  else if op = 5 then [(0x08, 8, 0x01)]
  else if op = 10 then [(0x08, f 0x10 8, 0x20)]
  else []

/-- The first field that the capability refuses (15 R412). -/
def badCap (q : Queue) (op : Nat) (b : List Byte) : Option Nat :=
  let base := q.capBase.toNat
  let has := fun (p : Nat) => q.perm.toNat &&& p == p
  if op = 6 || op = 7 then (if has 0x10 then none else some 0x08)
  else ((capFields op b).find? (fun x =>
    let a := leBytes b x.1 8
    !(decide (base ≤ a) && decide (a + x.2.1 ≤ base + q.capLen) && has x.2.2))).map Prod.fst

/-- The first check that a packet fails: its code and the offset. -/
def packetFault (s : State) (q : Queue) (op : Nat) (b : List Byte) : Option (Nat × Nat) :=
  match badField op b with
  | some o => some (0x41, o)
  | none =>
    if badLink s q.id op b then some (0x43, 0x08)
    else (badCap q op b).map (fun o => (0x42, o))

/-! ### Starting a packet -/

/-- A packet being performed: its queue, number, opcode and bytes, and whether it is performed again. -/
structure Doing where
  q : Queue
  n : Nat
  op : Nat
  b : List Byte
  again : Bool
  deriving DecidableEq, Repr

/-- The tag of a packet. -/
def Doing.tag (d : Doing) : Nat := leBytes d.b 4 4
/-- A field. -/
def Doing.f (d : Doing) (off n : Nat) : Nat := leBytes d.b off n

/-- The queue halts before the packet starts. -/
def failStart (d : Doing) (code off cause : Nat) (s : State) : State :=
  haltQueue d.q.id (d.n, d.again) d.n code off cause d.tag 0 s

/-- A fault that a packet meets after it has started halts the queue; a queue that is halted already halts again at its
restart. -/
def failRun (q n code cause tag : Nat) (s : State) : State :=
  match queueAt s q with
  | none => s
  | some x =>
    if x.halted.isSome then updQueue q (fun x => { x with later := x.later ++ [(n, code, cause)] }) s
    else haltQueue q (n, true) n code 0 cause tag 0 s

/-- Starts a packet, then performs it to its completion or its fault. -/
def perform (d : Doing) (k : State → Except MFault State) (s : State) : State :=
  let s := startPacket d.q.id d.n d.op d.b false s
  match k s with
  | .ok s => completePacket d.q.id d.n s
  | .error m => failRun d.q.id d.n m.code m.cause d.tag s

/-- Bytes that a front-end copy moves as one row. -/
def copyUnit (len : Nat) : Nat := if len % 128 = 0 then 128 else if len % 8 = 0 then 8 else 1

/-- The copy of a COPY packet (02 R80): performed at the homes. -/
def packetCopy (q : Queue) (n : Nat) (b : List Byte) (s : State) : Copy :=
  let len := leBytes b 0x18 8
  let u := copyUnit len
  { id := s.uid, core := 0, blk := 0, wp := 0, asid := q.asid, lanes := 0,
    req := toBytes 0 4 ++ toBytes 0 4 ++ toBytes u 4 ++ toBytes 0 12 ++ toBytes (leBytes b 0x08 8) 8 ++ toBytes (leBytes b 0x10 8) 8
      ++ toBytes 0 24,
    slots := [], cpk := 0, pc := 0, user := false, gid := 0, lin := 0, row := 0, rows := len / u, pos := 0, buf := [],
    places := [], tagged := [], carry := [], idx := [], wrote := [], outs := [], srcLen := u, len := u, span := len, done := false, errs := 0, batch := 0, strict := false,
    stream := bit (leBytes b 0x20 1) 0, suspended := false, skip := false, queue := some (q.id, n), fault := none, losses := 0 }

/-- Must a packet's start wait for a copy: for bytes that it accesses and a copy owes, for an engine range table, or for the
end of a row that an invalidation would cut (02 R74, R78)? -/
def packetWaits (s : State) (q : Queue) (op : Nat) (b : List Byte) : Bool :=
  let at_ := fun (o : Nat) => BitVec.ofNat 64 (leBytes b o 8)
  let held := fun (va : W64) (n : Nat) => agentHeld s q.asid va n
  if op = 1 then recordHeld s q.asid (at_ 0x08)
  else if op = 2 then
    let n := leBytes b 0x10 2
    held (at_ 0x08) (64 * n) || recordHeld s q.asid (at_ 0x18) || (match recordBytes s q.asid false true (at_ 0x08) (64 * n) with
      | .error _ => false
      | .ok t => (List.range n).any (fun k => recordHeld s q.asid (BitVec.ofNat 64 (leBytes t (64 * k) 8))))
  else if op = 3 then
    let die := s.copies.filter (fun c => isGlobal c.dst && !c.done)
    decide (64 ≤ die.length) && rangesFull s (packetCopy q 0 b s)
  else if op = 4 || op = 9 then held (at_ 0x08) 8
  else if op = 10 then rowsOpen s
  else false

/-- Fetches the halting packet's bytes again, or those of the next packet; checks them; and starts the packet with `k`. A
packet of another opcode than the event's becomes that opcode's event. -/
def fetchPacket (op : Nat) (q : Nat) (again : Option Nat) (late : Bool) (k : Doing → State → State) (s : State) : State :=
  match queueAt s q with
  | none => s
  | some x =>
    let n := again.getD x.started
    let later := match packetEvent op with
      | some i => push i (.unit q) s
      | none => s
    if again.isNone && !x.fetches then s
    else if again.isNone && agentHeld s x.asid (x.slotVa n) 64 then later
    else match agentBytes s x.asid (x.slotVa n) 64 with
      | .error m => haltQueue q (n, again.isSome) n m.code 0 m.cause 0 0 s
      | .ok b =>
        let d : Doing := { q := x, n := n, op := op, b := b, again := again.isSome }
        if leBytes b 0 1 != op then poll q s
        else match packetFault s x op b with
          | some (c, o) => failStart d c o 0 (if c = 0x43 then untear q (leBytes b 0x08 2) s else s)
          | none =>
            let full := again.isNone && decide (16 ≤ (x.pkts.filter (fun p => !p.complete)).length)
            let early := late && decide (x.done < n)
            if full || early || (again.isNone && packetWaits s x op b) then later else k d s

/-! ### Packets (15 R410) -/

/-- NOP and FENCE. -/
def doNothing (d : Doing) (s : State) : State := perform d (fun s => .ok s) s

/-- The dies whose dispatchers may hold a record's blocks. -/
def launchDies (s : State) (q : LaunchReq) : List Nat :=
  match checkRecord s q with
  | .error _ => [0]
  | .ok (r, h) => ((placementSet (newGrid s q r h)).map (· / 32)).eraseDups

/-- A launch by the front end on the first die whose dispatcher has room. -/
def frontLaunch (s : State) (q : LaunchReq) : Accepted :=
  (launchDies s q).foldl (fun a d => match a with
    | .full => acceptLaunch s { q with die := d }
    | x => x) .full

/-- A LAUNCH packet's request. -/
def Doing.request (d : Doing) (off : Nat) (root : Bool) (graph : Option Nat) : LaunchReq :=
  { asid := d.q.asid, user := false, va := BitVec.ofNat 64 (d.f off 8), depth := 0, parent := none,
    queue := some (d.q.id, d.n), cls := d.q.cls, root := some root, graph := graph, die := 0 }

/-- LAUNCH: the record is accepted, or waits for a dispatcher entry. -/
def doLaunch (d : Doing) (s : State) : State :=
  match frontLaunch s (d.request 0x08 false none) with
  | .full => push .launchAcceptance (.unit d.q.id) s
  | .bad o => failStart d 0x0E o 0 s
  | .fault m => failStart d m.code 0 m.cause s
  | .ok s _ => poll d.q.id (startPacket d.q.id d.n d.op d.b false s)

/-- A node of a node table (06 R198), or the offset that fails. -/
def readNode (s : State) (d : Doing) (b : List Byte) : Except Accepted Node :=
  let f := leBytes b
  let q := { d.request 0x18 false none with va := BitVec.ofNat 64 (f 0x00 8), root := none }
  let limits := [(!globalAt (f 0x08 8) 128, 0x08), (f 0x14 2 < 8 || 64 < f 0x14 2 || f 0x14 2 % 8 != 0, 0x14), (f 0x16 2 == 0, 0x16)]
    ++ (List.range 40).map (fun k => (b.getD (0x18 + k) 0 != 0, 0x18 + k))
  match firstBad ((f 0x00 8 % 256 != 0, 0x00) :: limits) with
  | some o => .error (.bad o)
  | none =>
    match checkRecord s q with
    | .error e => .error e
    | .ok (r, h) =>
      let x := leBytes r 0x14 2
      match firstBad [(x == 0 || 4096 < x, 0x14), (leBytes r 0x16 2 != 1, 0x16), (leBytes r 0x18 2 != 1, 0x18),
          (leBytes r 0x20 4 < x * f 0x14 2, 0x20)] with
      | some o => .error (.bad o)
      | none => .ok { recVa := q.va, record := r, hdr := h, group := x, ovfVa := BitVec.ofNat 64 (f 0x08 8), ovfCap := f 0x10 4,
                      recBytes := f 0x14 2, timer := f 0x16 2, queue := [], ovf := [], ovfNext := 0 }

/-- Reads the nodes of a table in order. -/
def readNodes (s : State) (d : Doing) : Nat → List Byte → Except Accepted (List Node)
  | 0, _ => .ok []
  | n + 1, b =>
    match readNode s d (b.take 64) with
    | .error e => .error e
    | .ok x => match readNodes s d n (b.drop 64) with
      | .error e => .error e
      | .ok r => .ok (x :: r)

/-- GRAPH: the node table is read once, and the root record is launched into the graph. -/
def doGraph (d : Doing) (s : State) : State :=
  let fail := fun (a : Accepted) => match a with
    | .full => push .launchAcceptance (.unit d.q.id) s
    | .bad o => failStart d 0x0E o 0 s
    | .fault m => failStart d m.code 0 m.cause s
    | .ok s _ => s
  match recordBytes s d.q.asid false true (BitVec.ofNat 64 (d.f 0x08 8)) (64 * d.f 0x10 2) with
  | .error m => fail (.fault m)
  | .ok b =>
    match readNodes s d (d.f 0x10 2) b with
    | .error e => fail e
    | .ok nodes =>
      let id := s.uid
      let t := fresh s
      match frontLaunch t (d.request 0x18 true (some id)) with
      | .ok t gid =>
        let g : Graph := { id := id, root := gid, nodes := nodes, signal := BitVec.ofNat 64 (d.f 0x20 8), queue := (d.q.id, d.n),
                           asid := d.q.asid, cls := d.q.cls }
        poll d.q.id (startPacket d.q.id d.n d.op d.b false { t with graphs := t.graphs ++ [g] })
      | e => fail e

/-- COPY: its start is its issue. -/
def doCopy (d : Doing) (s : State) : State :=
  let bad := [d.f 0x08 8, d.f 0x10 8].find? (fun a => !isGlobal (BitVec.ofNat 64 a))
  match bad with
  | some a =>
    let g := BitVec.ofNat 64 a
    failStart d 7 0 (if isWindow g || isPrivate g then 0x19 else 0x14) s
  | none =>
    let c := packetCopy d.q d.n d.b s
    let s := fresh { s with copies := s.copies ++ [c] }
    poll d.q.id (push .copyGranuleWrite (.unit c.id) (startPacket d.q.id d.n d.op d.b false s))

/-- SIGNAL: a write or add at the home; a release at system scope. -/
def doSignal (d : Doing) (s : State) : State :=
  let va := BitVec.ofNat 64 (d.f 0x08 8)
  let v := d.f 0x10 8
  perform d (fun s => if d.f 0x18 1 = 0 then agentWrite s d.q.asid va v 8
    else match agentRmw s d.q.asid va (· + v) with
      | .error m => .error m
      | .ok (s, _) => .ok s) s

/-- Does a WAITMEM's condition hold (15 R410)? -/
def memHolds (b : List Byte) (w : Nat) : Bool :=
  let f := leBytes b
  let x := w &&& f 0x18 8
  let v := f 0x10 8 &&& f 0x18 8
  if f 0x20 1 = 0 then x == v else if f 0x20 1 = 1 then x != v else v ≤ x

/-- Looks at a WAITMEM's word: it completes, faults, or looks again later. -/
def watchWord (q n asid : Nat) (b : List Byte) (s : State) : State :=
  let va := BitVec.ofNat 64 (leBytes b 0x08 8)
  if agentHeld s asid va 8 then push .waitmemPacket (.unit q) s
  else match agentRead s asid va 8 with
  | .error m => failRun q n m.code m.cause (leBytes b 4 4) s
  | .ok w => if memHolds b w then completePacket q n s else push .waitmemPacket (.unit q) s

/-- Takes an ACQUIRE's tokens once there are enough, or looks again later. -/
def takeTokens (q n : Nat) (b : List Byte) (s : State) : State :=
  let k := leBytes b 0x08 2
  let c := leBytes b 0x0C 4
  match lookup k s.dev.links with
  | none => s
  | some l =>
    if c ≤ l.tokens then
      completePacket q n { s with dev := { s.dev with links := keep k { l with tokens := l.tokens - c } s.dev.links } }
    else push .acquirePacket (.unit q) s

/-- The packet at which a queue is blocked, of an opcode. -/
def blocking (s : State) (q op : Nat) : Option Pkt :=
  (queueAt s q).bind (fun x => if x.blocked then x.pkts.find? (fun p => p.op == op && !p.complete) else none)

/-- Looks again at the packet that blocks a queue with `look`. A queue without a slot is first mapped, once `ready` says
that the packet can complete (15 R415). -/
def lookAgain (q : Nat) (ev : Instr) (ready : Bool) (look : State → State) (s : State) : State :=
  match queueAt s q with
  | none => s
  | some x =>
    if x.mapped then look s
    else if ready then wantMap q s
    else push ev (.unit q) s

/-- RELEASE: tokens are added to the link. -/
def doRelease (d : Doing) (s : State) : State :=
  let k := d.f 0x08 2
  match lookup k s.dev.links with
  | none => s
  | some l =>
    if 2 ^ 32 ≤ l.tokens + d.f 0x0C 4 then failStart d 0x41 0x0C 0 s
    else
      let l' := { l with tokens := l.tokens + d.f 0x0C 4 }
      perform d (fun s => .ok { s with dev := { s.dev with links := keep k l' s.dev.links } }) s

/-- TIME: writes register 0x021. -/
def doTime (d : Doing) (s : State) : State :=
  perform d (fun s => agentWrite s d.q.asid (BitVec.ofNat 64 (d.f 0x08 8)) (timeNow s) 8) s

/-- INVAL: the steps of `tinv` over the range. -/
def doInval (d : Doing) (s : State) : State :=
  let g := BitVec.ofNat 64 (d.f 0x08 8)
  perform d (fun s =>
    if !isGlobal g then .error (prot (if isWindow g || isPrivate g then 0x19 else 0x14) g)
    else .ok (invalidate (effAsid d.q.asid (vaOf g)) (vaOf g) (d.f 0x10 8) s)) s

/-- WAITMEM and ACQUIRE start, and hold later packets back until they complete. -/
def doWaitmem (d : Doing) (s : State) : State :=
  watchWord d.q.id d.n d.q.asid d.b (startPacket d.q.id d.n d.op d.b true s)
def doAcquire (d : Doing) (s : State) : State :=
  takeTokens d.q.id d.n d.b (startPacket d.q.id d.n d.op d.b true s)

/-- The event of a packet of a queue. -/
def packet (op : Nat) (late : Bool) (k : Doing → State → State) (s : State) : State :=
  match s.arg with
  | .unit q => fetchPacket op q none late k (unfocus s)
  | _ => s

def execNopPacket (s : State) : Host.Outcome State Fault Refusal := .next (packet 0 false doNothing s)
def execLaunchPacket (s : State) : Host.Outcome State Fault Refusal := .next (packet 1 false doLaunch s)
def execGraphPacket (s : State) : Host.Outcome State Fault Refusal := .next (packet 2 false doGraph s)
def execCopyPacket (s : State) : Host.Outcome State Fault Refusal := .next (packet 3 false doCopy s)
def execSignalPacket (s : State) : Host.Outcome State Fault Refusal := .next (packet 4 true doSignal s)

/-- WAITMEM_PACKET: a blocked packet looks at its word again. -/
def execWaitmemPacket (s : State) : Host.Outcome State Fault Refusal :=
  .next (match s.arg with
    | .unit q =>
      (match blocking s q 5 with
       | some p =>
         let asid := (queueAt s q).elim 0 Queue.asid
         let va := BitVec.ofNat 64 (leBytes p.bytes 0x08 8)
         let ready := !agentHeld s asid va 8 && (match agentRead s asid va 8 with
           | .ok w => memHolds p.bytes w
           | .error _ => true)
         lookAgain q .waitmemPacket ready (watchWord q p.n asid p.bytes) (unfocus s)
       | none => packet 5 false doWaitmem s)
    | _ => s)

def execReleasePacket (s : State) : Host.Outcome State Fault Refusal := .next (packet 6 true doRelease s)

/-- ACQUIRE_PACKET: a blocked packet looks at its link again. -/
def execAcquirePacket (s : State) : Host.Outcome State Fault Refusal :=
  .next (match s.arg with
    | .unit q =>
      (match blocking s q 7 with
       | some p =>
         let ready := (lookup (leBytes p.bytes 0x08 2) s.dev.links).any (fun l => decide (leBytes p.bytes 0x0C 4 ≤ l.tokens))
         lookAgain q .acquirePacket ready (takeTokens q p.n p.bytes) (unfocus s)
       | none => packet 7 false doAcquire s)
    | _ => s)

def execFencePacket (s : State) : Host.Outcome State Fault Refusal := .next (packet 8 true doNothing s)
def execTimePacket (s : State) : Host.Outcome State Fault Refusal := .next (packet 9 true doTime s)
def execInvalPacket (s : State) : Host.Outcome State Fault Refusal := .next (packet 10 true doInval s)

/-- LAUNCH_ACCEPTANCE: a LAUNCH or GRAPH that waits for a dispatcher entry is tried again (06 R177). -/
def execLaunchAcceptance (s : State) : Host.Outcome State Fault Refusal :=
  .next (match s.arg with
    | .unit q => poll q (unfocus s)
    | _ => s)

/-! ### Wakes (15 R406) -/

/-- WAKE_REGISTER_WRITE. -/
def execWakeRegisterWrite (s : State) : Host.Outcome State Fault Refusal :=
  .next (match s.arg with
    | .value q v =>
      let s := unfocus s
      (match queueAt s q with
       | none => s
       | some x =>
         if v.toNat ≤ x.widx.toNat then s
         else if x.started + 2 ^ x.e < v.toNat then
           (if x.halted.isSome then s else haltQueue q (x.started, false) (x.started + 2 ^ x.e) 0x41 0 0 0 0 s)
         else
           let s := updQueue q (fun x => { x with widx := v }) s
           if x.mapped then poll q (writeStatus q s) else wantMap q s)
    | _ => s)

/-- QUEUE_REMAP: the queue takes a slot, looks at its blocking packet again, and fetches. It keeps its turn while every slot
is taken by a queue that fetches. -/
def execQueueRemap (s : State) : Host.Outcome State Fault Refusal :=
  .next (match s.arg with
    | .unit q =>
      let s := unfocus s
      if slotsBusy s then { s with agenda := (.queueRemap, .unit q) :: s.agenda }
      else
        let s := updQueue q (fun x => { x with mapped := true, wakePending := false }) (freeSlot s)
        let s := if (blocking s q 5).isSome && !packetDue s q then push .waitmemPacket (.unit q) s else s
        let s := if (blocking s q 7).isSome && !packetDue s q then push .acquirePacket (.unit q) s else s
        poll q (writeStatus q s)
    | _ => s)

/-! ### Queue creation (15 R405) -/

/-- Is every page of `n` bytes at an address readable, or writable, by the front end? -/
def pagesOk (s : State) (asid : Nat) (k : Access) (va : W64) (n : Nat) : Bool :=
  isGlobal va && (List.range ((n + 0xFFFF) / 0x10000 + 1)).all (fun j =>
    let a := va + BitVec.ofNat 64 (min (0x10000 * j) (n - 1))
    match translate s asid false k a 1 with
    | .ok p => !isDevLeaf p.leaf.e
    | .error _ => false)

/-- Does a creation record keep its limits? -/
def creationOk (s : State) (b : List Byte) : Bool :=
  let f := leBytes b
  let asid := f 0x0C 2
  b.length == 64 && f 0x00 8 % 64 == 0 && decide (4 ≤ f 0x08 1) && decide (f 0x08 1 ≤ 16) && decide (f 0x09 1 ≤ 3)
    && (queueAt s (f 0x0A 2)).isNone
    && (match asidRoot s asid 0 with
        | .ok _ => true
        | .error _ => false)
    && f 0x0E 2 == 0 && f 0x10 8 % 64 == 0 && f 0x18 8 % 64 == 0 && (b.drop 0x30).all (· == 0)
    && pagesOk s asid .read (BitVec.ofNat 64 (f 0x00 8)) (64 * 2 ^ f 0x08 1)
    && pagesOk s asid .write (BitVec.ofNat 64 (f 0x10 8)) 64 && pagesOk s asid .write (BitVec.ofNat 64 (f 0x18 8)) 64

/-- QUEUE_CREATION: a record that breaks a limit creates no queue. -/
def execQueueCreation (s : State) : Host.Outcome State Fault Refusal :=
  .next (match s.arg with
    | .bytes b =>
      let s := unfocus s
      if !creationOk s b then s
      else
        let f := leBytes b
        let q : Queue :=
          { id := f 0x0A 2, asid := f 0x0C 2, ring := BitVec.ofNat 64 (f 0x00 8), e := f 0x08 1, cls := f 0x09 1,
            status := BitVec.ofNat 64 (f 0x10 8), err := BitVec.ofNat 64 (f 0x18 8), capBase := BitVec.ofNat 64 (f 0x20 8),
            capLen := f 0x28 8 % 2 ^ 48, perm := BitVec.ofNat 8 (f 0x2F 1 % 128), widx := 0, started := 0, done := 0, pkts := [],
            halted := none, later := [], blocked := false, mapped := decide ((s.queues.filter (fun q => q.mapped)).length < 512),
            wakePending := false, idleSince := s.tick, owed := false, errOwed := none }
        { s with queues := s.queues ++ [q], dev := { s.dev with open_ := false } }
    | _ => s)

/-! ### Restarting a halted queue (15 R411) -/

/-- Goes on after a restart: a further packet that has faulted halts the queue again; otherwise fetching continues. -/
def restart (q : Nat) (s : State) : State :=
  match queueAt s q with
  | none => s
  | some x =>
    match x.later with
    | (n, code, cause) :: r =>
      let tag := ((x.pkts.find? (fun p => p.n == n)).map (fun p => leBytes p.bytes 4 4)).getD 0
      haltQueue q (n, true) n code 0 cause tag 0 (updQueue q (fun x => { x with later := r }) s)
    | [] => poll q (writeStatus q s)

/-- Performs a started packet again in full. -/
def performAgain (q n op : Nat) (s : State) : State :=
  let go := fun (k : Doing → State → State) => fetchPacket op q (some n) false k s
  if op = 3 then go doCopy
  else if op = 4 then go doSignal
  else if op = 5 then go doWaitmem
  else if op = 9 then go doTime
  else if op = 10 then go doInval
  else s

/-- Must the fetch of a halting packet, or its performing again, wait for a copy? -/
def refetchWaits (s : State) (q n : Nat) (began : Bool) : Bool :=
  (queueAt s q).any (fun x => agentHeld s x.asid (x.slotVa n) 64 || (began && (match agentBytes s x.asid (x.slotVa n) 64 with
    | .ok b => packetWaits s x (leBytes b 0 1) b
    | .error _ => false)))

/-- REFETCH: the halting packet is fetched, checked and started or performed again. -/
def execRefetch (s : State) : Host.Outcome State Fault Refusal :=
  .next (match s.arg with
    | .unit q =>
      let s := unfocus s
      (match (queueAt s q).bind Queue.halted with
       | none => s
       | some (n, began) =>
         if refetchWaits s q n began then push .refetch (.unit q) s
         else
         let s := updQueue q (fun x => { x with halted := none }) s
         let op := (((queueAt s q).bind (fun x => x.pkts.find? (fun p => p.n == n))).map Pkt.op).getD 0
         restart q (if began then performAgain q n op s else s))
    | _ => s)

/-- SKIP: the halting packet is complete with no effect. -/
def execSkip (s : State) : Host.Outcome State Fault Refusal :=
  .next (match s.arg with
    | .unit q =>
      let s := unfocus s
      (match (queueAt s q).bind Queue.halted with
       | none => s
       | some (n, began) =>
         let s := updQueue q (fun x => { x with halted := none }) s
         let s := if began then s else startPacket q n 0 [] false s
         restart q (completePacket q n s))
    | _ => s)

/-! ### Links (15 R413) -/

/-- Does a started packet of a queue name a link? -/
def namesLink (q : Queue) (n : Nat) : Bool :=
  q.pkts.any (fun p => !p.complete && (p.op == 6 || p.op == 7) && leBytes p.bytes 0x08 2 == n)

/-- A link that has not been bound. -/
def Link.empty : Link := { rel := 0, acq := 0, tokens := 0, bound := false, torn := [] }

/-- Writes link `n`: tokens are 0 at binding. A queue of it with a started packet that names it, bound or unbound meanwhile,
halts at its next one, and so does the other. -/
def bindLink (n : Nat) (rel acq : BitVec 16) (bound : Bool) (s : State) : State :=
  let old := (lookup n s.dev.links).getD Link.empty
  let busy := (old.bound || bound) && s.queues.any (fun q => namesLink q n)
  let torn := if busy then [old.rel.toNat, old.acq.toNat] ++ old.torn else old.torn
  let l : Link := { rel := rel, acq := acq, tokens := 0, bound := bound, torn := torn.eraseDups }
  { s with dev := { s.dev with links := keep n l s.dev.links } }

/-- LINK_BINDING. -/
def execLinkBinding (s : State) : Host.Outcome State Fault Refusal :=
  .next (match s.arg with
    | .link n rel acq bound => if 256 ≤ n then s else bindLink n rel acq bound s
    | _ => s)

/-! ### Completion of copies (02 R75, 03 R106) -/

/-- COPY_COMPLETION: the copy leaves its engine, and what waited for its bytes goes on; its warp counts its bad rows, and its
core takes the next request. A COPY packet completes, or halts its queue. -/
def completeCopy (c : Copy) (s : State) : State :=
  let s := { s with copies := s.copies.filter (fun x => x.id != c.id) }
  let s := (s.grids.filter (fun g => g.gear.isSome)).foldl (fun s g => flushIdle g.gid s) s
  let s := s.queues.foldl (fun s q => settleQueue q.id s) s
  match c.queue with
  | some (q, n) =>
    (match c.fault with
     | none => completePacket q n s
     | some (code, aux) =>
       let tag := (((queueAt s q).bind (fun x => x.pkts.find? (fun p => p.n == n))).map (fun p => leBytes p.bytes 4 4)).getD 0
       failRun q n code (bits aux.toNat 8 8) tag s)
  | none =>
    let s := focusWarp s c.blk c.wp
    let s := { s with w := { s.w with copyErr := BitVec.ofNat 32 (min 0xFFFFFFFF (s.w.copyErr.toNat + c.errs)) } }
    push .copyIssue (.unit c.core) (unfocus s)

def execCopyCompletion (s : State) : Host.Outcome State Fault Refusal :=
  .next (match s.arg with
    | .unit id =>
      let s := unfocus s
      (match s.copies.find? (fun c => c.id == id) with
       | some c => completeCopy c s
       | none => s)
    | _ => s)

/-! ### The end of grids and graphs (05 R169, 15 R410, R414) -/

/-- The completion write of a grid or graph. One that cannot be made gives firmware a record (05 R169). -/
def writeSignal (asid gid : Nat) (va : W64) (v : Nat) (s : State) : State :=
  if va = 0 then s
  else match agentWrite s asid va v 8 with
    | .ok s => s
    | .error m =>
      let r : FwRec := { code := BitVec.ofNat 8 m.code, mask := 0, va := va, pc := 0, aux := m.aux 0 0 1, gid := gid, lin := 0 }
      { s with fw := r :: s.fw }

/-- The value of a grid's completion signal: 1, or the fault code of its escalation or of its coverage map. -/
def signalValue (g : Grid) : Nat :=
  match g.dead, g.mapFault with
  | some c, _ => 2 ^ 63 + c.toNat
  | none, some c => 2 ^ 63 + c.toNat
  | none, none => 1

/-- Is every grid of a graph retired, with no record in a queue or an overflow area? -/
def graphOver (s : State) (g : Graph) : Bool :=
  s.grids.all (fun x => x.graph != some g.id || x.retired)
    && g.nodes.all (fun n => n.queue.isEmpty && n.ovf.isEmpty)

/-- A graph that has ended writes its signal and completes its packet. -/
def endGraph (id : Nat) (s : State) : State :=
  match graphAt s id with
  | none => s
  | some g =>
    if !graphOver s g then s
    else
      let s := { s with graphs := s.graphs.filter (fun x => x.id != id) }
      completePacket g.queue.1 g.queue.2 (writeSignal g.asid g.root g.signal 1 s)

/-- Has a grid ended: every block started and ended, no child left and none of its messages queued? The blocks of an
escalated grid stop instead. -/
def gridOver (s : State) (g : Grid) : Bool :=
  g.children == 0 && (g.dead.isSome
    || (g.next == g.total && g.live == 0 && s.ready.all (fun r => r.gid != g.gid) && s.recvq.all (fun m => m.src != g.gid)))

/-- The blocks of a retired grid go; one whose warp escalated is kept for a debug resume. -/
def clearBlocks (gid : Nat) (s : State) : State :=
  let gone := fun (b : Block) => b.gid == gid && b.warps.all (fun w => w.escalated.isNone)
  let cores := ((s.blocks.filter (fun b => b.gid == gid)).map Block.cores).flatten
  let ids := (s.blocks.filter gone).map Block.uid
  let s := { s with blocks := s.blocks.filter (fun b => !gone b), opc := s.opc.filter (fun o => !ids.contains o.blk),
                    kicks := s.kicks.filter (fun k => !ids.contains k.blk), colls := s.colls.filter (fun c => !ids.contains c.blk),
                    walks := s.walks.filter (fun w => !ids.contains w.blk) }
  coreStops cores s

/-- The packet whose grid has retired completes; the queue of an escalated grid of depth 0 halts first (15 R414). -/
def packetOver (g : Grid) (s : State) : State :=
  let qn := match g.queue with
    | some x => some x
    | none => (g.graph.bind (graphAt s)).map Graph.queue
  let s := match qn, g.dead with
    | some (q, n), some c =>
      if g.depth != 0 then s
      else (match queueAt s q with
        | none => s
        | some x =>
          if x.halted.isSome then s
          else
            let tag := ((x.pkts.find? (fun p => p.n == n)).map (fun p => leBytes p.bytes 4 4)).getD 0
            let cause := ((s.fw.find? (fun r => r.gid == g.gid && r.code == c)).map (fun r => bits r.aux.toNat 8 8)).getD 0
            haltQueue q (x.started, false) n c.toNat 0 cause tag g.gid s)
    | _, _ => s
  match g.graph, g.queue with
  | some id, _ => endGraph id s
  | none, some (q, n) => completePacket q n s
  | none, none => s

/-- Must the completion write of a grid, or of its graph, wait for bytes that a copy owes (02 R74)? -/
def signalHeld (s : State) (g : Grid) : Bool :=
  let held := fun (asid : Nat) (va : W64) => va != 0 && agentHeld s asid va 8
  held g.asid (BitVec.ofNat 64 (g.fld 0xF8 8)) || ((g.graph.bind (graphAt s)).any (fun x => held x.asid x.signal))

/-- GRID_RETIREMENT: a grid that has ended writes its completion signal and leaves; its parent may follow. -/
def retireGrid (gid : Nat) (s : State) : State :=
  match gridAt s gid with
  | none => s
  | some g =>
    if g.retired || !gridOver s g then s
    else if signalHeld s g then push .gridRetirement (.unit gid) s
    else
      let s := if g.dead.isSome then clearBlocks gid s else s
      let s := writeSignal g.asid gid (BitVec.ofNat 64 (g.fld 0xF8 8)) (signalValue g) s
      let kept := s.blocks.any (fun b => b.gid == gid)
      let s := if kept then updGrid s gid (fun g => { g with retired := true })
        else { s with grids := s.grids.filter (fun x => x.gid != gid) }
      let s := packetOver g s
      match g.parent with
      | some p => push .gridRetirement (.unit p) (updGrid s p (fun x => { x with children := x.children - 1 }))
      | none => s

def execGridRetirement (s : State) : Host.Outcome State Fault Refusal :=
  .next (match s.arg with
    | .unit gid => retireGrid gid (activate (unfocus s))
    | _ => s)

/-! ### Management commands -/

/-- DEBUG_RESUME (15 R414): an escalated block runs again, its escalated fragments at TRAPPC. What another kind of fault
left pending is reissued. -/
def resumeWarp (uid wp : Nat) (s : State) : State :=
  let s := focusWarp s uid wp
  match s.w.escalated with
  | none => s
  | some fr =>
    let s := focusLane { s with w := { s.w with escalated := none } } (lowLane fr.lanes)
    if fr.kind = 0 || fr.kind = 3 then { s with f := { s.f with pc := fr.pc, hold := .free, st := .ready } }
    else resumePart fr.part false (~~~s.w.exited) s

def execDebugResume (s : State) : Host.Outcome State Fault Refusal :=
  .next (match s.arg with
    | .unit uid =>
      let s := unfocus s
      (match s.blocks.find? (fun b => b.uid == uid) with
       | none => s
       | some b =>
         if b.st != .escalated || b.warps.all (fun w => w.escalated.isNone) then s
         else
           let s := unfocus (b.warps.foldl (fun s w => resumeWarp uid w.idx s) s)
           push .blockRestore (.unit uid) (updBlock uid (fun b => { b with st := .saved }) s))
    | _ => s)

/-- ACCUMULATOR_QUOTA_DIVISION (02 R46): the quotas sum to at most 1,536 tiles. -/
def execAccumulatorQuotaDivision (s : State) : Host.Outcome State Fault Refusal :=
  .next (match s.arg with
    | .quotas a b c => if a + b + c ≤ 1536 then { s with quotas := (a, b, c) } else s
    | _ => s)

end Sys2Proof.Machine
end

