-- ==== Sys2Proof/Machine/Pipeline.lean ====
section
/-!
DEFINITION. What reaches a warp while it runs: translation walks (01 R26), requests at their home slice (02 R57, R60),
collector operations (02 R64 to R69), replies and results (02 R67, 09 R249, 13 R382), faults (07 R209), registers pulled by
exports and their return (05 R160, R161), and refilled join-stack entries (05 R153).
-/
namespace Sys2Proof.Machine
open Sys2Proof.Machine.Num

/-! ### Translation and homes -/

/-- TRANSLATION_WALK: the leaf that a walk finds is kept (01 R29); a fault is reported by the access that meets it. -/
def execTranslationWalk (s : State) : Host.Outcome State Fault Refusal :=
  .next (match s.arg with
    | .walk asid va =>
      (match walk s asid va with
       | .ok l => tlbKeep s asid va l
       | .error _ => s)
    | _ => s)

/-- The new value of a home operation (02 R60). -/
def homeValue (r : HomeReq) (old : Nat) : Nat :=
  let t := r.ty.toNat
  let v := r.val.toNat % 256 ^ memBytes t
  match r.op with
  | .read => old
  | .write | .exch => v
  | .add => atomAdd t old v
  | .min => minMax t false false old v
  | .max => minMax t false true old v
  | .and => old &&& v
  | .or => old ||| v
  | .xor => old ^^^ v
  | .cas => if old = r.cmp.toNat % 256 ^ memBytes t then v else old
  | .inc => if v ≤ old then 0 else old + 1

/-- How a home request accesses its line. -/
def homeAccess : HomeOp → Access
  | .read => .read
  | .write => .write
  | _ => .rmw

/-- The reply of a home request: its value lands, and its lane's part completes. -/
def homeReply (r : Reply) (ty v : Nat) (s : State) : State :=
  let s := focusWarp s r.blk r.wp
  let lands := laneWords (if wide ty then 2 else 1) r.reg r.lane (loadExt ty v)
  completeLanes (updPend s r.id (fun p => { p with lands := p.lands ++ lands })) r.id (maskOf [r.lane])

/-- A fault at the home: it is delivered to the lane that asked, whose part is reissued; with none, firmware has a
record. -/
def homeFault (r : HomeReq) (m : MFault) (s : State) : State :=
  let aux := laneAux (homeAccess r.op) 0 0 m
  match r.reply with
  | none =>
    { s with fw := { code := BitVec.ofNat 8 m.code, mask := 0, va := m.va, pc := 0, aux := aux, gid := 0, lin := 0 } :: s.fw }
  | some y =>
    let s := focusWarp s y.blk y.wp
    match (s.w.pend.find? (fun p => p.id == y.id)).bind Pend.src with
    | none => s
    | some q =>
      raiseLater r.user { ent := 16, code := BitVec.ofNat 8 m.code, kind := 1, lanes := maskOf [y.lane], va := m.va, aux := aux,
                          pc := q.pc, part := .instr { q with lanes := maskOf [y.lane] } } s

/-- The answer of a home request that has been performed, where one is asked for. -/
def homeAnswer (r : HomeReq) (v : Nat) (s : State) : State :=
  match r.reply with
  | some y => homeReply y r.ty.toNat v s
  | none => s

/-- HOME_SLICE_REQUEST: the home translates the request, waits for bytes that a copy owes (02 R74), and performs it. -/
def atHome (r : HomeReq) (s : State) : State :=
  let n := memBytes r.ty.toNat
  let k := homeAccess r.op
  match agentPlace s r.asid k r.va n false with
  | .error m => homeFault r m s
  | .ok p =>
    if rangeHeld s p.asid r.va then push .homeSliceRequest (.home r) s
    else if isDevLeaf p.leaf.e then
      (match checkWake k r.va n (.dev (p.pa - Config.devBase)) with
       | .error m => homeFault r m s
       | .ok d => if r.op = .read then homeAnswer r (loadAt s d n).2 s else storeAt s d r.val.toNat n)
    else if r.op != .read && headerHit s p then
      homeFault r { code := 0x0A, cause := 0x24, level := 15, pool := 0, va := r.va } s
    else
      let (s, old) := homeRead (keepTlb s (.mem 1 [p])) 1 p
      homeAnswer r old (if r.op = .read then s else homeWrite s 1 p (homeValue r old % 256 ^ n))

def execHomeSliceRequest (s : State) : Host.Outcome State Fault Refusal :=
  .next (match s.arg with
    | .home r => atHome r (unfocus s)
    | _ => s)

/-! ### The collector (02 R64 to R69, 12 R338) -/

/-- MERGE_WINDOW_EXPIRY: the groups that hold an operation's entries leave for their homes. -/
def execMergeWindowExpiry (s : State) : Host.Outcome State Fault Refusal :=
  .next (match s.arg with
    | .unit id => sendGroups (fun c => c.id == id) s
    | _ => s)

/-- The access kind of a collector operation. -/
def Coll.access (c : Coll) : Access := if c.kind = 0 then .read else if c.kind = 1 then .write else .rmw

/-- Where an element leads, or the fault that it reports when it is checked. -/
def elemPlace (s : State) (c : Coll) (e : Elem) : Except MFault Place :=
  if e.bound then .error { code := 0x08, cause := 0, level := 0, pool := 0, va := 0 }
  else match resolve s c.user c.access .home e.va (memBytes c.ty.toNat) e.lane with
    | .error m => .error m
    | .ok p => if c.kind = 0 then .ok p else checkHeader s p e.va

/-- Performs a committed element: what lands in its lane. -/
def commitElem (c : Coll) (e : Elem) (p : Place) (s : State) : State × List Landing :=
  let t := c.ty.toNat
  let n := memBytes t
  let s := keepLeaves s p
  if c.kind = 0 then
    let (s, v) := loadAt s p n
    (s, laneWords (if wide t then 2 else 1) c.d e.lane (loadExt t v))
  else match p with
    | .dev _ => (storeThrough s p e.val.toNat n, [])
    | _ => ((rmwAt s p n (fun old => if c.kind = 1 then e.val.toNat % 256 ^ n else atomAdd t old e.val.toNat)).1, [])

/-- Performs committed elements in lane order. -/
def commitElems (c : Coll) : List (Elem × Place) → State → State × List Landing
  | [], s => (s, [])
  | (e, p) :: r, s =>
    let (s, x) := commitElem c e p s
    let (s, y) := commitElems c r s
    (s, x ++ y)

/-- The replies of committed elements: results are in flight until they land, one reply for each line (02 R67). -/
def replies (c : Coll) (es : List Elem) (lands : List Landing) (s : State) : State :=
  let s := updPend s c.id (fun p => { p with lands := p.lands ++ lands })
  (es.map Elem.line).eraseDups.foldl (fun s la =>
    let m := (es.filter (fun e => e.line == la)).foldl (fun (n : Lanes) e => n ||| e.grp) 0
    push .memoryReply (.lanes c.blk c.wp c.id m) s) s

/-- TRAPAUX of a fault of an element (07 R212, 01 R34). -/
def elemAux (c : Coll) (e : Elem) (m : MFault) : W64 :=
  if m.code = 0x08 then BitVec.ofNat 64 (e.lane * 2 ^ 48 + e.idx.toNat) else laneAux c.access e.lane 0 m

/-- The operation stops at element `e`: the elements `left` are pending, and its fragment receives the fault (02 R69). -/
def stopColl (c : Coll) (left : List Elem) (e : Elem) (m : MFault) (bad : Lanes) (s : State) : State :=
  let s := { s with colls := s.colls.map (fun x => if x.id == c.id then { c with stopped := true, elems := left } else x) }
  raiseLater c.user { ent := 16, code := BitVec.ofNat 8 m.code, kind := partialKind m.code, lanes := bad, va := m.va,
                      aux := elemAux c e m, pc := c.pc, part := .collector c.id } s

/-- An operation whose elements have all been committed retires: its note takes effect (07 R214). -/
def retireColl (c : Coll) (s : State) : State :=
  let keys := noteKeys c.instr c.note.toNat { s with f := { s.f with mask := c.own, mode := c.mode, replay := none } }
  markRead keys { s with colls := s.colls.filter (fun x => x.id != c.id) }

/-- Must an operation wait for an older one of its collector (02 R66, R79, R120): for one of the same lanes, or one whose
writes are scattered to a line of its own? A handler's operation does not wait for one that waits for the handler. -/
def behind (s : State) (c : Coll) : Bool :=
  (s.colls.takeWhile (fun o => o.id != c.id)).any (fun o =>
    let same := o.blk == c.blk && o.wp == c.wp && o.lanes &&& c.lanes != 0
    o.core == c.core && (if o.stopped then same && c.user else same || (o.kind == 1 && c.kind == 1))
      && o.elems.any (fun e => c.elems.any (fun x => x.line == e.line)))

/-- COLLECTOR_COMMIT: every packet has reported; the elements below the lowest faulting one are committed, the rest are
cancelled. -/
def commitColl (c : Coll) (s : State) : State :=
  let rs := c.elems.map (fun e => (e, elemPlace s c e))
  let bad := rs.filterMap (fun x => match x.2 with
    | .error m => some (x.1, m)
    | .ok _ => none)
  let cut := ((bad.filter (fun x => cutsOff x.2.code)).map (fun x => x.1.lane)).headD 32
  let good := rs.filterMap (fun x => match x.2 with
    | .ok p => if x.1.lane < cut then some (x.1, p) else none
    | .error _ => none)
  let left := c.elems.filter (fun e => !good.any (fun x => x.1.lane == e.lane))
  if behind s c || good.any (fun x => fillHeld s x.2 (memBytes c.ty.toNat)) then push .collectorCommit (.unit c.id) s
  else
    let good := if c.kind = 2 then combineElems c.ty.toNat good else good
    let (s, lands) := commitElems c good s
    let s := replies c (good.map Prod.fst) lands s
    match bad with
    | [] => retireColl c s
    | (e, m) :: _ => stopColl c left e m (sameCode (bad.map (fun x => (x.1.lane, x.2)))) s

def execCollectorCommit (s : State) : Host.Outcome State Fault Refusal :=
  .next (match s.arg with
    | .unit id =>
      (match s.colls.find? (fun c => c.id == id) with
       | none => s
       | some c =>
         if c.stopped then s
         else
           let s := focusWarp s c.blk c.wp
           if s.w.launched = 0 then { s with colls := s.colls.filter (fun x => x.id != id) } else commitColl c s)
    | _ => s)

/-! ### Replies and results -/

/-- The parts of an operation of these units complete in the lanes `m`. -/
def partsLand (b w id : Nat) (m : Lanes) (us : List PendUnit) (s : State) : State :=
  let s := focusWarp s b w
  if s.w.pend.any (fun p => p.id == id && us.contains p.unit) then completeLanes s id m else s

/-- MEMORY_REPLY. A fragment at a split clause header may then split (02 R70), when it is next examined. -/
def execMemoryReply (s : State) : Host.Outcome State Fault Refusal :=
  .next (match s.arg with
    | .lanes b w id m => partsLand b w id m [.memory, .collector] s
    | _ => s)

/-- LONG_LATENCY_RESULT: the operation lands whole (09 R249). -/
def execLongLatencyResult (s : State) : Host.Outcome State Fault Refusal :=
  .next (match s.arg with
    | .triple b w id => partsLand b w id 0xFFFFFFFF [.long] s
    | _ => s)

/-- QUARTER_OPERATION_COMPLETION (13 R382). -/
def execQuarterOperationCompletion (s : State) : Host.Outcome State Fault Refusal :=
  .next (match s.arg with
    | .lanes b w id m => partsLand b w id m [.quarter] s
    | _ => s)

/-- FAULT_DELIVERY (07 R209). -/
def execFaultDelivery (s : State) : Host.Outcome State Fault Refusal :=
  .next (match s.arg with
    | .pair b w => deliverQueued (focusWarp s b w)
    | _ => s)

/-! ### Exports (05 R160, R161) -/

/-- REGISTER_PULL: the parent's values of a register reach a narrow warp of an export, for the lanes that it does not hold
yet. The number `r` names both: 256 × narrow warp + register. -/
def pullRegister (x r : Nat) (s : State) : State :=
  let n := r / 256
  let hold := fun (h : List (Nat × W32)) (l : Nat) =>
    holdOld (regKey (r % 256) l) (Cells.get s.w.v (regKey (r % 256) l)) [n] h
  updExport s x (fun e => { e with pulled := addOnce r e.pulled, held := (e.warpLanes n).foldl hold e.held })

def execRegisterPull (s : State) : Host.Outcome State Fault Refusal :=
  .next (match s.arg with
    | .pull b w x r => pullRegister x r (focusWarp s b w)
    | _ => s)

/-- EXPORT_RETURN: a narrow warp whose parts have all reached the rejoin PC pushes its dirty registers back, and its parts
wait at the parent's join; the join counter falls by one. -/
def returnExport (x nw : Nat) (s : State) : State :=
  match s.w.exps.find? (fun e => e.id == x) with
  | none => s
  | some e =>
    let lanes := (e.map.drop (4 * nw)).take 4
    let mine := fun (k : Nat) => lanes.contains (k % 32)
    let s := pushBack s { e with dirty := e.dirty.filter mine, pdirty := e.pdirty.filter mine }
    let home := fun (f : Frag) => if f.exp == some x && f.nw == nw then { f with exp := none, nw := 0 } else f
    let jst := updLevel s.w.jst e.level.toNat (fun j => { j with counter := j.counter - 1 })
    let s := { s with w := { s.w with frags := s.w.frags.map home, jst := jst } }
    if e.nwarps ≤ 1 then { s with w := { s.w with exps := s.w.exps.filter (fun y => y.id != x) } }
    else updExport s x (fun e => { e with
      nwarps := e.nwarps - 1, map := e.map.map (fun l => if lanes.contains l then 32 else l),
      dirty := e.dirty.filter (fun k => !mine k), pdirty := e.pdirty.filter (fun k => !mine k) })

def execExportReturn (s : State) : Host.Outcome State Fault Refusal :=
  .next (match s.arg with
    | .pull b w x nw => returnExport x nw (focusWarp s b w)
    | _ => s)

/-! ### The join stack (05 R153, R154) -/

/-- JOIN_STACK_REFILL: the highest spilled entry is read back, while the core holds fewer than 16. A fault is the
`join`'s. -/
def refillEntry (s : State) : State :=
  let n := spilledEntries s
  let again := push .joinStackRefill (.triple s.blk.uid s.w.idx s.f.ent) s
  if s.f.hold != .refill || n = 0 then s
  else if 16 ≤ heldEntries s then again
  else match resolveGlobal s (isUser s) .read (.plain 1) (spillVa s (n - 1)) 32 with
    | .error m => faultPart .join 1 s.f.mask s.f.mask m.code m.va (laneAux .read 0 0 m) none s
    | .ok q =>
      if fillHeld s q 32 then again
      else
        let (t, v) := loadAt s q 32
        { keepLeaves t q with w := { t.w with jst := updLevel t.w.jst (n - 1) (fun e => e.refilled v) },
                              f := { t.f with hold := .free } }

def execJoinStackRefill (s : State) : Host.Outcome State Fault Refusal :=
  .next (match s.arg with
    | .triple b w e => refillEntry (focus s b w e)
    | _ => s)

end Sys2Proof.Machine
end

