-- ==== Sys2Proof/Machine/Walker.lean ====
section
/-!
DEFINITION. The publication walkers (04 R136 to R145): claiming and scanning objects breadth-first, the flip phase, and the
final store of each lane of a `pub`.
-/
namespace Sys2Proof.Machine

/-! ### Objects in place -/

/-- How a part of a walk ends: done, waiting for bytes that a copy still owes (02 R74), or at a fault. -/
inductive WalkEnd where
  | done
  | held
  | fault (m : MFault)
  deriving DecidableEq, Repr

/-- The header of the object at an address: its word, and where it lies. -/
def objHeader (s : State) (asid : Nat) (user : Bool) (va : W64) : Except MFault (Piece × Nat) :=
  match translate s asid user .read va 8 with
  | .error m => .error m
  | .ok p => .ok (p, headerWord s p)

/-- The granules of an object of `n` granules, from number `k` upward: those on OBJ pages, up to the next HEAD granule. -/
def objGranules (s : State) (asid : Nat) (user : Bool) (va : W64) : Nat → Nat → Except MFault (List Piece)
  | 0, _ => .ok []
  | n + 1, k =>
    match translate s asid user .read (va + BitVec.ofNat 64 (64 * k)) 8 with
    | .error m => .error m
    | .ok p =>
      if k != 0 && granHead (gran s p.pa) then .ok []
      else match objGranules s asid user va n (k + 1) with
        | .error m => .error m
        | .ok r => .ok (if eOBJ p.leaf.e then p :: r else r)

/-- A granule's state becomes `st` where it was the state below: a reclaimed granule stays PLAIN (04 R125). -/
def promote (st : Nat) (s : State) (p : Piece) : State :=
  let g := gran s p.pa
  if granState g + 1 = st then setGran s p.pa (g + 0x100) else s

/-- Every granule of an object goes from the state below `st` to `st`, and the mirror in its header with the first
(04 R125, R126). An object whose header has been reclaimed is none. -/
def setObjState (asid : Nat) (user : Bool) (va : W64) (st : Nat) (s : State) : State × WalkEnd :=
  match objHeader s asid user va with
  | .error m => (s, .fault m)
  | .ok (h, w) =>
    if !granHead (gran s h.pa) then (s, .done)
    else match objGranules s asid user va (bits w 0 32) 0 with
    | .error m => (s, .fault m)
    | .ok ps =>
      if ps.any (fun p => rangeHeld s p.asid p.va) then (s, .held)
      else
        let s := ps.foldl (promote st) s
        (homeWrite s 1 (h.at (h.va + 4) (h.pa + 4) 1) (bits w 34 6 * 4 + granState (gran s h.pa)), .done)

/-- The state of the granule at an address. -/
def stateAt (s : State) (asid : Nat) (user : Bool) (va : W64) : Except MFault Nat :=
  match translate s asid user .read va 8 with
  | .error m => .error m
  | .ok p => .ok (granState (gran s p.pa))

/-- Writes back the dirty bytes of an object's lines in the L1 halves of the owner block's clusters (04 R138). -/
def drainObject (asid va size : Nat) (s : State) : State :=
  writeBackHalf s (fun x => s.blk.clusters.contains (x.half / 2) && x.asid == effAsid asid va
    && decide (va < 128 * x.la + 128) && decide (128 * x.la < va + 64 * size)) false

/-! ### Walks -/

/-- Changes a walk. -/
def putWalk (k : Walk) (s : State) : State := { s with walks := s.walks.map (fun x => if x.id == k.id then k else x) }

/-- Objects that a walk may claim (04 R145). The discovery queue is `Walk.queue`; the overflow area at BASE gives its size
alone, and nothing is written there (log 89). -/
def walkLimit (s : State) (cluster : Nat) : Nat :=
  let size := (Cells.get s.dev.walkcfg cluster).toNat % 16
  if size = 0 then 256 else 256 + 2 ^ (size - 1) * 0x10000 / 8

/-- Is the walker of a walk's cluster free for it? A walk whose flip phase is over has left it (04 R139), and so have those
that a fault or the stop of their block suspends (R143, R144). -/
def walkerFree (s : State) (k : Walk) : Bool :=
  !s.walks.any (fun x => x.cluster == k.cluster && x.id != k.id && x.active && !x.flipped && !x.suspended && !x.parked)

/-- A fault of the walker suspends the walk at its lane (04 R143). ACCESS is 4 for its OBJ faults (R135) and for its final
store. -/
def suspendWalk (k : Walk) (access : Access) (m : MFault) (s : State) : State :=
  let lane := (k.lanes.headD (0, 0, 0)).1
  let code := if isObj m then Access.ref.code else access.code
  raiseLater k.user { ent := 16, code := BitVec.ofNat 8 m.code, kind := 1, lanes := maskOf [lane], va := m.va,
                      aux := m.aux 0 3 code, pc := k.pc, part := .walk k.id } (putWalk { k with suspended := true } s)

/-- Claims an object for a walk: its granules and its header become WALKING, and it joins the queue (04 R137). -/
def claimObj (k : Walk) (asid : Nat) (va : W64) (s : State) : Walk × State × WalkEnd :=
  match setObjState asid k.user va 2 s with
  | (s, .done) => ({ k with queue := k.queue ++ [va] }, s, .done)
  | (s, e) => (k, s, e)

/-- A walk's event, in the warp of its `pub`. While the block does not run, the walk is suspended, and then goes on when a
walker is free for it (04 R144). A walk whose block has ended by escalation is dropped, and the objects that it has claimed
stay WALKING (log 89). -/
def walkEvent (ev : Instr) (act : Walk → State → State) (s : State) : State :=
  match s.arg with
  | .unit id =>
    (match s.walks.find? (fun k => k.id == id) with
     | none => s
     | some k =>
       let s := focusWarp s k.blk k.wp
       if s.w.launched = 0 then { s with walks := s.walks.filter (fun x => x.id != id) }
       else if k.suspended then s
       else if s.blk.st != .running || (k.parked && !walkerFree s k) then push ev (.unit id) s
       else
         let k := { k with parked := false }
         act k (putWalk k s))
  | _ => s

/-- What follows a part of a walk: the event `next`, the same event again while it waits, or the walker's fault. -/
def walkOn (ev : Instr) (next : State → State) (r : Walk × State × WalkEnd) : State :=
  match r with
  | (k, s, .done) => next (putWalk k s)
  | (k, s, .held) => push ev (.unit k.id) (putWalk k s)
  | (k, s, .fault m) => suspendWalk k .read m s

/-- The event with which a walk in progress goes on. -/
def walkStage (k : Walk) : Instr :=
  if k.flipped then .finalStore else if k.pos < k.queue.length then .objectScan else .flipPhase

/-- PUBLICATION_WALK: the walker takes the lane at the front of a `pub`, once it is free, and claims its root. A walk that
was suspended goes on where it stopped. A root that fails the checks of phase 1 only now is a walker fault; its OBJ names the
destination, as that of phase 1 does (log 89). -/
def beginWalk (k : Walk) (s : State) : State :=
  let asid := asidOf s
  if k.active && k.flipped then push .finalStore (.unit k.id) s
  else if !walkerFree s k then push .publicationWalk (.unit k.id) s
  else if k.active then push (walkStage k) (.unit k.id) s
  else match k.lanes with
    | [] => s
    | (_, g, ref) :: _ =>
      if refHeld s asid ref then push .publicationWalk (.unit k.id) s
      else
        let k' := { k with active := true, queue := [], pos := 0, word := 0, flipped := false, waits := [] }
        match targetOf s asid k.user ref g with
        | .error m => suspendWalk k .read m s
        | .ok (.obj 1 _ _) =>
          (match claimObj k' asid ref s with
           | (k', s, .done) => push .objectScan (.unit k'.id) (putWalk k' s)
           | (_, s, .held) => push .publicationWalk (.unit k.id) s
           | (_, s, .fault m) => suspendWalk k .read m s)
        | .ok (.obj 2 _ _) => push .finalStore (.unit k.id) (putWalk { k' with flipped := true, waits := [ref] } s)
        | .ok _ => push .finalStore (.unit k.id) (putWalk { k' with flipped := true } s)

def execPublicationWalk (s : State) : Host.Outcome State Fault Refusal := .next (walkEvent .publicationWalk beginWalk s)

/-- A tagged word of an object under scan, at address `a`, names `ref`. -/
def scanRef (asid : Nat) (a ref : W64) (k : Walk) (s : State) : Walk × State × WalkEnd :=
  if refHeld s asid ref then (k, s, .held)
  else match targetOf s asid k.user ref a with
    | .error m => (k, s, .fault m)
    | .ok (.obj 1 _ _) =>
      if walkLimit s k.cluster ≤ k.queue.length then (k, s, .fault (objFault 0x26 (k.queue.headD 0)))
      else claimObj k asid ref s
    | .ok (.obj 2 _ _) =>
      (if k.queue.contains ref || k.waits.contains ref then k else { k with waits := ref :: k.waits }, s, .done)
    | .ok _ => (k, s, .done)

/-- Scans the words of an object from number `w` on, `n` of them; a walk that stops notes the word at which it does. -/
def scanWords (asid : Nat) (va : W64) : Nat → Nat → Walk → State → Walk × State × WalkEnd
  | 0, _, k, s => (k, s, .done)
  | n + 1, w, k, s =>
    let a := va + BitVec.ofNat 64 (8 * w)
    let at' := { k with word := w }
    match translate s asid k.user .read a 8 with
    | .error m => (at', s, .fault m)
    | .ok p =>
      if rangeHeld s p.asid a then (at', s, .held)
      else
        let (s, v) := homeRead (keepTlb s (.mem 1 [p])) 1 p
        if !(eOBJ p.leaf.e && tagAt s p.pa) then scanWords asid va n (w + 1) k s
        else match scanRef asid a (BitVec.ofNat 64 v) at' s with
          | (k, s, .done) => scanWords asid va n (w + 1) k s
          | r => r

/-- OBJECT_SCAN: the next claimed object's dirty lines are written back, and its tagged words are scanned in ascending
order. -/
def scanObject (k : Walk) (s : State) : State :=
  let asid := asidOf s
  match k.queue[k.pos]? with
  | none => push .flipPhase (.unit k.id) s
  | some va =>
    match objHeader s asid k.user va with
    | .error m => suspendWalk k .read m s
    | .ok (_, h) =>
      let size := bits h 0 32
      let s := drainObject asid (vaOf va) size s
      let from' := max 1 k.word
      match scanWords asid va (8 * size - from') from' k s with
      | (k, s, .done) =>
        let k := { k with pos := k.pos + 1, word := 0 }
        push (walkStage k) (.unit k.id) (putWalk k s)
      | r => walkOn .objectScan id r

def execObjectScan (s : State) : Host.Outcome State Fault Refusal := .next (walkEvent .objectScan scanObject s)

/-- Makes objects PUBLISHED in the order of a list, up to one that must wait or faults. -/
def publishAll (asid : Nat) (user : Bool) : List W64 → State → State × WalkEnd
  | [], s => (s, .done)
  | va :: r, s =>
    match setObjState asid user va 3 s with
    | (s, .done) => publishAll asid user r s
    | x => x

/-- FLIP_PHASE: the queued objects become PUBLISHED in reverse order of discovery (04 R139). -/
def flipWalk (k : Walk) (s : State) : State :=
  let (s, e) := publishAll (asidOf s) k.user k.queue.reverse s
  match e with
  | .done => push .finalStore (.unit k.id) (putWalk { k with flipped := true } s)
  | _ => walkOn .flipPhase id (k, s, e)

def execFlipPhase (s : State) : Host.Outcome State Fault Refusal := .next (walkEvent .flipPhase flipWalk s)

/-- The `pub` goes on with its next lane; after the last its flag B completes. -/
def endLane (k : Walk) (s : State) : State :=
  match k.lanes.drop 1 with
  | [] => complete { s with walks := s.walks.filter (fun x => x.id != k.id) } k.pend
  | r => push .publicationWalk (.unit k.id) (putWalk { k with lanes := r, active := false } s)

/-- Is a waited object not yet PUBLISHED? Or the fault of looking at it. -/
def stillWaited (s : State) (asid : Nat) (user : Bool) : List W64 → Except MFault Bool
  | [] => .ok false
  | va :: r =>
    match stateAt s asid user va with
    | .error m => .error m
    | .ok st => if st = 3 then stillWaited s asid user r else .ok true

/-- Where the final store of a lane is performed: as `strel` at the mode's level (04 R136), the header word of an object
guarded. -/
def finalPlace (k : Walk) (s : State) (g : W64) (l : Nat) : Except MFault Place :=
  match resolve s k.user .ref (.sync (bits k.mode.toNat 8 2)) g 8 l with
  | .error m => .error m
  | .ok p => checkHeader s p g

/-- FINAL_STORE: once every waited object is PUBLISHED, the lane's reference is stored as a release. -/
def storeFinal (k : Walk) (s : State) : State :=
  match k.lanes with
  | [] => s
  | (l, g, ref) :: _ =>
    match stillWaited s (asidOf s) k.user k.waits with
    | .error m => suspendWalk k .read m s
    | .ok true => push .finalStore (.unit k.id) s
    | .ok false =>
      match finalPlace k s g l with
      | .error m => suspendWalk k .ref m s
      | .ok p =>
        if fillHeld s p 8 then push .finalStore (.unit k.id) s
        else endLane k (keepTlb (storeRef ref s p) p)

def execFinalStore (s : State) : Host.Outcome State Fault Refusal := .next (walkEvent .finalStore storeFinal s)

end Sys2Proof.Machine
end

