-- ==== Sys2Proof/Machine/Device.lean ====
section
/-!
DEFINITION. Device registers (01 R18, R19), migration (01 R40, R41), memory regions and remote accesses (01 R43, R44, 03
R116, 16 R426, R427).
-/
namespace Sys2Proof.Machine

/-! ### Migration entries (01 R40, R41) -/

/-- Replaces a migration entry. -/
def putMig (k : Nat) (m : Mig) (s : State) : State := { s with dev := { s.dev with migs := keep k m s.dev.migs } }

/-- Do two frames of `n` and `k` bytes overlap? -/
def overlaps (a n b k : Nat) : Bool := decide (a < b + k) && decide (b < a + n)

/-- Does another live entry name an overlapping old or new frame? -/
def migClash (s : State) (k : Nat) (m : Mig) : Bool :=
  s.dev.migs.any (fun x => x.1 != k && x.2.en &&
    [m.old, m.new].any (fun a => overlaps a m.bytes x.2.old x.2.bytes || overlaps a m.bytes x.2.new x.2.bytes))

/-- EN is written. -/
def setEn (k : Nat) (b : Bool) (s : State) : State := putMig k { migAt s k with en := b } s

/-- GO is written with 1: the copy starts from line 0, unless the write is ignored. -/
def startMig (c e : Nat) (s : State) : State :=
  let k := migKey c e
  let m := migAt s k
  if m.bytes = 0 || !m.en || m.go || migClash s k m then s
  else push .migrationLineCopy (.pair c e) (putMig k { m with go := true, ptr := 0 } s)

/-- DONE is written with 1. -/
def clearDone (k : Nat) (s : State) : State := putMig k { migAt s k with done := false } s

/-- MIGCTL is written as a whole. A started migration runs to DONE with the frames and the size that it started with (log
94). -/
def writeMigctl (c e : Nat) (v : W64) (s : State) : State :=
  let k := migKey c e
  let m := migAt s k
  let s := putMig k { m with size := if m.go then m.size else v.extractLsb' 2 2, en := v.getLsbD 0 } s
  let s := if v.getLsbD 16 then clearDone k s else s
  if v.getLsbD 1 then startMig c e s else s

def execMigctlGo (s : State) : Host.Outcome State Fault Refusal :=
  .next (match s.arg with
    | .pair c e => startMig c e s
    | _ => s)

def execMigctlEn (s : State) : Host.Outcome State Fault Refusal :=
  .next (match s.arg with
    | .entry c e b => setEn (migKey c e) b s
    | _ => s)

def execMigctlDoneClear (s : State) : Host.Outcome State Fault Refusal :=
  .next (match s.arg with
    | .pair c e => clearDone (migKey c e) s
    | _ => s)

/-- Copies line `n` of a page: its data, and the carve-out entries of its two granules. -/
def copyLine (m : Mig) (n : Nat) (s : State) : State :=
  let a := m.old + 128 * n
  let b := m.new + 128 * n
  let s := { s with mem := Cells.store s.mem b (Cells.load s.mem a 128) 128 }
  setGran (setGran s b (gran s a)) (b + 64) (gran s (a + 64))

/-- The poison state of a page's line `n` goes with its copy (01 R41). -/
def copyPoison (m : Mig) (n : Nat) (s : State) : State :=
  let b := m.new / 128 + n
  let rest := s.poison.filter (fun l => l != b)
  { s with poison := if s.poison.contains (m.old / 128 + n) then b :: rest else rest }

/-- MIGRATION_LINE_COPY: the line at PTR is copied; at the page's line count DONE is set and GO cleared. -/
def execMigrationLineCopy (s : State) : Host.Outcome State Fault Refusal :=
  .next (match s.arg with
    | .pair c e =>
      let s := unfocus s
      let k := migKey c e
      let m := migAt s k
      if !m.go then s
      else
        let s := copyPoison m m.ptr (copyLine m m.ptr s)
        if m.bytes ≤ 128 * (m.ptr + 1) then putMig k { m with ptr := m.ptr + 1, go := false, done := true } s
        else push .migrationLineCopy (.pair c e) (putMig k { m with ptr := m.ptr + 1 } s)
    | _ => s)

/-! ### Device registers (01 R18, R19, 02 R65, 04 R145, 15 R417, 16 R422) -/

/-- ASIDBASE, NEARSPLIT and OBJCFG, which take writes until a queue is created. -/
def writeMemCfg (off : Nat) (v : W64) (d : DevRegs) : DevRegs :=
  if !d.open_ then d
  else if off = 0x700000 then { d with asidbase := BitVec.ofNat 64 (bits v.toNat 20 28 * 2 ^ 20) }
  else if off = 0x700008 then (if v.toNat % 128 ≤ 72 then { d with nearsplit := v.toNat % 128 } else d)
  else
    let r := (off - 0x700100) / 16
    { d with objcfg := d.objcfg.modify r (fun w =>
        if off % 16 = 0 then (v &&& 0xFFFFFFFF, w.2) else (w.1, BitVec.ofNat 64 (bits v.toNat 16 32 * 2 ^ 16))) }

/-- COLCFG as it is held: a window above 64 is held as 64. -/
def colcfgOf (v : W64) : W64 :=
  BitVec.ofNat 64 ((List.range 4).foldl (fun n i => n + min 64 (bits v.toNat (8 * i) 8) * 256 ^ i) 0)

/-- WALKCFG as it is held. -/
def walkcfgOf (v : W64) : W64 := BitVec.ofNat 64 (bits v.toNat 16 32 * 2 ^ 16 + min 9 (v.toNat % 16))

/-- A peer-table entry at reset. -/
def Peer.empty (n : Nat) : Peer :=
  { n := n, qpn := 0, port := 0, inbound := false, v := false, asid := 0, inrec := 0, drops := 0 }

/-- An 8-byte write of a peer-table entry: its first or its second word; DROPS is read-only. -/
def Peer.write (p : Peer) (o : Nat) (v : W64) : Peer :=
  if o = 0 then { p with qpn := v.extractLsb' 0 24, port := v.extractLsb' 32 2, v := v.getLsbD 40,
                         inbound := v.getLsbD 41, asid := v.extractLsb' 48 16 }
  else if o = 8 then { p with inrec := v }
  else p

/-- Does a peer's service grid run? -/
def serviceRuns (s : State) (n : Nat) : Bool := s.grids.any (fun g => g.service == some n && g.dead.isNone && !g.retired)

/-- Polziem launches the service grid of an entry that accepts inbound messages (16 R423). -/
def launchService (p : Peer) (s : State) : State :=
  if !p.inbound || p.inrec = 0 || serviceRuns s p.n then s
  else
    let q : LaunchReq :=
      { asid := p.asid.toNat, user := false, va := p.inrec, depth := 0, parent := none, queue := none, cls := 0,
        root := some false, graph := none, die := 0 }
    let again := push .deviceRegisterWrite (.value (0x600008 + 32 * p.n) p.inrec) s
    if recordHeld s q.asid q.va then again
    else match frontLaunch s q with
    | .ok s gid => updGrid s gid (fun g => { g with service := some p.n })
    | .full => again
    | _ => s

/-- A write of the peer table. -/
def writePeer (n o : Nat) (v : W64) (s : State) : State :=
  if n = 0 then s
  else
    let p := ((peerAt s n).getD (Peer.empty n)).write o v
    launchService p { s with dev := { s.dev with peers := p :: s.dev.peers.filter (fun x => x.n != n) } }

/-- A write of a migration register. -/
def writeMig (off : Nat) (v : W64) (s : State) : State :=
  let c := (off - 0x900000) / 0x200
  let e := off % 0x200 / 32
  let k := migKey c e
  let base := bits v.toNat 16 32 * 2 ^ 16
  if off % 32 < 16 && (migAt s k).go then s
  else if off % 32 = 0 then putMig k { migAt s k with old := base } s
  else if off % 32 = 8 then putMig k { migAt s k with new := base } s
  else if off % 32 = 16 then writeMigctl c e v s
  else s

/-- A write of a word of the link table (15 R413): the queues, or the bound bit. -/
def writeLink (n o : Nat) (v : W64) (s : State) : State :=
  let l := (lookup n s.dev.links).getD Link.empty
  if o = 0 then bindLink n (v.extractLsb' 0 16) (v.extractLsb' 16 16) l.bound s
  else bindLink n l.rel l.acq (v.getLsbD 0) s

/-- An 8-byte write at an offset of the device-register region. An offset that 01 R18 does not list ignores the write. -/
def writeDevice (off : Nat) (v : W64) (s : State) : State :=
  if off % 8 != 0 then s
  else if off < 0x400000 then storeAt s (.dev off) v.toNat 8
  else if off < 0x401000 then writeLink ((off - 0x400000) / 16) (off % 16) v s
  else if off = 0x500000 then
    { s with dev := { s.dev with rampLimit := bits v.toNat 32 16, rampStag := bits v.toNat 24 8,
                                 rampSlope := max 1 (bits v.toNat 16 8) } }
  else if 0x600000 ≤ off && off < 0x608000 then writePeer ((off - 0x600000) / 32) (off % 32) v s
  else if off = 0x700000 || off = 0x700008 || (0x700100 ≤ off && off < 0x700160) then
    { s with dev := writeMemCfg off v s.dev }
  else if 0x800000 ≤ off && off < 0x800800 then
    { s with dev := { s.dev with colcfg := Cells.set s.dev.colcfg ((off - 0x800000) / 8) (colcfgOf v ^^^ colcfgReset) } }
  else if 0x900000 ≤ off && off < 0x905000 then writeMig off v s
  else if 0xA00000 ≤ off && off < 0xA00400 then
    { s with dev := { s.dev with walkcfg := Cells.set s.dev.walkcfg ((off - 0xA00000) / 8) (walkcfgOf v) } }
  else s

def execDeviceRegisterWrite (s : State) : Host.Outcome State Fault Refusal :=
  .next (match s.arg with
    | .value off v => writeDevice off v (unfocus s)
    | _ => s)

/-! ### Regions (01 R43, R44) -/

/-- What comes of a page at registration: backed, waiting for a refill of its pool, waiting for bytes that a copy owes, or
refused. -/
inductive Backed where
  | ok (s : State)
  | wait (key : Nat)
  | held
  | bad
  deriving DecidableEq, Repr

/-- Backs a prepared entry from its pool. -/
def backPage (s : State) (asid : Nat) (g : W64) (n : Nat) : Backed :=
  if agentHeld s 0 (descVa s.poolTable n) 64 then .held
  else match walkTable s asid g true, poolDesc s true s.poolTable n with
  | .ok (.inl t), .ok d =>
    let (at', two) := pmapEntry s t (vaOf g)
    let ty := if two then 2 else 1
    let e := physRead s at' 8
    if eTYPE e != ty || bits d.attrs 12 2 != ty then .bad
    else if d.count = 0 then .wait (poolKey s.poolTable n)
    else if agentHeld s 0 (d.slot (d.count - 1)) 4 then .held
    else match popFrame true d s with
      | .error _ => .bad
      | .ok (t, frame) =>
        if two && frame % 32 != 0 then .bad else .ok (physWrite t at' (pmapLeaf e d.attrs frame) 8)
  | _, _ => .bad

/-- Checks the pages of a region in order, `k` of them from an address on. -/
def backPages (asid : Nat) (va : W64) : Nat → State → Backed
  | 0, s => .ok s
  | k + 1, s =>
    match backPages asid va k s with
    | .ok s =>
      let g := va + BitVec.ofNat 64 (0x10000 * k)
      (match walk s asid g true with
       | .ok _ => .ok s
       | .error m => if m.cause = 0x03 then backPage s asid g m.pool else .bad)
    | x => x

/-- REGION_REGISTRATION: every page must be valid; a pool with no frame is refilled first. -/
def execRegionRegistration (s : State) : Host.Outcome State Fault Refusal :=
  .next (match s.arg with
    | .region r =>
      let s := unfocus s
      let first := r.base &&& ~~~0xFFFF
      let pages := (r.base.toNat % 0x10000 + r.length + 0xFFFF) / 0x10000
      let last := r.base + BitVec.ofNat 64 (r.length - 1)
      if r.length = 0 || 2 ^ 55 < r.length || !isGlobal r.base || !isGlobal last || (vaOf last < vaOf r.base)
          || (4096 ≤ s.regions.length && s.regions.all (fun x => x.key != r.key)) then s
      else match backPages r.asid first pages s with
        | .bad => s
        | .held => push .regionRegistration (.region r) s
        | .wait n => push .regionRegistration (.region r) (askRefill n s)
        | .ok s =>
          let x : Region := { key := r.key, asid := r.asid, base := r.base, length := r.length, perm := r.perm }
          { s with regions := x :: s.regions.filter (fun y => y.key != r.key) }
    | _ => s)

/-! ### Remote accesses -/

/-- The region of a remote access of `n` bytes, or the fault: `p` is the region's permission bit. -/
def regionFor (s : State) (r : Remote) (k : Access) (p n : Nat) : Except MFault Region :=
  match s.regions.find? (fun x => x.key == r.key) with
  | none => .error (prot 0x14 r.va)
  | some g =>
    if r.va.toNat < g.base.toNat || g.base.toNat + g.length < r.va.toNat + n then .error (prot 0x14 r.va)
    else if !g.perm.getLsbD p then .error (prot (if k == .read then 0x10 else 0x11) r.va)
    else .ok g

/-- The pieces of an access, line by line, each translated under the region's ASID. -/
def remotePieces (s : State) (asid : Nat) (k : Access) : Nat → W64 → Nat → Except MFault (List Piece)
  | 0, _, _ => .ok []
  | fuel + 1, va, n =>
    if n = 0 then .ok []
    else
      let m := min n (128 - va.toNat % 128)
      match translate s asid false k va m 1 true with
      | .error e => .error e
      | .ok p => match remotePieces s asid k fuel (va + BitVec.ofNat 64 m) (n - m) with
        | .error e => .error e
        | .ok r => .ok (p :: r)

/-- The access leaves the head of its queue pair. -/
def remoteDone (qp : Nat) (s : State) : State := { s with remoteLost := s.remoteLost.filter (· != qp) }

/-- It is answered with a NAK; an access error gives firmware a record that names the region, the address and the cause. -/
def remoteNak (r : Remote) (k : Access) (m : MFault) (s : State) : State :=
  let x : FwRec := { code := BitVec.ofNat 8 m.code, mask := 0, va := m.va, pc := 0, aux := m.aux 0 0 k.code, gid := 0, lin := r.key }
  remoteDone r.qp { s with answers := .nak r.qp :: s.answers, fw := if m.code = 0x12 then s.fw else x :: s.fw }

/-- The event goes back to the head of the agenda, before later accesses of its queue pair. -/
def remoteAgain (i : Instr) (a : EvArg) (s : State) : State := { s with agenda := (i, a) :: s.agenda }

/-- An access that the fabric has lost is performed once more by the hub (16 R425). -/
def remoteRetry (i : Instr) (a : EvArg) (r : Remote) (k : Access) (m : MFault) (s : State) : State :=
  let s := lossCounted m.code m.cause s
  if m.cause = 0x40 && !s.remoteLost.contains r.qp then
    remoteAgain i a { s with remoteLost := r.qp :: s.remoteLost }
  else remoteNak r k m s

/-- Performs a remote access of `n` bytes at the homes. One that is in a port's error state is not performed, one that a
copy still owns bytes of waits, and one to a wake page is discarded but for an 8-byte write at a register's start. -/
def remote (i : Instr) (r : Remote) (k : Access) (p n v : Nat) (act : List Piece → State → State) (s : State) : State :=
  let a := s.arg
  let s := unfocus s
  if s.qpErrors.contains r.port then s
  else match regionFor s r k p n with
    | .error m => remoteNak r k m s
    | .ok g => match remotePieces s g.asid k (n / 128 + 2) r.va n with
      | .error m => if m.code = 0x12 then remoteRetry i a r k m s else remoteNak r k m s
      | .ok ps =>
        let dev := ps.filter (fun q => isDevLeaf q.leaf.e)
        if !dev.isEmpty then
          (match dev, k with
           | [q], .write =>
             if n = 8 && (q.pa - Config.devBase) % 64 = 0 then
               remoteDone r.qp (storeAt { s with answers := .ack r.qp :: s.answers } (.dev (q.pa - Config.devBase)) v 8)
             else remoteDone r.qp s
           | _, _ => remoteDone r.qp s)
        else if ps.any (fun q => rangeHeld s q.asid q.va) then remoteAgain i a s
        else if k == .rmw && r.va.toNat % 8 != 0 then remoteNak r k (prot 0x11 r.va) s
        else if k != .read && ps.any (headerHit s) then
          remoteNak r k { code := 0x0A, cause := 0x24, level := 15, pool := 0, va := r.va } s
        else remoteDone r.qp (act ps s)

/-- Writes bytes over pieces at their homes, lowest first. -/
def writePieces : List Piece → List Byte → State → State
  | [], _, s => s
  | q :: r, b, s => writePieces r (b.drop q.n) (homeWrite s 1 q (leBytes b 0 q.n))

/-- RDMA_WRITE. -/
def execRdmaWrite (s : State) : Host.Outcome State Fault Refusal :=
  .next (match s.arg with
    | .remoteBytes r b =>
      remote .rdmaWrite r .write 1 b.length (leBytes b 0 8) (fun ps s =>
        { writePieces ps b s with answers := .ack r.qp :: s.answers }) s
    | _ => s)

/-- RDMA_READ. -/
def execRdmaRead (s : State) : Host.Outcome State Fault Refusal :=
  .next (match s.arg with
    | .remoteLen r n =>
      remote .rdmaRead r .read 0 n 0 (fun ps s =>
        let (s, b) := readPieces s ps
        { s with answers := .data r.qp b :: s.answers }) s
    | _ => s)

/-- An 8-byte atomic at the home ALU: the answer is the value that it found. -/
def remoteAtomic (i : Instr) (r : Remote) (f : Nat → Nat) (s : State) : State :=
  remote i r .rmw 2 8 0 (fun ps s =>
    let (s, old) := readPieces s ps
    { writePieces ps (toBytes (f (leBytes old 0 8) % 2 ^ 64) 8) s with answers := .data r.qp old :: s.answers }) s

/-- FETCH_AND_ADD, as an n64 add (02 R60). -/
def execFetchAndAdd (s : State) : Host.Outcome State Fault Refusal :=
  .next (match s.arg with
    | .remoteAdd r v => remoteAtomic .fetchAndAdd r (fun x => x + v.toNat) s
    | _ => s)

/-- COMPARE_AND_SWAP, as an n64 acas (02 R60). -/
def execCompareAndSwap (s : State) : Host.Outcome State Fault Refusal :=
  .next (match s.arg with
    | .remoteCas r c v => remoteAtomic .compareAndSwap r (fun x => if x = c.toNat then v.toNat else x) s
    | _ => s)

end Sys2Proof.Machine
end

