-- ==== Sys2Proof/Machine/Fabric.lean ====
section
/-!
DEFINITION. Live rerouting and loss notices (16 R424, R425), and what befalls the Ethernet ports (16 R426).
-/
namespace Sys2Proof.Machine

/-! ### DRAIN (16 R424) -/

/-- DRAIN: the link between two dies is dead. `lost` of the requests queued for it are lost, as their sources meet them
(`fabricFault`); a die that has lost every link keeps no route. -/
def execDrain (s : State) : Host.Outcome State Fault Refusal :=
  .next (match s.arg with
    | .outage a b lost dead =>
      { s with outage := if lost = 0 then none else some (a, b, lost), cutoff := if dead then addOnce a s.cutoff else s.cutoff }
    | _ => s)

/-! ### LOSS_NOTICE (16 R425) -/

/-- FABRIC with a cause at an address. -/
def fabric (cause : Nat) (va : W64) : MFault := { code := 0x12, cause := cause, level := 15, pool := 0, va := va }

/-- The address that lane `l` of a load names. -/
def loadAddr (i : Instr) (l : Nat) (s : State) : Option W64 :=
  match i with
  | .ld _ a b | .ldq _ a b | .ldacq _ a b | .ldref _ a b => some (genAddr s a b l)
  | .ldi _ a imm => some (immAddr s a imm l)
  | .gthh _ a _ => some (src64 s a.toNat l)
  | .sLd _ sa imm | .sLd32 _ sa imm | .sLdacq _ sa imm => some (sAddr s sa imm)
  | _ => none

/-- The global address behind a generic one, after the decode of a private address. -/
def decodedVa (s : State) (g : W64) (l : Nat) : W64 :=
  match resolve s (isUser s) .read (.plain 1) g 1 l with
  | .ok (.mem _ (p :: _)) => p.va
  | _ => g

/-- Does a load commit partially, so that a fault names its lowest lane as ELEM (12 R331)? -/
def elemLoad (i : Instr) : Bool :=
  match i with
  | .ldq _ _ _ => true
  | _ => false

/-- A read in flight is lost: reissued once; the second time its lanes receive FABRIC, replay in place. The part keeps its
place in the lanes' order: what must follow it waits for its reissue. -/
def loseRead (p : Pend) (r : Replay) (s : State) : State :=
  if p.losses = 0 then updPend s p.id (fun q => { q with losses := 1 })
  else
    let lanes := p.lanes &&& ~~~s.w.exited
    let l := lowLane lanes
    let m := fabric 0x41 (decodedVa s ((loadAddr r.i l s).getD 0) l)
    let keys := p.lands.filterMap (fun x => match x with
      | .lane k _ => some k
      | _ => none)
    raiseLater (!p.sup) { ent := 16, code := 0x12, kind := 1, lanes := lanes, va := m.va,
                          aux := m.aux (if elemLoad r.i then l else 0) 0 0, pc := r.pc,
                          part := .instr { r with lanes := p.lanes } }
      (updPend s p.id (fun q => { q with unit := .other, lands := [], owes := keys, marks := [], losses := 0 }))

/-- An element of a collector operation is lost: a gather's is reissued once. -/
def loseElement (c : Coll) (s : State) : State :=
  let s := focusWarp s c.blk c.wp
  match c.elems with
  | [] => s
  | e :: _ =>
    if c.stopped || s.w.launched = 0 || !c.elems.all Elem.sent then s
    else if c.kind = 0 && c.losses = 0 then
      { s with colls := s.colls.map (fun x => if x.id == c.id then { x with losses := 1 } else x) }
    else stopColl { c with losses := 0 } c.elems e (fabric (if c.kind = 0 then 0x41 else 0x40) e.va) e.grp s

/-- The row that a copy is moving is lost before any of its bytes has been written (12 R344): FABRIC at the row. -/
def loseRow (c : Copy) (s : State) : State :=
  if c.done || c.suspended || c.skip || c.rows ≤ c.row || c.pos != 0 then s
  else
    let s := if c.queue.isSome then s else focusWarp s c.blk c.wp
    let m := fabric 0x40 (rowDst c)
    stopCopy { c with losses := c.losses + 1 } 0x12 m.va (laneAux .write (c.row % 2 ^ 16) 2 m) s

/-- An access of a front-end packet is lost: the read of the WAITMEM that blocks the queue, or the fetch of its next packet.
The queue halts with code 0x12. -/
def losePacket (q : Nat) (s : State) : State :=
  match queueAt s q with
  | none => s
  | some x =>
    match blocking s q 5 with
    | some p => failRun q p.n 0x12 0x40 (leBytes p.bytes 4 4) s
    | none => if x.fetches then haltQueue q (x.started, false) x.started 0x12 0 0x40 0 0 s else s

/-- The oldest remote access of a queue pair is lost: the hub performs it again once. -/
def loseRemote (qp : Nat) (s : State) : State :=
  let mine := fun (e : Instr × EvArg) => match e.2 with
    | .remoteBytes r _ | .remoteLen r _ | .remoteAdd r _ | .remoteCas r _ _ => r.qp == qp
    | _ => false
  if !s.agenda.any mine then s
  else if !s.remoteLost.contains qp then { s with remoteLost := qp :: s.remoteLost }
  else
    let rest := s.agenda.takeWhile (fun e => !mine e) ++ (s.agenda.dropWhile (fun e => !mine e)).drop 1
    remoteDone qp { s with agenda := rest, answers := .nak qp :: s.answers }

/-- The oldest message on its way to a cluster is lost: resent once; then its lanes receive FABRIC, and it is gone. -/
def loseMessage (cluster : Nat) (s : State) : State :=
  match s.recvq.find? (fun m => m.cluster == cluster) with
  | none => s
  | some m =>
    if !m.resent then
      { s with recvq := { m with resent := true } :: dropMsg (fun x => x.cluster == cluster) s.recvq }
    else
      let s := { s with recvq := dropMsg (fun x => x.cluster == cluster) s.recvq }
      match m.pend, m.back with
      | some (b, w, id), some r =>
        let s := focusWarp s b w
        if s.w.launched = 0 then s
        else
          let user := (s.w.pend.find? (fun p => p.id == id)).all (fun p => !p.sup)
          raiseLater user { ent := 16, code := 0x12, kind := 1, lanes := r.lanes, va := 0, aux := (fabric 0x40 0).aux 0 0 1,
                            pc := r.pc, part := .instr r } s
      | _, _ => s

def execLossNotice (s : State) : Host.Outcome State Fault Refusal :=
  .next (match s.arg with
    | .loss (.access b w id) =>
      let s := focusWarp s b w
      (match s.w.pend.find? (fun p => p.id == id && p.unit == .memory) with
       | none => s
       | some p => match p.src with
         | some r => if (loadAddr r.i 0 s).isSome then loseRead p r s else s
         | none => s)
    | .loss (.element id) =>
      (match s.colls.find? (fun c => c.id == id) with
       | some c => loseElement c s
       | none => s)
    | .loss (.copyRow id) =>
      let s := unfocus s
      (match s.copies.find? (fun c => c.id == id) with
       | some c => loseRow c s
       | none => s)
    | .loss (.packet q) => losePacket q (unfocus s)
    | .loss (.remote qp) => loseRemote qp s
    | .loss (.message c) => loseMessage c (unfocus s)
    | _ => s)

/-! ### Ports (16 R426) -/

/-- PORT_DOWN: the queue pairs of the port enter the error state. -/
def execPortDown (s : State) : Host.Outcome State Fault Refusal :=
  .next (match s.arg with
    | .unit p => { s with qpErrors := addOnce p s.qpErrors }
    | _ => s)

/-- PRIORITY_FLOW_CONTROL: a pause of a priority of a port, or its end, holds the traffic class that Polziem maps to it. -/
def execPriorityFlowControl (s : State) : Host.Outcome State Fault Refusal :=
  .next (match s.arg with
    | .entry port prio b =>
      let rest := s.paused.filter (fun x => x != (port, prio))
      { s with paused := if b then (port, prio) :: rest else rest }
    | _ => s)

/-- ECN_MARKING: the rate of a queue pair is reduced; a rate has no effect but on time. -/
def execEcnMarking (s : State) : Host.Outcome State Fault Refusal :=
  .next (match s.arg with
    | .unit qp => { s with ecn := addOnce qp s.ecn }
    | _ => s)

end Sys2Proof.Machine
end

