-- ==== Sys2Proof/Machine/Lanes.lean ====
section
/-!
DEFINITION. The lane-crossing instructions, V3 page 1 ops 0x00 to 0x0D (11 R322 to R326). All are flag A.
-/
namespace Sys2Proof.Machine
open Sys2Proof.Machine.Num

/-- The first lane of a lane's partition group (05 R165). -/
def groupBase (s : State) (l : Nat) : Nat := l / s.w.part * s.w.part

/-- The active lanes of a lane's group, ascending. -/
def groupAct (s : State) (l : Nat) : List Nat :=
  (lanesOf (actSet s)).filter (fun j => groupBase s j == groupBase s l)

/-- The value of a source lane: 0 outside the group and for a lane that is not active (11 R322). -/
def sourceLane (s : State) (n : Nat) (a : BitVec 8) (l j : Nat) : Nat :=
  if (groupAct s l).contains j then srcN s n a.toNat j else 0

/-- A shuffle (11 R323): `src` gives the source lane for lane l, its group's first lane and b; none outside the group. -/
def shuffle (i : Instr) (d a b : BitVec 8) (src : Nat → Nat → Nat → Option Nat) (s : State) : State :=
  let n := opWidth s
  perLaneLong i (wset s) n d (fun l =>
    match src l (groupBase s l) (src32 s b.toNat l).toNat with
    | some j => wordV (modeType s) (fun x _ => x) (sourceLane s n a l j) 0
    | none => 0) s

def execShfl (d a b : BitVec 8) (s : State) :=
  issue (.shfl d a b) (shuffle (.shfl d a b) d a b (fun _ base k => some (base + k))) s
def execShup (d a b : BitVec 8) (s : State) :=
  issue (.shup d a b) (shuffle (.shup d a b) d a b (fun l _ k => if k ≤ l then some (l - k) else none)) s
def execShdn (d a b : BitVec 8) (s : State) :=
  issue (.shdn d a b) (shuffle (.shdn d a b) d a b (fun l _ k => some (l + k))) s
def execShxr (d a b : BitVec 8) (s : State) :=
  issue (.shxr d a b) (shuffle (.shxr d a b) d a b (fun l _ k => some (l ^^^ k))) s

/-- A vote (11 R324). -/
def vote (i : Instr) (p : BitVec 3) (f : Nat → Bool) (s : State) : State :=
  let m := wset s
  retire i (startLong s none m ((lanesOf m).map (fun l => .pred p.toNat l (f l))))

def execVall (p q : BitVec 3) (s : State) :=
  issue (.vall p q) (fun s => vote (.vall p q) p (fun l => (groupAct s l).all (predBit s q.toNat)) s) s
def execVany (p q : BitVec 3) (s : State) :=
  issue (.vany p q) (fun s => vote (.vany p q) p (fun l => (groupAct s l).any (predBit s q.toNat)) s) s

/-- `blt` (11 R324). -/
def execBlt (d : BitVec 8) (q : BitVec 3) (s : State) :=
  issue (.blt d q) (fun s => perLaneLong (.blt d q) (wset s) 1 d (fun l =>
    (maskOf ((groupAct s l).filter (predBit s q.toNat))).toNat) s) s

/-- The lanes of the write set whose group has an active lane. -/
def livelyLanes (s : State) : Lanes := mkLanes (fun l => (wset s).getLsbD l && !(groupAct s l).isEmpty)

/-- The sum of values in order (11 R325): floats one rounding at each step, integers exact and then wrapped or clamped
once; an empty sum is 0. -/
def sumV (t : Nat) (m : Md) (vs : List Nat) : Nat :=
  let w := width t
  let el := fun i v => v / 2 ^ (w * i) % 2 ^ w
  let sum := fun i => match fmtOf t with
    | some f =>
      (match vs with
       | [] => 0
       | v :: r => r.foldl (fun x y => f.round m (add m.rnd (f.read m.ftz x) (f.read m.ftz (el i y))))
           (f.round m (f.read m.ftz (el i v))))
    | none => ofInt (signed t) m.sat w (vs.foldl (fun z v => z + toInt (signed t) w (el i v)) 0)
  if 12 ≤ t then pack w ((List.range (elems t)).map sum) else extend t (sum 0)

/-- The smallest or largest of values in order. -/
def extremeV (t : Nat) (m : Md) (larger : Bool) : List Nat → Nat
  | [] => 0
  | v :: r => r.foldl (minMax t m.ftz larger) (minMax t m.ftz larger v v)

/-- A reduction over the group's active lanes. -/
def reduce (i : Instr) (d a : BitVec 8) (f : Nat → Md → List Nat → Nat) (s : State) : State :=
  let n := opWidth s
  perLaneLong i (livelyLanes s) n d (fun l =>
    f (modeType s) (md s) ((groupAct s l).map (srcN s n a.toNat))) s

def execRadd (d a : BitVec 8) (s : State) := issue (.radd d a) (reduce (.radd d a) d a sumV) s
def execRmin (d a : BitVec 8) (s : State) :=
  issue (.rmin d a) (reduce (.rmin d a) d a (fun t m => extremeV t m false)) s
def execRmax (d a : BitVec 8) (s : State) :=
  issue (.rmax d a) (reduce (.rmax d a) d a (fun t m => extremeV t m true)) s

/-- `psum` (11 R325): the active lanes up to l, or before it. -/
def execPsum (d a : BitVec 8) (ex : BitVec 1) (s : State) :=
  issue (.psum d a ex) (fun s =>
    let n := opWidth s
    perLaneLong (.psum d a ex) (livelyLanes s) n d (fun l =>
      sumV (modeType s) (md s)
        (((groupAct s l).filter (fun j => j < l || (j == l && ex == 0))).map (srcN s n a.toNat))) s) s

/-- The active lanes of the group that hold lane l's bits at the operand width (11 R326). Lane l's own value is its
register's, also for a lane that NOMASK alone writes (log 21). -/
def matching (s : State) (n : Nat) (a : BitVec 8) (l : Nat) : List Nat :=
  let bits := fun j => wordV (modeType s) (fun x _ => x) (srcN s n a.toNat j) 0
  (groupAct s l).filter (fun j => bits j == bits l)

def execMtch (d a : BitVec 8) (s : State) :=
  issue (.mtch d a) (fun s => perLaneLong (.mtch d a) (wset s) 1 d (fun l =>
    (maskOf (matching s (opWidth s) a l)).toNat) s) s
def execConf (d a : BitVec 8) (s : State) :=
  issue (.conf d a) (fun s => perLaneLong (.conf d a) (wset s) 1 d (fun l =>
    (maskOf ((matching s (opWidth s) a l).filter (· < l))).toNat) s) s

/-- `bcst` (11 R326). -/
def execBcst (d a : BitVec 8) (s : State) :=
  issue (.bcst d a) (fun s =>
    let n := opWidth s
    perLaneLong (.bcst d a) (livelyLanes s) n d (fun l =>
      wordV (modeType s) (fun x _ => x) (srcN s n a.toNat ((groupAct s l).headD 0)) 0) s) s

end Sys2Proof.Machine
end

