-- ==== Sys2Proof/Machine/Ranked.lean ====
section
/-!
DEFINITION. Ranked lists in the accumulator store (13 R370 to R377) and tree walks (R380, R381).
-/
namespace Sys2Proof.Machine
open Sys2Proof.Machine.Num

/-! ### Entries and their order (13 R370, R374) -/

/-- An entry: f32 value bits and index. -/
abbrev Entry := Nat × Nat

/-- The empty slot. -/
def emptySlot : Entry := (0xFF800000, 0xFFFFFFFF)

/-- Does entry x rank above entry y? -/
def ranksAbove (x y : Entry) : Bool :=
  let c := cmp (f32.decode x.1) (f32.decode y.1)
  decide (0 < c) || (decide (c = 0) && decide (x.2 < y.2))

/-- Are two entries identical in the ranking? -/
def sameRank (x y : Entry) : Bool := !ranksAbove x y && !ranksAbove y x

/-- Is an entry's value a NaN? -/
def nanEntry (x : Entry) : Bool := isNan (f32.decode x.1)

/-- Inserts a candidate into a row of the k best; an identical one changes nothing. -/
def insertEntry (k : Nat) (row : List Entry) (x : Entry) : List Entry :=
  if row.any (sameRank x) then row
  else (row.filter (fun y => ranksAbove y x) ++ x :: row.filter (fun y => !ranksAbove y x)).take k

/-- Merges incoming entries into kept ones: the k best of the union, and how many NaN entries were dropped. -/
def mergeRow (k : Nat) (kept inc : List Entry) : List Entry × Nat :=
  let all := kept ++ inc
  let row := (all.filter (fun x => !nanEntry x)).foldl (insertEntry k) []
  (row ++ List.replicate (k - row.length) emptySlot, (all.filter nanEntry).length)

/-- A saturating count. -/
def satCount (n : Nat) : Nat := min n 0xFFFFFFFF

/-! ### Lists in the store -/

/-- The words of entry e = rk + j of a list: its tile and the word of its value. -/
def entryPlace (first k r j : Nat) : Nat × Nat := (first + (r * k + j) / 256, 2 * ((r * k + j) % 256))

/-- Entry j of row r. -/
def entryAt (s : State) (first k r j : Nat) : Entry :=
  let p := entryPlace first k r j
  ((tileWord s p.1 p.2).toNat, (tileWord s p.1 (p.2 + 1)).toNat)

/-- Row r of a list. -/
def rowAt (s : State) (first k r : Nat) : List Entry := (List.range k).map (entryAt s first k r)

/-- Writes row r of a list. -/
def setRow (first k : Nat) (s : State) (r : Nat) (row : List Entry) : State :=
  (List.range k).foldl (fun s j =>
    let p := entryPlace first k r j
    let e := row.getD j emptySlot
    setTile s p.1 [(p.2, e.1), (p.2 + 1, e.2)]) s

/-- Writes the rows of a list. -/
def setRows (first k : Nat) (rows : Nat → List Entry) (s : State) : State :=
  (List.range 16).foldl (fun s r => setRow first k s r (rows r)) s

/-- The list of the warp's core that starts at a tile. -/
def listAt (s : State) (first : Nat) : Option RankList := s.blk.lists.find? (fun x => x.core == coreIdx s && x.first == first)

/-- The list of quarter q, which starts at ACB + 4 × off + qT with its own T (13 R372). -/
def listOf (s : State) (off : BitVec 5) (q : Nat) : Option RankList :=
  let base := tileOf s off 0
  if tileCount s ≤ base + q then none
  else s.blk.lists.find? (fun x => x.core == coreIdx s && x.first == base + q * listTiles x.k)

/-- ACC of a quarter without its list. -/
def listCheck (s : State) (off : BitVec 5) : Check :=
  (0x10, fun q => failIf (listOf s off q).isNone (tileOf s off q % 2048))

/-- Changes a list's rejected count. -/
def setRejected (s : State) (x : RankList) (n : Nat) : State :=
  { s with blk := { s.blk with lists := s.blk.lists.map (fun y =>
      if y.core == x.core && y.first == x.first then { y with rejected := BitVec.ofNat 32 (satCount n) } else y) } }

/-! ### Declarations (13 R371) -/

/-- The first tile of quarter q's list of length k. -/
def firstTile (s : State) (off : BitVec 5) (k q : Nat) : Nat := tileOf s off 0 + q * listTiles k

/-- ACC of a quarter one of whose tiles is beyond the count. -/
def listTilesBad (s : State) (off : BitVec 5) (k q : Nat) : Option Nat :=
  ((List.range (listTiles k)).filterMap (fun j => accBad s false (firstTile s off k q + j))).head?

/-- `accdcl`. -/
def execAccdcl (k : BitVec 6) (off : BitVec 5) (s : State) :=
  issue (.accdcl k off) (fun s =>
    let n := k.toNat + 1
    tileOp (.accdcl k off) [(0x10, listTilesBad s off n)] (fun _ => false) []
      (fun qs s => retire (.accdcl k off) (qs.foldl (fun s q =>
        let first := firstTile s off n q
        let s := undeclare s first (listTiles n)
        let s := setRows first n (fun _ => List.replicate n emptySlot) s
        { s with blk := { s.blk with lists := s.blk.lists ++
          [{ core := coreIdx s, first := first, k := n, rejected := 0 }] } }) s)) s) s

/-- `accdcl.u`. -/
def execAccdclU (k : BitVec 6) (off : BitVec 5) (s : State) :=
  issue (.accdclU k off) (fun s =>
    let n := k.toNat + 1
    let ends := fun q => match listAt s (firstTile s off n q) with
      | some x => failIf (x.k != n) (firstTile s off n q % 2048)
      | none => some (firstTile s off n q % 2048)
    tileOp (.accdclU k off) [(0x10, fun q => match listTilesBad s off n q with
        | some a => some a
        | none => ends q)] (fun _ => false) []
      (fun qs s => retire (.accdclU k off) (qs.foldl (fun s q => undeclare s (firstTile s off n q) 1) s)) s) s

/-! ### Scores (13 R372, R373) -/

/-- Inserts a quarter's scores: rows and columns within the extents, columns ascending. -/
def insertScores (fA fB : HandleF) (x : RankList) (score : Nat → Nat → Nat) (s : State) : State :=
  let cells := grid (List.range (min 16 fA.rows)) (List.range (min 32 fB.cols))
  let nans := (cells.filter (fun p => isNan (f32.decode (score p.1 p.2)))).length
  let row := fun r => (cells.filter (fun p => p.1 == r && !isNan (f32.decode (score p.1 p.2)))).foldl
    (fun row p => insertEntry x.k row (score p.1 p.2, (fB.aux + p.2) % 2 ^ 32)) (rowAt s x.first x.k r)
  setRejected (setRows x.first x.k row s) x (x.rejected.toNat + nans)

/-- `mmrk` (13 R372). -/
def execMmrk (hA hB : BitVec 4) (slot : BitVec 3) (off : BitVec 5) (s : State) :=
  issue (.mmrk hA hB slot off) (fun s =>
    let i := Instr.mmrk hA hB slot off
    let k := slotOf s slot.toNat
    tileOp i [fmtCheck k matrixCodes, handleChecks s k [(hA, .a), (hB, .b)] (fun _ => none), listCheck s off]
      (fun qs => qs.any (denseHeld s hA hB k.code (fun _ r => r))) []
      (fun qs s =>
        let t := qs.foldl (fun t q => match listOf t off q with
          | none => t
          | some x =>
            let (t, cells) := densePart q hA hB k.code id false (fun _ _ => 0) t
            insertScores (handleAt t q hA) (handleAt t q hB) x (fun r c => (lookup (32 * r + c) cells).getD 0) t) s
        retire i (startQuarters qs t)) s) s

/-- Do the bounds of a quarter lie below every row's threshold? -/
def allBelow (s : State) (b : BitVec 8) (q : Nat) (x : RankList) : Bool :=
  (List.range 16).all (fun r =>
    let l := 8 * q + r % 8
    let v := f32.decode (readLane s (b.toNat + r / 8) l).toNat
    let t := f32.decode (entryAt s x.first x.k r (x.k - 1)).1
    (actSet s).getLsbD l && !isNan v && !isNan t && decide (cmp v t < 0))

/-- `rkbnd` (13 R373). -/
def execRkbnd (z : BitVec 3) (b : BitVec 8) (off : BitVec 5) (s : State) :=
  issue (.rkbnd z b off) (fun s =>
    tileOp (.rkbnd z b off) [listCheck s off] (fun _ => false) []
      (fun qs s =>
        let v := qs.foldl (fun (v : BitVec 4) q => match listOf s off q with
          | some x => if allBelow s b q x then v &&& ~~~BitVec.ofNat 4 (2 ^ q) else v
          | none => v) (readZ s z)
        retire (.rkbnd z b off) (writeZ s z v)) s) s

/-- `rkrd` (13 R377). -/
def execRkrd (d a : BitVec 8) (s : State) :=
  issue (.rkrd d a) (fun s => laneTiles (fun t => (listAt s t).isNone) a (fun s =>
    let w := wset s
    let one := fun l =>
      let v := (src32 s a.toNat l).toNat
      match listAt s (laneTile s a l) with
      | some x => if bits v 24 6 < x.k then entryAt s x.first x.k (bits v 16 4) (bits v 24 6) else emptySlot
      | none => emptySlot
    retire (.rkrd d a) (startLong s none w ((lanesOf w).flatMap (fun l =>
      [.lane (regKey d.toNat l) (BitVec.ofNat 32 (one l).1), .lane (regKey (d.toNat + 1) l) (BitVec.ofNat 32 (one l).2)])))) s) s

/-! ### List images in memory (13 R374 to R376) -/

/-- An image's 8-byte words: its header, then the entries row by row. -/
def imageWords (k rejected : Nat) (rows : Nat → List Entry) : List Nat :=
  (k + 2 ^ 16 * 16 + 2 ^ 32 * rejected) ::
    (grid (List.range 16) (List.range k)).map (fun x =>
      let e := (rows x.1).getD x.2 emptySlot
      e.1 + 2 ^ 32 * e.2)

/-- Row r of an image of length k. -/
def imageRow (k : Nat) (words : List Nat) (r : Nat) : List Entry :=
  (List.range k).map (fun j =>
    let w := words.getD (1 + r * k + j) 0
    (w % 2 ^ 32, w / 2 ^ 32))

/-- Where the `n` words from an address lie. -/
def imagePlaces (s : State) (p : LaneMem) (g : W64) : Nat → Except MFault (List Place)
  | 0 => .ok []
  | n + 1 =>
    match imagePlaces s p g n with
    | .error m => .error m
    | .ok r =>
      match laneResolve s p (g + BitVec.ofNat 64 (8 * n)) 0 with
      | .error m => .error m
      | .ok q => .ok (r ++ [q])

/-- Loads 8-byte words. -/
def loadWords : List Place → State → State × List Nat
  | [], s => (s, [])
  | p :: r, s =>
    let (s, v) := loadAt s p 8
    let (s, l) := loadWords r (keepLeaves s p)
    (s, v :: l)

/-- The words at a list of places, as an access by atomics finds them. -/
def peekWords (s : State) (ps : List Place) : List Nat := ps.map (fun p => (rmwAt s p 8 id).2)

/-- Stores 8-byte words, with a given store of one. -/
def storeWords (store : State → Place → Nat → State) (ps : List Place) (ws : List Nat) (s : State) : State :=
  (ps.zip ws).foldl (fun s x => store (keepLeaves s x.1) x.1 x.2) s

/-- How an image is accessed. -/
def imageMem (k : Access) (at' : At) : LaneMem :=
  { n := 8, kind := k, store := k != .read, partialCommit := false, globalOnly := false, flagA := false, place := at' }

/-- The address of quarter q's image (13 R375). -/
def imageVa (sa : W64) (q k : Nat) : W64 := sa + BitVec.ofNat 64 (q * (8 + 128 * k))

/-- The header at an address, read by `rd` at issue: k and rows, where it can be read. -/
def headerAt (s : State) (p : LaneMem) (rd : Place → Nat) (g : W64) : Option (Nat × Nat) :=
  match laneResolve s p g 0 with
  | .ok q => some (bits (rd q) 0 16, bits (rd q) 16 16)
  | .error _ => none

/-- The frame of `rkst` and `rkmrg`: ALIGN and PROT precisely, then ACC; the quarters whose image can be accessed take
effect by `part`, which gives the state or the fault, and the others' parts are pending. -/
def imageOp (i : Instr) (sa : BitVec 6) (off : BitVec 5) (k : Access) (header : RankList → W64 → Bool)
    (part : Nat → RankList → W64 → State → Except MFault State) (held : RankList → W64 → Bool) (s : State) : State :=
  let g := readS s sa.toNat
  let qs := liveQuarters s
  let act := lanesOfQuarters s qs
  let lanes := (lanesOf act).map (fun l => (l, g))
  let img := fun q => (listOf s off q).map (fun x => (x, imageVa g q x.k))
  if qs.isEmpty then retire i s
  else if g.toNat % 8 != 0 then alignFault k lanes s
  else if !(isWindow g || isGlobal g) then precise 0x07 act g (laneAux k 0 0 (prot 0x14 g)) s
  else if !collected s then holdAt .collect (sendGroups (ofFront s) s)
  else tileOp i [listCheck s off]
    (fun qs => qs.any (fun q => match img q with
      | some (x, a) => held x a
      | none => false))
    [(0x10, fun q => match img q with
      | some (x, a) => failIf (!header x a) (x.first % 2048)
      | none => none)]
    (fun qs s =>
      let (t, good, bad) := qs.foldl (fun (r : State × List Nat × List (Nat × MFault)) q => match img q with
        | none => r
        | some (x, a) => match part q x a r.1 with
          | .ok t => (t, r.2.1 ++ [q], r.2.2)
          | .error m => (r.1, r.2.1, r.2.2 ++ [(q, m)])) (s, [], [])
      let t := if good.isEmpty then t else startQuarters good t
      match bad with
      | [] => retire i t
      | (_, m) :: _ =>
        let each := bad.flatMap (fun b => (lanesOf (quarterLanes s b.1)).map (fun l => (l, b.2)))
        faultPart i 1 (lanesOfQuarters s (bad.map Prod.fst)) (sameCode each) m.code m.va (laneAux k 0 0 m)
          (some (setB s.f, some act)) t) s

/-- Does an image meet bytes that a copy still owes? -/
def imageHeld (s : State) (p : LaneMem) (g : W64) (n : Nat) : Bool :=
  match imagePlaces s p g n with
  | .ok ps => ps.any (fun q => fillHeld s q 8)
  | .error _ => false

/-- `rkst` (13 R375): plain stores of the image. -/
def execRkst (sa : BitVec 6) (off : BitVec 5) (s : State) :=
  issue (.rkst sa off) (fun s =>
    let p := imageMem .write (.plain (modeLevel s))
    imageOp (.rkst sa off) sa off .write (fun _ _ => true)
      (fun _ x a t => match imagePlaces t p a (1 + 16 * x.k) with
        | .error m => .error m
        | .ok ps => .ok (storeWords (fun s q w => storeThrough s q w 8) ps
            (imageWords x.k x.rejected.toNat (rowAt t x.first x.k)) t))
      (fun x a => imageHeld s p a (1 + 16 * x.k)) s) s

/-- `rkst.m` (13 R375): merges the list into the image, at the home or in the banks, as one step. -/
def execRkstM (sa : BitVec 6) (off : BitVec 5) (s : State) :=
  issue (.rkstM sa off) (fun s =>
    let p := imageMem .rmw .home
    imageOp (.rkstM sa off) sa off .rmw
      (fun x a => match headerAt s p (fun q => (rmwAt s q 8 id).2) a with
        | some h => h == (x.k, 16)
        | none => true)
      (fun _ x a t => match imagePlaces t p a (1 + 16 * x.k) with
        | .error m => .error m
        | .ok ps =>
          let old := peekWords t ps
          let merged := fun r => mergeRow x.k (imageRow x.k old r) (rowAt t x.first x.k r)
          let nans := (List.range 16).foldl (fun n r => n + (merged r).2) 0
          let new := imageWords x.k (satCount (old.headD 0 / 2 ^ 32 + x.rejected.toNat + nans)) (fun r => (merged r).1)
          .ok (storeWords (fun s q w => (rmwAt s q 8 (fun _ => w)).1) ps new t))
      (fun x a => imageHeld s p a (1 + 16 * x.k)) s) s

/-- `rkmrg` (13 R376): reads the whole image and merges it into the list. -/
def execRkmrg (sa : BitVec 6) (off : BitVec 5) (s : State) :=
  issue (.rkmrg sa off) (fun s =>
    let p := imageMem .read (.plain (modeLevel s))
    let rd := fun q => (loadAt s q 8).2
    let len := fun a => match headerAt s p rd a with
      | some (k, _) => k
      | none => 0
    imageOp (.rkmrg sa off) sa off .read
      (fun _ a => match headerAt s p rd a with
        | some (k, rows) => rows == 16 && decide (1 ≤ k) && decide (k ≤ 64)
        | none => true)
      (fun _ x a t => match imagePlaces t p a (1 + 16 * len a) with
        | .error m => .error m
        | .ok ps =>
          let (t, ws) := loadWords ps t
          let merged := fun r => mergeRow x.k (rowAt t x.first x.k r) (imageRow (len a) ws r)
          let nans := (List.range 16).foldl (fun n r => n + (merged r).2) 0
          .ok (setRejected (setRows x.first x.k (fun r => (merged r).1) t) x
            (x.rejected.toNat + ws.headD 0 / 2 ^ 32 + nans)))
      (fun _ a => imageHeld s p a (1 + 16 * len a)) s) s

/-! ### Tree walks (13 R380, R381) -/

/-- How a walk ends: at a leaf, or with a fault. -/
inductive TreeEnd where
  | leaf (value node : Nat)
  | tree (cause node : Nat)
  | beyond (off : Nat)
  deriving DecidableEq, Repr

/-- Is x a finite integer from 0 to 31 (13 R381)? -/
def category (v : Val) : Option Nat :=
  match v with
  | .fin neg n d e =>
    if n = 0 then some 0
    else if neg then none
    else
      let (a, b) := scaled n d e 0
      if a % b = 0 && a / b < 32 then some (a / b) else none
  | _ => none

/-- The direction at a node: left? -/
def goesLeft (node x : Nat) : Bool :=
  let val := node % 2 ^ 32
  let v := f32.decode x
  if bit node 50 then
    match category v with
    | some c => bit val c
    | none => bit node 49
  else if isNan v then bit node 49
  else if isNan (f32.decode val) then false
  else decide (cmp v (f32.decode val) < 0)

/-- Walks a tree from node n, visiting at most `fuel` more nodes; the window offsets read come with the end. -/
def treeWalk (s : State) (base a : Nat) : Nat → Nat → List Nat × TreeEnd
  | 0, n => ([], .tree 1 n)
  | fuel + 1, n =>
    let o := (base + 16 * n) % 2 ^ 32
    if s.blk.winSize < o + 16 then ([], .beyond o)
    else
      let node := Cells.load s.blk.win o 16
      if bits node 51 13 != 0 then ([o], .tree 2 n)
      else if bit node 48 then ([o], .leaf (node % 2 ^ 32) n)
      else if fuel = 0 then ([o], .tree 1 n)
      else
        let f := a + 4 * bits node 32 16
        if s.blk.winSize < f + 4 then ([o], .beyond f)
        else
          let x := Cells.load s.blk.win f 4
          let (os, e) := treeWalk s base a fuel (if goesLeft node x then bits node 64 32 else bits node 96 32)
          (o :: f :: os, e)

/-- The generic address of a window offset. -/
def windowVa (o : Nat) : W64 := BitVec.ofNat 64 (0xFE * 2 ^ 56 + o)

/-- `tw` and `twi`: `pick` chooses what lands from the leaf's value and number. A TREE fault reports the feature base as
given, a memory fault the generic window address (log 26). -/
def treeOp (i : Instr) (d a b : BitVec 8) (pick : Nat → Nat → Nat) (s : State) : State :=
  let w := wset s
  let lanes := lanesOf w
  let base := bits s.w.twbase.toNat 0 32
  let feat := fun l => (src32 s a.toNat l).toNat
  let crooked := lanes.filterMap (fun l =>
    if base % 16 != 0 then some (l, windowVa base) else if feat l % 4 != 0 then some (l, windowVa (feat l)) else none)
  let ends := lanes.map (fun l =>
    (l, treeWalk s base (feat l) 64 ((bits s.w.twbase.toNat 32 32 + (src32 s b.toNat l).toNat) % 2 ^ 32)))
  if !crooked.isEmpty then alignFault .read crooked s
  else if !collected s then holdAt .collect (sendGroups (ofFront s) s)
  else if ends.any (fun x => bytesHeld s x.2.1) then holdAt .fill s
  else
    let good := ends.filterMap (fun x => match x.2.2 with
      | .leaf v n => some (x.1, pick v n)
      | _ => none)
    let bad := ends.filterMap (fun x => match x.2.2 with
      | .leaf _ _ => none
      | .tree c n => some (x.1, { code := 0x0C, cause := c, level := 0, pool := n, va := BitVec.ofNat 64 (feat x.1) : MFault })
      | .beyond o => some (x.1, prot 0x15 (windowVa o)))
    let t := startLong s none (maskOf (good.map Prod.fst)) (good.map (fun x => .lane (regKey d.toNat x.1) (BitVec.ofNat 32 x.2)))
    match bad with
    | [] => retire i t
    | (_, m) :: _ =>
      let aux := if m.code = 0x0C then BitVec.ofNat 64 (m.pool * 2 ^ 32 + m.cause * 2 ^ 8) else laneAux .read 0 4 m
      faultPart i 1 (maskOf (bad.map Prod.fst)) (sameCode bad) m.code m.va aux (some (setA s.f, none)) t

def execTw (d a b : BitVec 8) (s : State) := issue (.tw d a b) (treeOp (.tw d a b) d a b (fun v _ => v)) s
def execTwi (d a b : BitVec 8) (s : State) := issue (.twi d a b) (treeOp (.twi d a b) d a b (fun _ n => n)) s

end Sys2Proof.Machine
end

