-- ==== Sys2Proof/Machine/Trust.lean ====
section
/-!
DEFINITION. Starting, trust and operation (19): starts and their failures, the firmware image, attestation, throttling,
shutdown and loss of power; and which events a module performs that is not ready, or that runs the recovery image.
-/
namespace Sys2Proof.Machine

/-! ### What a module in reset or recovery performs (19 R441, R443) -/

/-- Events that the board controller, the sensors and the power supply bring: they need no firmware. -/
def boardEvent (i : Instr) : Bool :=
  match i with
  | .start | .failedStartCounterClear | .throttling | .shutdown | .doubledRefresh | .powerLoss => true
  | _ => false

/-- Inputs from outside the module: they stay due across a start. -/
def outsideEvent (i : Instr) : Bool :=
  boardEvent i || (match i with
    | .queueCreation | .refetch | .skip | .linkBinding | .debugResume | .accumulatorQuotaDivision | .attestationRequest
    | .firmwareImageWrite | .regionRegistration | .drain | .lossNotice | .portDown | .rdmaWrite | .rdmaRead | .fetchAndAdd
    | .compareAndSwap | .rdmaSend | .rnrNak | .sendAcknowledgement | .migctlGo | .migctlEn | .migctlDoneClear
    | .deviceRegisterWrite | .lmsKeyProvisioning | .priorityFlowControl | .ecnMarking => true
    | _ => false)

/-- Is an event performed? A module that is not ready takes board events alone; the recovery image opens no queue and
takes no other management command than the write of an image, beside the security core's own requests. -/
def admitted (s : State) (i : Instr) : Bool :=
  if boardEvent i then true
  else if !(s.trust.powered && s.trust.ready) then false
  else if s.trust.recovery then
    (match i with
     | .firmwareImageWrite | .attestationRequest | .lmsKeyProvisioning => true
     | _ => false)
  else true

/-- Is the module under power, and has a start brought it to ready (19 R437, R441, R445)? -/
def running (s : State) : Bool := s.trust.powered && s.trust.ready

/-- The queue pair of a remote access or message. -/
def queuePair : EvArg → Option Nat
  | .remoteBytes r _ | .remoteLen r _ | .remoteAdd r _ | .remoteCas r _ _ => some r.qp
  | .send q _ => some q.toNat
  | _ => none

/-- The least urgent allowed class of the queue that an event is to map again. -/
def remapClass (s : State) (e : Instr × EvArg) : Option Nat :=
  match e with
  | (.queueRemap, .unit q) => some ((queueAt s q).elim 4 Queue.cls)
  | _ => none

/-- The place of the agenda whose event is performed when place `n` is chosen: what arrives on one queue pair is
performed in posting order (03 R116, 16 R423), and queues are mapped again in the order of their wakes, most urgent allowed
class first (15 R415). -/
def duePlace (s : State) (n : Nat) : Nat :=
  match s.agenda[n]? with
  | none => n
  | some e =>
    match queuePair e.2 with
    | none =>
      (match remapClass s e with
       | none => n
       | some c =>
         let least := (s.agenda.filterMap (remapClass s)).foldl min c
         s.agenda.findIdx (fun x => remapClass s x == some least))
    | some q => s.agenda.findIdx (fun x => queuePair x.2 == some q)

/-! ### Starts (19 R437 to R441) -/

/-- 64 KiB frames of a die's near memory and of far memory. -/
def dieFrames : Nat := 1179648
def farFrames : Nat := 25165824

/-- Do the failing frames of a memory test fail the start: more than 1% of those of a die or of far memory? Frames are
numbered die by die, far memory last. -/
def memoryFails (bad : List Nat) : Bool :=
  (List.range 4).any (fun d => decide (dieFrames < 100 * (bad.filter (fun f => f / dieFrames == d)).length))
    || decide (farFrames < 100 * (bad.filter (fun f => decide (4 * dieFrames ≤ f))).length)

/-- Do both signatures of an image verify (19 R439)? -/
def verifies (i : FwImage) : Bool :=
  Config.ecdsaVerifies (Config.sha384 i.bytes) i.ecdsa && Config.lmsVerifies (Config.sha384 i.bytes) i.lms

/-- Everything that a start or the loss of power takes away: only the board controller's and the security core's own
stores, and inputs yet to come, remain. -/
def blank (t : Trust) (s : State) : State :=
  { State.reset with trust := t, tick := s.tick, agenda := s.agenda.filter (fun e => outsideEvent e.1) }

/-- Secure boot (19 R439, R440): a warm start skips verification when the image's digest is the cached one. The second
part says whether the image passes. -/
def secureBoot (warm : Bool) (i : FwImage) (t : Trust) : Trust × Bool :=
  let d := Config.sha384 i.bytes
  let t := { t with measured := d }
  if warm && t.cached == some d then (t, true)
  else if verifies i then ({ t with cached := some d }, true)
  else (t, false)

/-- The steps of a start. -/
def startWith (warm : Bool) (s : State) : State :=
  let t := s.trust
  let warm := warm && !t.coldNext
  let count := t.failed
  if 6 ≤ count then blank { t with held := true, ready := false } s
  else
    let recovery := decide (3 ≤ count)
    let bad := Config.failingFrames t.starts
    let t := { t with powered := true, ready := false, held := false, warm := warm, coldNext := false, starts := t.starts + 1,
                      failed := count + 1, recovery := recovery,
                      trainings := if warm && Config.trainingCrcGood t.starts then t.trainings else t.trainings + 1, badFrames := bad, throttle := 0,
                      refresh := [] }
    if memoryFails bad then blank t s
    else
      let (t, passed) := secureBoot warm (if recovery then t.recImage else t.image) t
      blank (if passed then { t with ready := true, failed := 0 } else t) s

/-- START: cold, or warm where the board controller asks for it. -/
def execStart (s : State) : Host.Outcome State Fault Refusal :=
  .next (match s.arg with
    | .flag _ warm => startWith warm s
    | _ => s)

/-- FAILED_START_COUNTER_CLEAR: the start that follows a hold is cold. -/
def execFailedStartCounterClear (s : State) : Host.Outcome State Fault Refusal :=
  .next { s with trust := { s.trust with failed := 0, coldNext := s.trust.coldNext || s.trust.held } }

/-- FIRMWARE_IMAGE_WRITE: the recovery image verifies the image and stores it; the next start is cold. -/
def execFirmwareImageWrite (s : State) : Host.Outcome State Fault Refusal :=
  .next (match s.arg with
    | .image i =>
      if s.trust.ready && s.trust.recovery && verifies i then
        { s with trust := { s.trust with image := i, coldNext := true } }
      else s
    | _ => s)

/-! ### Attestation (19 R442) -/

/-- Leaves of an LMS key of height 20. -/
def lmsLeaves : Nat := 1048576

/-- The bytes that a report's signatures cover: 0x000 to 0x057. -/
def reportBody (t : Trust) (nonce : List Byte) (leaf : Nat) : List Byte :=
  (nonce ++ List.replicate 32 0).take 32 ++ toBytes t.measured.toNat 48 ++ toBytes (if t.recovery then 1 else 0) 1
    ++ toBytes (if t.warm then 1 else 0) 1 ++ toBytes 0 2 ++ toBytes leaf 4

/-- ATTESTATION_REQUEST: the leaf index advances before the signature is formed. -/
def execAttestationRequest (s : State) : Host.Outcome State Fault Refusal :=
  .next (match s.arg with
    | .bytes nonce =>
      let t := s.trust
      if lmsLeaves ≤ t.lmsLeaf then { s with trust := { t with exhausted := true } }
      else
        let body := reportBody t nonce t.lmsLeaf
        let report := body ++ toBytes (Config.ecdsaSign t.lmsKey body).toNat 96
          ++ toBytes (Config.lmsSign t.lmsKey t.lmsLeaf body).toNat 2828
        { s with trust := { t with lmsLeaf := t.lmsLeaf + 1, reports := report :: t.reports } }
    | _ => s)

/-- LMS_KEY_PROVISIONING: a new key with all its leaves. -/
def execLmsKeyProvisioning (s : State) : Host.Outcome State Fault Refusal :=
  .next (match s.arg with
    | .unit k => { s with trust := { s.trust with lmsKey := k, lmsLeaf := 0, exhausted := false } }
    | _ => s)

/-! ### Power and heat (19 R444, R445) -/

/-- THROTTLING: the arithmetic clock runs n steps of 1/16 below 1.75 GHz. -/
def execThrottling (s : State) : Host.Outcome State Fault Refusal :=
  .next (match s.arg with
    | .unit n => { s with trust := { s.trust with throttle := min n 15 } }
    | _ => s)

/-- DOUBLED_REFRESH of a stacked DRAM die. -/
def execDoubledRefresh (s : State) : Host.Outcome State Fault Refusal :=
  .next (match s.arg with
    | .unit d => { s with trust := { s.trust with refresh := addOnce d s.trust.refresh } }
    | _ => s)

/-- SHUTDOWN: the module stops, and no cache is written back; the next start is cold. -/
def execShutdown (s : State) : Host.Outcome State Fault Refusal :=
  .next (blank { s.trust with powered := false, ready := false, coldNext := true } s)

/-- POWER_LOSS: a report that was being formed may already have advanced the leaf index. -/
def execPowerLoss (s : State) : Host.Outcome State Fault Refusal :=
  let t := s.trust
  let forming := t.ready && s.agenda.any (fun e => e.1 == .attestationRequest)
  let leaf := if forming && decide (t.lmsLeaf < lmsLeaves) && Config.leafAdvanced s.tick then t.lmsLeaf + 1 else t.lmsLeaf
  .next (blank { t with powered := false, ready := false, coldNext := true, lmsLeaf := leaf } s)

end Sys2Proof.Machine
end

