-- ==== Sys2Proof/Machine/Dispatch.lean ====
section
/-!
DEFINITION. The meaning of each instruction: one arm for each constructor of `Instr`.
-/
namespace Sys2Proof.Machine

/-- The effect of an instruction, or of an event, on the state. -/
def exec (i : Instr) (s : State) : Host.Outcome State Fault Refusal :=
  match i with
  | .add d a b => Sys2Proof.Machine.execAdd d a b s
  | .sub d a b => Sys2Proof.Machine.execSub d a b s
  | .mul d a b => Sys2Proof.Machine.execMul d a b s
  | .mulhi d a b => Sys2Proof.Machine.execMulhi d a b s
  | .fma d a b => Sys2Proof.Machine.execFma d a b s
  | .fms d a b => Sys2Proof.Machine.execFms d a b s
  | .fnma d a b => Sys2Proof.Machine.execFnma d a b s
  | .min d a b => Sys2Proof.Machine.execMin d a b s
  | .max d a b => Sys2Proof.Machine.execMax d a b s
  | .abd d a b => Sys2Proof.Machine.execAbd d a b s
  | .and d a b => Sys2Proof.Machine.execAnd d a b s
  | .or d a b => Sys2Proof.Machine.execOr d a b s
  | .xor d a b => Sys2Proof.Machine.execXor d a b s
  | .andn d a b => Sys2Proof.Machine.execAndn d a b s
  | .shl d a b => Sys2Proof.Machine.execShl d a b s
  | .shr d a b => Sys2Proof.Machine.execShr d a b s
  | .rot d a b => Sys2Proof.Machine.execRot d a b s
  | .sel d a b => Sys2Proof.Machine.execSel d a b s
  | .ceq p a b => Sys2Proof.Machine.execCeq p a b s
  | .cne p a b => Sys2Proof.Machine.execCne p a b s
  | .clt p a b => Sys2Proof.Machine.execClt p a b s
  | .cle p a b => Sys2Proof.Machine.execCle p a b s
  | .cgt p a b => Sys2Proof.Machine.execCgt p a b s
  | .cge p a b => Sys2Proof.Machine.execCge p a b s
  | .cun p a b => Sys2Proof.Machine.execCun p a b s
  | .ccls p a cls => Sys2Proof.Machine.execCcls p a cls s
  | .mov d a => Sys2Proof.Machine.execMov d a s
  | .cvt d a dt us slot => Sys2Proof.Machine.execCvt d a dt us slot s
  | .neg d a => Sys2Proof.Machine.execNeg d a s
  | .abs d a => Sys2Proof.Machine.execAbs d a s
  | .popc d a => Sys2Proof.Machine.execPopc d a s
  | .clz d a => Sys2Proof.Machine.execClz d a s
  | .brev d a => Sys2Proof.Machine.execBrev d a s
  | .bfe d a b => Sys2Proof.Machine.execBfe d a b s
  | .bfi d a b => Sys2Proof.Machine.execBfi d a b s
  | .mulw d a b => Sys2Proof.Machine.execMulw d a b s
  | .dot2 d a b => Sys2Proof.Machine.execDot2 d a b s
  | .dot4 d a b => Sys2Proof.Machine.execDot4 d a b s
  | .addc d a b => Sys2Proof.Machine.execAddc d a b s
  | .subb d a b => Sys2Proof.Machine.execSubb d a b s
  | .pack d a b => Sys2Proof.Machine.execPack d a b s
  | .unplo d a => Sys2Proof.Machine.execUnplo d a s
  | .unphi d a => Sys2Proof.Machine.execUnphi d a s
  | .clamp d a b => Sys2Proof.Machine.execClamp d a b s
  | .csgn d a b => Sys2Proof.Machine.execCsgn d a b s
  | .fract d a => Sys2Proof.Machine.execFract d a s
  | .rnd d a => Sys2Proof.Machine.execRnd d a s
  | .scl d a b => Sys2Proof.Machine.execScl d a b s
  | .rcp d a => Sys2Proof.Machine.execRcp d a s
  | .rsq d a => Sys2Proof.Machine.execRsq d a s
  | .sqrt d a => Sys2Proof.Machine.execSqrt d a s
  | .exp2 d a => Sys2Proof.Machine.execExp2 d a s
  | .log2 d a => Sys2Proof.Machine.execLog2 d a s
  | .sin d a => Sys2Proof.Machine.execSin d a s
  | .cos d a => Sys2Proof.Machine.execCos d a s
  | .tanh d a => Sys2Proof.Machine.execTanh d a s
  | .sigm d a => Sys2Proof.Machine.execSigm d a s
  | .div d a b => Sys2Proof.Machine.execDiv d a b s
  | .erf d a => Sys2Proof.Machine.execErf d a s
  | .shfl d a b => Sys2Proof.Machine.execShfl d a b s
  | .shup d a b => Sys2Proof.Machine.execShup d a b s
  | .shdn d a b => Sys2Proof.Machine.execShdn d a b s
  | .shxr d a b => Sys2Proof.Machine.execShxr d a b s
  | .vall p q => Sys2Proof.Machine.execVall p q s
  | .vany p q => Sys2Proof.Machine.execVany p q s
  | .blt d q => Sys2Proof.Machine.execBlt d q s
  | .radd d a => Sys2Proof.Machine.execRadd d a s
  | .rmin d a => Sys2Proof.Machine.execRmin d a s
  | .rmax d a => Sys2Proof.Machine.execRmax d a s
  | .psum d a ex => Sys2Proof.Machine.execPsum d a ex s
  | .mtch d a => Sys2Proof.Machine.execMtch d a s
  | .conf d a => Sys2Proof.Machine.execConf d a s
  | .bcst d a => Sys2Proof.Machine.execBcst d a s
  | .ld d a b => Sys2Proof.Machine.execLd d a b s
  | .st d a b => Sys2Proof.Machine.execSt d a b s
  | .ldq d a b => Sys2Proof.Machine.execLdq d a b s
  | .stq d a b => Sys2Proof.Machine.execStq d a b s
  | .ldacq d a b => Sys2Proof.Machine.execLdacq d a b s
  | .strel d a b => Sys2Proof.Machine.execStrel d a b s
  | .ldref d a b => Sys2Proof.Machine.execLdref d a b s
  | .stref d a b => Sys2Proof.Machine.execStref d a b s
  | .pub d a b => Sys2Proof.Machine.execPub d a b s
  | .aadd d a b => Sys2Proof.Machine.execAadd d a b s
  | .amin d a b => Sys2Proof.Machine.execAmin d a b s
  | .amax d a b => Sys2Proof.Machine.execAmax d a b s
  | .aand d a b => Sys2Proof.Machine.execAand d a b s
  | .aor d a b => Sys2Proof.Machine.execAor d a b s
  | .axor d a b => Sys2Proof.Machine.execAxor d a b s
  | .axch d a b => Sys2Proof.Machine.execAxch d a b s
  | .acas d a b => Sys2Proof.Machine.execAcas d a b s
  | .ainc d a b => Sys2Proof.Machine.execAinc d a b s
  | .gred a b => Sys2Proof.Machine.execGred a b s
  | .gmin a b => Sys2Proof.Machine.execGmin a b s
  | .gmax a b => Sys2Proof.Machine.execGmax a b s
  | .gth d a k => Sys2Proof.Machine.execGth d a k s
  | .sct d a k => Sys2Proof.Machine.execSct d a k s
  | .scad d a k => Sys2Proof.Machine.execScad d a k s
  | .gthh d a k => Sys2Proof.Machine.execGthh d a k s
  | .pref a b => Sys2Proof.Machine.execPref a b s
  | .ohdr d a b => Sys2Proof.Machine.execOhdr d a b s
  | .accrd d a => Sys2Proof.Machine.execAccrd d a s
  | .accwr d a => Sys2Proof.Machine.execAccwr d a s
  | .rkrd d a => Sys2Proof.Machine.execRkrd d a s
  | .tw d a b => Sys2Proof.Machine.execTw d a b s
  | .twi d a b => Sys2Proof.Machine.execTwi d a b s
  | .addi d a imm => Sys2Proof.Machine.execAddi d a imm s
  | .andi d a imm => Sys2Proof.Machine.execAndi d a imm s
  | .ori d a imm => Sys2Proof.Machine.execOri d a imm s
  | .xori d a imm => Sys2Proof.Machine.execXori d a imm s
  | .shli d a imm => Sys2Proof.Machine.execShli d a imm s
  | .shri d a imm => Sys2Proof.Machine.execShri d a imm s
  | .ceqi p a imm => Sys2Proof.Machine.execCeqi p a imm s
  | .clti p a imm => Sys2Proof.Machine.execClti p a imm s
  | .cgti p a imm => Sys2Proof.Machine.execCgti p a imm s
  | .ldi d a imm => Sys2Proof.Machine.execLdi d a imm s
  | .sti d a imm => Sys2Proof.Machine.execSti d a imm s
  | .muli d a imm => Sys2Proof.Machine.execMuli d a imm s
  | .mini d a imm => Sys2Proof.Machine.execMini d a imm s
  | .maxi d a imm => Sys2Proof.Machine.execMaxi d a imm s
  | .sAdd sd sa sb => Sys2Proof.Machine.execSAdd sd sa sb s
  | .sSub sd sa sb => Sys2Proof.Machine.execSSub sd sa sb s
  | .sMul sd sa sb => Sys2Proof.Machine.execSMul sd sa sb s
  | .sMulh sd sa sb => Sys2Proof.Machine.execSMulh sd sa sb s
  | .sAnd sd sa sb => Sys2Proof.Machine.execSAnd sd sa sb s
  | .sOr sd sa sb => Sys2Proof.Machine.execSOr sd sa sb s
  | .sXor sd sa sb => Sys2Proof.Machine.execSXor sd sa sb s
  | .sShl sd sa sb => Sys2Proof.Machine.execSShl sd sa sb s
  | .sShr sd sa sb => Sys2Proof.Machine.execSShr sd sa sb s
  | .sSar sd sa sb => Sys2Proof.Machine.execSSar sd sa sb s
  | .sMin sd sa sb => Sys2Proof.Machine.execSMin sd sa sb s
  | .sMax sd sa sb => Sys2Proof.Machine.execSMax sd sa sb s
  | .sMinu sd sa sb => Sys2Proof.Machine.execSMinu sd sa sb s
  | .sMaxu sd sa sb => Sys2Proof.Machine.execSMaxu sd sa sb s
  | .sMov sd sa => Sys2Proof.Machine.execSMov sd sa s
  | .sCeq sd sa sb => Sys2Proof.Machine.execSCeq sd sa sb s
  | .sClt sd sa sb => Sys2Proof.Machine.execSClt sd sa sb s
  | .sCltu sd sa sb => Sys2Proof.Machine.execSCltu sd sa sb s
  | .sAddi sd sa imm => Sys2Proof.Machine.execSAddi sd sa imm s
  | .sAndi sd sa imm => Sys2Proof.Machine.execSAndi sd sa imm s
  | .sOri sd sa imm => Sys2Proof.Machine.execSOri sd sa imm s
  | .sXori sd sa imm => Sys2Proof.Machine.execSXori sd sa imm s
  | .sShli sd sa imm => Sys2Proof.Machine.execSShli sd sa imm s
  | .sShri sd sa imm => Sys2Proof.Machine.execSShri sd sa imm s
  | .sMuli sd sa imm => Sys2Proof.Machine.execSMuli sd sa imm s
  | .sLd sd sa imm => Sys2Proof.Machine.execSLd sd sa imm s
  | .sLd32 sd sa imm => Sys2Proof.Machine.execSLd32 sd sa imm s
  | .sSt sd sa imm => Sys2Proof.Machine.execSSt sd sa imm s
  | .sSt32 sd sa imm => Sys2Proof.Machine.execSSt32 sd sa imm s
  | .sLdacq sd sa imm => Sys2Proof.Machine.execSLdacq sd sa imm s
  | .sStrel sd sa imm => Sys2Proof.Machine.execSStrel sd sa imm s
  | .sAadd sd sa sb w => Sys2Proof.Machine.execSAadd sd sa sb w s
  | .sAcas sd sa sb w => Sys2Proof.Machine.execSAcas sd sa sb w s
  | .sRdl sd r lane => Sys2Proof.Machine.execSRdl sd r lane s
  | .sSrd sd idx => Sys2Proof.Machine.execSSrd sd idx s
  | .sSwr idx sa => Sys2Proof.Machine.execSSwr idx sa s
  | .pAnd pd pa pb => Sys2Proof.Machine.execPAnd pd pa pb s
  | .pOr pd pa pb => Sys2Proof.Machine.execPOr pd pa pb s
  | .pXor pd pa pb => Sys2Proof.Machine.execPXor pd pa pb s
  | .pAndn pd pa pb => Sys2Proof.Machine.execPAndn pd pa pb s
  | .pNot pd pa => Sys2Proof.Machine.execPNot pd pa s
  | .pMov pd sa => Sys2Proof.Machine.execPMov pd sa s
  | .pGet sd pa => Sys2Proof.Machine.execPGet sd pa s
  | .pPop sd pa => Sys2Proof.Machine.execPPop sd pa s
  | .pFfs sd pa => Sys2Proof.Machine.execPFfs sd pa s
  | .part imm => Sys2Proof.Machine.execPart imm s
  | .acb sa imm => Sys2Proof.Machine.execAcb sa imm s
  | .msf val code => Sys2Proof.Machine.execMsf val code s
  | .sPopc sd sa => Sys2Proof.Machine.execSPopc sd sa s
  | .sClz sd sa => Sys2Proof.Machine.execSClz sd sa s
  | .bra off => Sys2Proof.Machine.execBra off s
  | .brd c off => Sys2Proof.Machine.execBrd c off s
  | .brdx c off => Sys2Proof.Machine.execBrdx c off s
  | .bany c off => Sys2Proof.Machine.execBany c off s
  | .ball c off => Sys2Proof.Machine.execBall c off s
  | .bnon c off => Sys2Proof.Machine.execBnon c off s
  | .mark off => Sys2Proof.Machine.execMark off s
  | .call off => Sys2Proof.Machine.execCall off s
  | .jr c => Sys2Proof.Machine.execJr c s
  | .loop c off => Sys2Proof.Machine.execLoop c off s
  | .wait mask => Sys2Proof.Machine.execWait mask s
  | .sbr c off => Sys2Proof.Machine.execSbr c off s
  | .liV d imm => Sys2Proof.Machine.execLiV d imm s
  | .luiV d imm => Sys2Proof.Machine.execLuiV d imm s
  | .liS sd imm => Sys2Proof.Machine.execLiS sd imm s
  | .mode image => Sys2Proof.Machine.execMode image s
  | .mm hA hB slot off z => Sys2Proof.Machine.execMm hA hB slot off z s
  | .mmsp hA hB slot m z => Sys2Proof.Machine.execMmsp hA hB slot m z s
  | .mmg hA hB slot x z => Sys2Proof.Machine.execMmg hA hB slot x z s
  | .mmrk hA hB slot off => Sys2Proof.Machine.execMmrk hA hB slot off s
  | .spcmp hS hD slot m => Sys2Proof.Machine.execSpcmp hS hD slot m s
  | .accclr n off => Sys2Proof.Machine.execAccclr n off s
  | .accdcl k off => Sys2Proof.Machine.execAccdcl k off s
  | .accdclU k off => Sys2Proof.Machine.execAccdclU k off s
  | .accst h slot off => Sys2Proof.Machine.execAccst h slot off s
  | .accld h slot off => Sys2Proof.Machine.execAccld h slot off s
  | .rkbnd z b off => Sys2Proof.Machine.execRkbnd z b off s
  | .rkmrg sa off => Sys2Proof.Machine.execRkmrg sa off s
  | .rkst sa off => Sys2Proof.Machine.execRkst sa off s
  | .rkstM sa off => Sys2Proof.Machine.execRkstM sa off s
  | .zset z imm => Sys2Proof.Machine.execZset z imm s
  | .zlog z za zb fn => Sys2Proof.Machine.execZlog z za zb fn s
  | .ztst z p => Sys2Proof.Machine.execZtst z p s
  | .hset h sa sb st => Sys2Proof.Machine.execHset h sa sb st s
  | .hadj h sa sl => Sys2Proof.Machine.execHadj h sa sl s
  | .cpk sa n => Sys2Proof.Machine.execCpk sa n s
  | .cpcl res sd => Sys2Proof.Machine.execCpcl res sd s
  | .cpwt res sd rel sa k => Sys2Proof.Machine.execCpwt res sd rel sa k s
  | .arin sa sb => Sys2Proof.Machine.execArin sa sb s
  | .arinSet sa sb => Sys2Proof.Machine.execArinSet sa sb s
  | .arwt sa => Sys2Proof.Machine.execArwt sa s
  | .bar id cnt sa => Sys2Proof.Machine.execBar id cnt sa s
  | .bara id cnt sa => Sys2Proof.Machine.execBara id cnt sa s
  | .barw id => Sys2Proof.Machine.execBarw id s
  | .schn sd => Sys2Proof.Machine.execSchn sd s
  | .schd sa => Sys2Proof.Machine.execSchd sa s
  | .schp sd => Sys2Proof.Machine.execSchp sd s
  | .schs idx sa => Sys2Proof.Machine.execSchs idx sa s
  | .schh sa sb sc => Sys2Proof.Machine.execSchh sa sb sc s
  | .schq idx sd => Sys2Proof.Machine.execSchq idx sd s
  | .rpush d sa sb => Sys2Proof.Machine.execRpush d sa sb s
  | .rpop d p w => Sys2Proof.Machine.execRpop d p w s
  | .dadd sa sb => Sys2Proof.Machine.execDadd sa sb s
  | .ddec sa sb => Sys2Proof.Machine.execDdec sa sb s
  | .launch sa => Sys2Proof.Machine.execLaunch sa s
  | .amsd a sb sc => Sys2Proof.Machine.execAmsd a sb sc s
  | .bwt sa sb cond => Sys2Proof.Machine.execBwt sa sb cond s
  | .bwk sa sb => Sys2Proof.Machine.execBwk sa sb s
  | .rdon sa n => Sys2Proof.Machine.execRdon sa n s
  | .racc sa => Sys2Proof.Machine.execRacc sa s
  | .fence scope kind => Sys2Proof.Machine.execFence scope kind s
  | .trap imm => Sys2Proof.Machine.execTrap imm s
  | .pmap sd sa sb => Sys2Proof.Machine.execPmap sd sa sb s
  | .pumap sa sb => Sys2Proof.Machine.execPumap sa sb s
  | .tinv sa sb => Sys2Proof.Machine.execTinv sa sb s
  | .pool sd sa => Sys2Proof.Machine.execPool sd sa s
  | .poolPush sa sb => Sys2Proof.Machine.execPoolPush sa sb s
  | .l1wb rng sa sb => Sys2Proof.Machine.execL1wb rng sa sb s
  | .l1inv rng sa sb => Sys2Proof.Machine.execL1inv rng sa sb s
  | .join => Sys2Proof.Machine.execJoin s
  | .regang => Sys2Proof.Machine.execRegang s
  | .ret => Sys2Proof.Machine.execRet s
  | .exit => Sys2Proof.Machine.execExit s
  | .spfen => Sys2Proof.Machine.execSpfen s
  | .schc => Sys2Proof.Machine.execSchc s
  | .yld => Sys2Proof.Machine.execYld s
  | .tret => Sys2Proof.Machine.execTret s
  | .brk => Sys2Proof.Machine.execBrk s
  | .nop => Sys2Proof.Machine.execNop s
  | .halt => Sys2Proof.Machine.execHalt s
  | .wakeRegisterWrite => Sys2Proof.Machine.execWakeRegisterWrite s
  | .nopPacket => Sys2Proof.Machine.execNopPacket s
  | .launchPacket => Sys2Proof.Machine.execLaunchPacket s
  | .graphPacket => Sys2Proof.Machine.execGraphPacket s
  | .copyPacket => Sys2Proof.Machine.execCopyPacket s
  | .signalPacket => Sys2Proof.Machine.execSignalPacket s
  | .waitmemPacket => Sys2Proof.Machine.execWaitmemPacket s
  | .releasePacket => Sys2Proof.Machine.execReleasePacket s
  | .acquirePacket => Sys2Proof.Machine.execAcquirePacket s
  | .fencePacket => Sys2Proof.Machine.execFencePacket s
  | .timePacket => Sys2Proof.Machine.execTimePacket s
  | .invalPacket => Sys2Proof.Machine.execInvalPacket s
  | .queueCreation => Sys2Proof.Machine.execQueueCreation s
  | .refetch => Sys2Proof.Machine.execRefetch s
  | .skip => Sys2Proof.Machine.execSkip s
  | .linkBinding => Sys2Proof.Machine.execLinkBinding s
  | .debugResume => Sys2Proof.Machine.execDebugResume s
  | .accumulatorQuotaDivision => Sys2Proof.Machine.execAccumulatorQuotaDivision s
  | .attestationRequest => Sys2Proof.Machine.execAttestationRequest s
  | .firmwareImageWrite => Sys2Proof.Machine.execFirmwareImageWrite s
  | .regionRegistration => Sys2Proof.Machine.execRegionRegistration s
  | .queueRemap => Sys2Proof.Machine.execQueueRemap s
  | .start => Sys2Proof.Machine.execStart s
  | .failedStartCounterClear => Sys2Proof.Machine.execFailedStartCounterClear s
  | .throttling => Sys2Proof.Machine.execThrottling s
  | .shutdown => Sys2Proof.Machine.execShutdown s
  | .doubledRefresh => Sys2Proof.Machine.execDoubledRefresh s
  | .drain => Sys2Proof.Machine.execDrain s
  | .lossNotice => Sys2Proof.Machine.execLossNotice s
  | .portDown => Sys2Proof.Machine.execPortDown s
  | .rdmaWrite => Sys2Proof.Machine.execRdmaWrite s
  | .rdmaRead => Sys2Proof.Machine.execRdmaRead s
  | .fetchAndAdd => Sys2Proof.Machine.execFetchAndAdd s
  | .compareAndSwap => Sys2Proof.Machine.execCompareAndSwap s
  | .rdmaSend => Sys2Proof.Machine.execRdmaSend s
  | .rnrNak => Sys2Proof.Machine.execRnrNak s
  | .sendAcknowledgement => Sys2Proof.Machine.execSendAcknowledgement s
  | .activeMessageHandlerStart => Sys2Proof.Machine.execActiveMessageHandlerStart s
  | .migctlGo => Sys2Proof.Machine.execMigctlGo s
  | .migctlEn => Sys2Proof.Machine.execMigctlEn s
  | .migctlDoneClear => Sys2Proof.Machine.execMigctlDoneClear s
  | .migrationLineCopy => Sys2Proof.Machine.execMigrationLineCopy s
  | .deviceRegisterWrite => Sys2Proof.Machine.execDeviceRegisterWrite s
  | .translationWalk => Sys2Proof.Machine.execTranslationWalk s
  | .homeSliceRequest => Sys2Proof.Machine.execHomeSliceRequest s
  | .mergeWindowExpiry => Sys2Proof.Machine.execMergeWindowExpiry s
  | .collectorCommit => Sys2Proof.Machine.execCollectorCommit s
  | .memoryReply => Sys2Proof.Machine.execMemoryReply s
  | .copyIssue => Sys2Proof.Machine.execCopyIssue s
  | .copyGranuleWrite => Sys2Proof.Machine.execCopyGranuleWrite s
  | .copyCompletion => Sys2Proof.Machine.execCopyCompletion s
  | .faultDelivery => Sys2Proof.Machine.execFaultDelivery s
  | .publicationWalk => Sys2Proof.Machine.execPublicationWalk s
  | .objectScan => Sys2Proof.Machine.execObjectScan s
  | .flipPhase => Sys2Proof.Machine.execFlipPhase s
  | .finalStore => Sys2Proof.Machine.execFinalStore s
  | .launchAcceptance => Sys2Proof.Machine.execLaunchAcceptance s
  | .blockStart => Sys2Proof.Machine.execBlockStart s
  | .cadenceStep => Sys2Proof.Machine.execCadenceStep s
  | .blockEnd => Sys2Proof.Machine.execBlockEnd s
  | .gridRetirement => Sys2Proof.Machine.execGridRetirement s
  | .quantumExpiry => Sys2Proof.Machine.execQuantumExpiry s
  | .blockRestore => Sys2Proof.Machine.execBlockRestore s
  | .nodeTimerExpiry => Sys2Proof.Machine.execNodeTimerExpiry s
  | .waitWordReread => Sys2Proof.Machine.execWaitWordReread s
  | .issuePromotion => Sys2Proof.Machine.execIssuePromotion s
  | .yieldExpiry => Sys2Proof.Machine.execYieldExpiry s
  | .joinStackRefill => Sys2Proof.Machine.execJoinStackRefill s
  | .registerPull => Sys2Proof.Machine.execRegisterPull s
  | .exportReturn => Sys2Proof.Machine.execExportReturn s
  | .poolRefill => Sys2Proof.Machine.execPoolRefill s
  | .quarterOperationCompletion => Sys2Proof.Machine.execQuarterOperationCompletion s
  | .longLatencyResult => Sys2Proof.Machine.execLongLatencyResult s
  | .powerLoss => Sys2Proof.Machine.execPowerLoss s
  | .lmsKeyProvisioning => Sys2Proof.Machine.execLmsKeyProvisioning s
  | .priorityFlowControl => Sys2Proof.Machine.execPriorityFlowControl s
  | .ecnMarking => Sys2Proof.Machine.execEcnMarking s

end Sys2Proof.Machine
end

