-- ==== Sys2Proof/Machine/Step.lean ====
section
/-!
DEFINITION. One step of the module: it performs one due event, or arrives at one clause header, or issues one
instruction for one fragment, or lets time pass (log 1).
-/
namespace Sys2Proof.Machine

/-- What follows an instruction or an event: joins settle and time passes. -/
def finish (s : State) : State := passTime (settle { s with arg := .none })

/-- Finishes an outcome. -/
def finished (o : Host.Outcome State Fault Refusal) : Host.Outcome State Fault Refusal :=
  match o with
  | .next s => .next (finish s)
  | .fault r => .fault r
  | .refused r => .refused r

/-- Performs the due event at a place of the agenda; one that the module does not admit is passed over. -/
def stepEvent (s : State) (n : Nat) : Host.Outcome State Fault Refusal :=
  let k := duePlace s n
  match s.agenda[k]? with
  | none => .next (finish s)
  | some (i, a) =>
    let s := ageWaiters none s
    let t := { s with arg := a, agenda := s.agenda.eraseIdx k }
    if admitted s i then finished (exec i t) else .next (finish t)

/-- Issues for the fragment at the front: a wave splits, a clause header is reached, a pending part is reissued, or the
instruction at the program counter is fetched and run. -/
def stepFront (s : State) : Host.Outcome State Fault Refusal :=
  if canWave s s.blk s.w s.f && !headerDone s then .next (finish (waveSplit s))
  else match s.f.replay with
    | some r => finished (exec r.i s)
    | none =>
      if !s.f.inClause then .next (finish (arrive s))
      else match fetchInstr s with
        | .fault m => .next (finish (fetchFault m s))
        | .bad w t => .next (finish (illegalWord w t))
        | .instr i t => finished (exec i t)

/-- Issues for a chosen fragment; the other candidates have waited longer. -/
def stepFragment (s : State) (c : Cand) : Host.Outcome State Fault Refusal :=
  let s := ageWaiters (some c) s
  let s := focus s c.blk c.wp c.ent
  stepFront { s with f := { s.f with waited := 0, promoted := none } }

/-- One step. Where both an event is due and a fragment could issue, a free value says which comes first (log 1). -/
def step (s : State) : Host.Outcome State Fault Refusal :=
  if !running s then
    (if s.agenda.isEmpty then .fault .heldInReset else stepEvent s (Config.eventPick s.tick % s.agenda.length))
  else if s.agenda.isEmpty then
    match choose s with
    | none => .next (finish (ageWaiters none s))
    | some c => stepFragment s c
  else match choose s with
    | none => stepEvent s (Config.eventPick s.tick % s.agenda.length)
    | some c =>
      if Config.eventFirst s.tick then stepEvent s (Config.eventPick s.tick % s.agenda.length) else stepFragment s c

/-! ### A program loaded from outside (log 19) -/

/-- The launch record of the loaded program: a block of 32 threads with every register and every trap to the front. -/
def loadedRecord : List Byte :=
  toBytes 0x10000 8 ++ toBytes 1 4 ++ toBytes 1 4 ++ toBytes 1 4 ++ toBytes 32 2 ++ toBytes 1 2 ++ toBytes 1 2
    ++ toBytes 0 1 ++ toBytes 0 1 ++ toBytes 27 1 ++ List.replicate 227 0

/-- The page tables of the loaded program's ASID 1: virtual page 0x10000 is far frame 0x20, readable, writable,
executable, cacheable and open to user mode (01 R16, R24). -/
def loadedTables (m : Memory) : Memory :=
  let far := Config.farBase
  let m := Cells.store m (far + 16) (far + 0x100000) 8
  let m := Cells.store m (far + 24) 1 8
  let m := Cells.store m (far + 0x100000) ((far + 0x101000) / 4096 * 2 ^ 24 + 1) 8
  let m := Cells.store m (far + 0x101000) ((far + 0x102000) / 4096 * 2 ^ 24 + 1) 8
  let m := Cells.store m (far + 0x102000) ((far + 0x120000) / 4096 * 2 ^ 24 + 1) 8
  Cells.store m (far + 0x120008) (0x20 * 2 ^ 24 + 0x113F) 8

/-- The grid of the loaded program. -/
def loadedGrid : Grid :=
  { gid := 1, record := loadedRecord, recVa := 0, depth := 0, parent := none, queue := none, asid := 1, cls := 1,
    accepted := true, die := 0, turn := 0, next := 1, total := 1, live := 1, children := 0, dead := none, retired := false, mapFault := none,
    privVa := 0, privP := 0, spillVa := 0, spillE := 0, quotas := (512, 512, 512), gear := none, graph := none, service := none }

/-- The state with an instruction word stored where `step` fetches next: as its module loads a program, ASID 1 is given a
page, and a block of one warp on core 0 stands inside a clause of one word, whose header is stored before the word. -/
def State.withFetchWord (s : State) (_nbits w : Nat) : State :=
  let far := Config.farBase + 0x200000
  let mem := loadedTables s.mem
  let mem := Cells.store mem far 0xFC003FC0 4
  let mem := Cells.store mem (far + 4) 0 4
  let mem := Cells.store mem (far + 8) (w % 2 ^ 32) 4
  let f : Frag := { Frag.empty with pc := 0x10008, hdr := 0x10000, inClause := true, h0 := 0xFC003FC0,
                                    mask := 0xFFFFFFFF }
  let wp : Warp := { Warp.empty with launched := 0xFFFFFFFF, allot := 216, frags := [f] }
  let b : Block := { Block.empty with uid := 1, gid := 1, nthreads := 32, st := .running, clusters := [0], cores := [0], slots := [0],
                                      warps := [wp] }
  { s with f := Frag.empty, w := Warp.empty, blk := Block.empty, blocks := [b], grids := [loadedGrid], agenda := [],
           tlb := [], wcache := [], homes := [], icache := [], l2 := [], mem := mem, uid := s.uid + 2, dev := { s.dev with asidbase := BitVec.ofNat 64 Config.farBase } }

end Sys2Proof.Machine
end

