-- ==== Sys2Proof/Safety.lean ====
section
/-!
DEFINITION. What counts as a safe run: the invariants of the state that every step keeps, in the terms that claims use.
-/
namespace Sys2Proof.Machine

/-- Memory, and every sparse file of cells, is in its canonical form. -/
def State.memoryOk (s : State) : Bool := Memory.wf s.mem

/-- A step goes on: it ends neither in a fault nor in a refusal. -/
def goesOn (o : Host.Outcome State Fault Refusal) : Bool :=
  match o with
  | .next _ => true
  | _ => false

end Sys2Proof.Machine
end

