-- ==== Sys2Proof/Certificates/Slice0/Obligations.lean ====
section
/-!
DEFINITION. The statements for the provers. Helpers of the statements stand in `Sys2Proof.Claims`; each statement is a
`def Obligations.<Name> : Prop`.
-/
section

namespace Sys2Proof.Claims
open Sys2Proof.Machine Sys2Proof.Machine.Num

/-! ### What issuing and passing an instruction mean -/

/-- Nothing keeps an instruction from having its own effect: it raises no decode fault (07 R213), does not stall (09 R248,
R249), needs no repatriation (05 R162) and no register that is still to be pulled (05 R160), and is no reissue (07
R210). Each part is a condition on the instruction and the state alone. -/
def Ready (i : Instr) (s : State) : Prop :=
  decodeFault i s = none ∧ stalls i s = false ∧ mustReturn i s = false ∧ unpulled i s = [] ∧ s.f.replay = none

/-- The fragment stands past an instruction of its clause: at the next word, or at the next header after the last (09
R245). Nothing else of the fragment has changed but its operand latch (R251). -/
def Past (s t : State) : Prop :=
  t.f = { s.f with pc := nextPc s.f, inClause := !lastWord s.f, hold := .free, st := .ready, done := 0, count := 0,
                   latch := t.f.latch }

/-- The state from which an instruction's own effect starts: the fragment is ready and no longer held. -/
def started (s : State) : State := { s with f := { s.f with hold := .free, st := .ready } }

/-- The fragment waits at issue with a hold: everything else is as before. -/
def Waits (h : Hold) (s t : State) : Prop := t = { s with f := { s.f with hold := h, st := .ready } }

/-- The same asleep: in a scheduler-visible wait (06 R202). -/
def Sleeps (h : Hold) (s t : State) : Prop := t = { s with f := { s.f with hold := h, st := .sleeping } }

/-- Exports differ at most in the register and predicate values that they hold. -/
def SameExports (s t : State) : Prop :=
  t.w.exps.map (fun e => { e with held := [], dirty := [], pheld := [], pdirty := [] }) =
    s.w.exps.map (fun e => { e with held := [], dirty := [], pheld := [], pdirty := [] })

/-- Everything but the fragment's position and its warp's vector registers is unchanged: all memory, every scalar and
special register, predicate, tile, flag and queue. -/
def OnlyVectors (s t : State) : Prop :=
  t = { s with f := t.f, w := { s.w with v := t.w.v, lastRead := t.w.lastRead, exps := t.w.exps } } ∧ SameExports s t

/-- The same with the predicates. -/
def OnlyPredicates (s t : State) : Prop :=
  t = { s with f := t.f, w := { s.w with p := t.w.p, lastRead := t.w.lastRead, exps := t.w.exps } } ∧ SameExports s t

/-- The same with the scalar registers. -/
def OnlyScalars (s t : State) : Prop := t = { s with f := t.f, w := { s.w with s := t.w.s } }

/-- Nothing but the fragment's position and the last-read marks of its sources has changed since `u`. -/
def OnlyPassed (u t : State) : Prop := t = { u with f := t.f, w := { u.w with lastRead := t.w.lastRead } }

/-! ### The handler (07 R208, R209) -/

/-- A precise delivery or a notice of `kind` to the fragment at the front of `r`: the handler runs in the whole fragment,
at supervisor privilege with a mode of all zeros, at TVEC; the trap registers describe the fault, and the hidden state
holds what `tret` brings back. Nothing else has changed. -/
def Delivered (code kind : Nat) (lanes : Lanes) (va aux : W64) (r t : State) : Prop :=
  t = { r with
    f := { r.f with mode := 0, sup := true, pc := r.w.tvec, inClause := false, latch := [], hold := .free, st := .ready,
                    wave := none, replay := none, more := [], done := 0, count := 0 },
    w := { r.w with
      trapcode := BitVec.ofNat 64 (kind * 256 + code), trapmask := lanes.setWidth 64, trapva := va, trappc := t.w.trappc,
      trapaux := aux, handler := t.w.handler } }
  ∧ ∃ h, t.w.handler = some h ∧ h.mask = r.f.mask ∧ h.mode = r.f.mode ∧ h.hdr = r.f.hdr ∧ h.h0 = r.f.h0 ∧ h.h1 = r.f.h1
    ∧ h.delivered = t.w.trappc ∧ h.lanes = r.f.mask ∧ h.kind.toNat = kind

/-- The block at the front has escalated (07 R211): it and every block of its grid have stopped, no further block of the grid
starts, and the grid's retirement is due. Everything that stopping as for pre-emption cannot change (07 R217) is as before. -/
def Escalated (s t : State) : Prop :=
  (s.blk.st ≠ .none → t.blk.st = .escalated) ∧ (∀ b ∈ t.blocks, b.gid = s.blk.gid → b.st = .escalated) ∧
  (∀ g ∈ t.grids, g.gid = s.blk.gid → g.dead.isSome = true ∧ g.next = g.total) ∧
  (.gridRetirement, .unit s.blk.gid) ∈ t.agenda ∧ (∀ e ∈ s.agenda, e ∈ t.agenda) ∧
  t = { s with
    f := t.f, w := t.w, blk := t.blk, blocks := t.blocks, mem := t.mem, l1 := t.l1, l2 := t.l2, tlb := t.tlb, wcache := t.wcache
    homes := t.homes, opc := t.opc, colls := t.colls, walks := t.walks, ready := t.ready, grids := t.grids, fw := t.fw
    agenda := t.agenda }

/-- The warp can take a fault: it runs no handler, no fault is queued before it, and it has a handler to run (07 R209,
R211). -/
def TakesFaults (s : State) : Prop :=
  s.f.sup = false ∧ s.w.tvec ≠ 0 ∧ s.w.handler = none ∧ s.w.faultq = []

/-- The state from which a fault is delivered: the fragment is no longer held, and a part of an export runs in place
again (05 R162). -/
def atDelivery (s : State) : State := repatriateFront { s with f := { s.f with hold := .free } }

end Sys2Proof.Claims

open Sys2Proof Sys2Proof.Machine Sys2Proof.Machine.Num Sys2Proof.Claims

/-! ## The machine -/

/-- 09 R245, 10 R276: a step runs the instruction that stands at the program counter. Where the module issues (no event
is due, or the free value of log 1 lets an instruction go first) for the fragment that its core chooses, that fragment
stands in a clause, and the four bytes fetched at its program counter decode to an instruction, `step` is `exec` of that
instruction at the state with the fetch's translation kept, followed by `finish` (joins settle, time passes). The
model's own choices here: the order of agents (log 1) and the passing of time (log 9). -/
def Obligations.StepRunsDecoded : Prop :=
  ∀ (s : State) (c : Cand) (s' u : State) (w : Nat) (i : Instr),
    running s = true → (s.agenda = [] ∨ Config.eventFirst s.tick = false) → choose s = some c →
    s' = (let x := focus (ageWaiters (some c) s) c.blk c.wp c.ent
          { x with f := { x.f with waited := 0, promoted := none } }) →
    (canWave s' s'.blk s'.w s'.f = false ∨ headerDone s' = true) → s'.f.replay = none → s'.f.inClause = true →
    fetch s' s'.f.pc 4 = .ok (w, u) → decodeTableWord 32 w = some i → (isTransfer i = true → lastWord s'.f = true) →
    step s = (match exec i u with
      | .next t => .next (finish t)
      | .fault r => .fault r
      | .refused r => .refused r)

/-- Where no instruction can issue, or the free value of log 1 puts a due event first, a step performs the due event
that the free value picks (what arrives on one queue pair in order, 03 R116, and remaps in theirs, 15 R415), with the
event's argument before it, the event taken off the agenda and the time that ready fragments wait counted (06 R181). The
model's own choices here: the order of agents (log 1). -/
def Obligations.StepPerformsDueEvents : Prop :=
  ∀ (s : State) (i : Instr) (a : EvArg),
    running s = true → s.agenda ≠ [] → (choose s = none ∨ Config.eventFirst s.tick = true) →
    s.agenda[duePlace s (Config.eventPick s.tick % s.agenda.length)]? = some (i, a) → admitted s i = true →
    step s = (match exec i { ageWaiters none s with
                                    arg := a
                                    agenda := s.agenda.eraseIdx (duePlace s (Config.eventPick s.tick % s.agenda.length)) } with
      | .next t => .next (finish t)
      | .fault r => .fault r
      | .refused r => .refused r)

/-- 19 R441: every instruction and every event answers a next state in every state, and a step stops in one case only, the
module held in reset (it is not running) with nothing due, under the fault's own name. That a step of a module held in
reset is a fault is the model's choice (log 1). -/
def Obligations.StepStopsOnlyInReset : Prop :=
  (∀ (i : Instr) (s : State), ∃ t, exec i s = .next t) ∧
  ∀ s : State, (running s = false ∧ s.agenda = [] → step s = .fault .heldInReset) ∧
    (running s = true ∨ s.agenda ≠ [] → ∃ t, step s = .next t)

/-- Memory stays in its canonical form (addresses strictly rising, no listed byte equal to what an unlisted address
reads as): if it has that form, it has it after any step. The model's own choices here: the canonical form, which is its
representation (log 2). -/
def Obligations.MemoryStaysCanonical : Prop :=
  ∀ s t : State, Memory.wf s.mem = true → step s = .next t → Memory.wf t.mem = true

/-- 19 R437, 01 R19, R37, 15 R417: the state right after a start. No queue, no grid and no block exist, no event is due;
memory reads 0 at every address; the ASID table is empty (its base register is 0) and NEARSPLIT is 0; RAMPCFG is at its
reset values 200, 4 and 8; the accumulator quotas are 512 each; the memory map's registers are still open. The model's
own choices here: an empty agenda (log 1). -/
def Obligations.ResetValues : Prop :=
  State.reset.queues = [] ∧ State.reset.grids = [] ∧ State.reset.blocks = [] ∧ State.reset.agenda = [] ∧
  (∀ pa n, physRead State.reset pa n = 0) ∧ State.reset.dev.asidbase = 0 ∧ State.reset.dev.nearsplit = 0 ∧
  State.reset.dev.rampLimit = 200 ∧ State.reset.dev.rampStag = 4 ∧ State.reset.dev.rampSlope = 8 ∧
  State.reset.quotas = (512, 512, 512) ∧ State.reset.dev.open_ = true ∧ running State.reset = true

/-- The canonical form holds at reset. -/
def Obligations.ResetMemoryCanonical : Prop := Memory.wf State.reset.mem = true

/-- 10 R298: the L-class layouts, with every value of every field: bits 31:28 are 0b1110, bits 27:26 tell `li.v`, `lui.v`,
`li.s` and `mode` apart, and the fields stand at 25:18 and 17:0, at 25:20 and 19:0, and at 25:0. Words whose d is 224 or
more (09 R266), and images with a nonzero bit among 7:0 (10 R301), are no instruction. 09 R259 to R266: some words of
other classes, written out from the encoding tables, decode to the instructions they stand for. -/
def Obligations.WordsDecode : Prop :=
  (∀ (d : BitVec 8) (imm : BitVec 18),
    decodeTableWord 32 (0b1110 * 2 ^ 28 + 0b00 * 2 ^ 26 + d.toNat * 2 ^ 18 + imm.toNat) =
      (if d.toNat < 224 then some (.liV d imm) else none) ∧
    decodeTableWord 32 (0b1110 * 2 ^ 28 + 0b01 * 2 ^ 26 + d.toNat * 2 ^ 18 + imm.toNat) =
      (if d.toNat < 224 then some (.luiV d imm) else none)) ∧
  (∀ (sd : BitVec 6) (imm : BitVec 20),
    decodeTableWord 32 (0b1110 * 2 ^ 28 + 0b10 * 2 ^ 26 + sd.toNat * 2 ^ 20 + imm.toNat) = some (.liS sd imm)) ∧
  (∀ image : BitVec 26, decodeTableWord 32 (0b1110 * 2 ^ 28 + 0b11 * 2 ^ 26 + image.toNat) =
    (if image.toNat % 2 ^ 8 = 0 then some (.mode image) else none)) ∧
  decodeTableWord 32 0x00030201 = some (.add 3 2 1) ∧ decodeTableWord 32 0xC0051600 = some (.sAdd 5 5 32) ∧
  decodeTableWord 32 0xC4861BFF = some (.sAddi 6 6 0x3FF) ∧ decodeTableWord 32 0xC7480C10 = some (.sLdacq 8 3 16) ∧
  decodeTableWord 32 0xC9010830 = some (.pAnd 1 2 3) ∧ decodeTableWord 32 0xCB400008 = some (.part 8) ∧
  decodeTableWord 32 0x58080205 = some (.pub 8 2 5)

/-- 09 R246 to R266: for every well-formed instruction that has a word, decoding the word gives the instruction back, with
every operand at every value that the encoding admits. -/
def Obligations.DecodeEncode : Prop :=
  ∀ (i : Instr) (w : Nat), i.wellFormed = true → Decode.encodeNat i = some w → w < 2 ^ 32 ∧ decodeTableWord 32 w = some i

/-! ## Exceptions -/

/-- 07 R209, R212, R213: a decode fault (ILL 0x01, PRIV 0x02, REG 0x03, DIVSW 0x04, the first of them in that order) is
delivered precisely in the whole fragment, with TRAPAUX holding the instruction word and TRAPPC the instruction's
address; the instruction has no effect. R213, R206: a word that is not well formed is ILL; failing that, in user
privilege a supervisor instruction, a k register or a scalar from s56 up is PRIV; a vector register at or above the
allotment is REG; a scalar below s56 written by a divergent fragment is DIVSW. The model's own choices here: ILL for
sixteen registers that run past v215 (log 42). -/
def Obligations.DecodeFaultsAreDelivered : Prop :=
  (∀ (i : Instr) (s : State) (c : BitVec 8), decodeFault i s = some c → TakesFaults s → s.f.replay = none →
    (c = 1 ∨ c = 2 ∨ c = 3 ∨ c = 4) ∧
    ∃ t, exec i s = .next t ∧ t.w.trappc = s.f.pc ∧
      Delivered c.toNat 0 s.f.mask 0 (BitVec.ofNat 64 ((Decode.encodeNat i).getD 0)) (atDelivery s) t) ∧
  ∀ (i : Instr) (s : State),
    (i.wellFormed = false → decodeFault i s = some 1) ∧
    (decodeFault i s ≠ some 1 → s.f.sup = false →
      ((operands s i).sup = true ∨ (∃ n, n ∈ (operands s i).sr ++ (operands s i).sw ∧ 56 ≤ n) ∨
        (∃ r, r ∈ (operands s i).reads ++ (operands s i).vw ∧ 216 ≤ r.1 ∧ r.1 < 224)) → decodeFault i s = some 2) ∧
    (decodeFault i s ≠ some 1 → decodeFault i s ≠ some 2 →
      (∃ r, r ∈ (operands s i).reads ++ (operands s i).vw ∧ r.1 < 216 ∧ s.w.allot < r.1 + r.2) → decodeFault i s = some 3) ∧
    (decodeFault i s ≠ some 1 → decodeFault i s ≠ some 2 → decodeFault i s ≠ some 3 → s.f.mask ≠ 0 → s.w.frags ≠ [] →
      (∃ n, n ∈ (operands s i).sw ∧ n < 56) → decodeFault i s = some 4)

/-- 07 R211, R209: a fault met by a handler, or by a warp whose TVEC is 0, escalates: no handler runs, firmware receives a
record of it, the block and the grid's other blocks stop, the grid starts no further block, and its retirement is due.
The blocks stop as for pre-emption (07 R217), which may return exports, spill join-stack levels, send collector groups,
suspend walks and write lines back; nothing else changes. -/
def Obligations.FaultsEscalate : Prop :=
  ∀ (i : Instr) (s : State) (c : BitVec 8), decodeFault i s = some c → s.f.replay = none →
    (s.f.sup = true ∨ (s.w.tvec = 0 ∧ s.w.handler = none ∧ s.w.faultq = [])) →
    ∃ t, exec i s = .next t ∧ Escalated s t ∧
      ∃ r, t.fw = r :: s.fw ∧ r.code = c ∧ r.mask = s.f.mask ∧ r.pc = s.f.pc ∧ r.gid = s.blk.gid

/-- 07 R210, 14 R401: `tret` in the last handler fragment, once the handler's own operations have completed. After a
precise delivery or a notice the fragment has the lanes that the handler still held, after any other delivery those and
the lanes that were not the handler's; exited lanes never return. It has its mode, clause and user privilege back, and a
clause header at which it waited for flags still waits for them (kinds 1 and 2); after
a precise delivery or a notice whose TRAPPC the handler left as it was it stands where it stood, and where the handler
wrote TRAPPC it stands there, at a clause header. A pending part of an instruction is reissued for its lanes that have
not exited, or with SKIP (TRAPCODE bit 17) its parts are discarded. Registers and memory are as the handler left them. -/
def Obligations.TretReturns : Prop :=
  ∀ (s : State) (h : Handler), Ready .tret s → s.f.sup = true → s.w.handler = some h → h.replays = [] → s.w.faultq = [] →
    (∀ x ∈ s.w.frags, x.sup = false) → s.w.pend.all (fun p => !p.sup) = true →
    (h.part = .none ∨ (h.kind ≠ 0 ∧ h.kind ≠ 3 ∧ ∃ r, h.part = .instr r)) →
    ∃ t, exec .tret s = .next t ∧
      t.f.mask = (if h.kind = 0 ∨ h.kind = 3 then s.f.mask else (h.mask &&& ~~~h.lanes) ||| s.f.mask) &&& ~~~s.w.exited ∧
      t.f.mode = h.mode ∧ t.f.sup = false ∧ t.f.hdr = h.hdr ∧ t.f.h0 = h.h0 ∧ t.f.h1 = h.h1 ∧ t.f.wave = h.wave ∧
      t.f.hold = (if h.kind ≠ 0 ∧ h.kind ≠ 3 ∧ h.wait ≠ 0 then .flags h.wait else .free) ∧
      t.f.st = .ready ∧ t.f.more = [] ∧
      (if (h.kind = 0 ∨ h.kind = 3) ∧ s.w.trappc ≠ h.delivered then t.f.pc = s.w.trappc ∧ t.f.inClause = false
       else t.f.pc = h.pc ∧ t.f.inClause = h.inClause) ∧
      (h.part = .none → t.f.replay = none ∧ t = { s with f := t.f, w := { s.w with handler := none } }) ∧
      (∀ r, h.part = .instr r →
        t = { s with f := t.f, w := { s.w with handler := none, pend := t.w.pend, lastRead := t.w.lastRead } } ∧
        if s.w.trapcode.getLsbD 17 = true then t.f.replay = none ∧ t.w.pend = (dropLanes s r.id r.lanes).w.pend
        else t.w.pend = (dropLanes s r.id (r.lanes &&& s.w.exited)).w.pend ∧
          if r.lanes &&& ~~~s.w.exited = 0 then t.f.replay = none
          else t.f.replay = some { r with lanes := r.lanes &&& ~~~s.w.exited } ∧ t.w.lastRead = s.w.lastRead)

/-! ## Scalar results (10 R289, R294, R300) -/

namespace Sys2Proof.Claims
open Sys2Proof.Machine Sys2Proof.Machine.Num


/-- The scalar instructions of fixed latency that write one scalar: destination and value. -/
def scalarResult (s : State) : Instr → Option (BitVec 6 × W64)
  | .sAdd sd sa sb => some (sd, BitVec.ofNat 64 ((readS s sa.toNat).toNat + (readS s sb.toNat).toNat))
  | .sSub sd sa sb => some (sd, BitVec.ofInt 64 ((readS s sa.toNat).toInt - (readS s sb.toNat).toInt))
  | .sMul sd sa sb => some (sd, BitVec.ofNat 64 ((readS s sa.toNat).toNat * (readS s sb.toNat).toNat))
  | .sMulh sd sa sb => some (sd, BitVec.ofInt 64 ((readS s sa.toNat).toInt * (readS s sb.toNat).toInt / 2 ^ 64))
  | .sAnd sd sa sb => some (sd, readS s sa.toNat &&& readS s sb.toNat)
  | .sOr sd sa sb => some (sd, readS s sa.toNat ||| readS s sb.toNat)
  | .sXor sd sa sb => some (sd, readS s sa.toNat ^^^ readS s sb.toNat)
  | .sShl sd sa sb => some (sd, BitVec.ofNat 64 ((readS s sa.toNat).toNat * 2 ^ ((readS s sb.toNat).toNat % 64)))
  | .sShr sd sa sb => some (sd, BitVec.ofNat 64 ((readS s sa.toNat).toNat / 2 ^ ((readS s sb.toNat).toNat % 64)))
  | .sSar sd sa sb => some (sd, (readS s sa.toNat).sshiftRight ((readS s sb.toNat).toNat % 64))
  | .sMin sd sa sb => some (sd, if (readS s sb.toNat).toInt < (readS s sa.toNat).toInt then readS s sb.toNat else readS s sa.toNat)
  | .sMax sd sa sb => some (sd, if (readS s sa.toNat).toInt < (readS s sb.toNat).toInt then readS s sb.toNat else readS s sa.toNat)
  | .sMinu sd sa sb => some (sd, BitVec.ofNat 64 (min (readS s sa.toNat).toNat (readS s sb.toNat).toNat))
  | .sMaxu sd sa sb => some (sd, BitVec.ofNat 64 (max (readS s sa.toNat).toNat (readS s sb.toNat).toNat))
  | .sMov sd sa => some (sd, readS s sa.toNat)
  | .sCeq sd sa sb => some (sd, if readS s sa.toNat = readS s sb.toNat then 1 else 0)
  | .sClt sd sa sb => some (sd, if (readS s sa.toNat).toInt < (readS s sb.toNat).toInt then 1 else 0)
  | .sCltu sd sa sb => some (sd, if (readS s sa.toNat).toNat < (readS s sb.toNat).toNat then 1 else 0)
  | .sAddi sd sa imm => some (sd, readS s sa.toNat + imm.signExtend 64)
  | .sAndi sd sa imm => some (sd, readS s sa.toNat &&& imm.signExtend 64)
  | .sOri sd sa imm => some (sd, readS s sa.toNat ||| imm.signExtend 64)
  | .sXori sd sa imm => some (sd, readS s sa.toNat ^^^ imm.signExtend 64)
  | .sShli sd sa imm => some (sd, BitVec.ofNat 64 ((readS s sa.toNat).toNat * 2 ^ (imm.toNat % 64)))
  | .sShri sd sa imm => some (sd, BitVec.ofNat 64 ((readS s sa.toNat).toNat / 2 ^ (imm.toNat % 64)))
  | .sMuli sd sa imm => some (sd, readS s sa.toNat * imm.signExtend 64)
  | .sPopc sd sa => some (sd, BitVec.ofNat 64 ((List.range 64).filter (fun i => (readS s sa.toNat).getLsbD i)).length)
  | .sClz sd sa => some (sd, BitVec.ofNat 64 (((List.range 64).find? (fun i => (readS s sa.toNat).getLsbD (63 - i))).getD 64))
  | .liS sd imm => some (sd, imm.signExtend 64)
  | .pGet sd pa => some (sd, (mkLanes (fun l => s.f.mask.getLsbD l && predBit s pa.toNat l)).setWidth 64)
  | .pPop sd pa => some (sd, BitVec.ofNat 64 (laneList.filter (fun l => s.f.mask.getLsbD l && predBit s pa.toNat l)).length)
  | .pFfs sd pa => some (sd, BitVec.ofNat 64 ((laneList.find? (fun l => s.f.mask.getLsbD l && predBit s pa.toNat l)).getD 32))
  | .sSrd sd idx => some (sd, special s idx.toNat)
  | _ => none

/-- The predicate instructions: destination and the bit that each lane receives (10 R294). -/
def predicateResult (s : State) : Instr → Option (BitVec 3 × (Nat → Bool))
  | .pAnd pd pa pb => some (pd, fun l => predBit s pa.toNat l && predBit s pb.toNat l)
  | .pOr pd pa pb => some (pd, fun l => predBit s pa.toNat l || predBit s pb.toNat l)
  | .pXor pd pa pb => some (pd, fun l => xor (predBit s pa.toNat l) (predBit s pb.toNat l))
  | .pAndn pd pa pb => some (pd, fun l => predBit s pa.toNat l && !predBit s pb.toNat l)
  | .pNot pd pa => some (pd, fun l => !predBit s pa.toNat l)
  | .pMov pd sa => some (pd, fun l => (readS s sa.toNat).getLsbD l)
  | _ => none

/-! ### Vector results of fixed latency (11 R304 to R319, R327; 10 R299) -/

/-- The lanes of the write set (11 R304): the active lanes, or every lane of the warp under NOMASK, lanes 0 to 3 of a narrow
core's own. -/
def writeLanesOf (s : State) : Lanes :=
  mkLanes (fun l => if modeNomask s then !narrow s || decide (l < 4)
    else s.f.mask.getLsbD l && (predBit s (modeGuard s) l != modeGinv s))

/-- The vector instructions of fixed latency: the lanes written, the registers of the destination, its field, and each
lane's result from the lane's sources as they are read. -/
def laneResult (s : State) (i : Instr) : Option (Lanes × Nat × BitVec 8 × (Nat → Nat)) :=
  let t := modeType s
  let m := md s
  let n := opWidth s
  let w := writeLanesOf s
  let x := fun (a : BitVec 8) l => srcN s n a.toNat l
  let two := fun (d a b : BitVec 8) (f : Nat → Md → Nat → Nat → Nat) => some (w, n, d, fun l => f t m (x a l) (x b l))
  let three := fun (d a b : BitVec 8) (f : Nat → Md → Nat → Nat → Nat → Nat) =>
    some (w, n, d, fun l => f t m (x d l) (x a l) (x b l))
  let one := fun (d a : BitVec 8) (f : Nat → Md → Nat → Nat) => some (w, n, d, fun l => f t m (x a l))
  let imm := fun (d a : BitVec 8) (k : BitVec 10) (f : Nat → Md → Nat → Nat → Nat) =>
    some (w, n, d, fun l => f t m (x a l) (immVal t (modeRnd s) k))
  let word := fun (d a : BitVec 8) (k : BitVec 10) (f : Nat → Nat → Nat) =>
    some (w, n, d, fun l => wordV t f (x a l) (ofInt true false (if 12 ≤ t then 32 else width t) k.toInt))
  match i with
  | .add d a b => two d a b addV
  | .sub d a b => two d a b subV
  | .mul d a b => two d a b mulV
  | .mulhi d a b => two d a b mulhiV
  | .fma d a b => three d a b fmaV
  | .fms d a b => three d a b fmsV
  | .fnma d a b => three d a b fnmaV
  | .min d a b => two d a b (fun t m => minMax t m.ftz false)
  | .max d a b => two d a b (fun t m => minMax t m.ftz true)
  | .abd d a b => two d a b abdV
  | .and d a b => two d a b andV
  | .or d a b => two d a b orV
  | .xor d a b => two d a b xorV
  | .andn d a b => two d a b andnV
  | .shl d a b => two d a b shlV
  | .shr d a b => two d a b shrV
  | .rot d a b => two d a b rotV
  | .sel d a b => some (mkLanes (fun l => if modeNomask s then !narrow s || decide (l < 4) else s.f.mask.getLsbD l), n, d,
      fun l => wordV t (fun x _ => x) (x (if guardBit s l then a else b) l) 0)
  | .mov d a => one d a (fun t _ x => wordV t (fun x _ => x) x 0)
  | .neg d a => one d a negV
  | .abs d a => one d a absV
  | .popc d a => one d a popcV
  | .clz d a => one d a clzV
  | .brev d a => one d a brevV
  | .bfe d a b => two d a b bfeV
  | .bfi d a b => three d a b bfiV
  | .mulw d a b => some (w, 2, d, fun l => mulwV t (src32 s a.toNat l).toNat (src32 s b.toNat l).toNat)
  | .dot2 d a b => three d a b dot2V
  | .dot4 d a b => three d a b (fun _ m => dot4V m)
  | .pack d a b => two d a b packV
  | .unplo d a => one d a (unpV 0)
  | .unphi d a => one d a (unpV 1)
  | .clamp d a b => three d a b clampV
  | .csgn d a b => two d a b csgnV
  | .fract d a => one d a fractV
  | .rnd d a => one d a rndV
  | .scl d a b => two d a b sclV
  | .cvt d a dt us _ =>
    if us = 0 then some (w, if wide dt.toNat then 2 else 1, d, fun l => cvtPlain t dt.toNat m (x a l)) else none
  | .addi d a k => imm d a k addV
  | .andi d a k => word d a k (· &&& ·)
  | .ori d a k => word d a k (· ||| ·)
  | .xori d a k => word d a k (· ^^^ ·)
  | .shli d a k => one d a (fun t m x => shlV t m x (pack (width t) (List.replicate (elems t) (k.toNat % width t))))
  | .shri d a k => one d a (fun t m x => shrV t m x (pack (width t) (List.replicate (elems t) (k.toNat % width t))))
  | .muli d a k => imm d a k mulV
  | .mini d a k => imm d a k (fun t m => minMax t m.ftz false)
  | .maxi d a k => imm d a k (fun t m => minMax t m.ftz true)
  | .liV d k => some (w, 1, d, fun _ => (k.signExtend 32).toNat)
  | .luiV d k => some (w, 1, d, fun l => (src32 s d.toNat l).toNat % 2 ^ 14 + k.toNat * 2 ^ 14)
  | _ => none

/-- The compares (11 R316, R327): the predicate and each lane's bit. -/
def compareResult (s : State) (i : Instr) : Option (BitVec 3 × (Nat → Bool)) :=
  let t := modeType s
  let m := md s
  let x := fun (a : BitVec 8) l => srcN s (opWidth s) a.toNat l
  let two := fun (p : BitVec 3) (a b : BitVec 8) (f : Int → Bool) (u : Bool) =>
    some (p, fun l => cmpV t m f u (x a l) (x b l))
  let imm := fun (p : BitVec 3) (a : BitVec 8) (k : BitVec 10) (f : Int → Bool) =>
    some (p, fun l => cmpV t m f false (x a l) (immVal t (modeRnd s) k))
  match i with
  | .ceq p a b => two p a b (fun z => z == 0) false
  | .cne p a b => two p a b (fun z => z != 0) true
  | .clt p a b => two p a b (fun z => decide (z < 0)) false
  | .cle p a b => two p a b (fun z => decide (z ≤ 0)) false
  | .cgt p a b => two p a b (fun z => decide (0 < z)) false
  | .cge p a b => two p a b (fun z => decide (0 ≤ z)) false
  | .cun p a b => two p a b (fun _ => false) true
  | .ccls p a c => some (p, fun l => c.getLsbD (classOf t (modeFtz s) (x a l)))
  | .ceqi p a k => imm p a k (fun z => z == 0)
  | .clti p a k => imm p a k (fun z => decide (z < 0))
  | .cgti p a k => imm p a k (fun z => decide (0 < z))
  | _ => none

end Sys2Proof.Claims

/-- 10 R289, R294, R300, 09 R256: scalar arithmetic, shifts, compares, bit counts, immediate loads, predicate reads and
special-register reads write their result to the destination and nothing else; a write to s0 is discarded and s0 reads
0. -/
def Obligations.ScalarResults : Prop :=
  ∀ (i : Instr) (s : State) (sd : BitVec 6) (v : W64), scalarResult s i = some (sd, v) → Ready i s →
    ∃ t, exec i s = .next t ∧ Past s t ∧ OnlyScalars s t ∧ readS t sd.toNat = (if sd = 0 then 0 else v) ∧
      ∀ n, n ≠ sd.toNat → readS t n = readS s n

/-- 09 R256: the 6-bit fields sd, sa and sb of a scalar instruction name s0 to s63; s56 to s63 are the supervisor's, and
naming one at user privilege raises PRIV; s0 reads zero and a write to it is discarded; a write to p0 is discarded, and p0
reads all ones. -/
def Obligations.HardwiredRegisters : Prop :=
  (∀ sd sa sb : BitVec 6, decodeTableWord 32 (0xC0000000 + sd.toNat * 2 ^ 16 + sa.toNat * 2 ^ 10 + sb.toNat * 2 ^ 4) = some (.sAdd sd sa sb)) ∧
  (∀ (s : State) (sd sa sb : BitVec 6), Ready (.sAdd sd sa sb) s →
    ∃ t, exec (.sAdd sd sa sb) s = .next t ∧ Past s t ∧ OnlyScalars s t ∧
      ∀ n, readS t n = if n = sd.toNat ∧ n ≠ 0 then readS s sa.toNat + readS s sb.toNat else readS s n) ∧
  (∀ (i : Instr) (s : State) (n : Nat), decodeFault i s ≠ some 1 → s.f.sup = false → n ∈ (operands s i).sr ++ (operands s i).sw → 56 ≤ n →
    decodeFault i s = some 2) ∧
  (∀ (s : State) (sd sa sb : BitVec 6), decodeFault (.sAdd sd sa sb) s ≠ some 1 → s.f.sup = false →
    56 ≤ sd.toNat ∨ 56 ≤ sa.toNat ∨ 56 ≤ sb.toNat → decodeFault (.sAdd sd sa sb) s = some 2) ∧
  (∀ s : State, readS s 0 = 0 ∧ ∀ l, predBit s 0 l = true) ∧
  ∀ (s : State) (pa pb : BitVec 3), Ready (.pAnd 0 pa pb) s →
    ∃ t, exec (.pAnd 0 pa pb) s = .next t ∧ Past s t ∧ ∀ q l, q < 8 → l < 32 → filePred t q l = filePred s q l ∧ predBit t 0 l = true

/-- 09 R267: what `s.srd` reads in the identification, trap and supervisor registers of a block of a grid whose launch
record gives it a block of `dx` by `dy` threads. CLOCK counts the cycles of the executing core, up to what the count of one
core lags behind the module's (log 9). -/
def Obligations.SpecialRegisterValues : Prop :=
  ∀ (s : State) (dx dy : Nat), rec s 0x14 2 = dx → rec s 0x16 2 = dy → 0 < dx → 0 < dy →
    special s 0x000 = BitVec.ofNat 64 (lowLane s.f.mask) ∧
    special s 0x001 = BitVec.ofNat 64 (s.w.idx % 2 ^ 16) ∧
    special s 0x002 = BitVec.ofNat 64 (s.blk.bx % 2 ^ 32) ∧ special s 0x003 = BitVec.ofNat 64 (s.blk.byy % 2 ^ 32) ∧
    special s 0x004 = BitVec.ofNat 64 (s.blk.bz % 2 ^ 32) ∧
    (let n := s.w.idx * (if narrow s then 4 else 32) + lowLane s.f.mask
     special s 0x005 = BitVec.ofNat 64 (n % dx) ∧ special s 0x006 = BitVec.ofNat 64 (n / dx % dy) ∧
     special s 0x007 = BitVec.ofNat 64 (n / (dx * dy))) ∧
    special s 0x008 = BitVec.ofNat 64 (s.blk.gid % 2 ^ 32) ∧
    special s 0x010 = s.f.mode.setWidth 64 ∧ special s 0x011 = BitVec.ofNat 64 s.w.part ∧
    special s 0x012 = s.w.acb.setWidth 64 ∧ special s 0x013 = s.w.xthr.setWidth 64 ∧ special s 0x014 = s.w.twbase ∧
    special s 0x015 = (if s.f.exp = none then 0 else 1) ∧ special s 0x021 = BitVec.ofNat 64 (s.timeUnits / 5045040) ∧
    (s.f.exp = none → special s 0x020 = BitVec.ofNat 64 (s.cycles - Config.clockSkew s.w.core)) ∧
    special s 0x100 = s.w.trapcode ∧ special s 0x101 = s.w.trapmask ∧ special s 0x102 = s.w.trapva ∧
    special s 0x103 = s.w.trappc ∧ special s 0x104 = s.w.trapaux ∧ special s 0x105 = s.w.tvec ∧ special s 0x106 = s.w.pool

/-- 10 R294, 09 R256: predicate instructions write the lanes of MASK, or every lane under NOMASK; other lanes and other
predicates keep their values, and p0 is never written. -/
def Obligations.PredicateResults : Prop :=
  ∀ (i : Instr) (s : State) (p : BitVec 3) (g : Nat → Bool), predicateResult s i = some (p, g) → Ready i s →
    ∃ t, exec i s = .next t ∧ Past s t ∧ OnlyPredicates s t ∧
      (∀ l, l < 32 → filePred t p.toNat l =
        if p ≠ 0 ∧ (modeNomask s = true ∨ s.f.mask.getLsbD l = true) then g l else filePred s p.toNat l) ∧
      ∀ q l, q < 8 → q ≠ p.toNat → l < 32 → filePred t q l = filePred s q l

/-- 11 R304 to R319, R327, 10 R299: vector instructions of fixed latency write the result of each lane of the write set,
from the lane's sources, into the destination register or pair, and no other lane or register. -/
def Obligations.LaneResults : Prop :=
  ∀ (i : Instr) (s : State) (m : Lanes) (n : Nat) (d : BitVec 8) (g : Nat → Nat), laneResult s i = some (m, n, d, g) →
    Ready i s →
    ∃ t, exec i s = .next t ∧ Past s t ∧ OnlyVectors s t ∧
      (∀ j l, j < n → m.getLsbD l = true → readLane t (d.toNat + j) l = BitVec.ofNat 32 (g l / 2 ^ (32 * j))) ∧
      ∀ r l, r < 224 → l < 32 → ¬(d.toNat ≤ r ∧ r < d.toNat + n ∧ m.getLsbD l = true) →
        fileLane t (regKey r l) = fileLane s (regKey r l)

/-- 11 R316, R327: compares write the lanes of the write set of one predicate, and nothing else. -/
def Obligations.CompareResults : Prop :=
  ∀ (i : Instr) (s : State) (p : BitVec 3) (g : Nat → Bool), compareResult s i = some (p, g) → Ready i s →
    ∃ t, exec i s = .next t ∧ Past s t ∧ OnlyPredicates s t ∧
      (∀ l, l < 32 → filePred t p.toNat l =
        if p ≠ 0 ∧ (writeLanesOf s).getLsbD l = true then g l else filePred s p.toNat l) ∧
      ∀ q l, q < 8 → q ≠ p.toNat → l < 32 → filePred t q l = filePred s q l

/-- 11 R310: `addc` and `subb` add and subtract 32-bit unsigned words with the carry or borrow of p7, and leave the new one
in p7, in exactly the lanes of the write set, which a guard on p7 selects by its value before the instruction. SAT is not
among what they read. Types other than i32 (0) and n32 (1) are ILL. -/
def Obligations.CarryResults : Prop :=
  decodeTableWord 32 0x26040203 = some (.addc 4 2 3) ∧
  (∀ (s : State) (d a b : BitVec 8), modeType s ≠ 0 → modeType s ≠ 1 →
    decodeFault (.addc d a b) s = some 1 ∧ decodeFault (.subb d a b) s = some 1) ∧
  ∀ (s : State) (d a b : BitVec 8) (sub : Bool),
    let i := if sub then Instr.subb d a b else Instr.addc d a b
    let m := writeLanesOf s
    let c := fun l => if predBit s 7 l then 1 else 0
    let x := fun l => (src32 s a.toNat l).toNat
    let y := fun l => (src32 s b.toNat l).toNat
    Ready i s →
    ∃ t, exec i s = .next t ∧ Past s t ∧
      t = { s with f := t.f, w := { s.w with v := t.w.v, p := t.w.p, lastRead := t.w.lastRead, exps := t.w.exps } } ∧
      SameExports s t ∧
      (∀ l, m.getLsbD l = true →
        readLane t d.toNat l = (if sub then src32 s a.toNat l - src32 s b.toNat l - BitVec.ofNat 32 (c l)
          else src32 s a.toNat l + src32 s b.toNat l + BitVec.ofNat 32 (c l)) ∧
        filePred t 7 l = (if sub then decide (x l < y l + c l) else decide (2 ^ 32 ≤ x l + y l + c l))) ∧
      (∀ r l, r < 224 → l < 32 → ¬(r = d.toNat ∧ m.getLsbD l = true) → fileLane t (regKey r l) = fileLane s (regKey r l)) ∧
      ∀ q l, q < 8 → l < 32 → ¬(q = 7 ∧ m.getLsbD l = true) → filePred t q l = filePred s q l

/-- 11 R307 to R309, R315: the results of 32-bit integer instructions, as arithmetic of 32-bit words: wrapping sums,
differences and products (without SAT), shifts by the count modulo 32, signed and unsigned order. The types are i32 (code
0) and u32 (code 1). -/
def Obligations.IntegerArithmetic : Prop :=
  ∀ (m : Md) (x y z : W32), m.sat = false →
    (∀ t, t ≤ 1 → addV t m x.toNat y.toNat = (x + y).toNat ∧ subV t m x.toNat y.toNat = (x - y).toNat ∧
      mulV t m x.toNat y.toNat = (x * y).toNat ∧ fmaV t m z.toNat x.toNat y.toNat = (x * y + z).toNat ∧
      negV t m x.toNat = (-x).toNat ∧ andV t m x.toNat y.toNat = (x &&& y).toNat ∧
      orV t m x.toNat y.toNat = (x ||| y).toNat ∧ xorV t m x.toNat y.toNat = (x ^^^ y).toNat ∧
      andnV t m x.toNat y.toNat = (x &&& ~~~y).toNat ∧ shlV t m x.toNat y.toNat = (x <<< (y.toNat % 32)).toNat) ∧
    shrV 1 m x.toNat y.toNat = (x >>> (y.toNat % 32)).toNat ∧
    shrV 0 m x.toNat y.toNat = (x.sshiftRight (y.toNat % 32)).toNat ∧
    minMax 1 m.ftz false x.toNat y.toNat = min x.toNat y.toNat ∧ minMax 1 m.ftz true x.toNat y.toNat = max x.toNat y.toNat ∧
    minMax 0 m.ftz false x.toNat y.toNat = (if y.toInt < x.toInt then y else x).toNat ∧
    mulhiV 1 m x.toNat y.toNat = x.toNat * y.toNat / 2 ^ 32 ∧
    (y ≠ 0 → divV 1 m x.toNat y.toNat = x.toNat / y.toNat) ∧ divV 1 m x.toNat 0 = 2 ^ 32 - 1 ∧
    rotV 1 m x.toNat y.toNat = (x.rotateLeft (y.toNat % 32)).toNat

namespace Sys2Proof.Claims
open Sys2Proof.Machine Sys2Proof.Machine.Num

/-! ### Operations that land later (09 R248, R249) -/

/-- The record of an operation under a completion flag, with the register lanes that it will write once their values are
known. -/
def operation (s : State) (flag : Nat) (whole : Bool) (u : PendUnit) (lanes : Lanes) (lands : List Landing)
    (owes : List Nat := []) : Pend :=
  { id := s.uid, flag := BitVec.ofNat 4 flag, perLane := !whole, sup := s.f.sup, unit := u, lanes := lanes, all := lanes,
    lands := lands, owes := owes, own := s.f.mask, marks := [], reads := [], losses := 0, src := none, left := 0 }

/-- The words of a value in `n` registers of a lane, as they will land. -/
def landWords (n d l v : Nat) : List Landing :=
  (List.range n).map (fun j => .lane (regKey (d + j) l) (BitVec.ofNat 32 (v / 2 ^ (32 * j))))

/-- The active lanes (11 R304). -/
def activeLanesOf (s : State) : Lanes :=
  mkLanes (fun l => s.f.mask.getLsbD l && (predBit s (modeGuard s) l != modeGinv s))

/-- The active lanes of a lane's partition group, ascending (05 R165, 11 R322). -/
def groupOf (s : State) (l : Nat) : List Nat :=
  (lanesOf (activeLanesOf s)).filter (fun j => j / s.w.part * s.w.part == l / s.w.part * s.w.part)

/-- The value that a shuffle moves from lane `j` to lane `l`: 0 from outside the group and from a lane that is not active
(11 R322). -/
def fromLane (s : State) (a : BitVec 8) (l j : Nat) : Nat :=
  if (groupOf s l).contains j then wordV (modeType s) (fun x _ => x) (srcN s (opWidth s) a.toNat j) 0 else 0

/-- The lanes of the write set whose group has an active lane (11 R325). -/
def servedLanes (s : State) : Lanes := mkLanes (fun l => (writeLanesOf s).getLsbD l && !(groupOf s l).isEmpty)

/-- The active lanes of the group that hold lane l's bits (11 R326). -/
def sameBits (s : State) (a : BitVec 8) (l : Nat) : List Nat :=
  let v := fun j => wordV (modeType s) (fun x _ => x) (srcN s (opWidth s) a.toNat j) 0
  (groupOf s l).filter (fun j => v j == v l)

/-- The flag-A instructions that compute from registers: lanes, registers of the destination, its field, and each lane's
result (11 R307, R314, R322 to R326). -/
def longResult (s : State) (i : Instr) : Option (Lanes × Nat × BitVec 8 × (Nat → Nat)) :=
  let t := modeType s
  let n := opWidth s
  let x := fun (a : BitVec 8) l => srcN s n a.toNat l
  let fn := fun (f : Fn) (d a : BitVec 8) => some (writeLanesOf s, n, d, fun l => sfuV f t (md s) (x a l))
  let base := fun l => l / s.w.part * s.w.part
  let count := fun (b : BitVec 8) l => (src32 s b.toNat l).toNat
  match i with
  | .rcp d a => fn .rcp d a
  | .rsq d a => fn .rsq d a
  | .sqrt d a => fn .sqrt d a
  | .exp2 d a => fn .exp2 d a
  | .log2 d a => fn .log2 d a
  | .sin d a => fn .sin d a
  | .cos d a => fn .cos d a
  | .tanh d a => fn .tanh d a
  | .sigm d a => fn .sigm d a
  | .erf d a => fn .erf d a
  | .div d a b => some (writeLanesOf s, n, d, fun l => divV t (md s) (x a l) (x b l))
  | .shfl d a b => some (writeLanesOf s, n, d, fun l => fromLane s a l (base l + count b l))
  | .shup d a b => some (writeLanesOf s, n, d, fun l => if count b l ≤ l then fromLane s a l (l - count b l) else 0)
  | .shdn d a b => some (writeLanesOf s, n, d, fun l => fromLane s a l (l + count b l))
  | .shxr d a b => some (writeLanesOf s, n, d, fun l => fromLane s a l (l ^^^ count b l))
  | .blt d q => some (writeLanesOf s, 1, d, fun l => (maskOf ((groupOf s l).filter (predBit s q.toNat))).toNat)
  | .radd d a => some (servedLanes s, n, d, fun l => sumV t (md s) ((groupOf s l).map (x a)))
  | .rmin d a => some (servedLanes s, n, d, fun l => extremeV t (md s) false ((groupOf s l).map (x a)))
  | .rmax d a => some (servedLanes s, n, d, fun l => extremeV t (md s) true ((groupOf s l).map (x a)))
  | .psum d a ex => some (servedLanes s, n, d, fun l =>
      sumV t (md s) (((groupOf s l).filter (fun j => decide (j < l) || (j == l && ex == 0))).map (x a)))
  | .mtch d a => some (writeLanesOf s, 1, d, fun l => (maskOf (sameBits s a l)).toNat)
  | .conf d a => some (writeLanesOf s, 1, d, fun l => (maskOf ((sameBits s a l).filter (· < l))).toNat)
  | .bcst d a => some (servedLanes s, n, d, fun l =>
      wordV t (fun x _ => x) (x a ((groupOf s l).headD 0)) 0)
  | _ => none

/-- Only an operation has been added: the operation `p` and its due events `es`, if it has any lane. -/
def StartsOnly (s t : State) (p : Pend) (es : List (Instr × EvArg)) : Prop :=
  if p.lanes = 0 then OnlyPassed s t
  else t = { s with f := t.f, w := { s.w with lastRead := t.w.lastRead, pend := s.w.pend ++ [p] },
                    agenda := s.agenda ++ es, uid := s.uid + 1 }

end Sys2Proof.Claims

/-- 11 R307, R314, R322 to R326, 10 R292, 09 R248, R249: the special functions, `div` and the lane-crossing instructions
start an operation under flag A of their clause, whose results are to land in the destination of each lane; until they
land, no register changes. A vote's result is a predicate bit in each lane of the write set; `s.rdl` reads a lane's
register into a scalar, 0 for a lane that the fragment does not hold. The model's own choices here: the value within the
bound of the special functions (log 10). -/
def Obligations.LongLatencyStarts : Prop :=
  (∀ (i : Instr) (s : State) (m : Lanes) (n : Nat) (d : BitVec 8) (g : Nat → Nat), longResult s i = some (m, n, d, g) →
    Ready i s →
    ∃ t, exec i s = .next t ∧ Past s t ∧
      StartsOnly s t (operation s (setA s.f) false .long m ((lanesOf m).flatMap (fun l => landWords n d.toNat l (g l))))
        [(.longLatencyResult, .triple s.blk.uid s.w.idx s.uid)]) ∧
  (∀ (s : State) (p q : BitVec 3) (all : Bool),
    let i := if all then Instr.vall p q else Instr.vany p q
    let b := fun l => if all then (groupOf s l).all (predBit s q.toNat) else (groupOf s l).any (predBit s q.toNat)
    Ready i s →
    ∃ t, exec i s = .next t ∧ Past s t ∧
      StartsOnly s t (operation s (setA s.f) false .long (writeLanesOf s)
        ((lanesOf (writeLanesOf s)).map (fun l => .pred p.toNat l (b l))))
        [(.longLatencyResult, .triple s.blk.uid s.w.idx s.uid)]) ∧
  ∀ (s : State) (sd : BitVec 6) (r : BitVec 8) (lane : BitVec 5), Ready (.sRdl sd r lane) s → s.f.mask ≠ 0 →
    ∃ t, exec (.sRdl sd r lane) s = .next t ∧ Past s t ∧
      StartsOnly s t (operation s (setA s.f) true .long s.f.mask
        [.scalar sd.toNat (if s.f.mask.getLsbD lane.toNat then (readLane s r.toNat lane.toNat).setWidth 64 else 0)])
        [(.longLatencyResult, .triple s.blk.uid s.w.idx s.uid)]


namespace Sys2Proof.Claims
open Sys2Proof.Machine Sys2Proof.Machine.Num

/-! ### Memory accesses (12 R329 to R335, 10 R290, R291) -/

/-- Only memory differs: its bytes, the cached lines, the kept translations, the block window, and, for a write of a
wake register, the due event of it. Every register, flag, operation, tile and queue is unchanged. -/
def OnlyMemory (s u : State) : Prop :=
  u = { s with
    mem := u.mem, l1 := u.l1, l2 := u.l2, tlb := u.tlb, wcache := u.wcache, homes := u.homes
    blk := { s.blk with win := u.blk.win }, agenda := u.agenda }

/-- A lane memory instruction: its frame, each lane's address, what one lane's access does, and what follows the last. -/
structure LaneForm where
  acc : LaneMem
  addr : Nat → W64
  one : State → Nat → Place → State × List Landing
  after : State → State

/-- A load of `n` bytes whose value lands in `r` registers. -/
def loadForm (s : State) (d : BitVec 8) (r n : Nat) (at' : At) (quad : Bool) (addr : Nat → W64) (after : State → State) :
    LaneForm :=
  { acc := { n := n, kind := .read, store := false, partialCommit := quad, globalOnly := false, flagA := true, place := at' }
    addr := addr
    one := fun u l q => ((loadAt u q n).1,
      landWords r d.toNat l (if quad then (loadAt u q n).2 else loadExt (modeType s) (loadAt u q n).2))
    after := after }

/-- A store of `n` bytes of `v l`, each lane's store preceded by `first`. -/
def storeForm (n : Nat) (at' : At) (quad : Bool) (addr : Nat → W64) (v : Nat → Nat) (first : State → State) : LaneForm :=
  { acc := { n := n, kind := .write, store := true, partialCommit := quad, globalOnly := false, flagA := false, place := at' }
    addr := addr
    one := fun u l q => (storeThrough (first u) q (v l) n, [])
    after := id }

/-- An atomic at the lane's address in `a`: `f l old` is the new value; with `ret` the old value lands in d. -/
def atomicForm (s : State) (a d : BitVec 8) (ret : Bool) (f : Nat → Nat → Nat) : LaneForm :=
  { acc := { n := memBytes (modeType s), kind := .rmw, store := true, partialCommit := false, globalOnly := false, flagA := ret
             place := .home }
    addr := fun l => src64 s a.toNat l
    one := fun u l q => ((rmwAt u q (memBytes (modeType s)) (f l)).1,
      if ret then landWords (opWidth s) d.toNat l (rmwAt u q (memBytes (modeType s)) (f l)).2 else [])
    after := id }

/-- The lane memory instructions. -/
def laneForm (s : State) (i : Instr) : Option LaneForm :=
  let t := modeType s
  let n := memBytes t
  let r := opWidth s
  let g := fun (a b : BitVec 8) l => src64 s a.toNat l + (src32 s b.toNat l).signExtend 64
  let imm := fun (a : BitVec 8) (k : BitVec 10) l => src64 s a.toNat l + k.signExtend 64
  let x := fun (b : BitVec 8) l => srcN s r b.toNat l
  let plain := At.plain (modeLevel s)
  let sync := At.sync (modeLevel s)
  let scope := fun (m : LaneForm) => accessScope (modeLevel s)
    (placesOf s m.acc ((lanesOf (activeLanesOf s)).map (fun l => (l, m.addr l))))
  match i with
  | .ld d a b => some (loadForm s d r n plain false (g a b) id)
  | .ldi d a k => some (loadForm s d r n plain false (imm a k) id)
  | .ldq d a b => some (loadForm s d 4 16 plain true (g a b) id)
  | .ldacq d a b => some (loadForm s d r n sync false (g a b) (acquireAt (scope (loadForm s d r n sync false (g a b) id))))
  | .ldref d a b =>
    some { loadForm s d 2 8 plain false (g a b) id with
      one := fun u l q =>
        let y := loadAt u q 8
        (y.1, landWords 2 d.toNat l (y.2 % 2 ^ 63 + (if loadedTag y.1 q then 2 ^ 63 else 0))) }
  | .st d a b => some (storeForm n plain false (g a b) (x d) id)
  | .sti d a k => some (storeForm n plain false (imm a k) (x d) id)
  | .stq d a b => some (storeForm 16 plain true (g a b)
      (fun l => pack 32 ((List.range 4).map (fun j => (readLane s (d.toNat + j) l).toNat))) id)
  | .strel d a b => some (storeForm n sync false (g a b) (x d)
      (releaseAt (scope (storeForm n sync false (g a b) (x d) id))))
  | .aadd d a b => some (atomicForm s a d true (fun l old => arith2 t home (· + ·) (add 0) old (x b l)))
  | .amin d a b => some (atomicForm s a d true (fun l old => minMax t false false old (x b l)))
  | .amax d a b => some (atomicForm s a d true (fun l old => minMax t false true old (x b l)))
  | .aand d a b => some (atomicForm s a d true (fun l old => old &&& x b l))
  | .aor d a b => some (atomicForm s a d true (fun l old => old ||| x b l))
  | .axor d a b => some (atomicForm s a d true (fun l old => old ^^^ x b l))
  | .axch d a b => some (atomicForm s a d true (fun l _ => x b l))
  | .acas d a b => some (atomicForm s a d true (fun l old => if old = x d l then x b l else old))
  | .ainc d a b => some (atomicForm s a d true (fun l old => if x b l ≤ old then 0 else old + 1))
  | .gred a b => some (atomicForm s a 0 false (fun l old => arith2 t home (· + ·) (add 0) old (x b l)))
  | .gmin a b => some (atomicForm s a 0 false (fun l old => minMax t false false old (x b l)))
  | .gmax a b => some (atomicForm s a 0 false (fun l old => minMax t false true old (x b l)))
  | _ => none

/-- Nothing that the lanes' earlier accesses still owe stands before accesses of `n` bytes at these lanes and addresses: no
element in the collector, no acquire and no read of the same bytes (02 R64, 03 R90, R97). -/
def InOrder (s : State) (as : List (Nat × W64)) (n : Nat) : Prop := collHeld s as n = false ∧ orderHeld s as n = false

/-- The active lanes' accesses. -/
def LaneForm.accesses (m : LaneForm) (s : State) : List (Nat × W64) := (lanesOf (activeLanesOf s)).map (fun l => (l, m.addr l))

/-- A release has no access of its lanes to wait for. -/
def ReleaseDue (i : Instr) (s : State) : Prop :=
  ((∃ d a b, i = .strel d a b) ∨ ∃ sd sa k, i = .sStrel sd sa k) → collected s = true

/-- Every active lane's access is aligned, passes translation and the checks of its kind, and waits for nothing; `ps` is
where each leads, in ascending lane order. -/
def Reaches (i : Instr) (s : State) (m : LaneForm) (ps : List (Nat × Place)) : Prop :=
  ps.map Prod.fst = lanesOf (activeLanesOf s) ∧
  (∀ x ∈ ps, (m.addr x.1).toNat % m.acc.n = 0 ∧ laneResolve s m.acc (m.addr x.1) x.1 = .ok x.2 ∧
    fillHeld s x.2 m.acc.n = false ∧ (m.acc.store = true → wakeHeld s x.2 m.acc.n = false)) ∧
  InOrder s (m.accesses s) m.acc.n ∧ ReleaseDue i s

/-- The bytes that accesses of a kind read. -/
def readBytes (k : Access) (as : List (Nat × W64)) (n : Nat) : List (Nat × Nat × Nat) :=
  match k with
  | .read | .rmw => as.map (fun a => (a.1, a.2.toNat, n))
  | _ => []

/-- The operation of a memory instruction with its replies: added to `u`, in which its accesses have been performed. It keeps
what a lost reply needs to make the accesses again, and the last-read marks that its instruction's note makes when it has
completed (07 R214, 16 R425). With no active lane there is none. -/
def StartsAccess (i : Instr) (u t : State) (flag : Nat) (whole : Bool) (act : Lanes) (groups : List Lanes)
    (lands : List Landing) (reads : List (Nat × Nat × Nat)) : Prop :=
  let note := noteAt u.f u.f.pc
  let p := { operation u flag whole .memory act lands with
    marks := noteKeys i note u, reads := reads
    src := some { i := i, lanes := act, pc := u.f.pc, h0 := u.f.h0, note := BitVec.ofNat 2 note, id := u.uid } }
  if act = 0 then OnlyPassed u t
  else t = { u with
    f := t.f, uid := u.uid + 1, w := { u.w with pend := u.w.pend ++ [p] }
    agenda := u.agenda ++ groups.map (fun g => (.memoryReply, .lanes u.blk.uid u.w.idx u.uid g)) }

/-- The lanes of each 128-byte line, by the first lane of each. -/
def byLine (as : List (Nat × W64)) : List Lanes :=
  ((as.map (fun p => p.2.toNat / 128)).eraseDups).map (fun la =>
    maskOf ((as.filter (fun p => p.2.toNat / 128 == la)).map Prod.fst))

end Sys2Proof.Claims

/-- 12 R329 to R335, 04 R133, 03 R90: loads, stores, acquire and release accesses, atomics and home reductions. Where
every active lane's access reaches a place, the accesses are performed lane by lane in ascending order, what was read
(an atomic's old value) is to land in the destination under flag A, and a store or a reduction without a result
completes under flag B. The replies come by 128-byte lines (02 R67), those of `ldq` in one (12 R331). No register changes
until a result lands, and nothing but memory changes otherwise. The model's own choices here: the moment and the order of
the accesses (log 8). -/
def Obligations.LaneMemoryCompletes : Prop :=
  ∀ (i : Instr) (s : State) (m : LaneForm) (ps : List (Nat × Place)), laneForm s i = some m → Ready i s →
    Reaches i s m ps →
    ∃ t u lands, exec i s = .next t ∧ Past s t ∧ u = m.after (performLanes m.one ps (started s)).1 ∧
      lands = (performLanes m.one ps (started s)).2 ∧ OnlyMemory (started s) u ∧
      StartsAccess i u t (if m.acc.flagA then setA s.f else setB s.f) (!m.acc.flagA) (activeLanesOf s)
        (if m.acc.partialCommit = true ∧ m.acc.kind = .read then [activeLanesOf s] else byLine (m.accesses s)) lands
        (readBytes m.acc.kind (m.accesses s) m.acc.n)

/-- 12 R329, 07 R212, R213: a lane memory instruction with a misaligned active lane has no effect in any lane; ALIGN 0x05
is delivered precisely with the misaligned lanes in TRAPMASK and the lowest one's address in TRAPVA. -/
def Obligations.MisalignedLanesFault : Prop :=
  ∀ (i : Instr) (s : State) (m : LaneForm), laneForm s i = some m → Ready i s → TakesFaults s →
    ReleaseDue i s →
    let bad := (lanesOf (activeLanesOf s)).filter (fun l => (m.addr l).toNat % m.acc.n != 0)
    bad ≠ [] →
    ∃ t, exec i s = .next t ∧ t.w.trappc = s.f.pc ∧
      Delivered 0x05 0 (maskOf bad) (m.addr (bad.headD 0))
        (BitVec.ofNat 64 (15 * 2 ^ 20 + m.acc.kind.code * 2 ^ 16)) (atDelivery { s with f := { s.f with st := .ready } }) t

/-- 07 R212, R213, 01 R34, 12 R331: where some active lanes' accesses fault with PAGE or PROT, the others take effect
(for `ldq` and `stq`, which commit in part, the lanes below the lowest faulting one), and the lanes that did not wait
under the instruction's flag for the handler, which is entered for the faulting lanes, replay in place or partial
commit. The model's own choices here: the moment and the order of the accesses (log 8) and the kind of a fault that a
reissue meets (log 20). -/
def Obligations.FaultingLanesWait : Prop :=
  ∀ (i : Instr) (s : State) (m : LaneForm) (good : List (Nat × Place)) (bad : List (Nat × MFault)) (x : Nat × MFault),
    laneForm s i = some m → Ready i s → TakesFaults s → s.f.exp = none → bad.head? = some x →
    (∀ l ∈ lanesOf (activeLanesOf s), (m.addr l).toNat % m.acc.n = 0) →
    bad = (lanesOf (activeLanesOf s)).filterMap (fun l => match laneResolve s m.acc (m.addr l) l with
      | .ok _ => none
      | .error e => some (l, e)) →
    good = (lanesOf (activeLanesOf s)).filterMap (fun l => match laneResolve s m.acc (m.addr l) l with
      | .ok q => if m.acc.partialCommit && x.1 < l then none else some (l, q)
      | .error _ => none) →
    (∀ y ∈ bad, y.2.code = 0x06 ∨ y.2.code = 0x07) →
    (∀ y ∈ good, fillHeld s y.2 m.acc.n = false ∧ (m.acc.store = true → wakeHeld s y.2 m.acc.n = false)) →
    InOrder s (m.accesses s) m.acc.n → ReleaseDue i s →
    let kind := if m.acc.partialCommit then 2 else 1
    let u := m.after (performLanes m.one good (started s)).1
    ∃ t h r, exec i s = .next t ∧ t.mem = u.mem ∧ t.l1 = u.l1 ∧ t.l2 = u.l2 ∧ t.blk.win = u.blk.win ∧ t.w.handler = some h ∧
      h.pc = nextPc s.f ∧ h.mask = s.f.mask ∧ h.kind.toNat = kind ∧ h.part = .instr r ∧ r.i = i ∧ r.pc = s.f.pc ∧
      r.lanes = (if m.acc.partialCommit then activeLanesOf s &&& mkLanes (fun l => decide (x.1 ≤ l))
        else maskOf (bad.map Prod.fst)) ∧
      t.f.mask = maskOf (bad.map Prod.fst) &&& s.f.mask ∧ t.f.sup = true ∧
      t.f.pc = s.w.tvec ∧ t.f.mode = 0 ∧ t.w.trapmask = (maskOf (bad.map Prod.fst)).setWidth 64 ∧
      t.w.trappc = s.f.pc ∧ t.w.trapva = x.2.va ∧ t.w.trapcode = BitVec.ofNat 64 (kind * 256 + x.2.code) ∧
      (∃ p ∈ t.w.pend, p.id = r.id ∧ p.lanes = r.lanes) ∧ t.w.v = s.w.v ∧ t.w.s = s.w.s ∧ t.w.p = s.w.p

/-- 12 R329, R330, 00 R8: window accesses, value by value. A load by lanes whose addresses all lie in the block window reads
the window's bytes, least significant first; a store leaves in the window each lane's bytes, a later lane's over an
earlier one's, and every other byte of the window, of memory and of every cached line as it was. -/
def Obligations.WindowLoadsAndStores : Prop :=
  ∀ (i : Instr) (s : State) (m : LaneForm) (off : Nat → Nat), laneForm s i = some m → Ready i s →
    (∃ d a b, i = .ld d a b ∨ i = .st d a b) →
    (∀ l, (activeLanesOf s).getLsbD l = true → (m.addr l).toNat = 0xFE * 2 ^ 56 + off l ∧ off l < 2 ^ 56 ∧ off l % m.acc.n = 0 ∧
      off l + m.acc.n ≤ s.blk.winSize ∧ fillHeld s (.win (off l)) m.acc.n = false) →
    InOrder s (m.accesses s) m.acc.n → activeLanesOf s ≠ 0 →
    ∃ t p, exec i s = .next t ∧ Past s t ∧ t.w.pend = s.w.pend ++ [p] ∧ p.lanes = activeLanesOf s ∧
      t.mem = s.mem ∧ t.l1 = s.l1 ∧ t.l2 = s.l2 ∧ t.w.v = s.w.v ∧ t.w.s = s.w.s ∧ t.w.p = s.w.p ∧
      (∀ d a b, i = .ld d a b → t.blk.win = s.blk.win ∧ p.flag = BitVec.ofNat 4 (setA s.f) ∧
        p.lands = (lanesOf (activeLanesOf s)).flatMap (fun l =>
          landWords (opWidth s) d.toNat l (loadExt (modeType s) (Cells.load s.blk.win (off l) m.acc.n)))) ∧
      (∀ d a b, i = .st d a b → p.lands = [] ∧ p.flag = BitVec.ofNat 4 (setB s.f) ∧
        ∀ o, Cells.get t.blk.win o =
          match ((lanesOf (activeLanesOf s)).reverse.find? (fun l => decide (off l ≤ o ∧ o < off l + m.acc.n))) with
          | some l => BitVec.ofNat 8 (srcN s (opWidth s) d.toNat l / 256 ^ (o - off l))
          | none => Cells.get s.blk.win o)

namespace Sys2Proof.Claims
open Sys2Proof.Machine

/-- The L1 line of the issuing half that an access's address names, where one is held. -/
def heldLine (s : State) (p : Piece) : Option L1Line := l1Find s (halfOf s (lineOf p.va)) p.asid (lineOf p.va)

/-- The piece lies in one line of memory, of which its home slice holds a copy if it holds the line at all, and is none of a
device's register. -/
def InLine (s : State) (p : Piece) : Prop :=
  isDevLeaf p.leaf.e = false ∧ p.pa % 128 + p.n ≤ 128 ∧
  (∀ o, o < 128 → redirect s (p.pa / 128 * 128 + o) = redirect s (p.pa / 128 * 128) + o) ∧
  ∀ x, l2Find s p.asid (lineOf p.va) = some x → x.pa = p.pa / 128 * 128

/-- The carve-out entries of the granules that a write of `n` bytes at `pa` meets (04 R124). -/
def InCarveOut (s : State) (pa n a : Nat) : Prop :=
  ∃ k c, k < (pa % 8 + n + 7) / 8 ∧ granAddr s (pa / 8 * 8 + 8 * k) = some c ∧ c ≤ a ∧ a < c + 2

/-- A dirty byte of an L2 line: it reaches memory when its line is replaced or written through. -/
def DirtyInL2 (s : State) (a : Nat) : Prop := ∃ x ∈ s.l2, ∃ o, x.dirty.getLsbD o = true ∧ a = redirect s (x.pa + o)

/-- The bytes of memory that a store of one piece at its home may change: those stored, on object pages the carve-out
entries of their words, those that the half held dirty in the line and that are written back first (03 R87) with theirs, and
the dirty bytes of L2 lines. -/
def HomeTouches (s : State) (p : Piece) (a : Nat) : Prop :=
  (redirect s p.pa ≤ a ∧ a < redirect s p.pa + p.n) ∨ (eOBJ p.leaf.e = true ∧ InCarveOut s p.pa p.n a) ∨ DirtyInL2 s a ∨
  ∃ x o, heldLine s p = some x ∧ x.dirty.getLsbD o = true ∧
    (a = redirect s (x.pa + o) ∨
      (eOBJ x.leaf.toNat = true ∧ (InCarveOut s (x.pa + o) 1 a ∨
        ∃ c, granAddr s (x.pa + o / 8 * 8) = some c ∧ c ≤ a ∧ a < c + 2)))

end Sys2Proof.Claims

/-- 02 R55, R57, R58, 03 R87: a store of a piece changes only what it stores to, and a load after it reads what was stored.
At level l1 the issuing half's line takes the bytes and keeps its others; another line changes only by being replaced, in a
set of 16 lines, and where none is replaced nothing else changes. At the home no L1 line of another half or address
changes, and of memory only the stored bytes, the line's dirty bytes that are written back before it, their carve-out
entries, and dirty bytes of L2 lines that are replaced. A store to the window changes the stored bytes of the window only.
With no L1 line held, a load at a slice reads the line's value there, and one at the controller with no slice copy reads
memory's bytes and changes nothing. -/
def Obligations.StoresTouchOnlyAndAreRead : Prop :=
  (∀ (s : State) (lvl : Nat) (p : Piece) (v : Nat), atL1 lvl p = true →
    (let t := storeAt s (.mem lvl [p]) v p.n
     t = { s with mem := t.mem, l1 := t.l1, l2 := t.l2 } ∧
     (∃ y, heldLine t p = some y ∧ ∀ o, Cells.get y.data o =
       if p.pa % 128 ≤ o ∧ o < p.pa % 128 + p.n then BitVec.ofNat 8 (v % 256 ^ p.n / 256 ^ (o - p.pa % 128))
       else match heldLine s p with
         | some x => Cells.get x.data o
         | none => 0) ∧
     (∀ half asid la, ¬(half = halfOf s (lineOf p.va) ∧ asid = p.asid ∧ la = lineOf p.va) →
       l1Find t half asid la = l1Find s half asid la ∨ l1Find t half asid la = none) ∧
     (s.l1.length < 16 → t = { s with l1 := t.l1 } ∧
       ∀ half asid la, ¬(half = halfOf s (lineOf p.va) ∧ asid = p.asid ∧ la = lineOf p.va) →
         l1Find t half asid la = l1Find s half asid la))) ∧
  (∀ (s : State) (lvl : Nat) (p : Piece) (v : Nat), atL1 lvl p = false →
    (let t := storeAt s (.mem lvl [p]) v p.n
     t = { s with mem := t.mem, l1 := t.l1, l2 := t.l2 } ∧ (∀ a, ¬HomeTouches s p a → Cells.get t.mem a = Cells.get s.mem a) ∧
     ∀ half asid la, ¬(half = halfOf s (lineOf p.va) ∧ asid = p.asid ∧ la = lineOf p.va) →
       l1Find t half asid la = l1Find s half asid la)) ∧
  (∀ (s : State) (off v n : Nat),
    (let t := storeAt s (.win off) v n
     t = { s with blk := { s.blk with win := t.blk.win } } ∧
     ∀ o, Cells.get t.blk.win o = if off ≤ o ∧ o < off + n then BitVec.ofNat 8 (v / 256 ^ (o - off)) else Cells.get s.blk.win o)) ∧
  (∀ (s : State) (lvl : Nat) (p : Piece) (v : Nat), InLine s p →
    (loadAt (storeAt s (.mem lvl [p]) v p.n) (.mem lvl [p]) p.n).2 = v % 256 ^ p.n) ∧
  (∀ (s : State) (off v n : Nat), (loadAt (storeAt s (.win off) v n) (.win off) n).2 = v % 256 ^ n) ∧
  ∀ (s : State) (lvl : Nat) (p : Piece), atL1 lvl p = false → heldLine s p = none → InLine s p →
    (atController lvl p = false → (loadAt s (.mem lvl [p]) p.n).2 = homeValueOf s p) ∧
    (atController lvl p = true → l2Find s p.asid (lineOf p.va) = none → loadAt s (.mem lvl [p]) p.n = (s, physRead s p.pa p.n))

/-- 12 R333, 02 R60, 03 R87: an atomic reads the value at its home and leaves the new one there, whole, and the issuing half
no longer holds the line; of memory only the bytes of the piece, their carve-out entries and dirty bytes of L2 lines can
change. In the window it does the same in the banks. -/
def Obligations.AtomicsUpdateHome : Prop :=
  (∀ (s : State) (lvl : Nat) (p : Piece) (f : Nat → Nat), InLine s p → (∀ x, heldLine s p = some x → x.dirty = 0) →
    (let t := (rmwAt s (.mem lvl [p]) p.n f).1
     (rmwAt s (.mem lvl [p]) p.n f).2 = homeValueOf s p ∧ homeValueOf t p = f (homeValueOf s p) % 256 ^ p.n ∧
     heldLine t p = none ∧ t = { s with mem := t.mem, l1 := t.l1, l2 := t.l2 } ∧
     ∀ a, ¬HomeTouches s p a → Cells.get t.mem a = Cells.get s.mem a)) ∧
  ∀ (s : State) (off n : Nat) (f : Nat → Nat),
    (let t := (rmwAt s (.win off) n f).1
     (rmwAt s (.win off) n f).2 = Cells.load s.blk.win off n ∧
     Cells.load t.blk.win off n = f (Cells.load s.blk.win off n) % 256 ^ n ∧
     t = { s with blk := { s.blk with win := t.blk.win } } ∧
     ∀ o, (o < off ∨ off + n ≤ o) → Cells.get t.blk.win o = Cells.get s.blk.win o)

namespace Sys2Proof.Claims
open Sys2Proof.Machine Sys2Proof.Machine.Num

/-- Scalar memory instructions (10 R290, R291): the frame of the access, its address, the destination of a load, the access
itself as what it leaves and what it reads, and what follows it at its place. -/
structure ScalarForm where
  acc : LaneMem
  addr : W64
  dest : Option (BitVec 6)
  one : State → Place → State × Nat
  after : Place → State → State

def scalarForm (s : State) (i : Instr) : Option ScalarForm :=
  let r := fun (x : BitVec 6) => readS s x.toNat
  let at' := fun (sa : BitVec 6) (k : BitVec 10) => r sa + k.signExtend 64
  let plain := At.plain (modeLevel s)
  let sync := At.sync (modeLevel s)
  let load := fun (n : Nat) (sd sa : BitVec 6) (k : BitVec 10) (p : At) (after : Place → State → State) =>
    some { acc := { n := n, kind := .read, store := false, partialCommit := false, globalOnly := false, flagA := true, place := p }
           addr := at' sa k, dest := some sd, one := fun u q => loadAt u q n, after := after : ScalarForm }
  let store := fun (n : Nat) (sd sa : BitVec 6) (k : BitVec 10) (p : At) (first : Place → State → State) =>
    some { acc := { n := n, kind := .write, store := true, partialCommit := false, globalOnly := false, flagA := false, place := p }
           addr := at' sa k, dest := none, after := fun _ => id
           one := fun u q => (storeThrough (first q u) q (r sd).toNat n, 0) : ScalarForm }
  let atom := fun (sd sa : BitVec 6) (w : BitVec 1) (f : Nat → Nat → Nat) =>
    let n := if w = 1 then 4 else 8
    some { acc := { n := n, kind := .rmw, store := true, partialCommit := false, globalOnly := false, flagA := true, place := .home }
           addr := r sa, dest := some sd, one := fun u q => rmwAt u q n (f (256 ^ n)), after := fun _ => id : ScalarForm }
  match i with
  | .sLd sd sa k => load 8 sd sa k plain (fun _ => id)
  | .sLd32 sd sa k => load 4 sd sa k plain (fun _ => id)
  | .sLdacq sd sa k => load 8 sd sa k sync (fun q => acquireAt (placeScope (modeLevel s) q))
  | .sSt sd sa k => store 8 sd sa k plain (fun _ => id)
  | .sSt32 sd sa k => store 4 sd sa k plain (fun _ => id)
  | .sStrel sd sa k => store 8 sd sa k sync (fun q => releaseAt (placeScope (modeLevel s) q))
  | .sAadd sd sa sb w => atom sd sa w (fun _ old => old + (r sb).toNat)
  | .sAcas sd sa sb w => atom sd sa w (fun m old => if old = (r sd).toNat % m then (r sb).toNat % m else old)
  | _ => none

/-- The access, which every lane of MASK makes as one. -/
def ScalarForm.accesses (m : ScalarForm) (s : State) : List (Nat × W64) := (lanesOf s.f.mask).map (fun l => (l, m.addr))

end Sys2Proof.Claims

/-- 10 R290, R291, 03 R90: scalar loads, stores and atomics make one access; a load's or an atomic's value is to land,
zero-extended, in the destination under flag A, and a store completes under flag B, as one operation of every lane of
MASK. Nothing but memory changes otherwise. The model's own choices here: the moment of the access (log 8). -/
def Obligations.ScalarMemoryCompletes : Prop :=
  ∀ (i : Instr) (s : State) (m : ScalarForm) (q : Place), scalarForm s i = some m → Ready i s → s.f.mask ≠ 0 →
    m.addr.toNat % m.acc.n = 0 → laneResolve s m.acc m.addr (lowLane s.f.mask) = .ok q →
    fillHeld s q m.acc.n = false → InOrder s (m.accesses s) m.acc.n →
    (m.acc.store = true → wakeHeld s q m.acc.n = false) → ReleaseDue i s →
    ∃ t u v, exec i s = .next t ∧ Past s t ∧ v = (m.one (started s) q).2 ∧
      u = m.after q (keepLeaves (m.one (started s) q).1 q) ∧ OnlyMemory (started s) u ∧
      StartsAccess i u t (if m.dest.isSome then setA s.f else setB s.f) true s.f.mask [s.f.mask]
        (match m.dest with
         | some d => [.scalar d.toNat (BitVec.ofNat 64 v)]
         | none => []) (readBytes m.acc.kind (m.accesses s) m.acc.n)

namespace Sys2Proof.Claims
open Sys2Proof.Machine

/-- The collector operation of a gather (kind 0), scatter (1) or scatter-add (2): an element for each active lane, in
ascending order, at base + index × element size, with its value and whether its index has passed the extent (12 R336). -/
def gatherForm : Instr → Option (Nat × BitVec 8 × BitVec 8 × BitVec 4)
  | .gth d a k => some (0, d, a, k)
  | .sct d a k => some (1, d, a, k)
  | .scad d a k => some (2, d, a, k)
  | _ => none

/-- The elements of the active lanes. -/
def elementsOf (s : State) (kind : Nat) (d a : BitVec 8) (k : BitVec 4) : List Elem :=
  let base := readS s (2 * k.toNat)
  let extent := readS s (2 * k.toNat + 1)
  (lanesOf (activeLanesOf s)).map (fun l =>
    let i := src32 s a.toNat l
    { lane := l, grp := maskOf [l], va := base + BitVec.ofNat 64 (i.toNat * memBytes (modeType s)), idx := i,
      bound := decide (extent.toNat ≤ i.toNat),
      val := BitVec.ofNat 64 (if kind = 0 then 0 else srcN s (opWidth s) d.toNat l), sent := false })

/-- A collector operation as it stood before any of its packets left (02 R64). -/
def unsent (c : Coll) : Coll := { c with elems := c.elems.map (fun e => { e with sent := false }) }

/-- The register lanes that a gather writes when it commits. -/
def gathered (s : State) (d : BitVec 8) : List Nat :=
  (List.range (opWidth s)).flatMap (fun j => (lanesOf (activeLanesOf s)).map (regKey (d.toNat + j)))

end Sys2Proof.Claims

/-- 12 R336 to R340, 02 R61, R64: `gth`, `sct` and `scad`, where the collector of the fragment's core has entries left for
them, put an element of each active lane into it, as an operation under flag A (a gather) or flag B, whose merge window is
to expire; packets of groups may leave, and no register and no byte of memory changes yet. `gthh` reads each active lane's
index at its address and, where the index is below the extent, the element at base + index × size, else 0, to land under
flag A. `pref` only brings lines into the L1 and the slices, from which lines that are replaced go to memory, and
translations into the TLB; no register changes. The model's own choices here: the moment of the accesses (log 8). -/
def Obligations.GathersAndPrefetches : Prop :=
  (∀ (i : Instr) (s : State) (kind : Nat) (d a : BitVec 8) (k : BitVec 4), gatherForm i = some (kind, d, a, k) → Ready i s →
    (readS s (2 * k.toNat)).toNat % memBytes (modeType s) = 0 → activeLanesOf s ≠ 0 →
    orderHeld s ((elementsOf s kind d a k).map (fun e => (e.lane, e.va))) (memBytes (modeType s)) = false →
    collEntries s (collectorOf s.w.core) + (elementsOf s kind d a k).length ≤ 512 →
    let c : Coll := { id := s.uid, core := collectorOf s.w.core, blk := s.blk.uid, wp := s.w.idx, instr := i, kind := kind
                      ty := BitVec.ofNat 4 (modeType s), d := d.toNat, elems := elementsOf s kind d a k
                      note := BitVec.ofNat 2 (noteAt s.f s.f.pc), own := s.f.mask, stopped := false, losses := 0
                      pc := s.f.pc, user := !s.f.sup, mode := s.f.mode }
    ∃ t, exec i s = .next t ∧ Past s { t with f := { t.f with done := 0, count := 0 } } ∧
      t.colls.map unsent = s.colls.map unsent ++ [c] ∧ (.mergeWindowExpiry, .unit s.uid) ∈ t.agenda ∧
      (∀ e ∈ s.agenda, e ∈ t.agenda) ∧
      t = { s with
        f := t.f, uid := s.uid + 1, colls := t.colls, agenda := t.agenda
        w := { s.w with pend := s.w.pend ++ [operation s (if kind = 0 then setA s.f else setB s.f) (kind != 0) .collector
                                              (activeLanesOf s) [] (if kind = 0 then gathered s d else [])] } }) ∧
  (∀ (s u : State) (d a : BitVec 8) (k : BitVec 4) (vs : List (Nat × Nat)), Ready (.gthh d a k) s →
    let base := readS s (2 * k.toNat)
    let extent := readS s (2 * k.toNat + 1)
    let n := memBytes (modeType s)
    let addr := fun l => src64 s a.toNat l
    let first := (lanesOf (activeLanesOf s)).map (fun l => (l, addr l))
    let second := (lanesOf (activeLanesOf s)).filterMap (fun l => (secondAddr s addr base extent n l).map (fun e => (l, e)))
    base.toNat % n = 0 →
    (∀ l ∈ lanesOf (activeLanesOf s), (addr l).toNat % 4 = 0 ∧ gthhHeld s addr base extent n l = false) →
    InOrder s first 4 → InOrder s second n →
    gthhLanes addr base extent n (lanesOf (activeLanesOf s)) (started s) = (u, vs, []) →
    vs.map Prod.fst = lanesOf (activeLanesOf s) ∧ OnlyMemory (started s) u ∧ (extent = 0 → ∀ x ∈ vs, x.2 = 0) ∧
    ∃ t, exec (.gthh d a k) s = .next t ∧ Past s t ∧
      StartsAccess (.gthh d a k) u t (setA s.f) false (activeLanesOf s) (byLine first)
        (vs.flatMap (fun x => landWords (opWidth s) d.toNat x.1 (loadExt (modeType s) x.2)))
        (first.map (fun x => (x.1, x.2.toNat, 4)) ++ second.map (fun x => (x.1, x.2.toNat, n)))) ∧
  ∀ (s : State) (a b : BitVec 8), Ready (.pref a b) s →
    ∃ t, exec (.pref a b) s = .next t ∧ Past s t ∧
      t = { s with
        f := t.f, w := { s.w with lastRead := t.w.lastRead }, mem := t.mem, l1 := t.l1, l2 := t.l2, tlb := t.tlb
        wcache := t.wcache, homes := t.homes }


/-- 11 R317 to R320, 08 R232, R240: `cvt` through a format slot. A slot whose code does not stand for the destination type
is FMT, precisely, with the slot and the code. Otherwise, where no lane has an outlier, the lanes of the write set
receive the source divided by the slot's scale and rounded into the slot's format; a block decode writes each lane's
element of its half-warp's block times the scale, and a block encode writes the words of each half-warp's block into its
first lanes. -/
def Obligations.SlotConversions : Prop :=
  ∀ (s : State) (d a : BitVec 8) (dt : BitVec 4) (slot : BitVec 3),
    let i := Instr.cvt d a dt 1 slot
    let k := slotOf s slot.toNat
    let m : Md := { rnd := modeRnd s, sat := k.sat || modeSat s, ftz := k.ftz || modeFtz s }
    let n := if wide dt.toNat then 2 else 1
    let x := fun l => srcN s (opWidth s) a.toNat l
    Ready i s →
    (modeType s ≠ 15 → dt ≠ 15 → slotCode dt.toNat ≠ some k.code → TakesFaults s →
      ∃ t, exec i s = .next t ∧ t.w.trappc = s.f.pc ∧
        Delivered 0x16 0 s.f.mask 0 (BitVec.ofNat 64 (k.n + 256 * k.code)) (atDelivery (started s)) t) ∧
    (modeType s ≠ 15 → dt ≠ 15 → slotCode dt.toNat = some k.code →
      (∀ l, (writeLanesOf s).getLsbD l = true →
        (k.outl && (dt.toNat == 3 || dt.toNat == 4) && overflows dt.toNat m.rnd (quotient (modeType s) m k (x l))) = false) →
      ∃ t, exec i s = .next t ∧ Past s t ∧ OnlyVectors s t ∧
        ∀ j l, j < n → (writeLanesOf s).getLsbD l = true → readLane t (d.toNat + j) l =
          BitVec.ofNat 32 (extend dt.toNat (toElem dt.toNat m (quotient (modeType s) m k (x l))) / 2 ^ (32 * j))) ∧
    (modeType s = 15 → dt ≠ 15 → isZb k.code = true → ownNarrow s = false →
      ∃ t, exec i s = .next t ∧ Past s t ∧ OnlyVectors s t ∧
        ∀ j l, j < n → (writeLanesOf s).getLsbD l = true → readLane t (d.toNat + j) l =
          BitVec.ofNat 32 (extend dt.toNat (toElem dt.toNat m (mul (zbElem k.code
            (pack 32 ((List.range (blockWords k.code)).map (fun h =>
              if (activeLanesOf s).getLsbD (16 * (l / 16) + h) then (src32 s a.toNat (16 * (l / 16) + h)).toNat else 0)))
            (l % 16)) k.scale)) / 2 ^ (32 * j))) ∧
    (modeType s ≠ 15 → dt = 15 → isZb k.code = true → ownNarrow s = false → k.outl = false →
      ∃ t, exec i s = .next t ∧ Past s t ∧ OnlyVectors s t ∧
        ∀ g j, g < 2 → j < blockWords k.code → (writeLanesOf s).getLsbD (16 * g + j) = true →
          readLane t d.toNat (16 * g + j) = BitVec.ofNat 32 ((zbEncode k.code k.policy k.ceiling m.rnd false
            ((List.range 16).map (fun h => if (activeLanesOf s).getLsbD (16 * g + h)
              then quotient (modeType s) m k (x (16 * g + h)) else .fin false 0 1 0))).1 / 2 ^ (32 * j)))

/-! ## Objects (04) -/

namespace Sys2Proof.Claims
open Sys2Proof.Machine Sys2Proof.Machine.Num

/-- The addresses of the active lanes, in ascending order. -/
def laneAddrs (s : State) (a b : BitVec 8) : List (Nat × W64) :=
  (lanesOf (activeLanesOf s)).map (fun l => (l, src64 s a.toNat l + (src32 s b.toNat l).signExtend 64))

/-- The reference, or template, that a lane gives. -/
def laneRef (s : State) (d : BitVec 8) (l : Nat) : W64 := src64 s d.toNat l

end Sys2Proof.Claims

/-- 04 R134, R124, R133: `stref`. Where every active lane's destination is aligned and passes the checks of its target,
its address and its destination, the references are stored with their tags, lane by lane in ascending order, as one
operation under flag B. A reference store at the home leaves the reference in its word with the word's tag set, and
clear for the null reference, where the page is an object page with a carve-out entry for the word's granule that lies
outside the word and outside any L2 line that waits to be written to memory. The model's own choices here: the moment and
the order of the stores (log 8). -/
def Obligations.ReferencesAreStored : Prop :=
  (∀ (s : State) (d a b : BitVec 8) (ps : List (Nat × Place)), Ready (.stref d a b) s →
    ps.map Prod.fst = lanesOf (activeLanesOf s) →
    (∀ x ∈ ps, ∀ g, (x.1, g) ∈ laneAddrs s a b → g.toNat % 8 = 0 ∧
      strefCheck s g (laneRef s d x.1) x.1 = .ok x.2 ∧ fillHeld s x.2 8 = false ∧ strefHeld s g (laneRef s d x.1) = false ∧
      wakeHeld s x.2 8 = false) →
    InOrder s (laneAddrs s a b) 8 →
    ∃ t u, exec (.stref d a b) s = .next t ∧ Past s t ∧
      u = ps.foldl (fun t x => keepLeaves (storeRef (laneRef s d x.1) t x.2) x.2) (started s) ∧ OnlyMemory (started s) u ∧
      StartsAccess (.stref d a b) u t (setB s.f) true (activeLanesOf s) (byLine (laneAddrs s a b)) [] []) ∧
  ∀ (s : State) (lvl : Nat) (p : Piece) (ref : W64) (c : Nat),
    atL1 lvl p = false → heldLine s p = none → InLine s p → p.n = 8 → p.pa % 8 = 0 → eOBJ p.leaf.e = true →
    granAddr s p.pa = some c → (c + 2 ≤ redirect s p.pa ∨ redirect s p.pa + 8 ≤ c) →
    (∀ a, c ≤ a → a < c + 2 → ¬DirtyInL2 s a) →
    (let t := storeRef ref s (.mem lvl [p])
     homeValueOf t p = ref.toNat ∧ tagAt t p.pa = decide (ref ≠ 0) ∧ t = { s with mem := t.mem, l2 := t.l2 })

/-- 04 R132: `ohdr`. Where every active lane's object is aligned, in range and free, the objects are created lane by
lane in ascending order and the operation completes under flag B. Creating an object of one granule makes the granule
PRIVATE, a HEAD and free of tags (carve-out entry 0x500), and its header word holds the template's bits 63:56, the
block's owner in bits 55:40, 1 in bit 32 and the SIZE below. The model's own choices here: the order of the lanes (log
8). -/
def Obligations.ObjectsAreCreated : Prop :=
  (∀ (s : State) (d a b : BitVec 8) (gs : List (Nat × W64 × Nat × List Piece)), Ready (.ohdr d a b) s →
    gs.map (fun x => (x.1, x.2.1)) = laneAddrs s a b →
    (∀ x ∈ gs, x.2.1.toNat % 64 = 0 ∧ x.2.2.1 = (laneRef s d x.1).toNat ∧ ohdrCheck s x.2.1 x.2.2.1 = .ok x.2.2.2 ∧
      objHeld s x.2.2.2 = false) →
    InOrder s (laneAddrs s a b) 64 → (ohdrLanes gs (started s)).2 = [] →
    ∃ t u, exec (.ohdr d a b) s = .next t ∧ Past s t ∧ u = (ohdrLanes gs (started s)).1 ∧ OnlyMemory (started s) u ∧
      StartsAccess (.ohdr d a b) u t (setB s.f) true (activeLanesOf s) (byLine (laneAddrs s a b)) [] []) ∧
  ∀ (s : State) (t : Nat) (h : Piece) (c : Nat), heldLine s h = none → InLine s h → h.n = 8 → granAddr s h.pa = some c →
    (c + 2 ≤ redirect s h.pa ∨ redirect s h.pa + 8 ≤ c) →
    (let u := createObject s t [h]
     gran u h.pa = 0x500 ∧
     homeValueOf u h = t / 2 ^ 56 % 256 * 2 ^ 56 + s.blk.owner.toNat * 2 ^ 40 + 2 ^ 32 + t % 2 ^ 32 ∧
     u = { s with mem := u.mem, l2 := u.l2 })

/-- 04 R136, R145, 03 R91: `pub`, once its lanes' checks have passed, the collector has performed their accesses, and
the cluster's queue of 64 lane entries has room, is a release and then puts an entry of each active lane, with its
destination and reference, into the cluster's publication walker, as an operation under flag B. The model's own choices
here: what a fault of the checks leaves (log 22). -/
def Obligations.PublicationsAreQueued : Prop :=
  ∀ (s : State) (d a b : BitVec 8), Ready (.pub d a b) s → activeLanesOf s ≠ 0 →
    (∀ x ∈ laneAddrs s a b, x.2.toNat % 8 = 0 ∧ pubCheck s x.2 (laneRef s d x.1) x.1 = .ok () ∧
      refHeld s (asidOf s) (laneRef s d x.1) = false) →
    collected s = true → pubQueued s (clusterOf s.w.core) + (laneAddrs s a b).length ≤ 64 →
    let acc : LaneMem := { n := 8, kind := .ref, store := true, partialCommit := false, globalOnly := false, flagA := false
                           place := .sync (modeLevel s) }
    ∃ t u k, exec (.pub d a b) s = .next t ∧ Past s t ∧
      u = releaseAt (accessScope (modeLevel s) (placesOf s acc (laneAddrs s a b))) (started s) ∧ OnlyMemory (started s) u ∧
      k.id = s.uid ∧ k.cluster = clusterOf s.w.core ∧ k.lanes = (laneAddrs s a b).map (fun x => (x.1, x.2, laneRef s d x.1)) ∧
      k.pend = s.uid ∧ k.active = false ∧ k.suspended = false ∧ k.parked = false ∧ k.blk = s.blk.uid ∧ k.wp = s.w.idx ∧
      t = { u with
        f := t.f, uid := s.uid + 1, walks := s.walks ++ [k], agenda := u.agenda ++ [(.publicationWalk, .unit s.uid)]
        w := { u.w with lastRead := t.w.lastRead,
                        pend := s.w.pend ++ [operation s (setB s.f) true .other (activeLanesOf s) []] } }

/-! ## The matrix engine (13) -/

namespace Sys2Proof.Claims
open Sys2Proof.Machine Sys2Proof.Machine.Num

/-- A quarter operation that writes accumulator tiles: the checks that every live quarter must pass, the waits, the tile
of a quarter, and what it computes for it. -/
structure TileForm where
  ok : Nat → Prop
  tile : Nat → Nat
  part : Nat → State → State × List (Nat × Nat)

/-- The code of a slot is one of a list, and a quarter's handle passes the checks of its role (13 R359). -/
def HandleOk (s : State) (slot : BitVec 3) (codes : List Nat) (h : BitVec 4) (role : Role) (q : Nat) : Prop :=
  (slotOf s slot.toNat).code ∈ codes ∧
    (handleAt s q h).bad s slot.toNat (slotOf s slot.toNat).code role = false

/-- A quarter's plain tile exists and is no part of a ranked list. -/
def PlainTile (s : State) (t : Nat) : Prop := t < tileCount s ∧ listed s t = false

/-- The instructions that compute a tile for each live quarter: `mm`, `mmg`, `mmsp`, `accld`. -/
def tileForm (s : State) (i : Instr) : Option TileForm :=
  let code := fun (slot : BitVec 3) => (slotOf s slot.toNat).code
  let ab := fun (slot : BitVec 3) (codes : List Nat) (hA hB : BitVec 4) q =>
    HandleOk s slot codes hA .a q ∧ HandleOk s slot codes hB .b q
  match i with
  | .mm hA hB slot off z =>
    some { ok := fun q => ab slot matrixCodes hA hB q ∧ PlainTile s (tileOf s off q) ∧
             denseHeld s hA hB (code slot) (fun _ r => r) q = false
           tile := tileOf s off
           part := fun q u => densePart q hA hB (code slot) id false (oldCell u (tileOf u off q) z) u }
  | .mmg hA hB slot x z =>
    some { ok := fun q => ab slot matrixCodes hA hB q ∧ PlainTile s (tileOf s 0 q) ∧
             (∀ r, r < 16 → gatherRow s x q r < (handleAt s q hA).rows) ∧ collected s = true ∧ s.blk.fillPend = []
           tile := tileOf s 0
           part := fun q u => densePart q hA hB (code slot) (gatherRow s x q) true (oldCell u (tileOf u 0 q) z) u }
  | .mmsp hA hB slot m z =>
    some { ok := fun q => ab slot sparseCodes hA hB q ∧ noBudget s (handleAt s q hA) = false ∧ PlainTile s (tileOf s 0 q) ∧
             metaFault s hA hB m q = none ∧ s.blk.fillPend = []
           tile := tileOf s 0
           part := fun q u => sparsePart q hA hB (code slot) m (oldCell u (tileOf u 0 q) z) u }
  | .accld h slot off =>
    some { ok := fun q => HandleOk s slot storeCodes h .src q ∧ PlainTile s (tileOf s off q) ∧ collected s = true ∧
             moveHeld s (slotOf s slot.toNat) h [q] = false
           tile := tileOf s off
           part := fun q u => (u, tileCells (loadElem u (slotOf s slot.toNat) (handleAt u q h))) }
  | _ => none

/-- What the quarters compute, in ascending order, before any tile is written. -/
def quarterResults (part : Nat → State → State × List (Nat × Nat)) (tile : Nat → Nat) (qs : List Nat) (s : State) :
    State × List (Nat × List (Nat × Nat)) :=
  qs.foldl (fun r q => ((part q r.1).1, r.2 ++ [(tile q, (part q r.1).2)])) (s, [])

/-- A quarter operation under flag B has been started: one part, and one completion, for each live quarter (13 R382). -/
def StartsQuarters (s u t : State) (qs : List Nat) : Prop :=
  t = { u with
    f := t.f, uid := s.uid + 1
    w := { u.w with lastRead := t.w.lastRead,
                    pend := s.w.pend ++ [operation s (setB s.f) true .quarter (lanesOfQuarters s qs) []] }
    agenda := u.agenda ++ qs.map (fun q => (.quarterOperationCompletion, .lanes s.blk.uid s.w.idx s.uid (quarterLanes s q))) }

end Sys2Proof.Claims

/-- 13 R360 to R363, R366, R368, R382: `mm`, `mmg`, `mmsp` and `accld`. The live quarters' tiles are computed from the
operands and the tiles as they stand, then all are written; the operation completes quarter by quarter under flag B.
With no live quarter there is no effect. Beside the tiles only the operand cache changes. -/
def Obligations.TileComputationsComplete : Prop :=
  ∀ (i : Instr) (s : State) (m : TileForm), tileForm s i = some m → Ready i s → (∀ q ∈ liveQuarters s, m.ok q) →
    ∃ t, exec i s = .next t ∧ Past s t ∧
      (liveQuarters s = [] → OnlyPassed s t) ∧
      (liveQuarters s ≠ [] → ∃ u, u = (let r := quarterResults m.part m.tile (liveQuarters s) (started s)
                                  r.2.foldl (fun u x => setTile u x.1 x.2) r.1) ∧
        u = { started s with blk := { s.blk with tiles := u.blk.tiles }, opc := u.opc } ∧
        StartsQuarters s u t (liveQuarters s))

/-- 13 R361, 08 R241, R242, 13 R359: what `mm` computes. With no entry of the operand cache held for the block on its
core, each element of a live quarter's tile is the old one (or +0 with zero-init) to which the exact sums of 16 products
of A's row and B's column, read from the window through the handles, are added group by group along K, each addition
rounded once to f32; elements outside a handle's extent are zeros. The model's own choices here: the operand cache (log
24). -/
def Obligations.DenseProductValues : Prop :=
  ∀ (s : State) (hA hB : BitVec 4) (slot : BitVec 3) (off : BitVec 5) (z : BitVec 1) (m : TileForm),
    tileForm s (.mm hA hB slot off z) = some m → Ready (.mm hA hB slot off z) s → (∀ q ∈ liveQuarters s, m.ok q) →
    (∀ e ∈ s.opc, e.core ≠ s.w.core ∨ e.blk ≠ s.blk.uid) →
    ∃ t, exec (.mm hA hB slot off z) s = .next t ∧ ∀ q r c, q ∈ liveQuarters s → r < 16 → c < 32 →
      let code := (slotOf s slot.toNat).code
      let x := fun (h : BitVec 4) i j =>
        let f := handleAt s q h
        if f.has i j then matrixVal code (winUnit s f (f.place code i j) (unitBytes code)) ((f.stored i j).2 % 16) else .fin false 0 1 0
      tileWord t (tileOf s off q) (32 * r + c) = BitVec.ofNat 32 (accumulate (if z = 1 then 0 else
          (tileWord s (tileOf s off q) (32 * r + c)).toNat)
        ((List.range (matrixK code / 16)).map (fun g =>
          (List.range 16).map (fun j => mul (x hA r (16 * g + j)) (x hB (16 * g + j) c)))))

/-- 13 R367, R371, 02 R46: `accclr` zeroes its tiles of each live quarter and undeclares the lists that held them; every
other tile of the block, and everything else, is unchanged. `accdcl` declares a ranked list of `k` + 1 entries in each
live quarter's tiles, every slot of it empty, and `accdcl.u` undeclares one of that length. The model's own choices
here: lists named with another length (log 27). -/
def Obligations.TilesClearedAndDeclared : Prop :=
  (∀ (s : State) (n : BitVec 4) (off : BitVec 5), Ready (.accclr n off) s →
    (∀ q ∈ liveQuarters s, ∀ j, j ≤ n.toNat → tileOf s off q + 4 * j < tileCount s) →
    ∃ t, exec (.accclr n off) s = .next t ∧ Past s t ∧
      t = { s with f := t.f, w := { s.w with lastRead := t.w.lastRead }, blk := { s.blk with tiles := t.blk.tiles, lists := t.blk.lists } } ∧
      (∀ q ∈ liveQuarters s, ∀ j r c, j ≤ n.toNat → r < 16 → c < 32 → tileWord t (tileOf s off q + 4 * j) (32 * r + c) = 0) ∧
      (∀ a i, i < 512 → (∀ q ∈ liveQuarters s, ∀ j, j ≤ n.toNat → a ≠ tileOf s off q + 4 * j) → a < 2048 →
        tileWord t a i = tileWord s a i) ∧
      ∀ x ∈ t.blk.lists, x ∈ s.blk.lists ∧
        ∀ q ∈ liveQuarters s, ∀ j, j ≤ n.toNat → x.holds s (tileOf s off q + 4 * j) = false) ∧
  (∀ (s : State) (k : BitVec 6) (off : BitVec 5), Ready (.accdcl k off) s →
    (∀ q ∈ liveQuarters s, ∀ j, j < listTiles (k.toNat + 1) → firstTile s off (k.toNat + 1) q + j < tileCount s) →
    ∃ t, exec (.accdcl k off) s = .next t ∧ Past s t ∧
      t = { s with f := t.f, w := { s.w with lastRead := t.w.lastRead }, blk := { s.blk with tiles := t.blk.tiles, lists := t.blk.lists } } ∧
      ∀ q ∈ liveQuarters s, (∃ x ∈ t.blk.lists, x.core = coreIdx s ∧ x.first = firstTile s off (k.toNat + 1) q ∧
          x.k = k.toNat + 1 ∧ x.rejected = 0) ∧
        ∀ r j, r < 16 → j ≤ k.toNat → entryAt t (firstTile s off (k.toNat + 1) q) (k.toNat + 1) r j = (0xFF800000, 0xFFFFFFFF)) ∧
  ∀ (s : State) (k : BitVec 6) (off : BitVec 5), Ready (.accdclU k off) s →
    (∀ q ∈ liveQuarters s, (∀ j, j < listTiles (k.toNat + 1) → firstTile s off (k.toNat + 1) q + j < tileCount s) ∧
      ∃ x, listAt s (firstTile s off (k.toNat + 1) q) = some x ∧ x.k = k.toNat + 1) →
    ∃ t, exec (.accdclU k off) s = .next t ∧ Past s t ∧
      t = { s with f := t.f, w := { s.w with lastRead := t.w.lastRead }, blk := { s.blk with lists := t.blk.lists } } ∧
      ∀ x, x ∈ t.blk.lists ↔ x ∈ s.blk.lists ∧ ∀ q ∈ liveQuarters s, x.holds s (firstTile s off (k.toNat + 1) q) = false

/-- 13 R368, R365, R382: `accst` completes where every live quarter's handle passes the checks of R359 and its tile is a
plain one of the block: each live quarter's tile, converted into the slot's format, is stored through its handle to the
window, as an operation under flag B; with outliers it then appends their entries to the slot's list. `spcmp` completes
where every live quarter's handles and budgets pass their checks: it stores the kept elements of each row, as an operation
under flag B, and is to leave the metadata in four registers of each lane under flag A. With no live quarter neither has an
effect. The model's own choices here: kept elements beyond the extent (log 28) and the appends (log 85). -/
def Obligations.TilesStored : Prop :=
  (∀ (s : State) (h : BitVec 4) (slot : BitVec 3) (off : BitVec 5), Ready (.accst h slot off) s →
    let qs := liveQuarters s
    let k := slotOf s slot.toNat
    let parts := qs.map (fun q => (handleAt s q h, storePart s k (handleAt s q h) (tileOf s off q) q))
    let outliers := parts.flatMap (fun p => p.2.2)
    (qs ≠ [] → collected s = true) → moveHeld s k h qs = false → appendsHeld (started s) outliers = false →
    (∀ q ∈ qs, HandleOk s slot storeCodes h .dst q ∧ PlainTile s (tileOf s off q)) →
    ∃ t u, exec (.accst h slot off) s = .next t ∧
      u = parts.foldl (fun u p => p.2.1.foldl (fun u x => winPut u p.1 x.1 x.2.1 x.2.2) u) (started s) ∧
      u = { started s with blk := { s.blk with win := u.blk.win } } ∧
      (qs = [] → Past s t ∧ OnlyPassed s t) ∧
      (qs ≠ [] → outliers = [] → Past s t ∧ StartsQuarters s u t qs) ∧
      (outliers ≠ [] → ∃ v, Past s v ∧ t = makeAppends outliers s.uid s.f.pc v ∧
        ((appendAll v (!s.f.sup) outliers).left = [] → t = complete (appendAll v (!s.f.sup) outliers).s s.uid) ∧
        v = { u with f := v.f, uid := s.uid + 1,
                     w := { u.w with lastRead := v.w.lastRead, pend := s.w.pend ++ [operation s (setB s.f) true .other
                                       (lanesOfQuarters s qs) []] } })) ∧
  ∀ (s : State) (hS hD : BitVec 4) (slot : BitVec 3) (m : BitVec 8), Ready (.spcmp hS hD slot m) s →
    let code := (slotOf s slot.toNat).code
    (liveQuarters s ≠ [] → collected s = true ∧ s.blk.fillPend = []) →
    (∀ q ∈ liveQuarters s, HandleOk s slot sparseCodes hS .a q ∧ HandleOk s slot sparseCodes hD .dst q ∧
      packedFault s hS hD q = none ∧ ∀ r, r < 16 → budget s (handleAt s q hD) r ≤ 8) →
    ∃ t, exec (.spcmp hS hD slot m) s = .next t ∧ Past s t ∧ (liveQuarters s = [] → OnlyPassed s t) ∧
      (liveQuarters s ≠ [] → ∃ u r lands,
        r = (liveQuarters s).foldl (fun (r : State × List (Nat × List (Nat × Nat × Nat) × List (Nat × Nat × Nat))) q =>
          ((packedPart q hS hD code r.1).1, r.2 ++ [(q, (packedPart q hS hD code r.1).2)])) (started s, []) ∧
        u = r.2.foldl (fun u x => x.2.1.foldl (fun u p =>
          if (handleAt s x.1 hD).has p.1 p.2.1
            then winPut u (handleAt s x.1 hD) ((handleAt s x.1 hD).place code p.1 p.2.1) p.2.2 (unitBytes code) else u) u) r.1 ∧
        u = { started s with blk := { s.blk with win := u.blk.win }, opc := u.opc } ∧
        lands = r.2.flatMap (fun x => x.2.2.map (fun p => .lane (regKey (m.toNat + p.1) p.2.1) (BitVec.ofNat 32 p.2.2))) ∧
        (∀ x ∈ lands, ∃ j l v, x = .lane (regKey (m.toNat + j) l) v ∧ j < 4 ∧ l / 8 ∈ liveQuarters s) ∧
        t = { u with
          f := t.f, uid := s.uid + 2
          w := { u.w with lastRead := t.w.lastRead,
                          pend := s.w.pend ++ [operation s (setB s.f) true .quarter (lanesOfQuarters s (liveQuarters s)) [],
                            { operation s (setA s.f) false .long ((liveQuarters s).foldl (fun a q => a ||| quarterMask q) 0) lands
                              with id := s.uid + 1 }] }
          agenda := s.agenda ++ (liveQuarters s).map (fun q =>
              (.quarterOperationCompletion, .lanes s.blk.uid s.w.idx s.uid (quarterLanes s q)))
            ++ [(.longLatencyResult, .triple s.blk.uid s.w.idx (s.uid + 1))] })

/-- 13 R369: `accrd` and `accwr` move a tile's column to and from 16 registers of each lane of the write set: lane l's column
is l, register j's row is j. A read lands under flag A; a write completes under flag B. -/
def Obligations.TileColumnsMove : Prop :=
  (∀ (s : State) (d a : BitVec 8), Ready (.accrd d a) s →
    let tile := fun l => s.w.acb.toNat + (src32 s a.toNat l).toNat % 2048
    (∀ l, (writeLanesOf s).getLsbD l = true → PlainTile s (tile l)) →
    ∃ t, exec (.accrd d a) s = .next t ∧ Past s t ∧
      StartsOnly s t (operation s (setA s.f) false .long (writeLanesOf s) ((lanesOf (writeLanesOf s)).flatMap (fun l =>
        (List.range 16).map (fun j => .lane (regKey (d.toNat + j) l) (tileWord s (tile l) (32 * j + l))))))
        [(.longLatencyResult, .triple s.blk.uid s.w.idx s.uid)]) ∧
  ∀ (s : State) (d a : BitVec 8), Ready (.accwr d a) s →
    let tile := fun l => s.w.acb.toNat + (src32 s a.toNat l).toNat % 2048
    (∀ l, (writeLanesOf s).getLsbD l = true → PlainTile s (tile l)) →
    ∃ t u, exec (.accwr d a) s = .next t ∧ Past s t ∧ u = { s with blk := { s.blk with tiles := t.blk.tiles } } ∧
      StartsOnly u t (operation s (setB s.f) true .quarter (writeLanesOf s) [])
        [(.quarterOperationCompletion, .lanes s.blk.uid s.w.idx s.uid (writeLanesOf s))] ∧
      (∀ l j, (writeLanesOf s).getLsbD l = true → j < 16 →
        tileWord t (tile l) (32 * j + l) = readLane s (d.toNat + j) l) ∧
      ∀ a j l, a < 2048 → j < 16 → l < 32 → ¬((writeLanesOf s).getLsbD l = true ∧ a = tile l) →
        tileWord t a (32 * j + l) = tileWord s a (32 * j + l)

namespace Sys2Proof.Claims
open Sys2Proof.Machine Sys2Proof.Machine.Num

/-- One quarter after another, each from what the one before it left; the first fault ends it. -/
def inTurn (part : Nat → State → Except MFault State) : List Nat → State → Except MFault State
  | [], s => .ok s
  | q :: r, s => match part q s with
    | .error m => .error m
    | .ok t => inTurn part r t

/-- How `rkst`, `rkst.m` and `rkmrg` access an image (13 R375, R376). -/
def imageAccess (i : Instr) (s : State) : LaneMem :=
  match i with
  | .rkst _ _ => imageMem .write (.plain (modeLevel s))
  | .rkstM _ _ => imageMem .rmw .home
  | _ => imageMem .read (.plain (modeLevel s))

/-- The length in the header of an image as the instruction's access finds it, and its rows. -/
def imageHeader (i : Instr) (s : State) (a : W64) : Option (Nat × Nat) :=
  headerAt s (imageAccess i s) (fun p => match i with
    | .rkstM _ _ => (rmwAt s p 8 id).2
    | _ => (loadAt s p 8).2) a

/-- Words of the image that a quarter with list `x` accesses: the list's own, but for `rkmrg` the image's. -/
def imageSize (i : Instr) (s : State) (x : RankList) (a : W64) : Nat :=
  match i with
  | .rkmrg _ _ => 1 + 16 * ((imageHeader i s a).map Prod.fst).getD 0
  | _ => 1 + 16 * x.k

/-- What one quarter does with its list and its image at `a`, read at issue as `s`: `rkst` stores the list's image, `rkst.m`
the k best of both lists with the sum of their rejected counts, and `rkmrg` merges the image into the list. -/
def imagePart (i : Instr) (s : State) (x : RankList) (a : W64) (u : State) : Except MFault State :=
  match imagePlaces u (imageAccess i s) a (imageSize i s x a) with
  | .error m => .error m
  | .ok ps => .ok (match i with
    | .rkst _ _ => storeWords (fun v p w => storeThrough v p w 8) ps (imageWords x.k x.rejected.toNat (rowAt u x.first x.k)) u
    | .rkstM _ _ =>
      let old := peekWords u ps
      let merged := fun r => mergeRow x.k (imageRow x.k old r) (rowAt u x.first x.k r)
      let nans := (List.range 16).foldl (fun n r => n + (merged r).2) 0
      storeWords (fun v p w => (rmwAt v p 8 (fun _ => w)).1) ps
        (imageWords x.k (satCount (old.headD 0 / 2 ^ 32 + x.rejected.toNat + nans)) (fun r => (merged r).1)) u
    | _ =>
      let (v, ws) := loadWords ps u
      let merged := fun r => mergeRow x.k (rowAt v x.first x.k r) (imageRow (((imageHeader i s a).map Prod.fst).getD 0) ws r)
      let nans := (List.range 16).foldl (fun n r => n + (merged r).2) 0
      setRejected (setRows x.first x.k (fun r => (merged r).1) v) x (x.rejected.toNat + ws.headD 0 / 2 ^ 32 + nans))

/-- What an image instruction needs of every live quarter: its list, and an image header that suits it (13 R375, R376). -/
def ImageOk (i : Instr) (s : State) (off : BitVec 5) (g : W64) (q : Nat) : Prop :=
  ∃ x, listOf s off q = some x ∧ imageHeld s (imageAccess i s) (imageVa g q x.k) (imageSize i s x (imageVa g q x.k)) = false ∧
    match i with
    | .rkst _ _ => True
    | .rkstM _ _ => imageHeader i s (imageVa g q x.k) = some (x.k, 16)
    | _ => ∃ k, imageHeader i s (imageVa g q x.k) = some (k, 16) ∧ 1 ≤ k ∧ k ≤ 64

/-- An image instruction completes: its quarters take effect in turn, as one operation under flag B. Only memory and the
block's tiles and lists change. -/
def ImageCompletes (i : Instr) (sa : BitVec 6) (off : BitVec 5) (s : State) : Prop :=
  let g := readS s sa.toNat
  ∀ u, inTurn (fun q v => match listOf s off q with
      | some x => imagePart i s x (imageVa g q x.k) v
      | none => .ok v) (liveQuarters s) (started s) = .ok u →
    (liveQuarters s ≠ [] → g.toNat % 8 = 0 ∧ (isWindow g = true ∨ isGlobal g = true) ∧ collected s = true) →
    (∀ q ∈ liveQuarters s, ImageOk i s off g q) →
    ∃ t, exec i s = .next t ∧ Past s t ∧ (liveQuarters s = [] → OnlyPassed s t) ∧
      (liveQuarters s ≠ [] → StartsQuarters s u t (liveQuarters s) ∧
        u = { started s with
          mem := u.mem, l1 := u.l1, l2 := u.l2, tlb := u.tlb, wcache := u.wcache, homes := u.homes, agenda := u.agenda
          blk := { s.blk with win := u.blk.win, tiles := u.blk.tiles, lists := u.blk.lists } })

/-- A window image whose `n` words lie within the window. -/
def WindowImage (s : State) (g : W64) (q k n : Nat) : Prop :=
  g.toNat / 2 ^ 56 = 0xFE ∧ g.toNat % 8 = 0 ∧ s.blk.winSize < 2 ^ 56 ∧ g.toNat % 2 ^ 56 + q * (8 + 128 * k) + 8 * n ≤ s.blk.winSize

/-- The 8-byte word of a window image of length k of quarter q. -/
def imageWord (s : State) (g : W64) (q k n : Nat) : Nat :=
  Cells.load s.blk.win (g.toNat % 2 ^ 56 + q * (8 + 128 * k) + 8 * n) 8

end Sys2Proof.Claims

/-- 13 R372 to R377, R382: the ranked-list instructions complete. `mmrk`, where every live quarter has a list and its handles
pass the checks of R359, inserts the quarters' scores in ascending order. `rkbnd`, where every live quarter has a list, clears
the tile-predicate bits of quarters whose bounds all lie below their rows' thresholds. `rkrd`, where every lane of the write
set names a list, is to leave the entry that the lane names in its two registers. `rkst`, `rkst.m` and `rkmrg`, where every
live quarter has a list and its image is aligned, reachable and has a suitable header, store list images, merge lists into
images, and merge images into lists; for an image in the window nothing but the window's bounds is asked of its place. With
no live quarter there is no effect. -/
def Obligations.RankedListsComplete : Prop :=
  (∀ (s : State) (hA hB : BitVec 4) (slot : BitVec 3) (off : BitVec 5), Ready (.mmrk hA hB slot off) s →
    (∀ q ∈ liveQuarters s, HandleOk s slot matrixCodes hA .a q ∧ HandleOk s slot matrixCodes hB .b q ∧
      (listOf s off q).isSome = true ∧ denseHeld s hA hB (slotOf s slot.toNat).code (fun _ r => r) q = false) →
    ∃ t, exec (.mmrk hA hB slot off) s = .next t ∧ Past s t ∧ (liveQuarters s = [] → OnlyPassed s t) ∧
      (liveQuarters s ≠ [] → ∃ u,
        u = (liveQuarters s).foldl (fun u q => match listOf u off q with
          | none => u
          | some x =>
            let y := densePart q hA hB (slotOf s slot.toNat).code id false (fun _ _ => 0) u
            insertScores (handleAt y.1 q hA) (handleAt y.1 q hB) x (fun r c => (lookup (32 * r + c) y.2).getD 0) y.1) (started s) ∧
        u = { started s with blk := { s.blk with tiles := u.blk.tiles, lists := u.blk.lists }, opc := u.opc } ∧
        StartsQuarters s u t (liveQuarters s))) ∧
  (∀ (s : State) (z : BitVec 3) (b : BitVec 8) (off : BitVec 5), Ready (.rkbnd z b off) s →
    (∀ q ∈ liveQuarters s, (listOf s off q).isSome = true) →
    ∃ t, exec (.rkbnd z b off) s = .next t ∧ Past s t ∧
      t = { s with f := t.f, w := { s.w with lastRead := t.w.lastRead, z := t.w.z } } ∧
      (z ≠ 0 → s.w.z.length = 8 → ∀ q, q < 4 → (readZ t z).getLsbD q =
        ((readZ s z).getLsbD q && !(decide (q ∈ liveQuarters s) && (match listOf s off q with
          | some x => allBelow s b q x
          | none => false))))) ∧
  (∀ (s : State) (d a : BitVec 8), Ready (.rkrd d a) s →
    let v := fun l => (src32 s a.toNat l).toNat
    let tile := fun l => s.w.acb.toNat + v l % 2048
    (∀ l, (writeLanesOf s).getLsbD l = true → (listAt s (tile l)).isSome = true) →
    ∃ t, exec (.rkrd d a) s = .next t ∧ Past s t ∧
      StartsOnly s t (operation s (setA s.f) false .long (writeLanesOf s) ((lanesOf (writeLanesOf s)).flatMap (fun l =>
        let e := match listAt s (tile l) with
          | some x => if bits (v l) 24 6 < x.k then entryAt s x.first x.k (bits (v l) 16 4) (bits (v l) 24 6)
                      else (0xFF800000, 0xFFFFFFFF)
          | none => (0xFF800000, 0xFFFFFFFF)
        [.lane (regKey d.toNat l) (BitVec.ofNat 32 e.1), .lane (regKey (d.toNat + 1) l) (BitVec.ofNat 32 e.2)])))
        [(.longLatencyResult, .triple s.blk.uid s.w.idx s.uid)]) ∧
  (∀ (s : State) (sa : BitVec 6) (off : BitVec 5),
    (Ready (.rkst sa off) s → ImageCompletes (.rkst sa off) sa off s) ∧
    (Ready (.rkstM sa off) s → ImageCompletes (.rkstM sa off) sa off s) ∧
    (Ready (.rkmrg sa off) s → ImageCompletes (.rkmrg sa off) sa off s)) ∧
  (∀ (s : State) (sa : BitVec 6) (off : BitVec 5), Ready (.rkst sa off) s → collected s = true → s.blk.fillPend = [] →
    let g := readS s sa.toNat
    (∀ q ∈ liveQuarters s, ∃ x, listOf s off q = some x ∧ WindowImage s g q x.k (1 + 16 * x.k)) →
    ∃ t, exec (.rkst sa off) s = .next t ∧ Past s t ∧
      (∀ q, liveQuarters s = [q] → ∃ u, StartsQuarters s u t [q] ∧ u = { started s with blk := { s.blk with win := u.blk.win } } ∧
        ∀ x n, listOf s off q = some x → n ≤ 16 * x.k →
          imageWord u g q x.k n = (imageWords x.k x.rejected.toNat (rowAt s x.first x.k)).getD n 0 % 2 ^ 64)) ∧
  (∀ (s : State) (sa : BitVec 6) (off : BitVec 5), Ready (.rkstM sa off) s → collected s = true → s.blk.fillPend = [] →
    let g := readS s sa.toNat
    (∀ q ∈ liveQuarters s, ∃ x, listOf s off q = some x ∧ WindowImage s g q x.k (1 + 16 * x.k) ∧
      imageWord s g q x.k 0 % 2 ^ 32 = x.k + 2 ^ 16 * 16 ∧ x.k < 2 ^ 16) →
    ∃ t, exec (.rkstM sa off) s = .next t ∧ Past s t ∧
      (liveQuarters s ≠ [] → ∃ u, StartsQuarters s u t (liveQuarters s) ∧
        u = { started s with blk := { s.blk with win := u.blk.win } })) ∧
  ∀ (s : State) (sa : BitVec 6) (off : BitVec 5), Ready (.rkmrg sa off) s → collected s = true → s.blk.fillPend = [] →
    let g := readS s sa.toNat
    (∀ q ∈ liveQuarters s, ∃ x k, listOf s off q = some x ∧ WindowImage s g q x.k (1 + 16 * k) ∧
      imageWord s g q x.k 0 % 2 ^ 32 = k + 2 ^ 16 * 16 ∧ 1 ≤ k ∧ k ≤ 64) →
    ∃ t, exec (.rkmrg sa off) s = .next t ∧ Past s t ∧
      (liveQuarters s ≠ [] → ∃ u, StartsQuarters s u t (liveQuarters s) ∧
        u = { started s with blk := { s.blk with tiles := u.blk.tiles, lists := u.blk.lists } })

/-- 13 R358, R378, R379, 02 R49: `hset` and `hadj` write a handle of every live quarter, `zset`, `zlog` and `ztst` a tile
predicate or a predicate, and `spfen` starts the next window generation; z0 reads all ones and is never written. -/
def Obligations.HandlesAndTilePredicates : Prop :=
  (∀ (s : State) (h : BitVec 4) (sa sb : BitVec 6) (st : BitVec 1), Ready (.hset h sa sb st) s →
    let v : BitVec 128 := BitVec.ofNat 128 ((readS s sa.toNat).toNat + 2 ^ 64 * (readS s sb.toNat).toNat)
    let new := fun q => if st = 1 then setHandle v 0 32 ((handleOf v).off + 16 * (handleOf v).pitch * q) else v
    (∀ q ∈ liveQuarters s, (handleOf (new q)).broken = false) →
    ∃ t, exec (.hset h sa sb st) s = .next t ∧ Past s t ∧
      t = { s with f := t.f, w := { s.w with lastRead := t.w.lastRead, h := t.w.h } } ∧
      ∀ q k, q < 4 → handleBits t q k = if q ∈ liveQuarters s ∧ k = h then new q else handleBits s q k) ∧
  (∀ (s : State) (h : BitVec 4) (sa : BitVec 6) (sl : BitVec 2), Ready (.hadj h sa sl) s →
    let x := (readS s sa.toNat).toNat
    let new := fun q =>
      let v := handleBits s q h
      if sl = 0 then setHandle v 0 32 ((handleOf v).off + x) else if sl = 1 then setHandle v 96 32 ((handleOf v).aux + x)
      else if sl = 2 then setHandle v 64 16 x else setHandle v 48 16 x
    (∀ q ∈ liveQuarters s, (handleOf (new q)).broken = false) →
    ∃ t, exec (.hadj h sa sl) s = .next t ∧ Past s t ∧
      t = { s with f := t.f, w := { s.w with lastRead := t.w.lastRead, h := t.w.h } } ∧
      ∀ q k, q < 4 → handleBits t q k = if q ∈ liveQuarters s ∧ k = h then new q else handleBits s q k) ∧
  (∀ (i : Instr) (s : State) (z : BitVec 3) (v : BitVec 4), Ready i s → s.w.z.length = 8 →
    (i = .zset z v ∨ ∃ za zb fn, i = .zlog z za zb fn ∧
      v = if fn = 0 then readZ s za &&& readZ s zb else if fn = 1 then readZ s za ||| readZ s zb else readZ s za &&& ~~~readZ s zb) →
    ∃ t, exec i s = .next t ∧ Past s t ∧ t = { s with f := t.f, w := { s.w with lastRead := t.w.lastRead, z := t.w.z } } ∧
      ∀ y, readZ t y = if y = 0 then 15 else if y = z then v else readZ s y) ∧
  (∀ (s : State) (z p : BitVec 3), Ready (.ztst z p) s →
    ∃ t, exec (.ztst z p) s = .next t ∧ Past s t ∧ OnlyPredicates s t ∧ ∀ l, l < 32 → filePred t p.toNat l =
      if p ≠ 0 ∧ (writeLanesOf s).getLsbD l = true then (readZ s z).getLsbD (l / 8) else filePred s p.toNat l) ∧
  ∀ s : State, Ready .spfen s → collected s = true →
    ∃ t, exec .spfen s = .next t ∧ Past s t ∧ t.blk = { s.blk with gen := s.blk.gen + 1 } ∧
      t = { s with f := t.f, w := { s.w with lastRead := t.w.lastRead }, blk := t.blk, opc := t.opc } ∧
      (s.blk.gen + 1 ≠ 0 → t.opc = s.opc) ∧ (s.blk.gen + 1 = 0 → ∀ e ∈ t.opc, e.blk ≠ s.blk.uid)

/-- 13 R380, R381: `tw` and `twi` walk the tree at TWBASE in the window for each lane of the write set, from its start node
and features, and what the leaf gives (its value, or its number) is to land under flag A. A walk visits at most 64
nodes; here every walk ends at a leaf. -/
def Obligations.TreeWalksComplete : Prop :=
  ∀ (s : State) (d a b : BitVec 8) (index : Bool) (leaf : Nat → Nat × Nat),
    let i := if index then Instr.twi d a b else Instr.tw d a b
    let base := s.w.twbase.toNat % 2 ^ 32
    let feat := fun l => (src32 s a.toNat l).toNat
    let root := fun l => (s.w.twbase.toNat / 2 ^ 32 + (src32 s b.toNat l).toNat) % 2 ^ 32
    Ready i s → base % 16 = 0 → (∀ l, (writeLanesOf s).getLsbD l = true → feat l % 4 = 0) → collected s = true →
    s.blk.fillPend = [] →
    (∀ l, (writeLanesOf s).getLsbD l = true → (treeWalk s base (feat l) 64 (root l)).2 = .leaf (leaf l).1 (leaf l).2) →
    ∃ t, exec i s = .next t ∧ Past s t ∧
      StartsOnly s t (operation s (setA s.f) false .long (writeLanesOf s) ((lanesOf (writeLanesOf s)).map (fun l =>
        .lane (regKey d.toNat l) (BitVec.ofNat 32 (if index then (leaf l).2 else (leaf l).1)))))
        [(.longLatencyResult, .triple s.blk.uid s.w.idx s.uid)]


namespace Sys2Proof.Claims
open Sys2Proof.Machine Sys2Proof.Machine.Num

/-! ### Control (10 R276 to R286, R295 to R301) -/

/-- Everything is as in `u` but the fragment's position. -/
def OnlyPosition (u t : State) : Prop := t = { u with f := t.f }

/-- The fragment stands at a clause header: a control transfer has retired there (10 R276). Nothing else of it has
changed but its operand latch, which a transfer empties (09 R251). -/
def Arrives (dest : W64) (s t : State) : Prop :=
  t.f = { s.f with pc := dest, inClause := false, hold := .free, st := .ready, done := 0, count := 0, latch := [] }

/-- A target: the offset in 8-byte units from the clause header (10 R276). -/
def branchTarget (s : State) (off : BitVec 20) : W64 := s.f.hdr + 8 * off.signExtend 64

/-- The next 8-byte-aligned address after the word (09 R245). -/
def following (s : State) : W64 := BitVec.ofNat 64 ((s.f.pc.toNat + 11) / 8 * 8)

/-- A lane's predicate under a selector: bits 2:0 name the predicate, bit 3 inverts it (10 R277). -/
def selects (s : State) (c : BitVec 4) (l : Nat) : Bool := xor (predBit s (c.toNat % 8) l) (c.getLsbD 3)

/-- Where the transfers that do not split go, and the scalar they write (10 R278, R283). -/
def branchResult (s : State) (i : Instr) : Option (W64 × Option (Nat × W64)) :=
  let lanes := lanesOf s.f.mask
  let goes := fun (taken : Bool) (off : BitVec 20) => if taken then branchTarget s off else following s
  match i with
  | .bra off => some (goes true off, none)
  | .bany c off => some (goes (lanes.any (selects s c)) off, none)
  | .ball c off => some (goes (lanes.all (selects s c)) off, none)
  | .bnon c off => some (goes (!lanes.any (selects s c)) off, none)
  | .sbr c off => some (goes (readS s (32 + c.toNat) != 0) off, none)
  | .loop c off => some (goes (readS s (32 + c.toNat) != 1) off, some (32 + c.toNat, readS s (32 + c.toNat) - 1))
  | .call off => some (branchTarget s off, some (46, following s))
  | .jr c => if (readS s (32 + c.toNat)).toNat % 8 = 0 then some (readS s (32 + c.toNat), none) else none
  | .ret => if (readS s 46).toNat % 8 = 0 then some (readS s 46, none) else none
  | _ => none

/-- The lanes taken by a divergent branch. -/
def takenBy (s : State) (c : BitVec 4) : Lanes := mkLanes (fun l => s.f.mask.getLsbD l && selects s c l)

/-- Packets of collector groups have left since `s`, and nothing else has changed: the operations are the same, and what is due
grows (02 R64). -/
def OnlyCollector (s t : State) : Prop :=
  t = { s with colls := t.colls, agenda := t.agenda } ∧ t.colls.map unsent = s.colls.map unsent ∧
  ∃ l, t.agenda = s.agenda ++ l ∧ ∀ e ∈ l, e.1 = .collectorCommit

/-- The side that `brdx` exports: the one with fewer lanes, the not-taken one on a tie (05 R158). -/
def smallerSide (s : State) (c : BitVec 4) : Lanes :=
  let rest := s.f.mask &&& ~~~takenBy s c
  if (lanesOf (takenBy s c)).length < (lanesOf rest).length then takenBy s c else rest

end Sys2Proof.Claims

/-- 09 R267, R258, 10 R289, R295 to R297, R301: `s.swr` writes the warp's special registers (XTHR holds at most 8, TRAPCODE only its
bit 17, TRAPPC bits 63:2, TVEC bits 63:3, POOL bits 55:6), `part` the partition width (a narrow warp's own is at most 4),
`acb` the accumulator base or, beyond the block's tiles, nothing (ACC 0x10 is delivered), `msf` one field of the mode
and `mode` all of it. Nothing else changes. -/
def Obligations.WarpRegistersWritten : Prop :=
  (∀ (s : State) (idx : BitVec 10) (sa : BitVec 6), Ready (.sSwr idx sa) s →
    let v := readS s sa.toNat
    ∃ t, exec (.sSwr idx sa) s = .next t ∧ Past s t ∧
      t = { s with f := t.f, w := { s.w with xthr := t.w.xthr, twbase := t.w.twbase, trapcode := t.w.trapcode,
                                             trappc := t.w.trappc, tvec := t.w.tvec, pool := t.w.pool } } ∧
      t.w.xthr = (if idx = 0x013 then BitVec.ofNat 4 (min 8 (v.toNat % 16)) else s.w.xthr) ∧
      t.w.twbase = (if idx = 0x014 then v else s.w.twbase) ∧
      (∀ b, b < 64 → t.w.trapcode.getLsbD b = if idx = 0x100 ∧ b = 17 then v.getLsbD 17 else s.w.trapcode.getLsbD b) ∧
      t.w.trappc = (if idx = 0x103 then BitVec.ofNat 64 (v.toNat / 4 * 4) else s.w.trappc) ∧
      t.w.tvec = (if idx = 0x105 then BitVec.ofNat 64 (v.toNat / 8 * 8) else s.w.tvec) ∧
      t.w.pool = (if idx = 0x106 then BitVec.ofNat 64 (v.toNat % 2 ^ 56 / 64 * 64) else s.w.pool)) ∧
  (∀ (s : State) (n : BitVec 10), Ready (.part n) s →
    ∃ t, exec (.part n) s = .next t ∧ Past s t ∧
      t = { s with f := t.f, w := { s.w with part := if narrow s = true ∧ s.f.exp = none then min 4 n.toNat else n.toNat } }) ∧
  (∀ (s : State) (sa : BitVec 6) (k : BitVec 10), Ready (.acb sa k) s →
    let n := (readS s sa.toNat).toNat + k.toNat
    (n < tileCount s → ∃ t, exec (.acb sa k) s = .next t ∧ Past s t ∧
      t = { s with f := t.f, w := { s.w with acb := BitVec.ofNat 11 n } }) ∧
    (tileCount s ≤ n → TakesFaults s → ∃ t, exec (.acb sa k) s = .next t ∧ t.w.trappc = s.f.pc ∧
      Delivered 0x10 0 s.f.mask 0 (BitVec.ofNat 64 (min n 0x7FF)) (atDelivery s) t)) ∧
  (∀ (s : State) (val : BitVec 6) (code : BitVec 4) (lo n : Nat), Ready (.msf val code) s →
    [(0, 22, 4), (1, 20, 2), (2, 19, 1), (3, 18, 1), (4, 17, 1), (5, 13, 4), (6, 10, 3), (7, 8, 2)].contains (code.toNat, lo, n) →
    ∃ t, exec (.msf val code) s = .next t ∧ Past { s with f := { s.f with mode := t.f.mode } } t ∧ OnlyPosition s t ∧
      ∀ b, b < 26 → t.f.mode.getLsbD b = if lo ≤ b ∧ b < lo + n then val.getLsbD (b - lo) else s.f.mode.getLsbD b) ∧
  ∀ (s : State) (image : BitVec 26), Ready (.mode image) s →
    ∃ t, exec (.mode image) s = .next t ∧ Past { s with f := { s.f with mode := image } } t ∧ OnlyPosition s t

/-- 10 R276 to R278, R283: the uniform branches, `loop`, the calls and the register jumps move the whole fragment to a
clause header. `loop` decrements its register and is taken while it is not 0, `call` leaves the address of the following
clause in s46. Nothing else changes. -/
def Obligations.BranchesMoveWhole : Prop :=
  ∀ (i : Instr) (s : State) (dest : W64) (wr : Option (Nat × W64)), branchResult s i = some (dest, wr) → Ready i s →
    ∃ t, exec i s = .next t ∧ Arrives dest s t ∧ OnlyScalars s t ∧
      ∀ n, readS t n = (match wr with
        | some (k, v) => if n = k then v else readS s n
        | none => readS s n)

/-- 10 R279, 05 R151, R158, R159: `brd` moves a fragment whole where all or none of its lanes are taken, and splits it
otherwise: the taken lanes keep the entry and move to the target, the others receive a free one at the fall-through
clause with the same mode and level; with no entry free STACK 0x0D with cause 0x02 is delivered precisely. `brdx` does
the same where it may not export. Where it may, the smaller side becomes an export of one fragment per four lanes on a
narrow core, which the join-stack entry of its level counts. -/
def Obligations.DivergentBranches : Prop :=
  (∀ (s : State) (i : Instr) (c : BitVec 4) (off : BitVec 20),
    let m := takenBy s c
    (i = .brd c off ∨ i = .brdx c off ∧ (m = s.f.mask ∨ m = 0 ∨ mayExport s (smallerSide s c) = none)) → Ready i s →
    (m = s.f.mask → ∃ t, exec i s = .next t ∧ Arrives (branchTarget s off) s t ∧ OnlyPosition s t) ∧
    (m ≠ s.f.mask → m = 0 → ∃ t, exec i s = .next t ∧ Arrives (following s) s t ∧ OnlyPosition s t) ∧
    (m ≠ s.f.mask → m ≠ 0 → entryFree s = true → ∃ t g, exec i s = .next t ∧
      Arrives (branchTarget s off) { s with f := { s.f with mask := m } } t ∧
      g = { t.f with ent := freeEnt s, mask := s.f.mask &&& ~~~m, pc := following s, waited := 0, promoted := none } ∧
      t = { s with f := t.f, w := { s.w with frags := insertBy Frag.ent g s.w.frags } }) ∧
    (m ≠ s.f.mask → m ≠ 0 → entryFree s = false → s.f.exp = none → TakesFaults s → ∃ t, exec i s = .next t ∧
      t.w.trappc = s.f.pc ∧ Delivered 0x0D 0 s.f.mask 0 0x200 (atDelivery s) t)) ∧
  ∀ (s : State) (c : BitVec 4) (off : BitVec 20) (core : Nat),
    let m := takenBy s c
    let side := smallerSide s c
    let n := ((lanesOf side).length + 3) / 4
    Ready (.brdx c off) s → m ≠ s.f.mask → m ≠ 0 → mayExport s side = some core →
    ∃ t, exec (.brdx c off) s = .next t ∧
      Arrives (if side = m then following s else branchTarget s off) { s with f := { s.f with mask := s.f.mask &&& ~~~side } } t ∧
      t = { s with f := t.f, uid := s.uid + 1, w := { s.w with frags := t.w.frags, exps := t.w.exps, jst := t.w.jst } } ∧
      t.w.exps = s.w.exps ++ [{ id := s.uid, core := core, nwarps := n, total := n, map := lanesOf side, level := s.f.level,
                                pulled := [], held := [], dirty := [], pheld := [], pdirty := [], jst := [] }] ∧
      (∀ k, t.w.jst[k]? = (s.w.jst[k]?).map (fun e => if k = s.f.level.toNat then { e with counter := e.counter + n } else e)) ∧
      (∀ g, g ∈ s.w.frags → g ∈ t.w.frags) ∧ (∀ g, g ∈ t.w.frags → g ∈ s.w.frags ∨ g.exp = some s.uid) ∧
      ∀ j, j < n → ∃ g, g ∈ t.w.frags ∧ g.exp = some s.uid ∧ g.nw = j ∧
        g.mask = maskOf (((lanesOf side).drop (4 * j)).take 4) ∧ g.mode = s.f.mode ∧ g.level = s.f.level ∧
        g.pc = (if side = m then branchTarget s off else following s) ∧ g.inClause = false ∧ g.st = .ready

/-- 10 R280 to R282, R284, R285, 05 R153 to R157, R161: `mark` pushes an entry of the fragment's mask, mode and level
with its rejoin address (spilling the lowest entry held where 16 are), or with the stack and its spill area full raises
STACK with cause 0x03; `join` at the rejoin address of its level and `regang` wait at the following clause; elsewhere
`join` raises STACK with cause 0x01; `exit` sends its lanes' collector groups and ends the lanes, and with the block's last
warp makes the block's end due;
`wait` holds the fragment until its flags are complete. -/
def Obligations.JoinsExitsAndWaits : Prop :=
  (∀ (s u : State) (off : BitVec 20), Ready (.mark off) s → s.f.exp = none →
    let n := s.w.jst.length
    let full := if narrow s then 8 ≤ n else 16 + spillMax s ≤ n
    (¬full → (if narrow s = true ∨ heldEntries s < 16 then u = started s
        else ∃ q, spillPlace (started s) = .ok q ∧ fillHeld s q 32 = false ∧ u = spillTo q (started s)) →
      ∃ t, exec (.mark off) s = .next t ∧ Past { u with f := { u.f with level := BitVec.ofNat 16 n } } t ∧
        t = { u with f := t.f, w := { u.w with
          jst := u.w.jst ++ [{ rejoin := branchTarget s off, expected := s.f.mask, mode := s.f.mode, counter := 0,
                               parent := s.f.level, free := false, spilled := false }] } }) ∧
    (full → TakesFaults s → ∃ t, exec (.mark off) s = .next t ∧ t.w.trappc = s.f.pc ∧
      Delivered 0x0D 0 s.f.mask 0 0x300 (atDelivery s) t)) ∧
  (∀ (s : State) (off : BitVec 20) (e : Export), Ready (.mark off) s → exportOf s = some e →
    narrowEntries e s.f.nw < 8 →
    ∃ t, exec (.mark off) s = .next t ∧ Past { s with f := { s.f with level := BitVec.ofNat 16 (0x8000 + e.jst.length) } } t ∧
      t = { s with f := t.f, w := { s.w with exps := s.w.exps.map (fun x => if x.id = e.id then
        { x with jst := x.jst ++ [(s.f.nw, { rejoin := branchTarget s off, expected := s.f.mask, mode := s.f.mode, counter := 0,
                                             parent := s.f.level, free := false, spilled := false })] } else x) } }) ∧
  (∀ (s : State) (e : JEntry), Ready .join s → levelEntry s = some e → e.spilled = false →
    (e.free = false → s.f.hdr = e.rejoin →
      ∃ t, exec .join s = .next t ∧ t.f = { s.f with pc := nextPc s.f, inClause := false, hold := .free, st := .atJoin,
                                                     done := 0, count := 0, latch := t.f.latch } ∧
        t = { s with f := t.f, agenda := t.agenda } ∧ (s.f.exp = none → t.agenda = s.agenda)) ∧
    (e.free = true ∨ s.f.hdr ≠ e.rejoin → TakesFaults s →
      ∃ t, exec .join s = .next t ∧ t.w.trappc = s.f.pc ∧ Delivered 0x0D 0 s.f.mask 0 0x100 (atDelivery s) t)) ∧
  (∀ (s : State), Ready .regang s →
    ∃ t, exec .regang s = .next t ∧ OnlyPosition s t ∧
      t.f = { s.f with pc := nextPc s.f, inClause := false, hold := .free, st := .atRegang, done := 0, count := 0,
                       latch := t.f.latch }) ∧
  (∀ (s u : State), Ready .exit s → s.f.sup = false → s.f.exp = none → u = sendGroups (ofFront s) (started s) →
    (∀ k ∈ s.walks, k.blk = s.blk.uid → k.wp = s.w.idx → ∀ p ∈ k.lanes, s.f.mask.getLsbD p.1 = false) →
    (∀ b ∈ s.blk.bars, b.expected = none) → (∀ d ∈ s.blk.donations, d.2.1 ≠ s.w.idx) →
    OnlyCollector (started s) u ∧ exec .exit s = .next { u with
      f := { s.f with mask := 0, hold := .free, st := .ready }
      w := { s.w with exited := s.w.exited ||| s.f.mask }
      agenda := if s.w.launched = s.w.exited ||| s.f.mask ∧ ∀ w ∈ s.blk.warps, w.launched = w.exited
        then u.agenda ++ [(.blockEnd, .unit s.blk.uid)] else u.agenda }) ∧
  ∀ (s : State) (m : BitVec 12), Ready (.wait m) s →
    ∃ t, exec (.wait m) s = .next t ∧
      ((∀ n, n < 12 → m.getLsbD n = true → flagCount s.w s.f n = 0) → Past s t ∧ OnlyPosition s t) ∧
      (∀ n, n < 12 → m.getLsbD n = true → flagCount s.w s.f n ≠ 0 → Waits (.waits m) s t)

namespace Sys2Proof.Claims
open Sys2Proof.Machine Sys2Proof.Machine.Num

/-- The operand of `cpk`, `arin` and `arwt` names `n` bytes of the block's window at a multiple of `align` (12 R347). -/
def WindowOperand (s : State) (g : W64) (align n : Nat) : Prop :=
  g.toNat % align = 0 ∧ isWindow g = true ∧ vaOf g + n ≤ s.blk.winSize

/-- An arrival object that no copy still owes bytes, its reserved word 0 (12 R350). -/
def ArrivalObject (s : State) (g : W64) : Prop :=
  WindowOperand s g 16 16 ∧ fillHeld s (.win (vaOf g)) 16 = false ∧ Cells.load s.blk.win (vaOf g + 12) 4 = 0

/-- Only the block window has changed since `s`, by stores at the offsets `lo` to `hi - 1`. -/
def OnlyWindow (lo hi : Nat) (s t : State) : Prop :=
  t = { s with f := t.f, blk := { s.blk with win := t.blk.win } } ∧
  ∀ a, (a < lo ∨ hi ≤ a) → Cells.get t.blk.win a = Cells.get s.blk.win a

end Sys2Proof.Claims

/-- 12 R347, 02 R71, 03 R104: `cpk` performs a device-scope release, appends its requests to the core's kick queue where
the queue has room for them, and starts an operation under flag B that counts them; where it is full the fragment waits.
12 R348: `cpcl` closes the batch. 12 R349: `cpwt` waits for every copy of the batches it names, and then may read and
clear the copy error count; a batch that has not been closed raises WAIT 0x19 with cause 0x01. 12 R351, R352: `arin`
adds to an arrival object's REMAIN, `arin.set` writes REMAIN and clears OVER and SKIPPED, and `arwt` completes where
REMAIN reads 0 and sleeps elsewhere; no other byte changes. The model's own choices here: when a malformed request is
reported (log 33). -/
def Obligations.CopiesAndArrivalObjects : Prop :=
  (∀ (s u : State) (sa : BitVec 6) (k : BitVec 4),
    let g := readS s sa.toNat
    let n := k.toNat + 1
    Ready (.cpk sa k) s → WindowOperand s g 64 (64 * n) → collected s = true →
    (s.f.count = 0 → queued s s.w.core + n ≤ 16 → u = releaseAt 2 (started s) →
      OnlyMemory (started s) u ∧
      ∃ t, exec (.cpk sa k) s = .next t ∧ Past s t ∧
        t = { u with
          f := t.f, uid := s.uid + 1, agenda := u.agenda ++ [(.copyIssue, .unit s.w.core)]
          w := { u.w with pend := s.w.pend ++ [{ operation s (setB s.f) true .other s.f.mask [] with left := n }] }
          kicks := s.kicks ++ (List.range n).map (fun j =>
            { core := s.w.core, blk := s.blk.uid, wp := s.w.idx, lanes := s.f.mask, req := vaOf g + 64 * j, pend := s.uid,
              pc := s.f.pc, word := BitVec.ofNat 64 ((Decode.encodeNat (.cpk sa k)).getD 0), user := !s.f.sup,
              stream := modeLevel s == 3, batch := s.w.batch + 1, stopped := false }) }) ∧
    (16 ≤ queued s s.w.core → ∃ t, exec (.cpk sa k) s = .next t ∧ Waits .kick s t)) ∧
  (∀ (s : State) (res : BitVec 1) (sd : BitVec 6), Ready (.cpcl res sd) s →
    ∃ t, exec (.cpcl res sd) s = .next t ∧ Past s t ∧
      t = { s with f := t.f, w := { s.w with batch := s.w.batch + 1, s := t.w.s } } ∧
      ∀ n, readS t n = if res = 1 ∧ n = sd.toNat ∧ n ≠ 0 then (s.w.batch + 1).setWidth 64 else readS s n) ∧
  (∀ (s : State) (res : BitVec 1) (sd : BitVec 6) (rel : BitVec 1) (sa k : BitVec 6),
    let i := Instr.cpwt res sd rel sa k
    let n := if rel = 1 then s.w.batch - k.setWidth 32 else (readS s sa.toNat).setWidth 32
    let ahead := (n - s.w.batch).toNat
    Ready i s →
    (rel = 0 → 0 < ahead → ahead < 2 ^ 31 → TakesFaults s → ∃ t, exec i s = .next t ∧ t.w.trappc = s.f.pc ∧
      Delivered 0x19 0 s.f.mask 0 0x100 (atDelivery s) t) ∧
    (rel = 1 ∨ ahead = 0 ∨ 2 ^ 31 ≤ ahead → ∃ t, exec i s = .next t ∧
      if batchesDone s s.blk.uid s.w.idx n then
        Past s t ∧ t = { s with f := t.f, l1 := (acquireAt 2 (started s)).l1,
                                w := { s.w with s := t.w.s, copyErr := if res = 1 then 0 else s.w.copyErr } } ∧
        ∀ m, readS t m = if res = 1 ∧ m = sd.toNat ∧ m ≠ 0 then s.w.copyErr.setWidth 64 else readS s m
      else Waits (.copies n) s t)) ∧
  ∀ (s : State) (sa sb : BitVec 6),
    let g := readS s sa.toNat
    let o := vaOf g
    let v := readS s sb.toNat
    (Ready (.arin sa sb) s → ArrivalObject s g → ∃ t, exec (.arin sa sb) s = .next t ∧ Past s t ∧ OnlyWindow o (o + 8) s t ∧
      Cells.load t.blk.win o 8 = (Cells.load s.blk.win o 8 + v.toNat) % 2 ^ 64) ∧
    (Ready (.arinSet sa sb) s → ArrivalObject s g → ∃ t, exec (.arinSet sa sb) s = .next t ∧ Past s t ∧
      OnlyWindow o (o + 12) s t ∧ Cells.load t.blk.win o 8 = v.toNat ∧
      Cells.load t.blk.win (o + 8) 4 = Cells.load s.blk.win (o + 8) 4 % 2 ^ 30) ∧
    (Ready (.arwt sa) s → ArrivalObject s g → ∃ t, exec (.arwt sa) s = .next t ∧
      if Cells.load s.blk.win o 8 = 0 then Past s t ∧ t = { s with f := t.f, l1 := (acquireAt 2 (started s)).l1 }
      else Sleeps (.arrival o) s t)

namespace Sys2Proof.Claims
open Sys2Proof.Machine Sys2Proof.Machine.Num

/-! ### Synchronisation (14 R387, R397 to R400) -/

/-- Barrier `id` of the block is `b`, and every other one is as before. -/
def BarrierIs (id : Nat) (b : Barrier) (s t : State) : Prop :=
  t.blk.bars = s.blk.bars.modify id (fun _ => b)

/-- A barrier after the arrival of a fragment's lanes (14 R387): the first arrival of a phase fixes the expected count, a
CNT form's between 1 and the block's threads; without CNT every thread that has not exited is expected; a lane that
arrives twice counts once. -/
def ArrivedAt (s : State) (b : Barrier) (cnt : BitVec 1) (sa : BitVec 6) (b' : Barrier) : Prop :=
  let keys := (lanesOf s.f.mask).map (fun l => 32 * s.w.idx + l)
  let live := (s.w :: s.blk.warps).flatMap (fun w => (lanesOf (w.launched &&& ~~~w.exited)).map (fun l => 32 * w.idx + l))
  let all := b'.arrived.length + (live.filter (fun k => !b'.arrived.contains k)).length
  b'.phase = b.phase ∧ (∀ k, k ∈ b'.arrived ↔ k ∈ b.arrived ∨ k ∈ keys) ∧ (b.arrived.Nodup → b'.arrived.Nodup) ∧
  match b.expected with
  | some n => b'.counted = b.counted ∧ b'.expected = some (if b.counted then n else all)
  | none => b'.counted = decide (cnt = 1) ∧
    b'.expected = some (if cnt = 1 then min (max 1 ((readS s sa.toNat).toNat % 2 ^ 32)) s.blk.nthreads else all)

/-- No other fragment of the block waits for a phase of a barrier. -/
def NoneWaits (id : Nat) (ph : BitVec 32) (s : State) : Prop :=
  ∀ w ∈ s.w :: s.blk.warps, ∀ g ∈ w.frags, g.hold ≠ .barrier id ph

/-- The operand of `bwt` and `bwk` names an aligned wait word that the access reaches (14 R397). -/
def WaitWord (s : State) (k : Access) (g : W64) (p : Place) : Prop :=
  g.toNat % 8 = 0 ∧ isPrivate g = false ∧ resolve s (isUser s) k .home g 8 0 = .ok p ∧
  (k = .write → checkHeader s p g = .ok p) ∧ fillHeld s p 8 = false ∧ InOrder s ((lanesOf s.f.mask).map (fun l => (l, g))) 8

end Sys2Proof.Claims

/-- 14 R387, 03 R110: `bar` and `bara` perform a release and arrive for the fragment's lanes. While arrivals are
missing, `bar` waits for the phase and `bara` goes on; the arrival that completes the phase advances it, and with it the
fragment of a `bar` goes on after an acquire. `barw` sends its lanes' collector groups, waits while the open phase is that of
a lane's last `bara`, and performs an acquire. The model's own choices here: arrivals beyond what a phase expects (log 43). -/
def Obligations.BarriersComplete : Prop :=
  (∀ (s u : State) (id : BitVec 4) (cnt : BitVec 1) (sa : BitVec 6) (b : Barrier) (split : Bool),
    let i := if split then Instr.bara id cnt sa else Instr.bar id cnt sa
    Ready i s → collected s = true → s.blk.bars[id.toNat]? = some b → NoneWaits id.toNat b.phase s →
    u = releaseAt 1 (started s) →
    OnlyMemory (started s) u ∧
    ∃ t b', exec i s = .next t ∧ ArrivedAt s b cnt sa b' ∧
      t = { s with f := t.f, mem := u.mem, l1 := t.l1, l2 := u.l2, w := { s.w with arrived := t.w.arrived },
                   blk := { s.blk with bars := t.blk.bars } } ∧
      (∀ l, l < 32 → lookup (32 * id.toNat + l) t.w.arrived =
        if split = true ∧ s.f.mask.getLsbD l = true then some b.phase else lookup (32 * id.toNat + l) s.w.arrived) ∧
      (∀ k, k < 32 * id.toNat ∨ 32 * id.toNat + 32 ≤ k → lookup k t.w.arrived = lookup k s.w.arrived) ∧
      (if b'.expected.any (fun n => decide (n ≤ b'.arrived.length)) = true then
        Past s t ∧ BarrierIs id.toNat { phase := b.phase + 1, expected := none, counted := false, arrived := [] } s t ∧
        t.l1 = if split then u.l1 else (acquireAt 1 u).l1
      else BarrierIs id.toNat b' s t ∧ t.l1 = u.l1 ∧
        if split then Past s t
        else t.f = { s.f with hold := .barrier id.toNat b.phase, st := .ready })) ∧
  ∀ (s u : State) (id : BitVec 4) (b : Barrier), Ready (.barw id) s → s.blk.bars[id.toNat]? = some b →
    u = sendGroups (ofFront s) (started s) →
    OnlyCollector (started s) u ∧ ∃ t, exec (.barw id) s = .next t ∧
      let open_ := fun l => s.f.mask.getLsbD l = true ∧ lookup (32 * id.toNat + l) s.w.arrived = some b.phase
      (∀ l, l < 32 → open_ l → Waits (.barrier id.toNat b.phase) u t) ∧
      ((∀ l, l < 32 → ¬open_ l) → Past s t ∧ t = { u with f := t.f, l1 := (acquireAt 1 u).l1 })

/-- 14 R397, R398, R400, 03 R89: `bwt` reads its word; where its condition holds (equal, not equal, at least) it
completes with an acquire, elsewhere the fragment sleeps. `bwk` writes its word after a device-scope release. `yld`
moves on and keeps its fragment from issuing until its expiry. A fence performs the release and acquire halves of its
kind. The model's own choices here: when a waiter looks again (log 61) and when the hold of `yld` ends (log 82). -/
def Obligations.WaitWordsYieldsAndFences : Prop :=
  (∀ (s u : State) (v : Nat) (sa sb : BitVec 6) (cond : BitVec 2) (p : Place),
    let g := readS s sa.toNat
    let x := (readS s sb.toNat).toNat
    Ready (.bwt sa sb cond) s → WaitWord s .read g p → loadAt (started s) p 8 = (u, v) →
    OnlyMemory (started s) u ∧ ∃ t, exec (.bwt sa sb cond) s = .next t ∧
      if (cond = 0 ∧ v = x) ∨ (cond = 1 ∧ v ≠ x) ∨ (cond ≠ 0 ∧ cond ≠ 1 ∧ x ≤ v) then
        Past s t ∧ OnlyPosition (acquireAt 2 (keepLeaves u p)) t
      else (∃ r, t.f = { s.f with hold := .word g cond (readS s sb.toNat) r false, st := .sleeping } ∧
        t = { keepLeaves u p with
          f := t.f, agenda := if r then u.agenda else u.agenda ++ [(.waitWordReread, .triple s.blk.uid s.w.idx s.f.ent)] })) ∧
  (∀ (s u : State) (sa sb : BitVec 6) (p : Place),
    let g := readS s sa.toNat
    Ready (.bwk sa sb) s → WaitWord s .write g p → collected s = true →
    u = keepLeaves (storeThrough (releaseAt 2 (started s)) p (readS s sb.toNat).toNat 8) p →
    ∃ t, exec (.bwk sa sb) s = .next t ∧ Past s t ∧ OnlyMemory (started s) u ∧ OnlyPosition u t) ∧
  (∀ (s : State), Ready .yld s →
    ∃ t, exec .yld s = .next t ∧
      Past s { t with f := { t.f with hold := .free, waited := s.f.waited, promoted := s.f.promoted } } ∧
      t.f.hold = .yield ∧ t.f.waited = 0 ∧ t.f.promoted = none ∧
      t = { s with f := t.f, agenda := s.agenda ++ [(.yieldExpiry, .triple s.blk.uid s.w.idx s.f.ent)] }) ∧
  (∀ (s u : State) (scope kind : BitVec 2), Ready (.fence scope kind) s → collected s = true →
    (let r := if kind = 0 then started s else releaseAt scope.toNat (started s)
     u = if kind = 1 then r else acquireAt scope.toNat r) →
    OnlyMemory (started s) u ∧ ∃ t, exec (.fence scope kind) s = .next t ∧ Past s t ∧ OnlyPosition u t) ∧
  ∀ (s : State), Ready .nop s → ∃ t, exec .nop s = .next t ∧ Past s t ∧ OnlyPosition s t

/-- 14 R399, 05 R167: `racc` sleeps for the warp that it names. `rdon` to a warp whose one fragment has accepted moves
the donor's highest 8 n registers, with their contents, to the top of the recipient's allotment, and both fragments go
on. No other register of either warp changes. The model's own choices here: marks that move with the registers (log 51).
-/
def Obligations.RegistersAreDonated : Prop :=
  (∀ (s : State) (sa : BitVec 6), Ready (.racc sa) s →
    ∃ t, exec (.racc sa) s = .next t ∧ Sleeps (.accept ((readS s sa.toNat).toNat % 2 ^ 16))
      { s with f := { s.f with count := if s.f.count = 0 then s.tick + 1 else s.f.count } } t) ∧
  ∀ (s : State) (sa : BitVec 6) (n : BitVec 5) (r : Warp) (g : Frag) (before after : List Warp),
    let k := 8 * n.toNat
    Ready (.rdon sa n) s → n ≠ 0 → s.blk.st ≠ .none → s.f.mask ≠ 0 → s.w.launched ≠ 0 → Cells.wf s.w.v = true →
    (∀ b ∈ s.blocks, b.uid ≠ s.blk.uid) →
    s.blk.warps = before ++ r :: after → (s.blk.warps.map Warp.idx).Pairwise (· < ·) → (∀ w ∈ s.blk.warps, w.idx ≠ s.w.idx) →
    (readS s sa.toNat).toNat % 2 ^ 16 = r.idx → r.core = s.w.core → r.launched ≠ r.exited → r.launched ≠ 0 →
    r.frags = [g] → g.mask ≠ 0 → g.replay = none → g.hold = .accept s.w.idx → s.w.frags = [] → s.w.exps = [] → r.exps = [] →
    16 + k ≤ s.w.allot → r.allot + k ≤ 216 → (∀ c, 32 * r.allot ≤ c → c < 32 * 216 → Cells.get r.v c = 0) →
    ∃ t r' g', exec (.rdon sa n) s = .next t ∧ Past s t ∧ t.blk.warps = before ++ r' :: after ∧ r'.frags = [g'] ∧
      t = { s with f := t.f, w := t.w, blk := { s.blk with warps := t.blk.warps, donations := t.blk.donations } } ∧
      t.w = { s.w with allot := s.w.allot - k, v := t.w.v, lastRead := t.w.lastRead } ∧
      r' = { r with allot := r.allot + k, v := r'.v, lastRead := r'.lastRead, frags := r'.frags } ∧
      t.blk.donations = s.blk.donations ++ [(s.w.idx, r.idx, n.toNat)] ∧
      (∀ j l, j < k → l < 32 → Cells.get r'.v (regKey (r.allot + j) l) = Cells.get s.w.v (regKey (s.w.allot - k + j) l)) ∧
      (∀ j l, l < 32 → j < s.w.allot - k ∨ s.w.allot ≤ j → Cells.get t.w.v (regKey j l) = Cells.get s.w.v (regKey j l)) ∧
      (∀ j l, l < 32 → j < r.allot ∨ r.allot + k ≤ j → Cells.get r'.v (regKey j l) = Cells.get r.v (regKey j l)) ∧
      g' = { g with pc := nextPc g, inClause := !lastWord g, hold := .free, st := .ready, done := 0, count := 0,
                    latch := g'.latch }

namespace Sys2Proof.Claims
open Sys2Proof.Machine Sys2Proof.Machine.Num

/-! ### Gear sets, records and launches (06 R182 to R201, 14 R388 to R396) -/

/-- The fragment's grid has a gear set. -/
def GearSet (s : State) (gr : Grid) (g : Gear) : Prop := gridOf s = some gr ∧ gr.gear = some g

/-- Scalars from `r` upward hold the values `vs`, and no other scalar has changed since `s`; s0 reads 0. -/
def ScalarsWritten (r : Nat) (vs : List W64) (s t : State) : Prop :=
  ∀ n, readS t n = if n = 0 then 0 else if r ≤ n then (vs[n - r]?).getD (readS s n) else readS s n

end Sys2Proof.Claims

/-- 06 R182, R190 to R196, 14 R388 to R391: `schn` returns the tile that the four steps of R190 give (a queued piece, a
handover entry, a box of its cluster's share, a box of another's), or all ones and zeros where the launch is exhausted,
and holds it for the cluster; `schp` reads the cluster's RECALL bit; `schq` reads a register of the gear set; `schs`
stages a value and `schc` commits the staged ones under the next generation, both for the launch's tuner. `schd` and
`schh` mark a tile's grains done or handed over. The model's own choices here: summary bits (log 47). -/
def Obligations.GearInstructions : Prop :=
  (∀ (s u : State) (sd : BitVec 6) (gr : Grid) (g : Gear) (v : Served),
    let c := clusterOf s.w.core
    Ready (.schn sd) s → GearSet s gr g →
    g.claims.find? (fun x => x.blk == s.blk.uid && x.wp == s.w.idx && x.lane == lowLane s.f.mask) = none →
    serve gr.gid (gr.map (isUser s)) g (placementSet gr) c (started s) = (u, v) →
    (v = .exhausted → ∃ t, exec (.schn sd) s = .next t ∧ Past s t ∧
      t = { u with f := t.f, l1 := (acquireAt 2 u).l1, w := { u.w with s := t.w.s } } ∧
      ScalarsWritten sd.toNat [-1, -1, -1, -1, 0, 0, 0, 0, 0, 0] s t) ∧
    ∀ tl buf prog, v = .tile tl buf prog [] →
      ∃ t, exec (.schn sd) s = .next t ∧ Past s t ∧
        t = { updGear gr.gid (fun x => { x with held := x.held ++ [(c, tl, s.cycles)] }) u with
              f := t.f, l1 := (acquireAt 2 u).l1, w := { u.w with s := t.w.s } } ∧
        ScalarsWritten sd.toNat (tl.org.map (BitVec.ofNat 64) ++ tl.ext.map (BitVec.ofNat 64) ++ [buf, prog]) s t) ∧
  (∀ (s : State) (gr : Grid) (g : Gear) (sd : BitVec 6), GearSet s gr g →
    (Ready (.schp sd) s → ∃ t, exec (.schp sd) s = .next t ∧ Past s t ∧ OnlyScalars s t ∧
      ScalarsWritten sd.toNat [if g.recalls.getLsbD (clusterOf s.w.core) then 1 else 0] s t) ∧
    ∀ idx : BitVec 8, Ready (.schq idx sd) s →
      (idx ≠ 0x20 ∧ idx ≠ 0x21 ∧ idx ≠ 0x22 → ∃ t v, exec (.schq idx sd) s = .next t ∧ Past s t ∧ OnlyScalars s t ∧
        ScalarsWritten sd.toNat [v] s t ∧
        (idx = 0x00 → v = BitVec.ofNat 64 (leBytes gr.record 0xC0 1)) ∧
        (0x09 ≤ idx.toNat → idx.toNat ≤ 0x0C → v = g.tile.getD (idx.toNat - 9) 0) ∧ (idx = 0x0D → v = g.order) ∧
        (idx = 0x0E → v = g.place) ∧ (idx = 0x0F → v = g.gen.setWidth 64) ∧ (idx = 0x10 → v = g.recalls.setWidth 64) ∧
        (0x40 ≤ idx.toNat → idx.toNat ≤ 0xBF → v = BitVec.ofNat 64 ((lookup (idx.toNat - 0x40) g.tt).getD 0))) ∧
      (idx = 0x20 ∨ idx = 0x21 ∨ idx = 0x22 → ∀ m u, m = gr.map (isUser s) →
        mapStart (started s) m (fieldAddrs m (List.range m.total)) = .ok u →
        ∃ t, exec (.schq idx sd) s = .next t ∧ Past s t ∧ OnlyScalars u t ∧ ScalarsWritten sd.toNat [BitVec.ofNat 64 ((List.range m.total).filter (fun x =>
            fieldOf u m x == (if idx = 0x20 then 3 else if idx = 0x21 then 1 else 2))).length] s t)) ∧
  (∀ (s : State) (gr : Grid) (g : Gear) (idx : BitVec 8) (sa : BitVec 6), GearSet s gr g → Ready (.schs idx sa) s →
    isTuner s = true → (0x09 ≤ idx.toNat ∧ idx.toNat ≤ 0x0E ∨ idx = 0x10 ∨ idx = 0x11) →
    ∃ t g', exec (.schs idx sa) s = .next t ∧ Past s t ∧ OnlyPosition (updGear gr.gid (fun _ => g') s) t ∧
      g' = { g with stTile := g'.stTile, stOrder := if idx = 0x0D then readS s sa.toNat else g.stOrder,
                    stPlace := if idx = 0x0E then readS s sa.toNat else g.stPlace, recalls := g'.recalls } ∧
      (∀ k, g'.stTile[k]? = if 0x09 ≤ idx.toNat ∧ idx.toNat ≤ 0x0C ∧ k = idx.toNat - 9 ∧ k < g.stTile.length
        then some (readS s sa.toNat) else g.stTile[k]?) ∧
      (∀ b, b < 128 → g'.recalls.getLsbD b =
        if idx = 0x10 ∧ b < 64 then (readS s sa.toNat).getLsbD b
        else if idx = 0x11 ∧ 64 ≤ b then (readS s sa.toNat).getLsbD (b - 64) else g.recalls.getLsbD b)) ∧
  (∀ (s : State) (gr : Grid) (g : Gear), GearSet s gr g → Ready .schc s → isTuner s = true → collected s = true →
    firstBad (gearChecks (leBytes gr.record 0xC0 1) (recGrain gr.record) (g.stTile.map BitVec.toNat) g.stOrder.toNat g.stPlace.toNat) = none →
    ∃ t, exec .schc s = .next t ∧ Past s t ∧ OnlyPosition (updGear gr.gid (fun _ =>
      { g with tile := g.stTile, order := g.stOrder, place := g.stPlace, gen := g.gen + 1, cursors := [] })
      (releaseAt 2 (started s))) t) ∧
  (∀ (s v u : State) (gr : Grid) (g : Gear) (sa : BitVec 6) (m : MapRef) (tl : Tile),
    GearSet s gr g → Ready (.schd sa) s → collected s = true → m = gr.map (isUser s) → tl = groupTile s sa →
    mapStart (releaseAt 2 (started s)) m (fieldAddrs m (tileGrains m tl) ++ tableAddrs m) = .ok v →
    u = (moveGrains m 1 3 (tileGrains m tl) v).1 →
    ∃ t, exec (.schd sa) s = .next t ∧ Past s t ∧
      (pickedEntry u m tl = none → OnlyPosition (tileBack gr.gid (clusterOf s.w.core) tl true u) t) ∧
      ∀ e, pickedEntry u m tl = some e →
        OnlyPosition (tileBack gr.gid (clusterOf s.w.core) tl true (flushIdle gr.gid (mapPut u m (entryVa m e + 0x36) 0))) t) ∧
  ∀ (s u v : State) (gr : Grid) (g : Gear) (sa sb sc : BitVec 6) (m : MapRef) (tl : Tile),
    let i := Instr.schh sa sb sc
    let cl := clusterOf s.w.core
    GearSet s gr g → Ready i s → collected s = true → m = gr.map (isUser s) →
    tl = { groupTile s sa with gen := ((g.held.find? (fun x => sameShape x.2.1 (groupTile s sa))).map (fun x => x.2.1.gen)).getD g.gen } →
    mapStart (releaseAt 2 (started s)) m (tableAddrs m) = .ok u →
    (pickedEntry u m tl = none → handOver gr.gid m tl (readS s sb.toNat) (readS s sc.toNat) cl u = .ok v →
      ∃ t, exec i s = .next t ∧ Past s t ∧ OnlyPosition (tileBack gr.gid cl tl false v) t) ∧
    (pickedEntry u m tl = none → handOver gr.gid m tl (readS s sb.toNat) (readS s sc.toNat) cl u = .full →
      ∃ t, exec i s = .next t ∧ Sleeps .entry u t) ∧
    ∀ e, pickedEntry u m tl = some e → mapStart u m (fieldAddrs m (tileGrains m tl)) = .ok v →
      ∃ t, exec i s = .next t ∧ Past s t ∧ OnlyPosition (tileBack gr.gid cl tl false
        (updGear gr.gid (fun x => { x with handed := x.handed.filter (· != e) ++ [e] })
          (moveGrains m 1 2 (tileGrains m tl) (writeEntry m e { entryTile v m e with entry := none }
            (readS s sb.toNat) (readS s sc.toNat) cl v)).1)) t

namespace Sys2Proof.Claims
open Sys2Proof.Machine Sys2Proof.Machine.Num

/-- The state in which the operation on a counter of the bytes `ps` begins: the issuing half's dirty bytes are written back. -/
def atCounter (s : State) (ps : List Piece) : State := cleanPieces (keepLeaves (started s) (.mem 1 (ps.take 1))) ps

/-- The counter that a register names stands at the bytes `ps`, which the operation reaches and waits for nothing on. -/
def CounterBytes (s : State) (va : W64) (ps : List Piece) : Prop :=
  va.toNat % 32 = 0 ∧ bytePieces s (asidOf s) (isUser s) false .rmw va 32 = .ok ps ∧ piecesHeld s ps = false ∧
  InOrder s ((lanesOf s.f.mask).map (fun l => (l, va))) 32

/-- The records of these lanes, pushed one after another, or nothing where one of them has to wait or meets a fault. -/
def pushedAll (ctr : Option (W64 × List Piece)) (g n : Nat) (nd : Node) (d : BitVec 8) (lanes : List Nat) (s : State) : Option State :=
  lanes.foldl (fun u l => u.bind (fun u => match pushOne ctr g n nd (recordWords s d nd.words l) u with
    | .done v => some v
    | _ => none)) (some s)

end Sys2Proof.Claims

/-- 06 R199 to R201, 14 R392 to R394: `rpush` appends the records of its active lanes, in ascending order, to the node's
queue on the issuing cluster, or, where it names a counter that has not reached 0, to the counter's hold area; `rpop` hands
the oldest records to active lanes in ascending order and clears the predicate of the lanes that receive none; `dadd` and
`ddec` raise and lower a dependency counter, the release of `ddec` first; the `ddec` that brings it to 0 moves every held
record to the node's queue, and a counter that would leave its range raises SCHED 0x0F with cause 0x05. The model's own
choices here: how held and overflow records lie (logs 55, 57). -/
def Obligations.RecordsAndCounters : Prop :=
  (∀ (s u : State) (d : BitVec 8) (sa : BitVec 6) (g : Nat) (nd : Node),
    let n := (readS s sa.toNat).toNat % 256
    let c := clusterOf s.w.core
    let lanes := lanesOf (activeLanesOf s &&& ~~~s.f.done)
    Ready (.rpush d sa 0) s → (gridOf s).bind Grid.graph = some g → nodeAt s g n = some nd → 2 ≤ nd.words →
    groupFault d 2 s = none → groupFault d nd.words s = none → collected s = true → s.f.exp = none →
    nd.held c + lanes.length ≤ 64 → nd.held c + lanes.length < nd.group → u = releaseAt 2 (started s) →
    OnlyMemory (started s) u ∧
    ∃ t, exec (.rpush d sa 0) s = .next t ∧ Past s t ∧
      t = { u with f := t.f, w := { u.w with lastRead := t.w.lastRead }, graphs := t.graphs, agenda := t.agenda } ∧
      nodeAt t g n = some { nd with queue := nd.queue ++ lanes.map (fun l =>
        { cluster := c, since := s.cycles, words := (List.range nd.words).map (fun j => readLane s (d.toNat + j) l) }) } ∧
      t.agenda = if lanes = [] ∨ (.nodeTimerExpiry, .triple g n c) ∈ u.agenda then u.agenda
        else u.agenda ++ [(.nodeTimerExpiry, .triple g n c)]) ∧
  (∀ (s u v : State) (d : BitVec 8) (sa sb : BitVec 6) (ps : List Piece) (g : Nat) (nd : Node),
    let va := readS s sb.toNat
    let n := (counterAt (atCounter s ps) ps).node
    Ready (.rpush d sa sb) s → sb ≠ 0 → CounterBytes s va ps → (gridOf s).bind Grid.graph = some g → nodeAt s g n = some nd →
    groupFault d 2 s = none → groupFault d nd.words s = none → collected s = true → s.f.exp = none →
    u = releaseAt 2 (atCounter s ps) →
    pushedAll (some (va, ps)) g n nd d (lanesOf (activeLanesOf s &&& ~~~s.f.done)) u = some v →
    (∀ x, nodeAt v g n = some x → x.held (clusterOf s.w.core) < x.group) →
    OnlyMemory (started s) u ∧ ∃ t, exec (.rpush d sa sb) s = .next t ∧ Past s t ∧
      t = { v with f := t.f, w := { v.w with lastRead := t.w.lastRead } }) ∧
  (∀ (s : State) (d : BitVec 8) (p : BitVec 3) (w : BitVec 1) (g n : Nat) (nd nd' : Node) (rs : List QRec),
    let act := lanesOf (activeLanesOf s)
    Ready (.rpop d p w) s → s.blk.node = some (g, n) → nodeAt s g n = some nd →
    groupFault d 2 s = none → groupFault d nd.words s = none →
    groupBusy d nd.words s = false → takeRecs nd (s.blk.clusters.headD 0) act.length = (rs, nd') → (w = 1 → rs ≠ []) →
    (∀ r ∈ rs, r.words.length ≤ nd.words) →
    ∃ t, exec (.rpop d p w) s = .next t ∧ Past s t ∧ nodeAt t g n = some nd' ∧ SameExports s t ∧
      t = { s with f := t.f, l1 := (acquireAt 2 (started s)).l1, graphs := t.graphs,
                   w := { s.w with v := t.w.v, p := t.w.p, lastRead := t.w.lastRead, exps := t.w.exps } } ∧
      (∀ j l, act[j]? = some l → p ≠ 0 → filePred t p.toNat l = decide (j < rs.length)) ∧
      (∀ (j l : Nat) (r : QRec) (q : Nat) (x : W32), act[j]? = some l → rs[j]? = some r → r.words[q]? = some x →
        fileLane t (regKey (d.toNat + q) l) = x) ∧
      (∀ q l, q < 8 → l < 32 → (q ≠ p.toNat ∨ l ∉ act) → filePred t q l = filePred s q l) ∧
      ∀ j l, j < 224 → l < 32 →
        (∀ (k : Nat) (r : QRec), act[k]? = some l → rs[k]? = some r → j < d.toNat ∨ d.toNat + r.words.length ≤ j) →
        fileLane t (regKey j l) = fileLane s (regKey j l)) ∧
  ∀ (s u : State) (sa sb : BitVec 6) (ps : List Piece) (c : Counter) (dec : Bool),
    let va := readS s sa.toNat
    let n := (readS s sb.toNat).toNat % 2 ^ 32
    let i := if dec then Instr.ddec sa sb else Instr.dadd sa sb
    Ready i s → CounterBytes s va ps → (dec = true → collected s = true) →
    u = (if dec then releaseAt 2 (atCounter s ps) else atCounter s ps) → c = counterAt u ps →
    ((ps.take 4).any (headerHit u) = false → c.count + n < 2 ^ 32 → dec = false → ∃ t, exec i s = .next t ∧ Past s t ∧
      OnlyPosition (if n = 0 then u else setCounter ps 0 (c.count + n) 4 u) t) ∧
    ((ps.take 4).any (headerHit u) = false → c.count ≠ 0 → n < c.count → dec = true → ∃ t, exec i s = .next t ∧ Past s t ∧
      OnlyPosition (if n = 0 then u else setCounter ps 0 (c.count - n) 4 u) t) ∧
    (∀ g nd hs v, (ps.take 4).any (headerHit u) = false → c.count ≠ 0 → n = c.count → dec = true →
      (gridOf s).bind Grid.graph = some g → nodeAt s g c.node = some nd →
      heldRecords u c nd = .ok hs → piecesHeld u hs = false →
      releaseHeld g c.node ((List.range c.held).map (fun j =>
          bytesWords (((homeBytes (cleanPieces u hs) hs).drop (j * nd.recBytes)).take nd.recBytes)))
        (setCounter ps 0x14 0 4 (setCounter ps 0 0 4 (cleanPieces u hs))) = .done v →
      (∀ x, nodeAt v g c.node = some x → x.held (clusterOf s.w.core) < x.group) →
      ∃ t, exec i s = .next t ∧ Past s t ∧ OnlyPosition v t) ∧
    ((if dec then c.count = 0 ∨ c.count < n else 2 ^ 32 ≤ c.count + n) → TakesFaults s →
      ∃ t, exec i s = .next t ∧ t.w.trappc = s.f.pc ∧ t.w.trapcode = 0x0F ∧ t.w.trapaux = 0x500 ∧ t.f.pc = s.w.tvec ∧
        t.f.sup = true)

/-- 14 R395, 06 R172 to R177: `launch` of an acceptable record creates the grid, after a device-scope release, as a
child of the issuing grid, and its first block's start is due; a record that fails a check raises LAUNCH 0x0E with the
check's offset, precisely. 14 R396: `amsd` appends a message to the receive queue of a cluster of this module, where its
handler's start is then due, or to the send queue of a peer's port, where it holds flag B. The model's own choices here:
dispatcher entries (logs 46, 48) and the kind of a launch's memory faults (log 71). -/
def Obligations.LaunchesAndMessages : Prop :=
  (∀ (s u : State) (sa : BitVec 6) (gr : Grid),
    let g := readS s sa.toNat
    let q : LaunchReq := { asid := gr.asid, user := !s.f.sup, va := g, depth := gr.depth + 1, parent := some s.blk.gid,
                           queue := none, cls := 0, root := some false, graph := gr.graph, die := clusterOf s.w.core / 32 }
    Ready (.launch sa) s → g.toNat % 256 = 0 → isGlobal g = true → collected s = true → gridOf s = some gr →
    recordHeld s gr.asid g = false →
    (∀ gid, acceptLaunch (releaseAt 2 (started s)) q = .ok u gid → ∃ t, exec (.launch sa) s = .next t ∧ Past s t ∧
      OnlyPosition u t ∧ gid = s.uid ∧ (∃ n ∈ t.grids, n.gid = s.uid ∧ n.recVa = g ∧ n.parent = some s.blk.gid ∧
        n.depth = gr.depth + 1 ∧ n.next = 0 ∧ n.accepted = true) ∧ (.blockStart, .unit s.uid) ∈ t.agenda) ∧
    ∀ o, acceptLaunch (releaseAt 2 (started s)) q = .bad o → TakesFaults s → ∃ t, exec (.launch sa) s = .next t ∧
      t.w.trappc = s.f.pc ∧ Delivered 0x0E 0 s.f.mask 0 (BitVec.ofNat 64 (o * 256)) (atDelivery s) t) ∧
  ∀ (s u : State) (a : BitVec 8) (sb sc : BitVec 6) (gr : Grid) (entry : W64),
    let dest := (readS s sb.toNat).toNat
    let peer := dest / 2 ^ 16 % 2 ^ 16
    let cluster := dest % 2 ^ 7
    Ready (.amsd a sb sc) s → dest / 2 ^ 7 % 2 ^ 9 = 0 → dest < 2 ^ 32 →
    (peer ≠ 0 → ∃ p, peerAt s peer = some p ∧ p.v = true) → gridOf s = some gr →
    handlerEntry s gr (isUser s) ((readS s sc.toNat).toNat % 2 ^ 16) = .ok (some entry) →
    handlerHeld s gr ((readS s sc.toNat).toNat % 2 ^ 16) = false →
    (peer = 0 → messageLost s cluster = none) → collected s = true →
    messageRoom s (messageQueue s peer cluster) = true → u = releaseAt 2 (started s) →
    OnlyMemory (started s) u ∧
    ∃ t m, exec (.amsd a sb sc) s = .next t ∧ Past s t ∧ m.src = s.blk.gid ∧ m.entry = entry ∧ m.cluster = cluster ∧
      m.peer = peer ∧ m.handler = (readS s sc.toNat).toNat % 2 ^ 16 ∧
      m.payload = (List.range 32).map (fun l => if (activeLanesOf s).getLsbD l then readLane s a.toNat l else 0) ∧
      m.s1 = BitVec.ofNat 64 (clusterOf s.w.core) ∧ m.s2 = BitVec.ofNat 64 (blockLin s) ∧ m.s3 = BitVec.ofNat 64 s.w.idx ∧
      if peer = 0 then
        t = { u with f := t.f, w := { u.w with lastRead := t.w.lastRead }, recvq := s.recvq ++ [m],
                     agenda := u.agenda ++ [(.activeMessageHandlerStart, .unit cluster)] }
      else t = { u with
        f := t.f, uid := s.uid + 1, sendq := s.sendq ++ [m]
        w := { u.w with lastRead := t.w.lastRead,
                        pend := s.w.pend ++ [operation s (setB s.f) true .other s.f.mask []] } }

/-- 07 R209, R212, 14 R401: `trap` and `brk` retire and deliver a notice (codes 0x14, with the immediate in TRAPAUX, and
0x15) whose TRAPPC is the address after them; `halt` retires and escalates: firmware receives the record and the block
stops. The model's own choices here: the address that `halt` names (log 59). -/
def Obligations.TrapsAndHalts : Prop :=
  (∀ (s : State) (imm : BitVec 16) (brk : Bool),
    let i := if brk then Instr.brk else Instr.trap imm
    Ready i s → TakesFaults s →
    ∃ t p, exec i s = .next t ∧ Past s p ∧ OnlyPosition s p ∧ t.w.trappc = nextPc s.f ∧
      Delivered (if brk then 0x15 else 0x14) 3 s.f.mask 0 (if brk then 0 else imm.setWidth 64) (repatriateFront p) t) ∧
  ∀ s : State, Ready .halt s →
    ∃ t p, exec .halt s = .next t ∧ Past s p ∧ OnlyPosition s p ∧ Escalated p t ∧
      ∃ r, t.fw = r :: s.fw ∧ r.code = 0 ∧ r.mask = s.f.mask ∧ r.pc = nextPc s.f ∧ r.gid = s.blk.gid

namespace Sys2Proof.Claims
open Sys2Proof.Machine Sys2Proof.Machine.Num

/-- The state `u` in which an operation on pool `n` begins, the issuing half's copies of its descriptor and of place `k` of
its stack given up (03 R87), with the descriptor `d`: no copy owes bytes of them (02 R74). -/
def PoolReached (s : State) (n : Nat) (k : PoolDesc → Nat) (d : PoolDesc) (u : State) : Prop :=
  let v := drainLine (descVa s.w.pool n) (started s)
  agentHeld s 0 (descVa s.w.pool n) 64 = false ∧ poolDesc v false s.w.pool n = .ok d ∧
  agentHeld s 0 (d.slot (k d)) 4 = false ∧ u = drainLine (d.slot (k d)) v

/-- Bytes `lo` to `hi - 1` of an address space have no part in bytes `v` to `v + n - 1` of the space `a`. -/
def Outside (a v n a' lo hi : Nat) : Prop := a' = a → hi ≤ v ∨ v + n ≤ lo

end Sys2Proof.Claims

/-- 01 R31, R37 to R39, 14 R402 to R404, 12 R354: in supervisor privilege, `pmap` writes the entry of an address that
has a level-3 table with a frame and reads 1, or reads 0 where the page is already mapped; `pumap` clears the valid bit
of the leaves that lie in a range and invalidates it, `tinv` only invalidates: it writes back and drops the range's lines in
every L1 and every slice, and drops its lines of the instruction caches, its leaves, its pointer entries and its pages' homes; `pool` pops a
frame and sleeps while there is none; `pool.push` pushes one, or passes it to firmware where the pool is full. `l1wb` writes
back the issuing half's lines, in a range or all, and `l1inv` drops their clean bytes as well. The model's own choices here:
invalidation waits for a copy's row that is written in part (log 91). -/
def Obligations.PoolsMappingsAndCaches : Prop :=
  (∀ (s : State) (sd sa sb : BitVec 6) (table : Nat),
    let g := readS s sa.toNat
    let b := (readS s sb.toNat).toNat
    let e := pmapEntry s table (vaOf g)
    let v := physRead s e.1 8
    Ready (.pmap sd sa sb) s → isGlobal g = true → walkTable s (asidOf s) g = .ok (.inl table) →
    (eV v = true → ∃ t, exec (.pmap sd sa sb) s = .next t ∧ Past s t ∧ OnlyScalars s t ∧ ScalarsWritten sd.toNat [0] s t) ∧
    ∀ d u, eV v = false → ePOOL v ≠ 0 → eTYPE v = (if e.2 then 2 else 1) → PoolReached s (b / 2 ^ 32 % 64) (fun _ => 0) d u →
      d.attrs / 2 ^ 12 % 4 = (if e.2 then 2 else 1) → (e.2 = true → b % 32 = 0) →
      OnlyMemory (started s) u ∧
      ∃ t, exec (.pmap sd sa sb) s = .next t ∧ Past s t ∧ ScalarsWritten sd.toNat [1] s t ∧
        OnlyScalars (physWrite u e.1 (pmapLeaf v d.attrs (b % 2 ^ 32)) 8) t) ∧
  (∀ (s : State) (sa sb : BitVec 6) (unmap : Bool),
    let g := readS s sa.toNat
    let n := (readS s sb.toNat).toNat
    let a := effAsid (asidOf s) (vaOf g)
    let i := if unmap then Instr.pumap sa sb else Instr.tinv sa sb
    Ready i s → g.toNat % 0x10000 = 0 → n % 0x10000 = 0 → isGlobal g = true → rowsOpen s = false →
    ∃ t, exec i s = .next t ∧ Past s t ∧ (n = 0 → OnlyPosition s t) ∧
      t = { s with
        f := t.f, mem := t.mem, l1 := t.l1, l2 := t.l2, icache := t.icache, tlb := t.tlb, wcache := t.wcache, homes := t.homes } ∧
      (n ≠ 0 → ∀ u, u = dropLines a (vaOf g) n (if unmap then clearLeaves a (vaOf g) n (started s) else started s) →
        t.mem = u.mem ∧ t.l2 = u.l2 ∧
        (∀ x ∈ t.l1, Outside a (vaOf g) n x.asid (128 * x.la) (128 * x.la + 128)) ∧
        (∀ x ∈ t.l2, Outside a (vaOf g) n x.asid (128 * x.la) (128 * x.la + 128)) ∧
        (∀ x ∈ t.icache, x ∈ s.icache ∧ Outside a (vaOf g) n x.asid (128 * x.la) (128 * x.la + 128)) ∧
        (∀ x ∈ t.tlb, x ∈ s.tlb ∧ Outside a (vaOf g) n x.asid (x.page * x.size) (x.page * x.size + x.size)) ∧
        (∀ x ∈ t.homes, x ∈ s.homes ∧ Outside a (vaOf g) n x.asid (x.page * 0x10000) (x.page * 0x10000 + 0x10000)) ∧
        ∀ x ∈ t.wcache, x ∈ s.wcache ∧
          Outside a (vaOf g) n x.asid (x.index * 2 ^ levelShift x.level) ((x.index + 1) * 2 ^ levelShift x.level))) ∧
  (∀ (s u : State) (sd sa : BitVec 6) (d : PoolDesc),
    let n := (readS s sa.toNat).toNat % 64
    let key := poolKey s.w.pool n
    Ready (.pool sd sa) s → PoolReached s n (fun d => d.count - 1) d u →
    OnlyMemory (started s) u ∧
    (d.count = 0 → ∃ t, exec (.pool sd sa) s = .next t ∧ Sleeps (.frames key) (askRefill key u) t) ∧
    ∀ v frame, d.count ≠ 0 → popFrame false d u = .ok (v, frame) →
      ∃ t, exec (.pool sd sa) s = .next t ∧ Past s t ∧ ScalarsWritten sd.toNat [BitVec.ofNat 64 frame] s t ∧
        OnlyScalars (if d.count - 1 < d.low then askRefill key v else v) t) ∧
  (∀ (s u : State) (sa sb : BitVec 6) (d : PoolDesc),
    let n := (readS s sa.toNat).toNat % 64
    let frame := (readS s sb.toNat).setWidth 32
    Ready (.poolPush sa sb) s → PoolReached s n PoolDesc.count d u →
    OnlyMemory (started s) u ∧
    (d.cap ≤ d.count → ∃ t, exec (.poolPush sa sb) s = .next t ∧ Past s t ∧
      OnlyPosition { u with poolBack := (n, frame) :: s.poolBack } t) ∧
    ∀ v, d.count < d.cap → pushFrame false d frame.toNat u = .ok v →
      ∃ t, exec (.poolPush sa sb) s = .next t ∧ Past s t ∧ OnlyPosition v t) ∧
  ∀ (s u : State) (rng : BitVec 1) (sa sb : BitVec 6) (inv : Bool),
    let i := if inv then Instr.l1inv rng sa sb else Instr.l1wb rng sa sb
    let m := maintained s rng sa sb
    Ready i s → u = writeBackHalf (started s) m false →
    OnlyMemory (started s) u ∧
    ∃ t, exec i s = .next t ∧ Past s t ∧ (inv = false → OnlyPosition u t) ∧
      (inv = true → OnlyPosition { u with l1 := ((u.l1.filter (fun x => !(m x && x.dirty == 0))).map
        (fun x => if m x then { x with valid := x.dirty } else x)) } t)

namespace Sys2Proof.Claims
open Sys2Proof.Machine Sys2Proof.Machine.Num

/-! ### Events: what reaches a warp -/

/-- The newest value that landings bring to a register lane, a scalar, and a predicate bit. -/
def landedLane (l : List Landing) (k : Nat) : Option W32 :=
  l.foldl (fun a x => match x with
    | .lane k' v => if k' = k then some v else a
    | _ => a) none
def landedScalar (l : List Landing) (n : Nat) : Option W64 :=
  l.foldl (fun a x => match x with
    | .scalar m v => if m = n then some v else a
    | _ => a) none
def landedPred (l : List Landing) (p i : Nat) : Option Bool :=
  l.foldl (fun a x => match x with
    | .pred q j b => if q = p ∧ j = i then some b else a
    | _ => a) none

/-- The lanes of an operation that an event completes: the event's own, or all of them for a result that lands whole. -/
def landsLanes (s : State) (e : Instr) (u : PendUnit) : Option (Nat × Nat × Nat × Lanes) :=
  match e, s.arg with
  | .memoryReply, .lanes b w id m => if u = .memory ∨ u = .collector then some (b, w, id, m) else none
  | .quarterOperationCompletion, .lanes b w id m => if u = .quarter then some (b, w, id, m) else none
  | .longLatencyResult, .triple b w id => if u = .long then some (b, w, id, 0xFFFFFFFF) else none
  | _, _ => none

end Sys2Proof.Claims

/-- 09 R248, R249, 02 R67, 13 R382, 01 R29, 02 R57 to R60, R64 to R69: results land. A reply or result completes the
parts of its operation in its lanes: what was to land there is written, but not for lanes that have exited, scalars with
the last part, and the operation ends with it. A translation walk keeps the leaf that it finds; a home performs its
request on the word; a collector operation whose elements all pass is performed in lane order and leaves the collector.
The model's own choices here: when accesses are performed (log 8). -/
def Obligations.ResultsLand : Prop :=
  (∀ (s : State) (e : Instr) (b w id : Nat) (m : Lanes) (p : Pend), landsLanes s e p.unit = some (b, w, id, m) →
    let u := focusWarp s b w
    u.w.pend.find? (fun q => q.id == id) = some p → u.w.exps = [] →
    ∃ t, exec e s = .next t ∧
      t = { u with w := { u.w with v := t.w.v, s := t.w.s, p := t.w.p, lastRead := t.w.lastRead, pend := t.w.pend } } ∧
      t.w.pend = (if p.lanes &&& ~~~m = 0 then u.w.pend.filter (fun q => q.id != id)
        else u.w.pend.map (fun q => if q.id == id then
          { q with lanes := p.lanes &&& ~~~m, lands := p.lands.filter (fun x => match x with
              | .lane k _ => !m.getLsbD (k % 32)
              | .scalar _ _ => true
              | .pred _ l _ => !m.getLsbD l)
                   owes := q.owes.filter (fun k => !m.getLsbD (k % 32)), reads := q.reads.filter (fun r => !m.getLsbD r.1) }
          else q)) ∧
      (∀ k, k ∈ t.w.lastRead → k ∈ u.w.lastRead ∨ (p.lanes &&& ~~~m = 0 ∧ k ∈ p.marks)) ∧
      (p.lanes &&& ~~~m = 0 → ∀ k ∈ p.marks, k ∈ t.w.lastRead) ∧
      (∀ k, Cells.get t.w.v k = if m.getLsbD (k % 32) = true ∧ u.w.exited.getLsbD (k % 32) = false
        then (landedLane p.lands k).getD (Cells.get u.w.v k) else Cells.get u.w.v k) ∧
      (∀ n, Cells.get t.w.s n = if p.lanes &&& ~~~m = 0 ∧ n ≠ 0
        then (landedScalar p.lands n).getD (Cells.get u.w.s n) else Cells.get u.w.s n) ∧
      ∀ q l, l < 32 → (Cells.get t.w.p q).getLsbD l =
        if q ≠ 0 ∧ m.getLsbD l = true ∧ u.w.exited.getLsbD l = false
        then (landedPred p.lands q l).getD ((Cells.get u.w.p q).getLsbD l) else (Cells.get u.w.p q).getLsbD l) ∧
  (∀ (s : State) (asid : Nat) (va : W64) (l : Leaf), s.arg = .walk asid va → walk s asid va = .ok l →
    ∃ t, exec .translationWalk s = .next t ∧ t = { s with tlb := t.tlb, wcache := t.wcache } ∧
      ∃ x ∈ t.tlb, x.asid = effAsid asid (vaOf va) ∧ x.size = l.size ∧ x.page = vaOf va / l.size ∧ x.leaf = BitVec.ofNat 64 l.e) ∧
  (∀ (s : State) (r : HomeReq) (p : Piece), s.arg = .home r → r.reply = none → isGlobal r.va = true →
    let u := unfocus s
    let n := memBytes r.ty.toNat
    let v := r.val.toNat % 256 ^ n
    agentPlace u r.asid (homeAccess r.op) r.va n false = .ok p → isDevLeaf p.leaf.e = false → rangeHeld u p.asid r.va = false →
    (r.op ≠ .read → headerHit u p = false) →
    ∀ h old, homeRead (keepTlb u (.mem 1 [p])) 1 p = (h, old) → OnlyMemory u h ∧
      (r.op = .read → exec .homeSliceRequest s = .next h) ∧
      (r.op ≠ .read → ∃ new, exec .homeSliceRequest s = .next (homeWrite h 1 p new) ∧
        (r.op = .write ∨ r.op = .exch → new = v) ∧ (r.op = .and → new = old &&& v) ∧ (r.op = .or → new = old ||| v) ∧
        (r.op = .xor → new = old ^^^ v) ∧ (r.op = .inc → new = if v ≤ old then 0 else old + 1) ∧
        (r.op = .cas → new = if old = r.cmp.toNat % 256 ^ n then v else old) ∧
        (r.op = .add → r.ty = 1 → new = (old + v) % 2 ^ 32) ∧ (r.op = .min → r.ty = 1 → new = min old v) ∧
        (r.op = .max → r.ty = 1 → new = max old v))) ∧
  (∀ (s : State) (id : Nat), s.arg = .unit id →
    ∃ t, exec .mergeWindowExpiry s = .next t ∧ OnlyCollector s t ∧ ∀ c ∈ t.colls, c.id = id → ∀ e ∈ c.elems, e.sent = true) ∧
  ∀ (s x : State) (c : Coll) (ps : List (Elem × Place)) (lands : List Landing),
    s.arg = .unit c.id → s.colls.find? (fun k => k.id == c.id) = some c → c.stopped = false →
    let u := focusWarp s c.blk c.wp
    u.w.launched ≠ 0 → behind u c = false → ps.map Prod.fst = c.elems → (∀ y ∈ ps, elemPlace u c y.1 = .ok y.2) → (∀ e ∈ c.elems, e.lane < 32) →
    (∀ y ∈ ps, fillHeld u y.2 (memBytes c.ty.toNat) = false) →
    commitElems c (if c.kind = 2 then combineElems c.ty.toNat ps else ps) u = (x, lands) →
    OnlyMemory u x ∧
    ∃ t es, exec .collectorCommit s = .next t ∧ es = (if c.kind = 2 then combineElems c.ty.toNat ps else ps).map Prod.fst ∧
      t = { x with
        colls := x.colls.filter (fun k => k.id != c.id), agenda := t.agenda
        w := { x.w with lastRead := t.w.lastRead,
                        pend := x.w.pend.map (fun p => if p.id = c.id then { p with lands := p.lands ++ lands } else p) } } ∧
      t.agenda.map Prod.fst = x.agenda.map Prod.fst ++ List.replicate ((es.map (fun e => e.va.toNat / 128)).eraseDups).length .memoryReply

/-- 14 R397, R400, 06 R181, 05 R153, R160, R161, 01 R38: a registered wait word is read again and its waiter woken where
the condition holds; a fragment that has waited 48 issues is promoted; the hold of `yld` ends; a spilled join-stack
entry is read back; an export receives registers of its parent and, when a narrow warp returns, gives back the registers
that it wrote; firmware refills a pool. The model's own choices here: the frames that firmware gives (log 13), rereads
(log 61) and the moments of expiries (log 82). -/
def Obligations.WaitersAndExportsGoOn : Prop :=
  (∀ (s : State) (b w e : Nat) (va v : W64) (cond : BitVec 2) (woken : Bool), s.arg = .triple b w e →
    let u := focus s b w e
    u.f.hold = .word va cond v false woken →
    exec .waitWordReread s = .next (
      if (wordValue u u.blk (asidOf u) va).all (fun x => condHolds cond x v.toNat) then
        { u with f := { u.f with hold := .word va cond v false true } }
      else { u with agenda := u.agenda ++ [(.waitWordReread, .triple u.blk.uid u.w.idx u.f.ent)] })) ∧
  (∀ (s : State) (b w e : Nat), s.arg = .triple b w e →
    let u := focus s b w e
    (u.f.mask ≠ 0 → u.f.promoted = none → 48 ≤ u.f.waited →
      exec .issuePromotion s = .next { u with f := { u.f with promoted := some u.promos }, promos := u.promos + 1 }) ∧
    (u.f.hold = .yield → exec .yieldExpiry s = .next { u with f := { u.f with hold := .free } }) ∧
    ∀ q x v, u.f.hold = .refill → (u.w.jst.takeWhile (fun e => e.spilled)).length ≠ 0 → heldEntries u < 16 →
      resolveGlobal u (isUser u) .read (.plain 1) (spillVa u ((u.w.jst.takeWhile (fun e => e.spilled)).length - 1)) 32 = .ok q →
      fillHeld u q 32 = false → loadAt u q 32 = (x, v) →
      OnlyMemory u x ∧ ∃ t, exec .joinStackRefill s = .next t ∧
        t = { keepLeaves x q with f := { u.f with hold := .free }, w := { u.w with jst := t.w.jst } } ∧
        ∀ k, t.w.jst[k]? = (u.w.jst[k]?).map (fun y =>
          if k = (u.w.jst.takeWhile (fun e => e.spilled)).length - 1 then y.refilled v else y)) ∧
  (∀ (s : State) (b w x r : Nat) (e : Export), s.arg = .pull b w x r →
    let u := focusWarp s b w
    let lanes := e.warpLanes (r / 256)
    let key := fun (l : Nat) => viewKey (r / 256) (regKey (r % 256) l)
    u.w.exps.find? (fun y => y.id == x) = some e →
    ∃ t e', exec .registerPull s = .next t ∧ t = { u with w := { u.w with exps := t.w.exps } } ∧
      t.w.exps.find? (fun y => y.id == x) = some e' ∧ r ∈ e'.pulled ∧
      (∀ l ∈ lanes, lookup (key l) e'.held = some ((lookup (key l) e.held).getD (Cells.get u.w.v (regKey (r % 256) l)))) ∧
      ∀ k, (∀ l ∈ lanes, k ≠ key l) → lookup k e'.held = lookup k e.held) ∧
  (∀ (s : State) (b w x nw : Nat) (e : Export), s.arg = .pull b w x nw →
    let u := focusWarp s b w
    let lanes := (e.map.drop (4 * nw)).take 4
    let back := fun (k : Nat) => lanes.contains (k % 32) && !u.w.exited.getLsbD (k % 32)
    u.w.exps.find? (fun y => y.id == x) = some e → nw < e.total →
    (∀ n, n < e.total → n ≠ nw → ∀ l ∈ lanes, l < 32 → l ∉ e.warpLanes n) →
    ∃ t, exec .exportReturn s = .next t ∧
      t = { u with w := { u.w with v := t.w.v, p := t.w.p, frags := t.w.frags, jst := t.w.jst, exps := t.w.exps } } ∧
      t.w.frags = u.w.frags.map (fun f => if f.exp = some x ∧ f.nw = nw then { f with exp := none, nw := 0 } else f) ∧
      (∀ k, t.w.jst[k]? = (u.w.jst[k]?).map (fun y => if k = e.level.toNat then { y with counter := y.counter - 1 } else y)) ∧
      (∀ k, Cells.get t.w.v k = if k ∈ e.dirty ∧ back k = true then (lookup (viewKey nw k) e.held).getD 0 else Cells.get u.w.v k) ∧
      (t.w.exps.find? (fun y => y.id == x)).map Export.nwarps = (if e.nwarps ≤ 1 then none else some (e.nwarps - 1))) ∧
  ∀ (s : State) (n : Nat), s.arg = .unit n →
    exec .poolRefill s = .next (if Config.refillFrames (unfocus s).tick n = [] ∨ refillHeld n (unfocus s) = true
      then { unfocus s with agenda := (unfocus s).agenda ++ [(.poolRefill, .unit n)] }
      else refill n (Config.refillFrames (unfocus s).tick n) { unfocus s with poolReqs := (unfocus s).poolReqs.filter (· != n) })

/-- 02 R71 to R77, 12 R341 to R346, 07 R209, 04 R136 to R143: an engine takes the oldest request of its core and issues
its copy, writes a row granule by granule, and ends after the last row; a completed copy leaves, and its warp counts its
bad rows. A queued fault is delivered in the fragment of its lowest lane. A walker claims a lane's root, scans claimed
objects, publishes them in reverse order, and stores the reference once every object that it waits for is published. The
model's own choices here: the steps of a copy (log 29). -/
def Obligations.EnginesAndWalkersProceed : Prop :=
  (∀ (s : State) (core len : Nat) (k : Kick), s.arg = .unit core → s.kicks.find? (fun x => x.core == core) = some k →
    k.stopped = false → inFlight s core < 64 →
    let u := focusWarp s k.blk k.wp
    let b := (List.range 64).map (fun j => Cells.get u.blk.win (k.req + j))
    fillHeld u (.win k.req) 64 = false → validate b (slotBytes u) u.blk.winSize k.word = .ok len →
    rangesFull u (newCopy u k b len) = false →
    ∃ t c, exec .copyIssue s = .next t ∧ t.copies = u.copies ++ [c] ∧ t.kicks = dropKick core u.kicks ∧ t.uid = u.uid + 1 ∧
      c.id = u.uid ∧ c.req = b ∧ c.len = len ∧ c.row = 0 ∧ c.done = false ∧ c.core = k.core ∧ c.lanes = k.lanes ∧
      t.blk = { u.blk with fillPend := u.blk.fillPend ++ copyGranules u c } ∧ t.mem = u.mem ∧ t.f = u.f ∧
      t.l2 = u.l2 ∧ t.l1 = (dropDestination c u).l1 ∧
      t.w = { u.w with pend := u.w.pend.filterMap (fun p => if p.id = k.pend then
        (if p.left ≤ 1 then none else some { p with left := p.left - 1 }) else some p) } ∧
      t.agenda = u.agenda ++ [(.copyGranuleWrite, .unit u.uid), (.copyIssue, .unit core)]) ∧
  (∀ (s : State) (c : Copy) (n : Nat), s.arg = .unit c.id → s.copies.find? (fun x => x.id == c.id) = some c →
    c.suspended = false → c.done = false → c.queue = none → c.skip = false →
    let u := focusWarp s c.blk c.wp
    let start := vaOf c.dst + c.row * c.pitch
    (c.rows ≤ c.row → ∃ t, exec .copyGranuleWrite s = .next t ∧
      t = { u with
        copies := u.copies.map (fun x => if x.id = c.id then { c with done := true, pos := 0, buf := [], outs := [] } else x)
        blk := { u.blk with fillPend := u.blk.fillPend.filter (fun f => f.2 != c.id) }
        agenda := u.agenda ++ [(.copyCompletion, .unit c.id)] }) ∧
    (c.row < c.rows → c.buf ≠ [] → c.pos < c.len → c.fld 0x00 1 ≤ 1 ∨ c.fld 0x00 1 = 4 → isWindow c.dst = true →
      c.dstSwz = 0 → start + c.len < 2 ^ 55 → c.fld 0x38 8 = 0 → n = min (c.len - c.pos) (128 - (start + c.pos) % 128) →
      (c.pos = 0 → c.outs = [] ∧ start + c.len ≤ u.blk.winSize ∧ rowHeld u c (rowDst c) = false) →
      ∃ t, exec .copyGranuleWrite s = .next t ∧
        t = { u with
          copies := u.copies.map (fun x => if x.id = c.id then
            { c with pos := c.pos + n, places := if c.pos = 0 then [] else c.places } else x)
          blk := { u.blk with win := t.blk.win, fillPend := t.blk.fillPend }
          agenda := u.agenda ++ [(.copyGranuleWrite, .unit c.id)] } ∧
        (∀ j, j < n → Cells.get t.blk.win (start + c.pos + j) = c.buf.getD (c.pos + j) 0) ∧
        (∀ a, a < start + c.pos ∨ start + c.pos + n ≤ a → Cells.get t.blk.win a = Cells.get u.blk.win a) ∧
        ∀ f ∈ t.blk.fillPend, f ∈ u.blk.fillPend)) ∧
  (∀ (s : State) (c : Copy), s.arg = .unit c.id → (unfocus s).copies.find? (fun x => x.id == c.id) = some c → c.queue = none →
    let gone := { unfocus s with copies := (unfocus s).copies.filter (fun x => x.id != c.id) }
    let flushed := (gone.grids.filter (fun g => g.gear.isSome)).foldl (fun s g => flushIdle g.gid s) gone
    let u := focusWarp (flushed.queues.foldl (fun s q => settleQueue q.id s) flushed) c.blk c.wp
    let v := unfocus { u with w := { u.w with copyErr := BitVec.ofNat 32 (min 0xFFFFFFFF (u.w.copyErr.toNat + c.errs)) } }
    exec .copyCompletion s = .next { v with agenda := v.agenda ++ [(.copyIssue, .unit c.core)] }) ∧
  (∀ (s : State) (b w : Nat) (fr : FaultRec) (rest : List FaultRec), s.arg = .pair b w →
    let u := focusWarp s b w
    let lanes := fr.lanes &&& ~~~u.w.exited
    let v := focusLane { u with w := { u.w with faultq := rest } } (lowLane lanes)
    u.w.faultq = fr :: rest → u.w.handler = none → u.blk.st = .running → lanes ≠ 0 →
    deliverable v.f = true → v.f.sup = false → v.w.tvec ≠ 0 →
    v.f.exp = none → noRoute fr = false →
    ∃ t h, exec .faultDelivery s = .next t ∧ t.w.handler = some h ∧ h.part = fr.part ∧ h.kind = fr.kind ∧ h.mask = v.f.mask ∧
      t.f.mask = (if fr.kind = 0 ∨ fr.kind = 3 then v.f.mask else lanes &&& v.f.mask) ∧ t.f.sup = true ∧ t.f.mode = 0 ∧
      t.f.pc = v.w.tvec ∧ t.f.inClause = false ∧
      t = { v with f := t.f, w := { v.w with handler := t.w.handler, trapcode := trapcodeOf fr, trapmask := lanes.setWidth 64,
                                             trapva := fr.va, trappc := fr.pc, trapaux := fr.aux } }) ∧
  ∀ (s : State) (k : Walk), s.arg = .unit k.id → s.walks.find? (fun x => x.id == k.id) = some k → k.suspended = false →
    let here := focusWarp s k.blk k.wp
    let k₀ : Walk := { k with parked := false }
    let u := putWalk k₀ here
    let asid := asidOf u
    let set := fun (x : Walk) (v : State) => v.walks.map (fun y => if y.id = k.id then x else y)
    here.w.launched ≠ 0 → here.blk.st = .running → (k.parked = true → walkerFree here k = true) →
    (∀ l g ref rest size owner v, k.active = false → walkerFree u k = true → k.lanes = (l, g, ref) :: rest →
      refHeld u asid ref = false → Machine.targetOf u asid k.user ref g = .ok (.obj 1 owner size) →
      setObjState asid k.user ref 2 u = (v, .done) →
      exec .publicationWalk s = .next { v with
        walks := set { k₀ with active := true, queue := [ref], pos := 0, word := 0, flipped := false, waits := [] } v
        agenda := v.agenda ++ [(.objectScan, .unit k.id)] }) ∧
    (∀ va p h k' x, k.queue[k.pos]? = some va → objHeader u asid k.user va = .ok (p, h) →
      let size := h % 2 ^ 32
      let done : Walk := { k' with pos := k'.pos + 1, word := 0 }
      scanWords asid va (8 * size - max 1 k.word) (max 1 k.word) k₀ (drainObject asid (vaOf va) size u) = (k', x, .done) →
      k'.id = k.id ∧
      exec .objectScan s = .next { x with walks := set done x, agenda := x.agenda ++ [(walkStage done, .unit k.id)] }) ∧
    (∀ v, publishAll asid k.user k.queue.reverse u = (v, .done) →
      exec .flipPhase s = .next { v with
        walks := set { k₀ with flipped := true } v, agenda := v.agenda ++ [(.finalStore, .unit k.id)] }) ∧
    ∀ l g ref rest p, k.lanes = (l, g, ref) :: rest → stillWaited u asid k.user k.waits = .ok false →
      finalPlace k₀ u g l = .ok p → fillHeld u p 8 = false →
      exec .finalStore s = .next (
        let v := keepTlb (storeRef ref u p) p
        if rest = [] then complete { v with walks := v.walks.filter (fun x => x.id != k.id) } k.pend
        else { v with walks := set { k₀ with lanes := rest, active := false } v
                      agenda := v.agenda ++ [(.publicationWalk, .unit k.id)] })

/-- 05 R168 to R171, R284, 06 R176 to R179, R198 to R204, 07 R217 to R220, 14 R396, 15 R414, R417: the next block of a
grid is passed to a bench dispatcher that has room, and the lowest that is ready and can be placed starts: its warps stand at
the entry with s1 to s3 as the launch says and every other register at its value at a start. At the end of a 100 ns step the
ramp's allowance grows by its slope, up to its cap, and waiting core stops take place within theirs. A block that has ended
goes, its grid counts it, and its retirement is looked at; a grid that has ended goes. A block whose quantum expires is
switched to its shadow or leaves where another waits; a leaving block streams out once it has settled, and a saved block that
can be placed is restored. A node group starts when its records or its timer are due, and a message starts its handler. The
model's own choices here: register and window contents at a start (logs 4, 5, 14, 83), the ramp (log 50), node groups (log
54), turns (log 72), handler groups (log 63), and the bench that takes a block and a launch's partition (log 93). -/
def Obligations.BlocksStartAndEnd : Prop :=
  (∀ (s : State) (gid : Nat) (g : Grid) (r : Machine.Ready) (cl : List Nat) (cs : List (Nat × Nat)), s.arg = .unit gid →
    let u := unfocus s
    let v := passNext g u
    gridAt u gid = some g → waitsToStart u g = true → v.ready.find? (fun x => x.gid == gid) = some r →
    givePlace v g true (findPlace v (placementSet g) g g.need) = .at_ cl cs → (∀ x ∈ u.blocks, x.uid < u.uid) →
    (∀ x ∈ u.blocks, x.st = .running → ∀ c ∈ cs, c.1 ∉ x.cores) →
    ∃ t b g', exec .blockStart s = .next t ∧ b ∈ t.blocks ∧ b.uid = u.uid ∧ b.gid = gid ∧ b.st = .running ∧ b.clusters = cl ∧
      b.cores = cs.map Prod.fst ∧ b.warps.length = g.need.warps ∧
      b.bx + g.fld 0x08 4 * (b.byy + g.fld 0x0C 4 * b.bz) = r.lin ∧
      (∀ w ∈ b.warps, Cells.get w.s 1 = BitVec.ofNat 64 (g.fld 0x28 8) ∧ Cells.get w.s 2 = g.recVa ∧ Cells.get w.s 3 = 0 ∧
        (∀ n, 3 < n → Cells.get w.s n = 0) ∧ w.v = [] ∧ w.p = [] ∧ w.allot = g.allot ∧
        w.tvec = BitVec.ofNat 64 (g.fld 0x38 8 / 8 * 8) ∧ w.pool = u.poolTable ∧
        ∃ f, w.frags = [f] ∧ f.pc = BitVec.ofNat 64 (g.fld 0x00 8) ∧ f.mask = w.launched ∧ f.mode = 0 ∧ f.sup = false) ∧
      t.ready = v.ready.filter (· != r) ∧
      (∀ x ∈ v.ready, x ∈ u.ready ∨ (x.gid = gid ∧ x.lin = g.next ∧ (u.ready.filter (fun y => y.bench == x.bench)).length < 16)) ∧
      gridAt t gid = some g' ∧ g'.live = g.live + 1 ∧
      g'.next = g.next + (if g.next < g.total ∧ (nextBench u g).isSome = true then 1 else 0) ∧
      (.blockStart, .unit gid) ∈ t.agenda) ∧
  (∀ s : State,
    let cap := rampCap s
    ∃ t, exec .cadenceStep s = .next t ∧
      t = { s with ramp := t.ramp, stops := t.stops, stopSteps := t.stopSteps, agenda := t.agenda } ∧
      t.ramp = (min cap (if s.ramp.2 = 0 then s.dev.rampSlope else s.ramp.1 + s.dev.rampSlope), 0) ∧
      t.stops = stopSome (stopAllowance s) s.stops ∧
      t.stopSteps = (if t.stops = [] then s.dev.rampStag else s.stopSteps - 1) ∧
      (s.ramp.2 = 0 → t.stops = [] → t.agenda = s.agenda) ∧
      (s.ramp.2 ≠ 0 ∨ t.stops ≠ [] → (.cadenceStep, .none) ∈ t.agenda)) ∧
  (∀ (s : State) (uid : Nat) (b : Block) (g : Grid), s.arg = .unit uid →
    let u := dropFaults uid (unfocus s)
    u.blocks.find? (fun x => x.uid == uid) = some b → b.st ≠ .escalated → blockOver u b = true → gridAt u b.gid = some g →
    ∃ t g', exec .blockEnd s = .next t ∧ (∀ x ∈ t.blocks, x.uid ≠ uid) ∧ gridAt t b.gid = some g' ∧ g'.live = g.live - 1 ∧
      g'.next = g.next ∧ (.gridRetirement, .unit b.gid) ∈ t.agenda) ∧
  (∀ (s : State) (gid : Nat) (g : Grid), s.arg = .unit gid →
    let u := activate (unfocus s)
    gridAt u gid = some g → g.retired = false → g.dead = none → gridOver u g = true → signalHeld u g = false →
    (∀ b ∈ u.blocks, b.gid ≠ gid) →
    ∃ t, exec .gridRetirement s = .next t ∧ gridAt t gid = none ∧ t.blocks = u.blocks ∧
      (∀ p, g.parent = some p → (.gridRetirement, .unit p) ∈ t.agenda) ∧
      ∀ x va, va = BitVec.ofNat 64 (g.fld 0xF8 8) → va ≠ 0 → g.queue = none → g.graph = none → g.mapFault = none →
        agentWrite u g.asid va 1 8 = .ok x → t.mem = x.mem ∧ t.l2 = x.l2) ∧
  (∀ (s : State) (uid : Nat) (b : Block), s.arg = .unit uid →
    let u := unfocus s
    let v := { u with uid := u.uid + 1, grids := u.grids.map (fun g => if g.gid = b.gid then { g with turn := u.uid } else g) }
    u.blocks.find? (fun x => x.uid == uid) = some b → b.st = .running →
    exec .quantumExpiry s = .next (
      if shadowed u b (asleep b) = true then activate (shadeBlock uid v)
      else if waiting u b (asleep b) = true then activate (saveBlock uid v)
      else { u with agenda := u.agenda ++ [(.quantumExpiry, .unit uid)] })) ∧
  (∀ (s : State) (uid : Nat) (b : Block) (g : Grid), s.arg = .unit uid →
    let u := unfocus s
    u.blocks.find? (fun x => x.uid == uid) = some b → gridAt u b.gid = some g → b.st = .leaving → settled u uid = true →
    ∃ t b', exec .blockRestore s = .next t ∧ (.blockRestore, .unit uid) ∈ t.agenda ∧
      t.blocks.find? (fun x => x.uid == uid) = some b' ∧ b' = { b with st := .saved } ∧
      ∀ x ∈ t.l1, b.clusters.contains (x.half / 2) = true → x.dirty = 0) ∧
  (∀ (s : State) (uid : Nat) (b : Block) (g : Grid) (cl : List Nat) (cs : List (Nat × Nat)), s.arg = .unit uid →
    let u := unfocus s
    u.blocks.find? (fun x => x.uid == uid) = some b → gridAt u b.gid = some g → b.st = .saved → wakened u b = true →
    givePlace u g false (findPlace u allClusters g (savedNeed b)) = .at_ cl cs →
    ∃ t, exec .blockRestore s = .next t ∧ t = restoreAt g b cl cs u ∧
      ((u.blocks.map Block.uid).Nodup → (∀ x ∈ u.blocks, x.st = .running → ∀ c ∈ cs, c.1 ∉ x.cores) →
        ∃ b' ∈ t.blocks, b'.uid = uid ∧ b'.st = .running ∧ b'.clusters = cl ∧ b'.cores = cs.map Prod.fst ∧
          b'.win = b.win ∧ b'.tiles = b.tiles ∧ b'.bars = b.bars)) ∧
  (∀ (s : State) (g n c : Nat) (nd : Node), s.arg = .triple g n c →
    let u := unfocus s
    let left := fun (t : State) => match nodeAt t g n with
      | some x => if c < 128 then decide (x.held c ≠ 0) else !x.ovf.isEmpty
      | none => false
    nodeAt u g n = some nd →
    exec .nodeTimerExpiry s = .next (
      let t := if groupDue u nd c then startGroup g n c u else u
      if (left t && !t.agenda.contains (.nodeTimerExpiry, .triple g n c)) = true
        then { t with agenda := t.agenda ++ [(.nodeTimerExpiry, .triple g n c)] } else t)) ∧
  (∀ (s : State) (c : Nat) (m : Msg) (g : Grid) (cl : List Nat) (cs : List (Nat × Nat)), s.arg = .unit c →
    let u := unfocus s
    let v := { u with recvq := dropMsg (fun x => x.cluster == c) u.recvq }
    u.recvq.find? (fun m => m.cluster == c) = some m → gridAt v m.src = some g → g.dead = none →
    givePlace v g true (handlerPlace v g c) = .at_ cl cs →
    exec .activeMessageHandlerStart s = .next (startHandler g m cl cs v)) ∧
  ∀ (s : State) (q : Nat), s.arg = .unit q → exec .launchAcceptance s = .next (poll q (unfocus s))

namespace Sys2Proof.Claims
open Sys2Proof.Machine Sys2Proof.Machine.Num

/-! ### The front end (15 R405 to R415) -/

/-- The event of an opcode fetches the queue's next packet `d`, which passes every check and can start: fewer than 16
packets are outstanding, and for an opcode that waits for every earlier packet they have completed. -/
def CanStart (u : State) (q op : Nat) (late : Bool) (d : Doing) : Prop :=
  queueAt u q = some d.q ∧ d.q.id = q ∧ d.q.mapped = true ∧ d.q.halted = none ∧ d.q.blocked = false ∧
  d.q.started < d.q.widx.toNat ∧ d.n = d.q.started ∧ d.op = op ∧ d.again = false ∧ leBytes d.b 0 1 = op ∧
  agentHeld u d.q.asid (d.q.slotVa d.n) 64 = false ∧ agentBytes u d.q.asid (d.q.slotVa d.n) 64 = .ok d.b ∧
  packetFault u d.q op d.b = none ∧ packetWaits u d.q op d.b = false ∧
  (d.q.pkts.filter (fun p => !p.complete)).length < 16 ∧ (late = true → d.q.done = d.n)

/-- The state in which the packet has started. -/
def startedPacket (d : Doing) (block : Bool) (u : State) : State := startPacket d.q.id d.n d.op d.b block u

end Sys2Proof.Claims

/-- 15 R409 to R413, 03 R106: packets. NOP and FENCE start and complete; LAUNCH and GRAPH start once their grid is
accepted; COPY starts a copy at the homes; SIGNAL writes or adds at its address, TIME writes the time there; WAITMEM and
ACQUIRE hold later packets back until their word's condition holds or their link has tokens, RELEASE adds tokens; INVAL
invalidates its range. The model's own choices here: the checks of a GRAPH packet (log 68) and SIGNAL to a wake register
(log 70). -/
def Obligations.PacketsStart : Prop :=
  ∀ (s : State) (q : Nat) (d : Doing), s.arg = .unit q →
    let u := unfocus s
    let va := BitVec.ofNat 64 (d.f 0x08 8)
    let blk := startedPacket d true u
    let st := startedPacket d false u
    (∀ late op e, (e = .nopPacket ∧ op = 0 ∧ late = false ∨ e = .fencePacket ∧ op = 8 ∧ late = true) → CanStart u q op late d →
      ∃ t x, exec e s = .next t ∧ t = completePacket q d.n st ∧ queueAt t q = some x ∧ x.started = d.n + 1 ∧
        (d.q.pkts = [] → x.done = d.q.done + 1)) ∧
    (∀ v gid, CanStart u q 1 false d → frontLaunch u (d.request 0x08 false none) = .ok v gid →
      exec .launchPacket s = .next (poll q (startedPacket d false v))) ∧
    (∀ v b nodes gid, CanStart u q 2 false d → recordBytes u d.q.asid false true va (64 * d.f 0x10 2) = .ok b →
      readNodes u d (d.f 0x10 2) b = .ok nodes →
      frontLaunch { u with uid := u.uid + 1 } (d.request 0x18 true (some u.uid)) = .ok v gid →
      exec .graphPacket s = .next (poll q (startedPacket d false { v with graphs := v.graphs ++
        [{ id := u.uid, root := gid, nodes := nodes, signal := BitVec.ofNat 64 (d.f 0x20 8), queue := (q, d.n),
           asid := d.q.asid, cls := d.q.cls }] }))) ∧
    (CanStart u q 3 false d → isGlobal va = true → isGlobal (BitVec.ofNat 64 (d.f 0x10 8)) = true →
      ∃ t c, exec .copyPacket s = .next t ∧ c ∈ t.copies ∧ c.id = u.uid ∧ c.queue = some (q, d.n) ∧ c.done = false ∧
        c.fld 0x18 8 = d.f 0x08 8 ∧ c.fld 0x20 8 = d.f 0x10 8 ∧ c.rows * c.len = d.f 0x18 8 ∧
        (.copyGranuleWrite, .unit u.uid) ∈ t.agenda) ∧
    (∀ v, CanStart u q 4 true d → d.f 0x18 1 = 0 → agentWrite st d.q.asid va (d.f 0x10 8) 8 = .ok v →
      exec .signalPacket s = .next (completePacket q d.n v)) ∧
    (∀ v old, CanStart u q 4 true d → d.f 0x18 1 = 1 → agentRmw st d.q.asid va (· + d.f 0x10 8) = .ok (v, old) →
      exec .signalPacket s = .next (completePacket q d.n v)) ∧
    (∀ w, CanStart u q 5 false d → agentHeld blk d.q.asid va 8 = false → agentRead blk d.q.asid va 8 = .ok w →
      let x := w &&& d.f 0x18 8
      let y := d.f 0x10 8 &&& d.f 0x18 8
      exec .waitmemPacket s = .next (
        if (d.f 0x20 1 = 0 ∧ x = y) ∨ (d.f 0x20 1 = 1 ∧ x ≠ y) ∨ (2 ≤ d.f 0x20 1 ∧ y ≤ x) then completePacket q d.n blk
        else { blk with agenda := blk.agenda ++ [(.waitmemPacket, .unit q)] })) ∧
    (∀ l : Link, CanStart u q 6 true d → lookup (d.f 0x08 2) u.dev.links = some l → l.tokens + d.f 0x0C 4 < 2 ^ 32 →
      exec .releasePacket s = .next (completePacket q d.n { st with dev := { st.dev with
        links := keep (d.f 0x08 2) { l with tokens := l.tokens + d.f 0x0C 4 } st.dev.links } })) ∧
    (∀ l : Link, CanStart u q 7 false d → lookup (d.f 0x08 2) blk.dev.links = some l →
      exec .acquirePacket s = .next (
        if d.f 0x0C 4 ≤ l.tokens then completePacket q d.n { blk with dev := { blk.dev with
          links := keep (d.f 0x08 2) { l with tokens := l.tokens - d.f 0x0C 4 } blk.dev.links } }
        else { blk with agenda := blk.agenda ++ [(.acquirePacket, .unit q)] })) ∧
    (∀ v, CanStart u q 9 true d → agentWrite st d.q.asid va (st.timeUnits / 5045040) 8 = .ok v →
      exec .timePacket s = .next (completePacket q d.n v)) ∧
    (CanStart u q 10 true d → isGlobal va = true →
      exec .invalPacket s = .next (completePacket q d.n (invalidate (effAsid d.q.asid (vaOf va)) (vaOf va) (d.f 0x10 8) st)))

/-- 15 R405, R406, R411, R413 to R415, 02 R46, 01 R18, R40, R41, 19 R437 to R445: commands to the module. A wake
register takes a greater index within its ring and, beyond it, halts its queue. A creation record that keeps its limits
makes an idle queue; a queue takes a slot; a halted queue goes on with its packet performed again or skipped; a link is
bound with no token. An escalated block resumes; quotas of at most 1536 tiles in sum are taken. Device registers are
written; migration entries are enabled, started and cleared, and a copied line's bytes and poison state stand in the new
frame. The recovery image stores an image that verifies; a report advances the leaf index; a start with six failures
holds the module; throttling, refresh, shutdown and loss of power change what they name. The model's own choices here:
migration entries (log 38), debug resumes (log 60), the halt of a bad index (log 66), reserved capability bits (log 67),
kept faults (log 69), firmware images (logs 16, 75) and what a start keeps (logs 80, 81). -/
def Obligations.CommandsTakeEffect : Prop :=
  (∀ (s : State) (q : Nat) (v : W64) (x : Queue), s.arg = .value q v →
    let u := unfocus s
    queueAt u q = some x →
    (v.toNat ≤ x.widx.toNat → exec .wakeRegisterWrite s = .next u) ∧
    (x.widx.toNat < v.toNat → v.toNat ≤ x.started + 2 ^ x.e → ∃ t y, exec .wakeRegisterWrite s = .next t ∧
      queueAt t q = some y ∧ y.widx = v ∧ y.started = x.started ∧ y.done = x.done) ∧
    (x.widx.toNat < v.toNat → x.started + 2 ^ x.e < v.toNat → ∃ t y, exec .wakeRegisterWrite s = .next t ∧
      queueAt t q = some y ∧ y.widx = x.widx ∧ y.halted.isSome = true)) ∧
  (∀ (s : State) (b : List Byte), s.arg = .bytes b → creationOk (unfocus s) b = true →
    ∃ t q, exec .queueCreation s = .next t ∧
      t = { unfocus s with queues := (unfocus s).queues ++ [q], dev := { (unfocus s).dev with open_ := false } } ∧
      q.id = leBytes b 0x0A 2 ∧ q.ring.toNat = leBytes b 0x00 8 ∧ q.e = leBytes b 0x08 1 ∧ q.cls = leBytes b 0x09 1 ∧
      q.asid = leBytes b 0x0C 2 ∧ q.widx = 0 ∧ q.started = 0 ∧ q.done = 0 ∧ q.pkts = [] ∧ q.halted = none ∧ q.blocked = false) ∧
  (∀ (s : State) (q : Nat), s.arg = .unit q →
    let u := unfocus s
    (slotsBusy u = false → (∃ x, queueAt u q = some x) →
      ∃ t y, exec .queueRemap s = .next t ∧ queueAt t q = some y ∧ y.mapped = true ∧ y.wakePending = false) ∧
    ∀ x n began, queueAt u q = some x → x.halted = some (n, began) →
      let v := updQueue q (fun x => { x with halted := none }) u
      (refetchWaits u q n began = false → exec .refetch s = .next (restart q (if began
        then performAgain q n (((x.pkts.find? (fun p => p.n == n)).map Pkt.op).getD 0) v else v))) ∧
      exec .skip s = .next (restart q (completePacket q n (if began then v else startPacket q n 0 [] false v)))) ∧
  (∀ (s : State) (n : Nat) (rel acq : BitVec 16) (bound : Bool), s.arg = .link n rel acq bound → n < 256 →
    ∃ t l, exec .linkBinding s = .next t ∧ t = { s with dev := { s.dev with links := t.dev.links } } ∧
      lookup n t.dev.links = some l ∧ l.rel = rel ∧ l.acq = acq ∧ l.bound = bound ∧ l.tokens = 0 ∧
      ∀ k, k ≠ n → lookup k t.dev.links = lookup k s.dev.links) ∧
  (∀ (s : State) (uid : Nat) (b : Block), s.arg = .unit uid →
    let u := unfocus s
    u.blocks.find? (fun x => x.uid == uid) = some b → b.st = .escalated → (∃ w ∈ b.warps, w.escalated.isSome = true) →
    exec .debugResume s = .next (
      let v := unfocus (b.warps.foldl (fun s w => resumeWarp uid w.idx s) u)
      { updBlock uid (fun x => { x with st := .saved }) v with agenda := v.agenda ++ [(.blockRestore, .unit uid)] })) ∧
  (∀ (s : State) (a b c : Nat), s.arg = .quotas a b c →
    exec .accumulatorQuotaDivision s = .next (if a + b + c ≤ 1536 then { s with quotas := (a, b, c) } else s)) ∧
  (∀ (s : State) (off : Nat) (v : W64), s.arg = .value off v →
    let u := unfocus s
    ∃ t, exec .deviceRegisterWrite s = .next t ∧
      (off = 0x500000 → t = { u with dev := { u.dev with rampLimit := v.toNat / 2 ^ 32 % 2 ^ 16,
                                                         rampStag := v.toNat / 2 ^ 24 % 2 ^ 8,
                                                         rampSlope := max 1 (v.toNat / 2 ^ 16 % 2 ^ 8) } }) ∧
      (off = 0x700000 → t = { u with dev := { u.dev with asidbase := t.dev.asidbase } } ∧
        t.dev.asidbase = if u.dev.open_ then BitVec.ofNat 64 (v.toNat / 2 ^ 20 % 2 ^ 28 * 2 ^ 20) else u.dev.asidbase) ∧
      (off = 0x700008 → t = { u with dev := { u.dev with nearsplit := t.dev.nearsplit } } ∧
        t.dev.nearsplit = if u.dev.open_ = true ∧ v.toNat % 128 ≤ 72 then v.toNat % 128 else u.dev.nearsplit)) ∧
  (∀ (s : State) (c e : Nat),
    let m := migAt s (migKey c e)
    (s.arg = .pair c e → m.bytes ≠ 0 → m.en = true → m.go = false → migClash s (migKey c e) m = false →
      ∃ t, exec .migctlGo s = .next t ∧ migAt t (migKey c e) = { m with go := true, ptr := 0 } ∧
        t = { s with dev := { s.dev with migs := t.dev.migs }, agenda := s.agenda ++ [(.migrationLineCopy, .pair c e)] }) ∧
    (∀ b, s.arg = .entry c e b → ∃ t, exec .migctlEn s = .next t ∧ migAt t (migKey c e) = { m with en := b } ∧
      t = { s with dev := { s.dev with migs := t.dev.migs } }) ∧
    (s.arg = .pair c e → ∃ t, exec .migctlDoneClear s = .next t ∧ migAt t (migKey c e) = { m with done := false } ∧
      t = { s with dev := { s.dev with migs := t.dev.migs } })) ∧
  (∀ (s : State) (c e : Nat), s.arg = .pair c e →
    let u := unfocus s
    let m := migAt u (migKey c e)
    let a := m.old + 128 * m.ptr
    let b := m.new + 128 * m.ptr
    m.go = true →
    ∃ t, exec .migrationLineCopy s = .next t ∧
      t = { u with mem := t.mem, poison := t.poison, dev := { u.dev with migs := t.dev.migs }, agenda := t.agenda } ∧
      (∀ l, l ∈ t.poison ↔ if l = b / 128 then a / 128 ∈ u.poison else l ∈ u.poison) ∧
      migAt t (migKey c e) = { m with ptr := m.ptr + 1, go := !decide (m.bytes ≤ 128 * (m.ptr + 1)),
                                      done := m.done || decide (m.bytes ≤ 128 * (m.ptr + 1)) } ∧
      (granAddr u a = none → granAddr u (a + 64) = none → granAddr u b = none → granAddr u (b + 64) = none →
        ∀ k, Cells.get t.mem k = if b ≤ k ∧ k < b + 128 then Cells.get u.mem (a + (k - b)) else Cells.get u.mem k)) ∧
  (∀ (s : State) (i : FwImage), s.arg = .image i → s.trust.ready = true → s.trust.recovery = true →
    exec .firmwareImageWrite s = .next (
      if Config.ecdsaVerifies (Config.sha384 i.bytes) i.ecdsa = true ∧ Config.lmsVerifies (Config.sha384 i.bytes) i.lms = true then
        { s with trust := { s.trust with image := i, coldNext := true } }
      else s)) ∧
  (∀ (s : State) (nonce : List Byte), s.arg = .bytes nonce → s.trust.lmsLeaf < 2 ^ 20 → nonce.length = 32 →
    ∃ t r, exec .attestationRequest s = .next t ∧ r.take 32 = nonce ∧
      (r.drop 32).take 48 = toBytes s.trust.measured.toNat 48 ∧ leBytes r 0x54 4 = s.trust.lmsLeaf ∧
      t = { s with trust := { s.trust with lmsLeaf := s.trust.lmsLeaf + 1, reports := r :: s.trust.reports } }) ∧
  (∀ s : State, exec .failedStartCounterClear s =
    .next { s with trust := { s.trust with failed := 0, coldNext := s.trust.coldNext || s.trust.held } }) ∧
  (∀ (s : State) (n : Nat), s.arg = .unit n →
    exec .throttling s = .next { s with trust := { s.trust with throttle := min n 15 } } ∧
    exec .lmsKeyProvisioning s = .next { s with trust := { s.trust with lmsKey := n, lmsLeaf := 0, exhausted := false } } ∧
    ∃ t, exec .doubledRefresh s = .next t ∧ t = { s with trust := { s.trust with refresh := t.trust.refresh } } ∧
      ∀ d, d ∈ t.trust.refresh ↔ d = n ∨ d ∈ s.trust.refresh) ∧
  (∀ s : State, ∃ t, exec .shutdown s = .next t ∧ running t = false ∧ t.mem = [] ∧ t.l1 = [] ∧ t.blocks = [] ∧
    t.queues = [] ∧ t.trust = { s.trust with powered := false, ready := false, coldNext := true }) ∧
  (∀ s : State, ∃ t, exec .powerLoss s = .next t ∧ running t = false ∧ t.mem = [] ∧ t.blocks = [] ∧ t.queues = [] ∧
    t.trust = { s.trust with powered := false, ready := false, coldNext := true, lmsLeaf := t.trust.lmsLeaf } ∧
    s.trust.lmsLeaf ≤ t.trust.lmsLeaf ∧ t.trust.lmsLeaf ≤ s.trust.lmsLeaf + 1) ∧
  ∀ (s : State) (n : Nat) (warm : Bool), s.arg = .flag n warm →
    ∃ t, exec .start s = .next t ∧ t.mem = [] ∧ t.queues = [] ∧ t.blocks = [] ∧ t.dev = DevRegs.reset ∧
      (6 ≤ s.trust.failed → t.trust.held = true ∧ running t = false) ∧
      (s.trust.failed < 6 → t.trust.starts = s.trust.starts + 1 ∧ t.trust.recovery = decide (3 ≤ s.trust.failed) ∧
        t.trust.failed = if running t then 0 else s.trust.failed + 1)

namespace Sys2Proof.Claims
open Sys2Proof.Machine Sys2Proof.Machine.Num

/-- A remote access of `n` bytes reaches plain memory: its port is up, its region exists, covers it and permits it, each
line translates, and no copy owes bytes of it (01 R43, R44, 16 R426). -/
def RemoteReaches (u : State) (r : Remote) (k : Access) (perm n : Nat) (g : Region) (ps : List Piece) : Prop :=
  r.port ∉ u.qpErrors ∧ u.regions.find? (fun x => x.key == r.key) = some g ∧ g.base.toNat ≤ r.va.toNat ∧
  r.va.toNat + n ≤ g.base.toNat + g.length ∧ g.perm.getLsbD perm = true ∧
  remotePieces u g.asid k (n / 128 + 2) r.va n = .ok ps ∧ (∀ q ∈ ps, isDevLeaf q.leaf.e = false) ∧
  (k = .rmw → r.va.toNat % 8 = 0) ∧ (k ≠ .read → ∀ q ∈ ps, headerHit u q = false) ∧
  ps.any (fun q => rangeHeld u q.asid q.va) = false

end Sys2Proof.Claims

/-- 01 R43, R44, 03 R116, 16 R421 to R426: the fabric. A region whose pages are valid is registered under its key. A
remote write, read, fetch-and-add or compare-and-swap that reaches memory is performed at the homes and answered; the
atomics answer the value that they found. An inbound SEND enters its cluster's receive queue and is acknowledged; an
acknowledged message leaves its send queue, and one answered with an RNR NAK keeps its place. A dead link, a cut-off
die, a port that goes down, a pause and a mark are recorded; a first loss of a remote access, of a message and of a lane
read leads to one more attempt. The model's own choices here: dropped messages (log 64), lost requests (log 74), refused
accesses (log 77) and pauses (log 79). -/
def Obligations.FabricEvents : Prop :=
  (∀ (s : State) (r : RegionReq) (v : State), s.arg = .region r →
    let u := unfocus s
    let last := r.base + BitVec.ofNat 64 (r.length - 1)
    0 < r.length → r.length ≤ 2 ^ 55 → isGlobal r.base = true → isGlobal last = true → vaOf r.base ≤ vaOf last →
    (u.regions.length < 4096 ∨ ∃ x ∈ u.regions, x.key = r.key) →
    backPages r.asid (r.base &&& ~~~0xFFFF) ((r.base.toNat % 0x10000 + r.length + 0xFFFF) / 0x10000) u = .ok v →
    exec .regionRegistration s = .next { v with regions :=
      { key := r.key, asid := r.asid, base := r.base, length := r.length, perm := r.perm } :: v.regions.filter (fun y => y.key != r.key) }) ∧
  (∀ (s : State) (r : Remote) (b : List Byte) (g : Region) (ps : List Piece), s.arg = .remoteBytes r b →
    let u := unfocus s
    RemoteReaches u r .write 1 b.length g ps →
    exec .rdmaWrite s = .next (let v := writePieces ps b u
      { v with answers := .ack r.qp :: u.answers, remoteLost := v.remoteLost.filter (· != r.qp) })) ∧
  (∀ (s : State) (r : Remote) (n : Nat) (g : Region) (ps : List Piece), s.arg = .remoteLen r n →
    let u := unfocus s
    RemoteReaches u r .read 0 n g ps →
    ∀ v b, readPieces u ps = (v, b) → OnlyMemory u v ∧
      exec .rdmaRead s = .next { v with answers := .data r.qp b :: u.answers, remoteLost := u.remoteLost.filter (· != r.qp) }) ∧
  (∀ (s : State) (r : Remote) (e : Instr) (g : Region) (ps : List Piece) (f : Nat → Nat),
    (∃ v : W64, e = .fetchAndAdd ∧ s.arg = .remoteAdd r v ∧ f = fun x => (x + v.toNat) % 2 ^ 64) ∨
      (∃ c v : W64, e = .compareAndSwap ∧ s.arg = .remoteCas r c v ∧ f = fun x => if x = c.toNat then v.toNat else x % 2 ^ 64) →
    let u := unfocus s
    RemoteReaches u r .rmw 2 8 g ps →
    ∀ x old, readPieces u ps = (x, old) → OnlyMemory u x ∧
    exec e s = .next (let v := writePieces ps (toBytes (f (leBytes old 0 8)) 8) x
      { v with answers := .data r.qp old :: u.answers, remoteLost := v.remoteLost.filter (· != r.qp) })) ∧
  (∀ (s : State) (qpn : BitVec 24) (b : List Byte) (p : Peer) (g : Grid) (entry : W64), s.arg = .send qpn b →
    let u := unfocus s
    u.dev.peers.find? (fun p => p.qpn == qpn && p.n != 0 && !peerDown u p.n) = some p → p.inbound = true →
    u.grids.find? (fun g => g.service == some p.n && g.dead.isNone && !g.retired) = some g →
    handlerEntry u g true (leBytes b 2 2) = .ok (some entry) → messageRoom u (leBytes b 0 1 % 128) = true →
    ∃ t m, exec .rdmaSend s = .next t ∧ m.src = g.gid ∧ m.entry = entry ∧ m.cluster = leBytes b 0 1 % 128 ∧
      m.payload = (List.range 32).map (fun l => BitVec.ofNat 32 (leBytes b (16 + 4 * l) 4)) ∧
      t = { u with recvq := u.recvq ++ [m], answers := .ack p.qpn.toNat :: u.answers,
                   agenda := u.agenda ++ [(.activeMessageHandlerStart, .unit m.cluster)] }) ∧
  (∀ s : State, exec .rnrNak s = .next s) ∧
  (∀ (s : State) (n : Nat) (m : Msg), s.arg = .unit n →
    (unfocus s).sendq.find? (fun m => m.peer == n && !peerDown (unfocus s) n) = some m →
    exec .sendAcknowledgement s = .next (messageDone m { unfocus s with sendq := dropMsg (fun x => x.peer == n) (unfocus s).sendq })) ∧
  (∀ (s : State) (a b lost : Nat) (dead : Bool), s.arg = .outage a b lost dead →
    ∃ t, exec .drain s = .next t ∧ t = { s with outage := if lost = 0 then none else some (a, b, lost), cutoff := t.cutoff } ∧
      ∀ d, d ∈ t.cutoff ↔ d ∈ s.cutoff ∨ (dead = true ∧ d = a)) ∧
  (∀ (s : State) (n : Nat), s.arg = .unit n →
    (∃ t, exec .portDown s = .next t ∧ t = { s with qpErrors := t.qpErrors } ∧ ∀ p, p ∈ t.qpErrors ↔ p = n ∨ p ∈ s.qpErrors) ∧
    ∃ t, exec .ecnMarking s = .next t ∧ t = { s with ecn := t.ecn } ∧ ∀ p, p ∈ t.ecn ↔ p = n ∨ p ∈ s.ecn) ∧
  (∀ (s : State) (port prio : Nat) (b : Bool), s.arg = .entry port prio b →
    ∃ t, exec .priorityFlowControl s = .next t ∧ t = { s with paused := t.paused } ∧
      ∀ x, x ∈ t.paused ↔ if x = (port, prio) then b = true else x ∈ s.paused) ∧
  (∀ (s : State) (qp : Nat) (e : Instr × EvArg), s.arg = .loss (.remote qp) → e ∈ s.agenda →
    (∃ r, r.qp = qp ∧ ((∃ b, e.2 = .remoteBytes r b) ∨ (∃ n, e.2 = .remoteLen r n) ∨ (∃ v, e.2 = .remoteAdd r v) ∨
      ∃ c v, e.2 = .remoteCas r c v)) → qp ∉ s.remoteLost →
    exec .lossNotice s = .next { s with remoteLost := qp :: s.remoteLost }) ∧
  ∀ (s : State) (b w id : Nat) (p : Pend) (r : Replay), s.arg = .loss (.access b w id) →
    let u := focusWarp s b w
    u.w.pend.find? (fun p => p.id == id && p.unit == .memory) = some p → p.src = some r →
    (loadAddr r.i 0 u).isSome = true → p.losses = 0 →
    exec .lossNotice s = .next { u with w := { u.w with pend := u.w.pend.map (fun q =>
      if q.id = p.id then { q with losses := 1 } else q) } }

end
end

