-- ==== Sys2Proof/Laws/Cells.lean ====
section
/-!
SUPPORT. Laws of sparse cells: a read after a write, on any list; the canonical form, which every write keeps; and bytes
loaded after a little-endian store.
-/
namespace Sys2Proof.Machine

@[simp] theorem Cells.get_nil {w : Nat} (k : Nat) : Cells.get ([] : List (Nat × BitVec w)) k = 0 := rfl

theorem Cells.get_cons {w : Nat} (k' : Nat) (v : BitVec w) (r : List (Nat × BitVec w)) (k : Nat) :
    Cells.get ((k', v) :: r) k = if k' = k then v else Cells.get r k := rfl

theorem Cells.get_put {w : Nat} (c : List (Nat × BitVec w)) (k : Nat) (v : BitVec w) (j : Nat) :
    Cells.get (Cells.put c k v) j = if k = j then v else Cells.get c j := by
  induction c with
  | nil => simp [Cells.put, Cells.get_cons]
  | cons p r ih =>
    obtain ⟨k', v'⟩ := p
    simp only [Cells.put]
    split_ifs <;> simp only [Cells.get_cons, ih] <;> split_ifs <;> first | rfl | omega

theorem Cells.get_filter {w : Nat} (c : List (Nat × BitVec w)) (k j : Nat) :
    Cells.get (c.filter (fun p => p.1 != k)) j = if k = j then 0 else Cells.get c j := by
  induction c with
  | nil => simp
  | cons p r ih =>
    obtain ⟨k', v'⟩ := p
    by_cases h : k' = k
    · subst h; simp only [List.filter, bne_self_eq_false, ih, Cells.get_cons]; split_ifs <;> rfl
    · have : (k' != k) = true := by simp [h]
      simp only [List.filter, this, Cells.get_cons, ih]
      split_ifs <;> first | rfl | omega

/-- A read after a write, at the same key or at another. -/
@[simp] theorem Cells.get_set {w : Nat} (c : List (Nat × BitVec w)) (k : Nat) (v : BitVec w) (j : Nat) :
    Cells.get (Cells.set c k v) j = if k = j then v else Cells.get c j := by
  unfold Cells.set
  split_ifs with h h' <;> simp_all [Cells.get_filter, Cells.get_put]

theorem Cells.wfFrom_mono {w : Nat} {c : List (Nat × BitVec w)} {n m : Nat} (h : Cells.wfFrom n c = true) (hm : m ≤ n) :
    Cells.wfFrom m c = true := by
  cases c with
  | nil => rfl
  | cons p r =>
    obtain ⟨k, v⟩ := p
    simp only [Cells.wfFrom, Bool.and_eq_true, decide_eq_true_eq] at h ⊢
    exact ⟨⟨by omega, h.1.2⟩, h.2⟩

theorem Cells.wfFrom_put {w : Nat} (c : List (Nat × BitVec w)) (k : Nat) (v : BitVec w) (n : Nat) (hv : v ≠ 0)
    (hn : n ≤ k) (h : Cells.wfFrom n c = true) : Cells.wfFrom n (Cells.put c k v) = true := by
  induction c generalizing n with
  | nil => simp only [Cells.put, Cells.wfFrom, hn, decide_true, Bool.true_and, Bool.and_true]; exact decide_eq_true hv
  | cons p r ih =>
    obtain ⟨k', v'⟩ := p
    simp only [Cells.wfFrom, Bool.and_eq_true, decide_eq_true_eq] at h
    simp only [Cells.put]
    split_ifs with h1 h2
    · simp only [Cells.wfFrom, Bool.and_eq_true, decide_eq_true_eq]
      exact ⟨h.1, ih _ (by omega) h.2⟩
    · subst h2; simp only [Cells.wfFrom, Bool.and_eq_true, decide_eq_true_eq]; exact ⟨⟨hn, hv⟩, h.2⟩
    · simp only [Cells.wfFrom, Bool.and_eq_true, decide_eq_true_eq]
      exact ⟨⟨hn, hv⟩, ⟨by omega, h.1.2⟩, h.2⟩

theorem Cells.wfFrom_filter {w : Nat} (c : List (Nat × BitVec w)) (q : Nat × BitVec w → Bool) (n : Nat)
    (h : Cells.wfFrom n c = true) : Cells.wfFrom n (c.filter q) = true := by
  induction c generalizing n with
  | nil => rfl
  | cons p r ih =>
    obtain ⟨k', v'⟩ := p
    simp only [Cells.wfFrom, Bool.and_eq_true, decide_eq_true_eq] at h
    simp only [List.filter]
    split
    · simp only [Cells.wfFrom, Bool.and_eq_true, decide_eq_true_eq]; exact ⟨h.1, ih _ h.2⟩
    · exact Cells.wfFrom_mono (ih _ h.2) (by omega)

/-- Every write keeps the canonical form. -/
theorem Cells.wf_set {w : Nat} {c : List (Nat × BitVec w)} (k : Nat) (v : BitVec w) (h : Cells.wf c = true) :
    Cells.wf (Cells.set c k v) = true := by
  unfold Cells.set
  split_ifs with hv
  · exact Cells.wfFrom_filter _ _ _ h
  · exact Cells.wfFrom_put _ _ _ _ hv (by omega) h

/-- Cells in canonical form that read alike are equal. -/
theorem Cells.get_eq_zero_of_lt {w : Nat} {c : List (Nat × BitVec w)} {n j : Nat} (h : Cells.wfFrom n c = true) (hj : j < n) :
    Cells.get c j = 0 := by
  induction c generalizing n with
  | nil => rfl
  | cons p r ih =>
    obtain ⟨k, v⟩ := p
    simp only [Cells.wfFrom, Bool.and_eq_true, decide_eq_true_eq] at h
    rw [Cells.get_cons, if_neg (by omega)]
    exact ih h.2 (by omega)

theorem Cells.ext_from {w : Nat} (c d : List (Nat × BitVec w)) (n : Nat) (hc : Cells.wfFrom n c = true)
    (hd : Cells.wfFrom n d = true) (h : ∀ j, Cells.get c j = Cells.get d j) : c = d := by
  induction c generalizing d n with
  | nil =>
    cases d with
    | nil => rfl
    | cons q t =>
      obtain ⟨k, v⟩ := q
      simp only [Cells.wfFrom, Bool.and_eq_true, decide_eq_true_eq] at hd
      have := h k
      simp [Cells.get_cons] at this
      exact absurd this.symm hd.1.2
  | cons p r ih =>
    obtain ⟨k, v⟩ := p
    simp only [Cells.wfFrom, Bool.and_eq_true, decide_eq_true_eq] at hc
    cases d with
    | nil =>
      have := h k
      simp [Cells.get_cons] at this
      exact absurd this hc.1.2
    | cons q t =>
      obtain ⟨k', v'⟩ := q
      simp only [Cells.wfFrom, Bool.and_eq_true, decide_eq_true_eq] at hd
      have hk := h k
      have hk' := h k'
      simp only [Cells.get_cons, if_true] at hk hk'
      have : k = k' := by
        by_contra hne
        rcases Nat.lt_or_gt_of_ne hne with hl | hl
        · rw [if_neg (by omega), Cells.get_eq_zero_of_lt hd.2 (by omega)] at hk
          exact hc.1.2 hk
        · rw [if_neg (by omega), Cells.get_eq_zero_of_lt hc.2 (by omega)] at hk'
          exact hd.1.2 hk'.symm
      subst this
      simp only [if_true] at hk
      subst hk
      congr 1
      refine ih t (k + 1) hc.2 hd.2 (fun j => ?_)
      have := h j
      simp only [Cells.get_cons] at this
      by_cases hj : k = j
      · subst hj; rw [Cells.get_eq_zero_of_lt hc.2 (by omega), Cells.get_eq_zero_of_lt hd.2 (by omega)]
      · simpa [hj] using this

theorem Cells.ext {w : Nat} {c d : List (Nat × BitVec w)} (hc : Cells.wf c = true) (hd : Cells.wf d = true)
    (h : ∀ j, Cells.get c j = Cells.get d j) : c = d := Cells.ext_from c d 0 hc hd h

/-! ### Bytes -/

theorem Cells.wf_store {c : Memory} (k v n : Nat) (h : Cells.wf c = true) : Cells.wf (Cells.store c k v n) = true := by
  induction n generalizing c k v with
  | zero => exact h
  | succ n ih => exact ih _ _ (Cells.wf_set _ _ h)

/-- A store leaves every byte outside its range alone. -/
theorem Cells.get_store_of_not_mem (c : Memory) (k v n j : Nat) (h : j < k ∨ k + n ≤ j) :
    Cells.get (Cells.store c k v n) j = Cells.get c j := by
  induction n generalizing c k v with
  | zero => rfl
  | succ n ih =>
    rw [Cells.store, ih _ _ _ (by omega), Cells.get_set, if_neg (by omega)]

/-- A byte of a stored number, least significant first. -/
theorem Cells.get_store (c : Memory) (k v n i : Nat) (h : i < n) :
    Cells.get (Cells.store c k v n) (k + i) = BitVec.ofNat 8 (v / 256 ^ i) := by
  induction n generalizing c k v i with
  | zero => omega
  | succ n ih =>
    cases i with
    | zero => rw [Cells.store, Cells.get_store_of_not_mem _ _ _ _ _ (by omega)]; simp
    | succ i =>
      rw [Cells.store, show k + (i + 1) = k + 1 + i by omega, ih _ _ _ _ (by omega), Nat.div_div_eq_div_mul,
        Nat.pow_succ, Nat.mul_comm]

/-- What was stored is loaded. -/
theorem Cells.load_store (c : Memory) (k v n : Nat) : Cells.load (Cells.store c k v n) k n = v % 256 ^ n := by
  have key : ∀ (d : Memory) (m k v : Nat), (∀ i, i < m → Cells.get d (k + i) = BitVec.ofNat 8 (v / 256 ^ i)) →
      Cells.load d k m = v % 256 ^ m := by
    intro d m
    induction m with
    | zero => intro k v _; simp [Cells.load, Nat.mod_one]
    | succ m ih =>
      intro k v h
      have h0 := h 0 (by omega)
      have hr := ih (k + 1) (v / 256) (fun i hi => by
        have := h (i + 1) (by omega)
        rw [show k + 1 + i = k + (i + 1) by omega, this, Nat.div_div_eq_div_mul, Nat.pow_succ, Nat.mul_comm])
      rw [Cells.load, hr]
      simp only [Nat.add_zero, Nat.pow_zero, Nat.div_one] at h0
      rw [h0, Nat.pow_succ, Nat.mul_comm (256 ^ m), Nat.mod_mul]
      simp
  exact key _ _ _ _ (fun i hi => Cells.get_store c k v n i hi)

/-- A load sees only the bytes of its range. -/
theorem Cells.load_congr (c d : Memory) (k n : Nat) (h : ∀ j, k ≤ j → j < k + n → Cells.get c j = Cells.get d j) :
    Cells.load c k n = Cells.load d k n := by
  induction n generalizing k with
  | zero => rfl
  | succ n ih =>
    simp only [Cells.load]
    rw [h k (by omega) (by omega), ih (k + 1) (fun j _ _ => h j (by omega) (by omega))]

end Sys2Proof.Machine
end

