-- ==== Sys2Proof/Laws/Lanes.lean ====
section
/-!
SUPPORT. Laws of lane masks: which lanes a mask built from a predicate or from a list holds, and which lanes a mask lists.
-/
namespace Sys2Proof.Machine

/-- The sum of the powers of two that a predicate selects below `n`. -/
theorem lane_sum_lt (f : Nat → Bool) (n : Nat) :
    (List.range n).foldl (fun a i => if f i then a + 2 ^ i else a) 0 < 2 ^ n := by
  induction n with
  | zero => simp
  | succ n ih =>
    rw [List.range_succ, List.foldl_append]
    simp only [List.foldl_cons, List.foldl_nil]
    rw [Nat.pow_succ]
    split_ifs <;> omega

theorem lane_sum_testBit (f : Nat → Bool) (n l : Nat) :
    ((List.range n).foldl (fun a i => if f i then a + 2 ^ i else a) 0).testBit l = (decide (l < n) && f l) := by
  induction n with
  | zero => simp
  | succ n ih =>
    rw [List.range_succ, List.foldl_append]
    simp only [List.foldl_cons, List.foldl_nil]
    have hlt := lane_sum_lt f n
    generalize (List.range n).foldl (fun a i => if f i then a + 2 ^ i else a) 0 = x at ih hlt
    by_cases hf : f n = true
    · rw [if_pos hf, Nat.add_comm x]
      rcases Nat.lt_trichotomy l n with h | h | h
      · rw [Nat.testBit_two_pow_add_gt h, ih]
        simp [h, Nat.lt_succ_of_lt h]
      · subst h
        rw [Nat.testBit_two_pow_add_eq, Nat.testBit_lt_two_pow hlt]
        simp [hf]
      · rw [Nat.testBit_lt_two_pow]
        · simp; omega
        · calc 2 ^ n + x < 2 ^ (n + 1) := by rw [Nat.pow_succ]; omega
            _ ≤ 2 ^ l := Nat.pow_le_pow_right (by omega) h
    · rw [if_neg hf, ih]
      by_cases h : l = n
      · subst h; simp at hf; simp [hf]
      · have : (l < n + 1) ↔ (l < n) := by omega
        simp [this]

/-- The lanes of a mask built from a predicate. -/
@[simp] theorem mkLanes_getLsbD (f : Nat → Bool) (l : Nat) : (mkLanes f).getLsbD l = (decide (l < 32) && f l) := by
  unfold mkLanes laneList
  rw [BitVec.getLsbD_ofNat, lane_sum_testBit]
  cases f l <;> simp

/-- Two masks are equal when they hold the same lanes. -/
theorem lanes_ext (a b : Lanes) (h : ∀ l, l < 32 → a.getLsbD l = b.getLsbD l) : a = b := by
  apply BitVec.eq_of_getLsbD_eq
  intro i hi
  exact h i hi

@[simp] theorem mem_lanesOf (m : Lanes) (l : Nat) : l ∈ lanesOf m ↔ m.getLsbD l = true := by
  unfold lanesOf laneList
  simp only [List.mem_filter, List.mem_range, and_iff_right_iff_imp]
  intro h
  by_contra hl
  rw [BitVec.getLsbD_of_ge _ _ (by omega)] at h
  exact absurd h (by simp)

theorem lanesOf_nodup (m : Lanes) : (lanesOf m).Nodup := List.Nodup.filter _ List.nodup_range

theorem lt_of_mem_lanesOf {m : Lanes} {l : Nat} (h : l ∈ lanesOf m) : l < 32 := by
  unfold lanesOf laneList at h
  simp only [List.mem_filter, List.mem_range] at h
  exact h.1

@[simp] theorem maskOf_getLsbD (ls : List Nat) (l : Nat) : (maskOf ls).getLsbD l = (decide (l < 32) && ls.contains l) := by
  unfold maskOf; rw [mkLanes_getLsbD]

@[simp] theorem maskOf_lanesOf (m : Lanes) : maskOf (lanesOf m) = m := by
  apply lanes_ext
  intro l hl
  rw [maskOf_getLsbD]
  rw [Bool.eq_iff_iff]
  simp only [hl, decide_true, Bool.true_and, List.contains_iff_mem, mem_lanesOf]

/-- Register lanes have keys of their own. -/
theorem regKey_inj {r l r' l' : Nat} (hl : l < 32) (hl' : l' < 32) : regKey r l = regKey r' l' ↔ r = r' ∧ l = l' := by
  unfold regKey; omega

/-- The lane of a key. -/
@[simp] theorem regKey_mod {r l : Nat} (hl : l < 32) : regKey r l % 32 = l := by unfold regKey; omega

@[simp] theorem setBit_getLsbD (m : Lanes) (l : Nat) (b : Bool) (j : Nat) (hl : l < 32) :
    (setBit m l b).getLsbD j = if j = l then b else m.getLsbD j := by
  have hp : (BitVec.ofNat 32 (2 ^ l)).getLsbD j = (decide (j < 32) && decide (j = l)) := by
    rw [BitVec.getLsbD_ofNat, Nat.testBit_two_pow]
    by_cases h : j = l
    · subst h; simp
    · have h' : ¬ l = j := fun e => h e.symm
      simp [h, h']
  unfold setBit
  cases b
  · simp only [Bool.false_eq_true, if_false, BitVec.getLsbD_and, BitVec.getLsbD_not, hp]
    by_cases h : j = l
    · subst h; simp [hl]
    · by_cases hj : j < 32
      · simp [h, hj]
      · simp [h, hj, BitVec.getLsbD_of_ge m j (by omega)]
  · simp only [if_true, BitVec.getLsbD_or, hp]
    by_cases h : j = l
    · subst h; simp [hl]
    · simp [h]

end Sys2Proof.Machine
end

