-- ==== Sys2Proof/Laws/State.lean ====
section
/-!
SUPPORT. What each field of State is after each named update: one lemma per field, true by definition.
-/
namespace Sys2Proof.Machine

/-! ### Adding a due event -/

@[simp] theorem push_f (i : Instr) (a : EvArg) (s : State) : (push i a s).f = s.f := rfl
@[simp] theorem push_w (i : Instr) (a : EvArg) (s : State) : (push i a s).w = s.w := rfl
@[simp] theorem push_blk (i : Instr) (a : EvArg) (s : State) : (push i a s).blk = s.blk := rfl
@[simp] theorem push_blocks (i : Instr) (a : EvArg) (s : State) : (push i a s).blocks = s.blocks := rfl
@[simp] theorem push_arg (i : Instr) (a : EvArg) (s : State) : (push i a s).arg = s.arg := rfl
@[simp] theorem push_agenda (i : Instr) (a : EvArg) (s : State) : (push i a s).agenda = s.agenda ++ [(i, a)] := rfl
@[simp] theorem push_tick (i : Instr) (a : EvArg) (s : State) : (push i a s).tick = s.tick := rfl
@[simp] theorem push_uid (i : Instr) (a : EvArg) (s : State) : (push i a s).uid = s.uid := rfl
@[simp] theorem push_cycles (i : Instr) (a : EvArg) (s : State) : (push i a s).cycles = s.cycles := rfl
@[simp] theorem push_timeUnits (i : Instr) (a : EvArg) (s : State) : (push i a s).timeUnits = s.timeUnits := rfl
@[simp] theorem push_mem (i : Instr) (a : EvArg) (s : State) : (push i a s).mem = s.mem := rfl
@[simp] theorem push_l1 (i : Instr) (a : EvArg) (s : State) : (push i a s).l1 = s.l1 := rfl
@[simp] theorem push_l2 (i : Instr) (a : EvArg) (s : State) : (push i a s).l2 = s.l2 := rfl
@[simp] theorem push_icache (i : Instr) (a : EvArg) (s : State) : (push i a s).icache = s.icache := rfl
@[simp] theorem push_split (i : Instr) (a : EvArg) (s : State) : (push i a s).split = s.split := rfl
@[simp] theorem push_opc (i : Instr) (a : EvArg) (s : State) : (push i a s).opc = s.opc := rfl
@[simp] theorem push_tlb (i : Instr) (a : EvArg) (s : State) : (push i a s).tlb = s.tlb := rfl
@[simp] theorem push_wcache (i : Instr) (a : EvArg) (s : State) : (push i a s).wcache = s.wcache := rfl
@[simp] theorem push_homes (i : Instr) (a : EvArg) (s : State) : (push i a s).homes = s.homes := rfl
@[simp] theorem push_dev (i : Instr) (a : EvArg) (s : State) : (push i a s).dev = s.dev := rfl
@[simp] theorem push_poolTable (i : Instr) (a : EvArg) (s : State) : (push i a s).poolTable = s.poolTable := rfl
@[simp] theorem push_quotas (i : Instr) (a : EvArg) (s : State) : (push i a s).quotas = s.quotas := rfl
@[simp] theorem push_grids (i : Instr) (a : EvArg) (s : State) : (push i a s).grids = s.grids := rfl
@[simp] theorem push_ready (i : Instr) (a : EvArg) (s : State) : (push i a s).ready = s.ready := rfl
@[simp] theorem push_graphs (i : Instr) (a : EvArg) (s : State) : (push i a s).graphs = s.graphs := rfl
@[simp] theorem push_colls (i : Instr) (a : EvArg) (s : State) : (push i a s).colls = s.colls := rfl
@[simp] theorem push_kicks (i : Instr) (a : EvArg) (s : State) : (push i a s).kicks = s.kicks := rfl
@[simp] theorem push_copies (i : Instr) (a : EvArg) (s : State) : (push i a s).copies = s.copies := rfl
@[simp] theorem push_walks (i : Instr) (a : EvArg) (s : State) : (push i a s).walks = s.walks := rfl
@[simp] theorem push_queues (i : Instr) (a : EvArg) (s : State) : (push i a s).queues = s.queues := rfl
@[simp] theorem push_regions (i : Instr) (a : EvArg) (s : State) : (push i a s).regions = s.regions := rfl
@[simp] theorem push_recvq (i : Instr) (a : EvArg) (s : State) : (push i a s).recvq = s.recvq := rfl
@[simp] theorem push_sendq (i : Instr) (a : EvArg) (s : State) : (push i a s).sendq = s.sendq := rfl
@[simp] theorem push_fw (i : Instr) (a : EvArg) (s : State) : (push i a s).fw = s.fw := rfl
@[simp] theorem push_answers (i : Instr) (a : EvArg) (s : State) : (push i a s).answers = s.answers := rfl
@[simp] theorem push_poolReqs (i : Instr) (a : EvArg) (s : State) : (push i a s).poolReqs = s.poolReqs := rfl
@[simp] theorem push_poolBack (i : Instr) (a : EvArg) (s : State) : (push i a s).poolBack = s.poolBack := rfl
@[simp] theorem push_remoteLost (i : Instr) (a : EvArg) (s : State) : (push i a s).remoteLost = s.remoteLost := rfl
@[simp] theorem push_qpErrors (i : Instr) (a : EvArg) (s : State) : (push i a s).qpErrors = s.qpErrors := rfl
@[simp] theorem push_paused (i : Instr) (a : EvArg) (s : State) : (push i a s).paused = s.paused := rfl
@[simp] theorem push_ecn (i : Instr) (a : EvArg) (s : State) : (push i a s).ecn = s.ecn := rfl
@[simp] theorem push_outage (i : Instr) (a : EvArg) (s : State) : (push i a s).outage = s.outage := rfl
@[simp] theorem push_cutoff (i : Instr) (a : EvArg) (s : State) : (push i a s).cutoff = s.cutoff := rfl
@[simp] theorem push_poison (i : Instr) (a : EvArg) (s : State) : (push i a s).poison = s.poison := rfl
@[simp] theorem push_ramp (i : Instr) (a : EvArg) (s : State) : (push i a s).ramp = s.ramp := rfl
@[simp] theorem push_stops (i : Instr) (a : EvArg) (s : State) : (push i a s).stops = s.stops := rfl
@[simp] theorem push_stopSteps (i : Instr) (a : EvArg) (s : State) : (push i a s).stopSteps = s.stopSteps := rfl
@[simp] theorem push_promos (i : Instr) (a : EvArg) (s : State) : (push i a s).promos = s.promos := rfl
@[simp] theorem push_trust (i : Instr) (a : EvArg) (s : State) : (push i a s).trust = s.trust := rfl

/-! ### Taking an identifier -/

@[simp] theorem fresh_f (s : State) : (fresh s).f = s.f := rfl
@[simp] theorem fresh_w (s : State) : (fresh s).w = s.w := rfl
@[simp] theorem fresh_blk (s : State) : (fresh s).blk = s.blk := rfl
@[simp] theorem fresh_blocks (s : State) : (fresh s).blocks = s.blocks := rfl
@[simp] theorem fresh_arg (s : State) : (fresh s).arg = s.arg := rfl
@[simp] theorem fresh_agenda (s : State) : (fresh s).agenda = s.agenda := rfl
@[simp] theorem fresh_tick (s : State) : (fresh s).tick = s.tick := rfl
@[simp] theorem fresh_uid (s : State) : (fresh s).uid = s.uid + 1 := rfl
@[simp] theorem fresh_cycles (s : State) : (fresh s).cycles = s.cycles := rfl
@[simp] theorem fresh_timeUnits (s : State) : (fresh s).timeUnits = s.timeUnits := rfl
@[simp] theorem fresh_mem (s : State) : (fresh s).mem = s.mem := rfl
@[simp] theorem fresh_l1 (s : State) : (fresh s).l1 = s.l1 := rfl
@[simp] theorem fresh_l2 (s : State) : (fresh s).l2 = s.l2 := rfl
@[simp] theorem fresh_icache (s : State) : (fresh s).icache = s.icache := rfl
@[simp] theorem fresh_split (s : State) : (fresh s).split = s.split := rfl
@[simp] theorem fresh_opc (s : State) : (fresh s).opc = s.opc := rfl
@[simp] theorem fresh_tlb (s : State) : (fresh s).tlb = s.tlb := rfl
@[simp] theorem fresh_wcache (s : State) : (fresh s).wcache = s.wcache := rfl
@[simp] theorem fresh_homes (s : State) : (fresh s).homes = s.homes := rfl
@[simp] theorem fresh_dev (s : State) : (fresh s).dev = s.dev := rfl
@[simp] theorem fresh_poolTable (s : State) : (fresh s).poolTable = s.poolTable := rfl
@[simp] theorem fresh_quotas (s : State) : (fresh s).quotas = s.quotas := rfl
@[simp] theorem fresh_grids (s : State) : (fresh s).grids = s.grids := rfl
@[simp] theorem fresh_ready (s : State) : (fresh s).ready = s.ready := rfl
@[simp] theorem fresh_graphs (s : State) : (fresh s).graphs = s.graphs := rfl
@[simp] theorem fresh_colls (s : State) : (fresh s).colls = s.colls := rfl
@[simp] theorem fresh_kicks (s : State) : (fresh s).kicks = s.kicks := rfl
@[simp] theorem fresh_copies (s : State) : (fresh s).copies = s.copies := rfl
@[simp] theorem fresh_walks (s : State) : (fresh s).walks = s.walks := rfl
@[simp] theorem fresh_queues (s : State) : (fresh s).queues = s.queues := rfl
@[simp] theorem fresh_regions (s : State) : (fresh s).regions = s.regions := rfl
@[simp] theorem fresh_recvq (s : State) : (fresh s).recvq = s.recvq := rfl
@[simp] theorem fresh_sendq (s : State) : (fresh s).sendq = s.sendq := rfl
@[simp] theorem fresh_fw (s : State) : (fresh s).fw = s.fw := rfl
@[simp] theorem fresh_answers (s : State) : (fresh s).answers = s.answers := rfl
@[simp] theorem fresh_poolReqs (s : State) : (fresh s).poolReqs = s.poolReqs := rfl
@[simp] theorem fresh_poolBack (s : State) : (fresh s).poolBack = s.poolBack := rfl
@[simp] theorem fresh_remoteLost (s : State) : (fresh s).remoteLost = s.remoteLost := rfl
@[simp] theorem fresh_qpErrors (s : State) : (fresh s).qpErrors = s.qpErrors := rfl
@[simp] theorem fresh_paused (s : State) : (fresh s).paused = s.paused := rfl
@[simp] theorem fresh_ecn (s : State) : (fresh s).ecn = s.ecn := rfl
@[simp] theorem fresh_outage (s : State) : (fresh s).outage = s.outage := rfl
@[simp] theorem fresh_cutoff (s : State) : (fresh s).cutoff = s.cutoff := rfl
@[simp] theorem fresh_poison (s : State) : (fresh s).poison = s.poison := rfl
@[simp] theorem fresh_ramp (s : State) : (fresh s).ramp = s.ramp := rfl
@[simp] theorem fresh_stops (s : State) : (fresh s).stops = s.stops := rfl
@[simp] theorem fresh_stopSteps (s : State) : (fresh s).stopSteps = s.stopSteps := rfl
@[simp] theorem fresh_promos (s : State) : (fresh s).promos = s.promos := rfl
@[simp] theorem fresh_trust (s : State) : (fresh s).trust = s.trust := rfl

/-! ### Changing a grid -/

@[simp] theorem updGrid_f (s : State) (g : Nat) (u : Grid → Grid) : (updGrid s g u).f = s.f := rfl
@[simp] theorem updGrid_w (s : State) (g : Nat) (u : Grid → Grid) : (updGrid s g u).w = s.w := rfl
@[simp] theorem updGrid_blk (s : State) (g : Nat) (u : Grid → Grid) : (updGrid s g u).blk = s.blk := rfl
@[simp] theorem updGrid_blocks (s : State) (g : Nat) (u : Grid → Grid) : (updGrid s g u).blocks = s.blocks := rfl
@[simp] theorem updGrid_arg (s : State) (g : Nat) (u : Grid → Grid) : (updGrid s g u).arg = s.arg := rfl
@[simp] theorem updGrid_agenda (s : State) (g : Nat) (u : Grid → Grid) : (updGrid s g u).agenda = s.agenda := rfl
@[simp] theorem updGrid_tick (s : State) (g : Nat) (u : Grid → Grid) : (updGrid s g u).tick = s.tick := rfl
@[simp] theorem updGrid_uid (s : State) (g : Nat) (u : Grid → Grid) : (updGrid s g u).uid = s.uid := rfl
@[simp] theorem updGrid_cycles (s : State) (g : Nat) (u : Grid → Grid) : (updGrid s g u).cycles = s.cycles := rfl
@[simp] theorem updGrid_timeUnits (s : State) (g : Nat) (u : Grid → Grid) : (updGrid s g u).timeUnits = s.timeUnits := rfl
@[simp] theorem updGrid_mem (s : State) (g : Nat) (u : Grid → Grid) : (updGrid s g u).mem = s.mem := rfl
@[simp] theorem updGrid_l1 (s : State) (g : Nat) (u : Grid → Grid) : (updGrid s g u).l1 = s.l1 := rfl
@[simp] theorem updGrid_l2 (s : State) (g : Nat) (u : Grid → Grid) : (updGrid s g u).l2 = s.l2 := rfl
@[simp] theorem updGrid_icache (s : State) (g : Nat) (u : Grid → Grid) : (updGrid s g u).icache = s.icache := rfl
@[simp] theorem updGrid_split (s : State) (g : Nat) (u : Grid → Grid) : (updGrid s g u).split = s.split := rfl
@[simp] theorem updGrid_opc (s : State) (g : Nat) (u : Grid → Grid) : (updGrid s g u).opc = s.opc := rfl
@[simp] theorem updGrid_tlb (s : State) (g : Nat) (u : Grid → Grid) : (updGrid s g u).tlb = s.tlb := rfl
@[simp] theorem updGrid_wcache (s : State) (g : Nat) (u : Grid → Grid) : (updGrid s g u).wcache = s.wcache := rfl
@[simp] theorem updGrid_homes (s : State) (g : Nat) (u : Grid → Grid) : (updGrid s g u).homes = s.homes := rfl
@[simp] theorem updGrid_dev (s : State) (g : Nat) (u : Grid → Grid) : (updGrid s g u).dev = s.dev := rfl
@[simp] theorem updGrid_poolTable (s : State) (g : Nat) (u : Grid → Grid) : (updGrid s g u).poolTable = s.poolTable := rfl
@[simp] theorem updGrid_quotas (s : State) (g : Nat) (u : Grid → Grid) : (updGrid s g u).quotas = s.quotas := rfl
@[simp] theorem updGrid_ready (s : State) (g : Nat) (u : Grid → Grid) : (updGrid s g u).ready = s.ready := rfl
@[simp] theorem updGrid_graphs (s : State) (g : Nat) (u : Grid → Grid) : (updGrid s g u).graphs = s.graphs := rfl
@[simp] theorem updGrid_colls (s : State) (g : Nat) (u : Grid → Grid) : (updGrid s g u).colls = s.colls := rfl
@[simp] theorem updGrid_kicks (s : State) (g : Nat) (u : Grid → Grid) : (updGrid s g u).kicks = s.kicks := rfl
@[simp] theorem updGrid_copies (s : State) (g : Nat) (u : Grid → Grid) : (updGrid s g u).copies = s.copies := rfl
@[simp] theorem updGrid_walks (s : State) (g : Nat) (u : Grid → Grid) : (updGrid s g u).walks = s.walks := rfl
@[simp] theorem updGrid_queues (s : State) (g : Nat) (u : Grid → Grid) : (updGrid s g u).queues = s.queues := rfl
@[simp] theorem updGrid_regions (s : State) (g : Nat) (u : Grid → Grid) : (updGrid s g u).regions = s.regions := rfl
@[simp] theorem updGrid_recvq (s : State) (g : Nat) (u : Grid → Grid) : (updGrid s g u).recvq = s.recvq := rfl
@[simp] theorem updGrid_sendq (s : State) (g : Nat) (u : Grid → Grid) : (updGrid s g u).sendq = s.sendq := rfl
@[simp] theorem updGrid_fw (s : State) (g : Nat) (u : Grid → Grid) : (updGrid s g u).fw = s.fw := rfl
@[simp] theorem updGrid_answers (s : State) (g : Nat) (u : Grid → Grid) : (updGrid s g u).answers = s.answers := rfl
@[simp] theorem updGrid_poolReqs (s : State) (g : Nat) (u : Grid → Grid) : (updGrid s g u).poolReqs = s.poolReqs := rfl
@[simp] theorem updGrid_poolBack (s : State) (g : Nat) (u : Grid → Grid) : (updGrid s g u).poolBack = s.poolBack := rfl
@[simp] theorem updGrid_remoteLost (s : State) (g : Nat) (u : Grid → Grid) : (updGrid s g u).remoteLost = s.remoteLost := rfl
@[simp] theorem updGrid_qpErrors (s : State) (g : Nat) (u : Grid → Grid) : (updGrid s g u).qpErrors = s.qpErrors := rfl
@[simp] theorem updGrid_paused (s : State) (g : Nat) (u : Grid → Grid) : (updGrid s g u).paused = s.paused := rfl
@[simp] theorem updGrid_ecn (s : State) (g : Nat) (u : Grid → Grid) : (updGrid s g u).ecn = s.ecn := rfl
@[simp] theorem updGrid_outage (s : State) (g : Nat) (u : Grid → Grid) : (updGrid s g u).outage = s.outage := rfl
@[simp] theorem updGrid_cutoff (s : State) (g : Nat) (u : Grid → Grid) : (updGrid s g u).cutoff = s.cutoff := rfl
@[simp] theorem updGrid_poison (s : State) (g : Nat) (u : Grid → Grid) : (updGrid s g u).poison = s.poison := rfl
@[simp] theorem updGrid_ramp (s : State) (g : Nat) (u : Grid → Grid) : (updGrid s g u).ramp = s.ramp := rfl
@[simp] theorem updGrid_stops (s : State) (g : Nat) (u : Grid → Grid) : (updGrid s g u).stops = s.stops := rfl
@[simp] theorem updGrid_stopSteps (s : State) (g : Nat) (u : Grid → Grid) : (updGrid s g u).stopSteps = s.stopSteps := rfl
@[simp] theorem updGrid_promos (s : State) (g : Nat) (u : Grid → Grid) : (updGrid s g u).promos = s.promos := rfl
@[simp] theorem updGrid_trust (s : State) (g : Nat) (u : Grid → Grid) : (updGrid s g u).trust = s.trust := rfl

/-! ### Changing an export -/

@[simp] theorem updExport_f (s : State) (x : Nat) (u : Export → Export) : (updExport s x u).f = s.f := rfl
@[simp] theorem updExport_blk (s : State) (x : Nat) (u : Export → Export) : (updExport s x u).blk = s.blk := rfl
@[simp] theorem updExport_blocks (s : State) (x : Nat) (u : Export → Export) : (updExport s x u).blocks = s.blocks := rfl
@[simp] theorem updExport_arg (s : State) (x : Nat) (u : Export → Export) : (updExport s x u).arg = s.arg := rfl
@[simp] theorem updExport_agenda (s : State) (x : Nat) (u : Export → Export) : (updExport s x u).agenda = s.agenda := rfl
@[simp] theorem updExport_tick (s : State) (x : Nat) (u : Export → Export) : (updExport s x u).tick = s.tick := rfl
@[simp] theorem updExport_uid (s : State) (x : Nat) (u : Export → Export) : (updExport s x u).uid = s.uid := rfl
@[simp] theorem updExport_cycles (s : State) (x : Nat) (u : Export → Export) : (updExport s x u).cycles = s.cycles := rfl
@[simp] theorem updExport_timeUnits (s : State) (x : Nat) (u : Export → Export) : (updExport s x u).timeUnits = s.timeUnits := rfl
@[simp] theorem updExport_mem (s : State) (x : Nat) (u : Export → Export) : (updExport s x u).mem = s.mem := rfl
@[simp] theorem updExport_l1 (s : State) (x : Nat) (u : Export → Export) : (updExport s x u).l1 = s.l1 := rfl
@[simp] theorem updExport_l2 (s : State) (x : Nat) (u : Export → Export) : (updExport s x u).l2 = s.l2 := rfl
@[simp] theorem updExport_icache (s : State) (x : Nat) (u : Export → Export) : (updExport s x u).icache = s.icache := rfl
@[simp] theorem updExport_split (s : State) (x : Nat) (u : Export → Export) : (updExport s x u).split = s.split := rfl
@[simp] theorem updExport_opc (s : State) (x : Nat) (u : Export → Export) : (updExport s x u).opc = s.opc := rfl
@[simp] theorem updExport_tlb (s : State) (x : Nat) (u : Export → Export) : (updExport s x u).tlb = s.tlb := rfl
@[simp] theorem updExport_wcache (s : State) (x : Nat) (u : Export → Export) : (updExport s x u).wcache = s.wcache := rfl
@[simp] theorem updExport_homes (s : State) (x : Nat) (u : Export → Export) : (updExport s x u).homes = s.homes := rfl
@[simp] theorem updExport_dev (s : State) (x : Nat) (u : Export → Export) : (updExport s x u).dev = s.dev := rfl
@[simp] theorem updExport_poolTable (s : State) (x : Nat) (u : Export → Export) : (updExport s x u).poolTable = s.poolTable := rfl
@[simp] theorem updExport_quotas (s : State) (x : Nat) (u : Export → Export) : (updExport s x u).quotas = s.quotas := rfl
@[simp] theorem updExport_grids (s : State) (x : Nat) (u : Export → Export) : (updExport s x u).grids = s.grids := rfl
@[simp] theorem updExport_ready (s : State) (x : Nat) (u : Export → Export) : (updExport s x u).ready = s.ready := rfl
@[simp] theorem updExport_graphs (s : State) (x : Nat) (u : Export → Export) : (updExport s x u).graphs = s.graphs := rfl
@[simp] theorem updExport_colls (s : State) (x : Nat) (u : Export → Export) : (updExport s x u).colls = s.colls := rfl
@[simp] theorem updExport_kicks (s : State) (x : Nat) (u : Export → Export) : (updExport s x u).kicks = s.kicks := rfl
@[simp] theorem updExport_copies (s : State) (x : Nat) (u : Export → Export) : (updExport s x u).copies = s.copies := rfl
@[simp] theorem updExport_walks (s : State) (x : Nat) (u : Export → Export) : (updExport s x u).walks = s.walks := rfl
@[simp] theorem updExport_queues (s : State) (x : Nat) (u : Export → Export) : (updExport s x u).queues = s.queues := rfl
@[simp] theorem updExport_regions (s : State) (x : Nat) (u : Export → Export) : (updExport s x u).regions = s.regions := rfl
@[simp] theorem updExport_recvq (s : State) (x : Nat) (u : Export → Export) : (updExport s x u).recvq = s.recvq := rfl
@[simp] theorem updExport_sendq (s : State) (x : Nat) (u : Export → Export) : (updExport s x u).sendq = s.sendq := rfl
@[simp] theorem updExport_fw (s : State) (x : Nat) (u : Export → Export) : (updExport s x u).fw = s.fw := rfl
@[simp] theorem updExport_answers (s : State) (x : Nat) (u : Export → Export) : (updExport s x u).answers = s.answers := rfl
@[simp] theorem updExport_poolReqs (s : State) (x : Nat) (u : Export → Export) : (updExport s x u).poolReqs = s.poolReqs := rfl
@[simp] theorem updExport_poolBack (s : State) (x : Nat) (u : Export → Export) : (updExport s x u).poolBack = s.poolBack := rfl
@[simp] theorem updExport_remoteLost (s : State) (x : Nat) (u : Export → Export) : (updExport s x u).remoteLost = s.remoteLost := rfl
@[simp] theorem updExport_qpErrors (s : State) (x : Nat) (u : Export → Export) : (updExport s x u).qpErrors = s.qpErrors := rfl
@[simp] theorem updExport_paused (s : State) (x : Nat) (u : Export → Export) : (updExport s x u).paused = s.paused := rfl
@[simp] theorem updExport_ecn (s : State) (x : Nat) (u : Export → Export) : (updExport s x u).ecn = s.ecn := rfl
@[simp] theorem updExport_outage (s : State) (x : Nat) (u : Export → Export) : (updExport s x u).outage = s.outage := rfl
@[simp] theorem updExport_cutoff (s : State) (x : Nat) (u : Export → Export) : (updExport s x u).cutoff = s.cutoff := rfl
@[simp] theorem updExport_poison (s : State) (x : Nat) (u : Export → Export) : (updExport s x u).poison = s.poison := rfl
@[simp] theorem updExport_ramp (s : State) (x : Nat) (u : Export → Export) : (updExport s x u).ramp = s.ramp := rfl
@[simp] theorem updExport_stops (s : State) (x : Nat) (u : Export → Export) : (updExport s x u).stops = s.stops := rfl
@[simp] theorem updExport_stopSteps (s : State) (x : Nat) (u : Export → Export) : (updExport s x u).stopSteps = s.stopSteps := rfl
@[simp] theorem updExport_promos (s : State) (x : Nat) (u : Export → Export) : (updExport s x u).promos = s.promos := rfl
@[simp] theorem updExport_trust (s : State) (x : Nat) (u : Export → Export) : (updExport s x u).trust = s.trust := rfl

/-! ### Moving past an instruction -/

@[simp] theorem advance_w (s : State) : (advance s).w = s.w := rfl
@[simp] theorem advance_blk (s : State) : (advance s).blk = s.blk := rfl
@[simp] theorem advance_blocks (s : State) : (advance s).blocks = s.blocks := rfl
@[simp] theorem advance_arg (s : State) : (advance s).arg = s.arg := rfl
@[simp] theorem advance_agenda (s : State) : (advance s).agenda = s.agenda := rfl
@[simp] theorem advance_tick (s : State) : (advance s).tick = s.tick := rfl
@[simp] theorem advance_uid (s : State) : (advance s).uid = s.uid := rfl
@[simp] theorem advance_cycles (s : State) : (advance s).cycles = s.cycles := rfl
@[simp] theorem advance_timeUnits (s : State) : (advance s).timeUnits = s.timeUnits := rfl
@[simp] theorem advance_mem (s : State) : (advance s).mem = s.mem := rfl
@[simp] theorem advance_l1 (s : State) : (advance s).l1 = s.l1 := rfl
@[simp] theorem advance_l2 (s : State) : (advance s).l2 = s.l2 := rfl
@[simp] theorem advance_icache (s : State) : (advance s).icache = s.icache := rfl
@[simp] theorem advance_split (s : State) : (advance s).split = s.split := rfl
@[simp] theorem advance_opc (s : State) : (advance s).opc = s.opc := rfl
@[simp] theorem advance_tlb (s : State) : (advance s).tlb = s.tlb := rfl
@[simp] theorem advance_wcache (s : State) : (advance s).wcache = s.wcache := rfl
@[simp] theorem advance_homes (s : State) : (advance s).homes = s.homes := rfl
@[simp] theorem advance_dev (s : State) : (advance s).dev = s.dev := rfl
@[simp] theorem advance_poolTable (s : State) : (advance s).poolTable = s.poolTable := rfl
@[simp] theorem advance_quotas (s : State) : (advance s).quotas = s.quotas := rfl
@[simp] theorem advance_grids (s : State) : (advance s).grids = s.grids := rfl
@[simp] theorem advance_ready (s : State) : (advance s).ready = s.ready := rfl
@[simp] theorem advance_graphs (s : State) : (advance s).graphs = s.graphs := rfl
@[simp] theorem advance_colls (s : State) : (advance s).colls = s.colls := rfl
@[simp] theorem advance_kicks (s : State) : (advance s).kicks = s.kicks := rfl
@[simp] theorem advance_copies (s : State) : (advance s).copies = s.copies := rfl
@[simp] theorem advance_walks (s : State) : (advance s).walks = s.walks := rfl
@[simp] theorem advance_queues (s : State) : (advance s).queues = s.queues := rfl
@[simp] theorem advance_regions (s : State) : (advance s).regions = s.regions := rfl
@[simp] theorem advance_recvq (s : State) : (advance s).recvq = s.recvq := rfl
@[simp] theorem advance_sendq (s : State) : (advance s).sendq = s.sendq := rfl
@[simp] theorem advance_fw (s : State) : (advance s).fw = s.fw := rfl
@[simp] theorem advance_answers (s : State) : (advance s).answers = s.answers := rfl
@[simp] theorem advance_poolReqs (s : State) : (advance s).poolReqs = s.poolReqs := rfl
@[simp] theorem advance_poolBack (s : State) : (advance s).poolBack = s.poolBack := rfl
@[simp] theorem advance_remoteLost (s : State) : (advance s).remoteLost = s.remoteLost := rfl
@[simp] theorem advance_qpErrors (s : State) : (advance s).qpErrors = s.qpErrors := rfl
@[simp] theorem advance_paused (s : State) : (advance s).paused = s.paused := rfl
@[simp] theorem advance_ecn (s : State) : (advance s).ecn = s.ecn := rfl
@[simp] theorem advance_outage (s : State) : (advance s).outage = s.outage := rfl
@[simp] theorem advance_cutoff (s : State) : (advance s).cutoff = s.cutoff := rfl
@[simp] theorem advance_poison (s : State) : (advance s).poison = s.poison := rfl
@[simp] theorem advance_ramp (s : State) : (advance s).ramp = s.ramp := rfl
@[simp] theorem advance_stops (s : State) : (advance s).stops = s.stops := rfl
@[simp] theorem advance_stopSteps (s : State) : (advance s).stopSteps = s.stopSteps := rfl
@[simp] theorem advance_promos (s : State) : (advance s).promos = s.promos := rfl
@[simp] theorem advance_trust (s : State) : (advance s).trust = s.trust := rfl

/-! ### Moving to a clause header -/

@[simp] theorem jump_w (s : State) (a : W64) : (jump s a).w = s.w := rfl
@[simp] theorem jump_blk (s : State) (a : W64) : (jump s a).blk = s.blk := rfl
@[simp] theorem jump_blocks (s : State) (a : W64) : (jump s a).blocks = s.blocks := rfl
@[simp] theorem jump_arg (s : State) (a : W64) : (jump s a).arg = s.arg := rfl
@[simp] theorem jump_agenda (s : State) (a : W64) : (jump s a).agenda = s.agenda := rfl
@[simp] theorem jump_tick (s : State) (a : W64) : (jump s a).tick = s.tick := rfl
@[simp] theorem jump_uid (s : State) (a : W64) : (jump s a).uid = s.uid := rfl
@[simp] theorem jump_cycles (s : State) (a : W64) : (jump s a).cycles = s.cycles := rfl
@[simp] theorem jump_timeUnits (s : State) (a : W64) : (jump s a).timeUnits = s.timeUnits := rfl
@[simp] theorem jump_mem (s : State) (a : W64) : (jump s a).mem = s.mem := rfl
@[simp] theorem jump_l1 (s : State) (a : W64) : (jump s a).l1 = s.l1 := rfl
@[simp] theorem jump_l2 (s : State) (a : W64) : (jump s a).l2 = s.l2 := rfl
@[simp] theorem jump_icache (s : State) (a : W64) : (jump s a).icache = s.icache := rfl
@[simp] theorem jump_split (s : State) (a : W64) : (jump s a).split = s.split := rfl
@[simp] theorem jump_opc (s : State) (a : W64) : (jump s a).opc = s.opc := rfl
@[simp] theorem jump_tlb (s : State) (a : W64) : (jump s a).tlb = s.tlb := rfl
@[simp] theorem jump_wcache (s : State) (a : W64) : (jump s a).wcache = s.wcache := rfl
@[simp] theorem jump_homes (s : State) (a : W64) : (jump s a).homes = s.homes := rfl
@[simp] theorem jump_dev (s : State) (a : W64) : (jump s a).dev = s.dev := rfl
@[simp] theorem jump_poolTable (s : State) (a : W64) : (jump s a).poolTable = s.poolTable := rfl
@[simp] theorem jump_quotas (s : State) (a : W64) : (jump s a).quotas = s.quotas := rfl
@[simp] theorem jump_grids (s : State) (a : W64) : (jump s a).grids = s.grids := rfl
@[simp] theorem jump_ready (s : State) (a : W64) : (jump s a).ready = s.ready := rfl
@[simp] theorem jump_graphs (s : State) (a : W64) : (jump s a).graphs = s.graphs := rfl
@[simp] theorem jump_colls (s : State) (a : W64) : (jump s a).colls = s.colls := rfl
@[simp] theorem jump_kicks (s : State) (a : W64) : (jump s a).kicks = s.kicks := rfl
@[simp] theorem jump_copies (s : State) (a : W64) : (jump s a).copies = s.copies := rfl
@[simp] theorem jump_walks (s : State) (a : W64) : (jump s a).walks = s.walks := rfl
@[simp] theorem jump_queues (s : State) (a : W64) : (jump s a).queues = s.queues := rfl
@[simp] theorem jump_regions (s : State) (a : W64) : (jump s a).regions = s.regions := rfl
@[simp] theorem jump_recvq (s : State) (a : W64) : (jump s a).recvq = s.recvq := rfl
@[simp] theorem jump_sendq (s : State) (a : W64) : (jump s a).sendq = s.sendq := rfl
@[simp] theorem jump_fw (s : State) (a : W64) : (jump s a).fw = s.fw := rfl
@[simp] theorem jump_answers (s : State) (a : W64) : (jump s a).answers = s.answers := rfl
@[simp] theorem jump_poolReqs (s : State) (a : W64) : (jump s a).poolReqs = s.poolReqs := rfl
@[simp] theorem jump_poolBack (s : State) (a : W64) : (jump s a).poolBack = s.poolBack := rfl
@[simp] theorem jump_remoteLost (s : State) (a : W64) : (jump s a).remoteLost = s.remoteLost := rfl
@[simp] theorem jump_qpErrors (s : State) (a : W64) : (jump s a).qpErrors = s.qpErrors := rfl
@[simp] theorem jump_paused (s : State) (a : W64) : (jump s a).paused = s.paused := rfl
@[simp] theorem jump_ecn (s : State) (a : W64) : (jump s a).ecn = s.ecn := rfl
@[simp] theorem jump_outage (s : State) (a : W64) : (jump s a).outage = s.outage := rfl
@[simp] theorem jump_cutoff (s : State) (a : W64) : (jump s a).cutoff = s.cutoff := rfl
@[simp] theorem jump_poison (s : State) (a : W64) : (jump s a).poison = s.poison := rfl
@[simp] theorem jump_ramp (s : State) (a : W64) : (jump s a).ramp = s.ramp := rfl
@[simp] theorem jump_stops (s : State) (a : W64) : (jump s a).stops = s.stops := rfl
@[simp] theorem jump_stopSteps (s : State) (a : W64) : (jump s a).stopSteps = s.stopSteps := rfl
@[simp] theorem jump_promos (s : State) (a : W64) : (jump s a).promos = s.promos := rfl
@[simp] theorem jump_trust (s : State) (a : W64) : (jump s a).trust = s.trust := rfl

/-! ### Waiting at issue -/

@[simp] theorem holdAt_w (h : Hold) (s : State) : (holdAt h s).w = s.w := rfl
@[simp] theorem holdAt_blk (h : Hold) (s : State) : (holdAt h s).blk = s.blk := rfl
@[simp] theorem holdAt_blocks (h : Hold) (s : State) : (holdAt h s).blocks = s.blocks := rfl
@[simp] theorem holdAt_arg (h : Hold) (s : State) : (holdAt h s).arg = s.arg := rfl
@[simp] theorem holdAt_agenda (h : Hold) (s : State) : (holdAt h s).agenda = s.agenda := rfl
@[simp] theorem holdAt_tick (h : Hold) (s : State) : (holdAt h s).tick = s.tick := rfl
@[simp] theorem holdAt_uid (h : Hold) (s : State) : (holdAt h s).uid = s.uid := rfl
@[simp] theorem holdAt_cycles (h : Hold) (s : State) : (holdAt h s).cycles = s.cycles := rfl
@[simp] theorem holdAt_timeUnits (h : Hold) (s : State) : (holdAt h s).timeUnits = s.timeUnits := rfl
@[simp] theorem holdAt_mem (h : Hold) (s : State) : (holdAt h s).mem = s.mem := rfl
@[simp] theorem holdAt_l1 (h : Hold) (s : State) : (holdAt h s).l1 = s.l1 := rfl
@[simp] theorem holdAt_l2 (h : Hold) (s : State) : (holdAt h s).l2 = s.l2 := rfl
@[simp] theorem holdAt_icache (h : Hold) (s : State) : (holdAt h s).icache = s.icache := rfl
@[simp] theorem holdAt_split (h : Hold) (s : State) : (holdAt h s).split = s.split := rfl
@[simp] theorem holdAt_opc (h : Hold) (s : State) : (holdAt h s).opc = s.opc := rfl
@[simp] theorem holdAt_tlb (h : Hold) (s : State) : (holdAt h s).tlb = s.tlb := rfl
@[simp] theorem holdAt_wcache (h : Hold) (s : State) : (holdAt h s).wcache = s.wcache := rfl
@[simp] theorem holdAt_homes (h : Hold) (s : State) : (holdAt h s).homes = s.homes := rfl
@[simp] theorem holdAt_dev (h : Hold) (s : State) : (holdAt h s).dev = s.dev := rfl
@[simp] theorem holdAt_poolTable (h : Hold) (s : State) : (holdAt h s).poolTable = s.poolTable := rfl
@[simp] theorem holdAt_quotas (h : Hold) (s : State) : (holdAt h s).quotas = s.quotas := rfl
@[simp] theorem holdAt_grids (h : Hold) (s : State) : (holdAt h s).grids = s.grids := rfl
@[simp] theorem holdAt_ready (h : Hold) (s : State) : (holdAt h s).ready = s.ready := rfl
@[simp] theorem holdAt_graphs (h : Hold) (s : State) : (holdAt h s).graphs = s.graphs := rfl
@[simp] theorem holdAt_colls (h : Hold) (s : State) : (holdAt h s).colls = s.colls := rfl
@[simp] theorem holdAt_kicks (h : Hold) (s : State) : (holdAt h s).kicks = s.kicks := rfl
@[simp] theorem holdAt_copies (h : Hold) (s : State) : (holdAt h s).copies = s.copies := rfl
@[simp] theorem holdAt_walks (h : Hold) (s : State) : (holdAt h s).walks = s.walks := rfl
@[simp] theorem holdAt_queues (h : Hold) (s : State) : (holdAt h s).queues = s.queues := rfl
@[simp] theorem holdAt_regions (h : Hold) (s : State) : (holdAt h s).regions = s.regions := rfl
@[simp] theorem holdAt_recvq (h : Hold) (s : State) : (holdAt h s).recvq = s.recvq := rfl
@[simp] theorem holdAt_sendq (h : Hold) (s : State) : (holdAt h s).sendq = s.sendq := rfl
@[simp] theorem holdAt_fw (h : Hold) (s : State) : (holdAt h s).fw = s.fw := rfl
@[simp] theorem holdAt_answers (h : Hold) (s : State) : (holdAt h s).answers = s.answers := rfl
@[simp] theorem holdAt_poolReqs (h : Hold) (s : State) : (holdAt h s).poolReqs = s.poolReqs := rfl
@[simp] theorem holdAt_poolBack (h : Hold) (s : State) : (holdAt h s).poolBack = s.poolBack := rfl
@[simp] theorem holdAt_remoteLost (h : Hold) (s : State) : (holdAt h s).remoteLost = s.remoteLost := rfl
@[simp] theorem holdAt_qpErrors (h : Hold) (s : State) : (holdAt h s).qpErrors = s.qpErrors := rfl
@[simp] theorem holdAt_paused (h : Hold) (s : State) : (holdAt h s).paused = s.paused := rfl
@[simp] theorem holdAt_ecn (h : Hold) (s : State) : (holdAt h s).ecn = s.ecn := rfl
@[simp] theorem holdAt_outage (h : Hold) (s : State) : (holdAt h s).outage = s.outage := rfl
@[simp] theorem holdAt_cutoff (h : Hold) (s : State) : (holdAt h s).cutoff = s.cutoff := rfl
@[simp] theorem holdAt_poison (h : Hold) (s : State) : (holdAt h s).poison = s.poison := rfl
@[simp] theorem holdAt_ramp (h : Hold) (s : State) : (holdAt h s).ramp = s.ramp := rfl
@[simp] theorem holdAt_stops (h : Hold) (s : State) : (holdAt h s).stops = s.stops := rfl
@[simp] theorem holdAt_stopSteps (h : Hold) (s : State) : (holdAt h s).stopSteps = s.stopSteps := rfl
@[simp] theorem holdAt_promos (h : Hold) (s : State) : (holdAt h s).promos = s.promos := rfl
@[simp] theorem holdAt_trust (h : Hold) (s : State) : (holdAt h s).trust = s.trust := rfl

/-! ### Sleeping -/

@[simp] theorem sleepAt_w (h : Hold) (s : State) : (sleepAt h s).w = s.w := rfl
@[simp] theorem sleepAt_blk (h : Hold) (s : State) : (sleepAt h s).blk = s.blk := rfl
@[simp] theorem sleepAt_blocks (h : Hold) (s : State) : (sleepAt h s).blocks = s.blocks := rfl
@[simp] theorem sleepAt_arg (h : Hold) (s : State) : (sleepAt h s).arg = s.arg := rfl
@[simp] theorem sleepAt_agenda (h : Hold) (s : State) : (sleepAt h s).agenda = s.agenda := rfl
@[simp] theorem sleepAt_tick (h : Hold) (s : State) : (sleepAt h s).tick = s.tick := rfl
@[simp] theorem sleepAt_uid (h : Hold) (s : State) : (sleepAt h s).uid = s.uid := rfl
@[simp] theorem sleepAt_cycles (h : Hold) (s : State) : (sleepAt h s).cycles = s.cycles := rfl
@[simp] theorem sleepAt_timeUnits (h : Hold) (s : State) : (sleepAt h s).timeUnits = s.timeUnits := rfl
@[simp] theorem sleepAt_mem (h : Hold) (s : State) : (sleepAt h s).mem = s.mem := rfl
@[simp] theorem sleepAt_l1 (h : Hold) (s : State) : (sleepAt h s).l1 = s.l1 := rfl
@[simp] theorem sleepAt_l2 (h : Hold) (s : State) : (sleepAt h s).l2 = s.l2 := rfl
@[simp] theorem sleepAt_icache (h : Hold) (s : State) : (sleepAt h s).icache = s.icache := rfl
@[simp] theorem sleepAt_split (h : Hold) (s : State) : (sleepAt h s).split = s.split := rfl
@[simp] theorem sleepAt_opc (h : Hold) (s : State) : (sleepAt h s).opc = s.opc := rfl
@[simp] theorem sleepAt_tlb (h : Hold) (s : State) : (sleepAt h s).tlb = s.tlb := rfl
@[simp] theorem sleepAt_wcache (h : Hold) (s : State) : (sleepAt h s).wcache = s.wcache := rfl
@[simp] theorem sleepAt_homes (h : Hold) (s : State) : (sleepAt h s).homes = s.homes := rfl
@[simp] theorem sleepAt_dev (h : Hold) (s : State) : (sleepAt h s).dev = s.dev := rfl
@[simp] theorem sleepAt_poolTable (h : Hold) (s : State) : (sleepAt h s).poolTable = s.poolTable := rfl
@[simp] theorem sleepAt_quotas (h : Hold) (s : State) : (sleepAt h s).quotas = s.quotas := rfl
@[simp] theorem sleepAt_grids (h : Hold) (s : State) : (sleepAt h s).grids = s.grids := rfl
@[simp] theorem sleepAt_ready (h : Hold) (s : State) : (sleepAt h s).ready = s.ready := rfl
@[simp] theorem sleepAt_graphs (h : Hold) (s : State) : (sleepAt h s).graphs = s.graphs := rfl
@[simp] theorem sleepAt_colls (h : Hold) (s : State) : (sleepAt h s).colls = s.colls := rfl
@[simp] theorem sleepAt_kicks (h : Hold) (s : State) : (sleepAt h s).kicks = s.kicks := rfl
@[simp] theorem sleepAt_copies (h : Hold) (s : State) : (sleepAt h s).copies = s.copies := rfl
@[simp] theorem sleepAt_walks (h : Hold) (s : State) : (sleepAt h s).walks = s.walks := rfl
@[simp] theorem sleepAt_queues (h : Hold) (s : State) : (sleepAt h s).queues = s.queues := rfl
@[simp] theorem sleepAt_regions (h : Hold) (s : State) : (sleepAt h s).regions = s.regions := rfl
@[simp] theorem sleepAt_recvq (h : Hold) (s : State) : (sleepAt h s).recvq = s.recvq := rfl
@[simp] theorem sleepAt_sendq (h : Hold) (s : State) : (sleepAt h s).sendq = s.sendq := rfl
@[simp] theorem sleepAt_fw (h : Hold) (s : State) : (sleepAt h s).fw = s.fw := rfl
@[simp] theorem sleepAt_answers (h : Hold) (s : State) : (sleepAt h s).answers = s.answers := rfl
@[simp] theorem sleepAt_poolReqs (h : Hold) (s : State) : (sleepAt h s).poolReqs = s.poolReqs := rfl
@[simp] theorem sleepAt_poolBack (h : Hold) (s : State) : (sleepAt h s).poolBack = s.poolBack := rfl
@[simp] theorem sleepAt_remoteLost (h : Hold) (s : State) : (sleepAt h s).remoteLost = s.remoteLost := rfl
@[simp] theorem sleepAt_qpErrors (h : Hold) (s : State) : (sleepAt h s).qpErrors = s.qpErrors := rfl
@[simp] theorem sleepAt_paused (h : Hold) (s : State) : (sleepAt h s).paused = s.paused := rfl
@[simp] theorem sleepAt_ecn (h : Hold) (s : State) : (sleepAt h s).ecn = s.ecn := rfl
@[simp] theorem sleepAt_outage (h : Hold) (s : State) : (sleepAt h s).outage = s.outage := rfl
@[simp] theorem sleepAt_cutoff (h : Hold) (s : State) : (sleepAt h s).cutoff = s.cutoff := rfl
@[simp] theorem sleepAt_poison (h : Hold) (s : State) : (sleepAt h s).poison = s.poison := rfl
@[simp] theorem sleepAt_ramp (h : Hold) (s : State) : (sleepAt h s).ramp = s.ramp := rfl
@[simp] theorem sleepAt_stops (h : Hold) (s : State) : (sleepAt h s).stops = s.stops := rfl
@[simp] theorem sleepAt_stopSteps (h : Hold) (s : State) : (sleepAt h s).stopSteps = s.stopSteps := rfl
@[simp] theorem sleepAt_promos (h : Hold) (s : State) : (sleepAt h s).promos = s.promos := rfl
@[simp] theorem sleepAt_trust (h : Hold) (s : State) : (sleepAt h s).trust = s.trust := rfl

/-! ### An operand note -/

@[simp] theorem applyNotes_blk (i : Instr) (n : Nat) (s : State) : (applyNotes i n s).blk = s.blk := rfl
@[simp] theorem applyNotes_blocks (i : Instr) (n : Nat) (s : State) : (applyNotes i n s).blocks = s.blocks := rfl
@[simp] theorem applyNotes_arg (i : Instr) (n : Nat) (s : State) : (applyNotes i n s).arg = s.arg := rfl
@[simp] theorem applyNotes_agenda (i : Instr) (n : Nat) (s : State) : (applyNotes i n s).agenda = s.agenda := rfl
@[simp] theorem applyNotes_tick (i : Instr) (n : Nat) (s : State) : (applyNotes i n s).tick = s.tick := rfl
@[simp] theorem applyNotes_uid (i : Instr) (n : Nat) (s : State) : (applyNotes i n s).uid = s.uid := rfl
@[simp] theorem applyNotes_cycles (i : Instr) (n : Nat) (s : State) : (applyNotes i n s).cycles = s.cycles := rfl
@[simp] theorem applyNotes_timeUnits (i : Instr) (n : Nat) (s : State) : (applyNotes i n s).timeUnits = s.timeUnits := rfl
@[simp] theorem applyNotes_mem (i : Instr) (n : Nat) (s : State) : (applyNotes i n s).mem = s.mem := rfl
@[simp] theorem applyNotes_l1 (i : Instr) (n : Nat) (s : State) : (applyNotes i n s).l1 = s.l1 := rfl
@[simp] theorem applyNotes_l2 (i : Instr) (n : Nat) (s : State) : (applyNotes i n s).l2 = s.l2 := rfl
@[simp] theorem applyNotes_icache (i : Instr) (n : Nat) (s : State) : (applyNotes i n s).icache = s.icache := rfl
@[simp] theorem applyNotes_split (i : Instr) (n : Nat) (s : State) : (applyNotes i n s).split = s.split := rfl
@[simp] theorem applyNotes_opc (i : Instr) (n : Nat) (s : State) : (applyNotes i n s).opc = s.opc := rfl
@[simp] theorem applyNotes_tlb (i : Instr) (n : Nat) (s : State) : (applyNotes i n s).tlb = s.tlb := rfl
@[simp] theorem applyNotes_wcache (i : Instr) (n : Nat) (s : State) : (applyNotes i n s).wcache = s.wcache := rfl
@[simp] theorem applyNotes_homes (i : Instr) (n : Nat) (s : State) : (applyNotes i n s).homes = s.homes := rfl
@[simp] theorem applyNotes_dev (i : Instr) (n : Nat) (s : State) : (applyNotes i n s).dev = s.dev := rfl
@[simp] theorem applyNotes_poolTable (i : Instr) (n : Nat) (s : State) : (applyNotes i n s).poolTable = s.poolTable := rfl
@[simp] theorem applyNotes_quotas (i : Instr) (n : Nat) (s : State) : (applyNotes i n s).quotas = s.quotas := rfl
@[simp] theorem applyNotes_grids (i : Instr) (n : Nat) (s : State) : (applyNotes i n s).grids = s.grids := rfl
@[simp] theorem applyNotes_ready (i : Instr) (n : Nat) (s : State) : (applyNotes i n s).ready = s.ready := rfl
@[simp] theorem applyNotes_graphs (i : Instr) (n : Nat) (s : State) : (applyNotes i n s).graphs = s.graphs := rfl
@[simp] theorem applyNotes_colls (i : Instr) (n : Nat) (s : State) : (applyNotes i n s).colls = s.colls := rfl
@[simp] theorem applyNotes_kicks (i : Instr) (n : Nat) (s : State) : (applyNotes i n s).kicks = s.kicks := rfl
@[simp] theorem applyNotes_copies (i : Instr) (n : Nat) (s : State) : (applyNotes i n s).copies = s.copies := rfl
@[simp] theorem applyNotes_walks (i : Instr) (n : Nat) (s : State) : (applyNotes i n s).walks = s.walks := rfl
@[simp] theorem applyNotes_queues (i : Instr) (n : Nat) (s : State) : (applyNotes i n s).queues = s.queues := rfl
@[simp] theorem applyNotes_regions (i : Instr) (n : Nat) (s : State) : (applyNotes i n s).regions = s.regions := rfl
@[simp] theorem applyNotes_recvq (i : Instr) (n : Nat) (s : State) : (applyNotes i n s).recvq = s.recvq := rfl
@[simp] theorem applyNotes_sendq (i : Instr) (n : Nat) (s : State) : (applyNotes i n s).sendq = s.sendq := rfl
@[simp] theorem applyNotes_fw (i : Instr) (n : Nat) (s : State) : (applyNotes i n s).fw = s.fw := rfl
@[simp] theorem applyNotes_answers (i : Instr) (n : Nat) (s : State) : (applyNotes i n s).answers = s.answers := rfl
@[simp] theorem applyNotes_poolReqs (i : Instr) (n : Nat) (s : State) : (applyNotes i n s).poolReqs = s.poolReqs := rfl
@[simp] theorem applyNotes_poolBack (i : Instr) (n : Nat) (s : State) : (applyNotes i n s).poolBack = s.poolBack := rfl
@[simp] theorem applyNotes_remoteLost (i : Instr) (n : Nat) (s : State) : (applyNotes i n s).remoteLost = s.remoteLost := rfl
@[simp] theorem applyNotes_qpErrors (i : Instr) (n : Nat) (s : State) : (applyNotes i n s).qpErrors = s.qpErrors := rfl
@[simp] theorem applyNotes_paused (i : Instr) (n : Nat) (s : State) : (applyNotes i n s).paused = s.paused := rfl
@[simp] theorem applyNotes_ecn (i : Instr) (n : Nat) (s : State) : (applyNotes i n s).ecn = s.ecn := rfl
@[simp] theorem applyNotes_outage (i : Instr) (n : Nat) (s : State) : (applyNotes i n s).outage = s.outage := rfl
@[simp] theorem applyNotes_cutoff (i : Instr) (n : Nat) (s : State) : (applyNotes i n s).cutoff = s.cutoff := rfl
@[simp] theorem applyNotes_poison (i : Instr) (n : Nat) (s : State) : (applyNotes i n s).poison = s.poison := rfl
@[simp] theorem applyNotes_ramp (i : Instr) (n : Nat) (s : State) : (applyNotes i n s).ramp = s.ramp := rfl
@[simp] theorem applyNotes_stops (i : Instr) (n : Nat) (s : State) : (applyNotes i n s).stops = s.stops := rfl
@[simp] theorem applyNotes_stopSteps (i : Instr) (n : Nat) (s : State) : (applyNotes i n s).stopSteps = s.stopSteps := rfl
@[simp] theorem applyNotes_promos (i : Instr) (n : Nat) (s : State) : (applyNotes i n s).promos = s.promos := rfl
@[simp] theorem applyNotes_trust (i : Instr) (n : Nat) (s : State) : (applyNotes i n s).trust = s.trust := rfl

/-! ### Writing physical memory -/

@[simp] theorem physWrite_f (s : State) (pa v n : Nat) : (physWrite s pa v n).f = s.f := rfl
@[simp] theorem physWrite_w (s : State) (pa v n : Nat) : (physWrite s pa v n).w = s.w := rfl
@[simp] theorem physWrite_blk (s : State) (pa v n : Nat) : (physWrite s pa v n).blk = s.blk := rfl
@[simp] theorem physWrite_blocks (s : State) (pa v n : Nat) : (physWrite s pa v n).blocks = s.blocks := rfl
@[simp] theorem physWrite_arg (s : State) (pa v n : Nat) : (physWrite s pa v n).arg = s.arg := rfl
@[simp] theorem physWrite_agenda (s : State) (pa v n : Nat) : (physWrite s pa v n).agenda = s.agenda := rfl
@[simp] theorem physWrite_tick (s : State) (pa v n : Nat) : (physWrite s pa v n).tick = s.tick := rfl
@[simp] theorem physWrite_uid (s : State) (pa v n : Nat) : (physWrite s pa v n).uid = s.uid := rfl
@[simp] theorem physWrite_cycles (s : State) (pa v n : Nat) : (physWrite s pa v n).cycles = s.cycles := rfl
@[simp] theorem physWrite_timeUnits (s : State) (pa v n : Nat) : (physWrite s pa v n).timeUnits = s.timeUnits := rfl
@[simp] theorem physWrite_l1 (s : State) (pa v n : Nat) : (physWrite s pa v n).l1 = s.l1 := rfl
@[simp] theorem physWrite_l2 (s : State) (pa v n : Nat) : (physWrite s pa v n).l2 = s.l2 := rfl
@[simp] theorem physWrite_icache (s : State) (pa v n : Nat) : (physWrite s pa v n).icache = s.icache := rfl
@[simp] theorem physWrite_split (s : State) (pa v n : Nat) : (physWrite s pa v n).split = s.split := rfl
@[simp] theorem physWrite_opc (s : State) (pa v n : Nat) : (physWrite s pa v n).opc = s.opc := rfl
@[simp] theorem physWrite_tlb (s : State) (pa v n : Nat) : (physWrite s pa v n).tlb = s.tlb := rfl
@[simp] theorem physWrite_wcache (s : State) (pa v n : Nat) : (physWrite s pa v n).wcache = s.wcache := rfl
@[simp] theorem physWrite_homes (s : State) (pa v n : Nat) : (physWrite s pa v n).homes = s.homes := rfl
@[simp] theorem physWrite_dev (s : State) (pa v n : Nat) : (physWrite s pa v n).dev = s.dev := rfl
@[simp] theorem physWrite_poolTable (s : State) (pa v n : Nat) : (physWrite s pa v n).poolTable = s.poolTable := rfl
@[simp] theorem physWrite_quotas (s : State) (pa v n : Nat) : (physWrite s pa v n).quotas = s.quotas := rfl
@[simp] theorem physWrite_grids (s : State) (pa v n : Nat) : (physWrite s pa v n).grids = s.grids := rfl
@[simp] theorem physWrite_ready (s : State) (pa v n : Nat) : (physWrite s pa v n).ready = s.ready := rfl
@[simp] theorem physWrite_graphs (s : State) (pa v n : Nat) : (physWrite s pa v n).graphs = s.graphs := rfl
@[simp] theorem physWrite_colls (s : State) (pa v n : Nat) : (physWrite s pa v n).colls = s.colls := rfl
@[simp] theorem physWrite_kicks (s : State) (pa v n : Nat) : (physWrite s pa v n).kicks = s.kicks := rfl
@[simp] theorem physWrite_copies (s : State) (pa v n : Nat) : (physWrite s pa v n).copies = s.copies := rfl
@[simp] theorem physWrite_walks (s : State) (pa v n : Nat) : (physWrite s pa v n).walks = s.walks := rfl
@[simp] theorem physWrite_queues (s : State) (pa v n : Nat) : (physWrite s pa v n).queues = s.queues := rfl
@[simp] theorem physWrite_regions (s : State) (pa v n : Nat) : (physWrite s pa v n).regions = s.regions := rfl
@[simp] theorem physWrite_recvq (s : State) (pa v n : Nat) : (physWrite s pa v n).recvq = s.recvq := rfl
@[simp] theorem physWrite_sendq (s : State) (pa v n : Nat) : (physWrite s pa v n).sendq = s.sendq := rfl
@[simp] theorem physWrite_fw (s : State) (pa v n : Nat) : (physWrite s pa v n).fw = s.fw := rfl
@[simp] theorem physWrite_answers (s : State) (pa v n : Nat) : (physWrite s pa v n).answers = s.answers := rfl
@[simp] theorem physWrite_poolReqs (s : State) (pa v n : Nat) : (physWrite s pa v n).poolReqs = s.poolReqs := rfl
@[simp] theorem physWrite_poolBack (s : State) (pa v n : Nat) : (physWrite s pa v n).poolBack = s.poolBack := rfl
@[simp] theorem physWrite_remoteLost (s : State) (pa v n : Nat) : (physWrite s pa v n).remoteLost = s.remoteLost := rfl
@[simp] theorem physWrite_qpErrors (s : State) (pa v n : Nat) : (physWrite s pa v n).qpErrors = s.qpErrors := rfl
@[simp] theorem physWrite_paused (s : State) (pa v n : Nat) : (physWrite s pa v n).paused = s.paused := rfl
@[simp] theorem physWrite_ecn (s : State) (pa v n : Nat) : (physWrite s pa v n).ecn = s.ecn := rfl
@[simp] theorem physWrite_outage (s : State) (pa v n : Nat) : (physWrite s pa v n).outage = s.outage := rfl
@[simp] theorem physWrite_cutoff (s : State) (pa v n : Nat) : (physWrite s pa v n).cutoff = s.cutoff := rfl
@[simp] theorem physWrite_poison (s : State) (pa v n : Nat) : (physWrite s pa v n).poison = s.poison := rfl
@[simp] theorem physWrite_ramp (s : State) (pa v n : Nat) : (physWrite s pa v n).ramp = s.ramp := rfl
@[simp] theorem physWrite_stops (s : State) (pa v n : Nat) : (physWrite s pa v n).stops = s.stops := rfl
@[simp] theorem physWrite_stopSteps (s : State) (pa v n : Nat) : (physWrite s pa v n).stopSteps = s.stopSteps := rfl
@[simp] theorem physWrite_promos (s : State) (pa v n : Nat) : (physWrite s pa v n).promos = s.promos := rfl
@[simp] theorem physWrite_trust (s : State) (pa v n : Nat) : (physWrite s pa v n).trust = s.trust := rfl

/-! ### Replacing a line of an L1 half -/

@[simp] theorem l1Keep_f (s : State) (x : L1Line) : (l1Keep s x).f = s.f := rfl
@[simp] theorem l1Keep_w (s : State) (x : L1Line) : (l1Keep s x).w = s.w := rfl
@[simp] theorem l1Keep_blk (s : State) (x : L1Line) : (l1Keep s x).blk = s.blk := rfl
@[simp] theorem l1Keep_blocks (s : State) (x : L1Line) : (l1Keep s x).blocks = s.blocks := rfl
@[simp] theorem l1Keep_arg (s : State) (x : L1Line) : (l1Keep s x).arg = s.arg := rfl
@[simp] theorem l1Keep_agenda (s : State) (x : L1Line) : (l1Keep s x).agenda = s.agenda := rfl
@[simp] theorem l1Keep_tick (s : State) (x : L1Line) : (l1Keep s x).tick = s.tick := rfl
@[simp] theorem l1Keep_uid (s : State) (x : L1Line) : (l1Keep s x).uid = s.uid := rfl
@[simp] theorem l1Keep_cycles (s : State) (x : L1Line) : (l1Keep s x).cycles = s.cycles := rfl
@[simp] theorem l1Keep_timeUnits (s : State) (x : L1Line) : (l1Keep s x).timeUnits = s.timeUnits := rfl
@[simp] theorem l1Keep_mem (s : State) (x : L1Line) : (l1Keep s x).mem = s.mem := rfl
@[simp] theorem l1Keep_l2 (s : State) (x : L1Line) : (l1Keep s x).l2 = s.l2 := rfl
@[simp] theorem l1Keep_icache (s : State) (x : L1Line) : (l1Keep s x).icache = s.icache := rfl
@[simp] theorem l1Keep_split (s : State) (x : L1Line) : (l1Keep s x).split = s.split := rfl
@[simp] theorem l1Keep_opc (s : State) (x : L1Line) : (l1Keep s x).opc = s.opc := rfl
@[simp] theorem l1Keep_tlb (s : State) (x : L1Line) : (l1Keep s x).tlb = s.tlb := rfl
@[simp] theorem l1Keep_wcache (s : State) (x : L1Line) : (l1Keep s x).wcache = s.wcache := rfl
@[simp] theorem l1Keep_homes (s : State) (x : L1Line) : (l1Keep s x).homes = s.homes := rfl
@[simp] theorem l1Keep_dev (s : State) (x : L1Line) : (l1Keep s x).dev = s.dev := rfl
@[simp] theorem l1Keep_poolTable (s : State) (x : L1Line) : (l1Keep s x).poolTable = s.poolTable := rfl
@[simp] theorem l1Keep_quotas (s : State) (x : L1Line) : (l1Keep s x).quotas = s.quotas := rfl
@[simp] theorem l1Keep_grids (s : State) (x : L1Line) : (l1Keep s x).grids = s.grids := rfl
@[simp] theorem l1Keep_ready (s : State) (x : L1Line) : (l1Keep s x).ready = s.ready := rfl
@[simp] theorem l1Keep_graphs (s : State) (x : L1Line) : (l1Keep s x).graphs = s.graphs := rfl
@[simp] theorem l1Keep_colls (s : State) (x : L1Line) : (l1Keep s x).colls = s.colls := rfl
@[simp] theorem l1Keep_kicks (s : State) (x : L1Line) : (l1Keep s x).kicks = s.kicks := rfl
@[simp] theorem l1Keep_copies (s : State) (x : L1Line) : (l1Keep s x).copies = s.copies := rfl
@[simp] theorem l1Keep_walks (s : State) (x : L1Line) : (l1Keep s x).walks = s.walks := rfl
@[simp] theorem l1Keep_queues (s : State) (x : L1Line) : (l1Keep s x).queues = s.queues := rfl
@[simp] theorem l1Keep_regions (s : State) (x : L1Line) : (l1Keep s x).regions = s.regions := rfl
@[simp] theorem l1Keep_recvq (s : State) (x : L1Line) : (l1Keep s x).recvq = s.recvq := rfl
@[simp] theorem l1Keep_sendq (s : State) (x : L1Line) : (l1Keep s x).sendq = s.sendq := rfl
@[simp] theorem l1Keep_fw (s : State) (x : L1Line) : (l1Keep s x).fw = s.fw := rfl
@[simp] theorem l1Keep_answers (s : State) (x : L1Line) : (l1Keep s x).answers = s.answers := rfl
@[simp] theorem l1Keep_poolReqs (s : State) (x : L1Line) : (l1Keep s x).poolReqs = s.poolReqs := rfl
@[simp] theorem l1Keep_poolBack (s : State) (x : L1Line) : (l1Keep s x).poolBack = s.poolBack := rfl
@[simp] theorem l1Keep_remoteLost (s : State) (x : L1Line) : (l1Keep s x).remoteLost = s.remoteLost := rfl
@[simp] theorem l1Keep_qpErrors (s : State) (x : L1Line) : (l1Keep s x).qpErrors = s.qpErrors := rfl
@[simp] theorem l1Keep_paused (s : State) (x : L1Line) : (l1Keep s x).paused = s.paused := rfl
@[simp] theorem l1Keep_ecn (s : State) (x : L1Line) : (l1Keep s x).ecn = s.ecn := rfl
@[simp] theorem l1Keep_outage (s : State) (x : L1Line) : (l1Keep s x).outage = s.outage := rfl
@[simp] theorem l1Keep_cutoff (s : State) (x : L1Line) : (l1Keep s x).cutoff = s.cutoff := rfl
@[simp] theorem l1Keep_poison (s : State) (x : L1Line) : (l1Keep s x).poison = s.poison := rfl
@[simp] theorem l1Keep_ramp (s : State) (x : L1Line) : (l1Keep s x).ramp = s.ramp := rfl
@[simp] theorem l1Keep_stops (s : State) (x : L1Line) : (l1Keep s x).stops = s.stops := rfl
@[simp] theorem l1Keep_stopSteps (s : State) (x : L1Line) : (l1Keep s x).stopSteps = s.stopSteps := rfl
@[simp] theorem l1Keep_promos (s : State) (x : L1Line) : (l1Keep s x).promos = s.promos := rfl
@[simp] theorem l1Keep_trust (s : State) (x : L1Line) : (l1Keep s x).trust = s.trust := rfl

/-! ### Dropping a line from an L1 half -/

@[simp] theorem l1Drop_f (s : State) (h a la : Nat) : (l1Drop s h a la).f = s.f := rfl
@[simp] theorem l1Drop_w (s : State) (h a la : Nat) : (l1Drop s h a la).w = s.w := rfl
@[simp] theorem l1Drop_blk (s : State) (h a la : Nat) : (l1Drop s h a la).blk = s.blk := rfl
@[simp] theorem l1Drop_blocks (s : State) (h a la : Nat) : (l1Drop s h a la).blocks = s.blocks := rfl
@[simp] theorem l1Drop_arg (s : State) (h a la : Nat) : (l1Drop s h a la).arg = s.arg := rfl
@[simp] theorem l1Drop_agenda (s : State) (h a la : Nat) : (l1Drop s h a la).agenda = s.agenda := rfl
@[simp] theorem l1Drop_tick (s : State) (h a la : Nat) : (l1Drop s h a la).tick = s.tick := rfl
@[simp] theorem l1Drop_uid (s : State) (h a la : Nat) : (l1Drop s h a la).uid = s.uid := rfl
@[simp] theorem l1Drop_cycles (s : State) (h a la : Nat) : (l1Drop s h a la).cycles = s.cycles := rfl
@[simp] theorem l1Drop_timeUnits (s : State) (h a la : Nat) : (l1Drop s h a la).timeUnits = s.timeUnits := rfl
@[simp] theorem l1Drop_mem (s : State) (h a la : Nat) : (l1Drop s h a la).mem = s.mem := rfl
@[simp] theorem l1Drop_l2 (s : State) (h a la : Nat) : (l1Drop s h a la).l2 = s.l2 := rfl
@[simp] theorem l1Drop_icache (s : State) (h a la : Nat) : (l1Drop s h a la).icache = s.icache := rfl
@[simp] theorem l1Drop_split (s : State) (h a la : Nat) : (l1Drop s h a la).split = s.split := rfl
@[simp] theorem l1Drop_opc (s : State) (h a la : Nat) : (l1Drop s h a la).opc = s.opc := rfl
@[simp] theorem l1Drop_tlb (s : State) (h a la : Nat) : (l1Drop s h a la).tlb = s.tlb := rfl
@[simp] theorem l1Drop_wcache (s : State) (h a la : Nat) : (l1Drop s h a la).wcache = s.wcache := rfl
@[simp] theorem l1Drop_homes (s : State) (h a la : Nat) : (l1Drop s h a la).homes = s.homes := rfl
@[simp] theorem l1Drop_dev (s : State) (h a la : Nat) : (l1Drop s h a la).dev = s.dev := rfl
@[simp] theorem l1Drop_poolTable (s : State) (h a la : Nat) : (l1Drop s h a la).poolTable = s.poolTable := rfl
@[simp] theorem l1Drop_quotas (s : State) (h a la : Nat) : (l1Drop s h a la).quotas = s.quotas := rfl
@[simp] theorem l1Drop_grids (s : State) (h a la : Nat) : (l1Drop s h a la).grids = s.grids := rfl
@[simp] theorem l1Drop_ready (s : State) (h a la : Nat) : (l1Drop s h a la).ready = s.ready := rfl
@[simp] theorem l1Drop_graphs (s : State) (h a la : Nat) : (l1Drop s h a la).graphs = s.graphs := rfl
@[simp] theorem l1Drop_colls (s : State) (h a la : Nat) : (l1Drop s h a la).colls = s.colls := rfl
@[simp] theorem l1Drop_kicks (s : State) (h a la : Nat) : (l1Drop s h a la).kicks = s.kicks := rfl
@[simp] theorem l1Drop_copies (s : State) (h a la : Nat) : (l1Drop s h a la).copies = s.copies := rfl
@[simp] theorem l1Drop_walks (s : State) (h a la : Nat) : (l1Drop s h a la).walks = s.walks := rfl
@[simp] theorem l1Drop_queues (s : State) (h a la : Nat) : (l1Drop s h a la).queues = s.queues := rfl
@[simp] theorem l1Drop_regions (s : State) (h a la : Nat) : (l1Drop s h a la).regions = s.regions := rfl
@[simp] theorem l1Drop_recvq (s : State) (h a la : Nat) : (l1Drop s h a la).recvq = s.recvq := rfl
@[simp] theorem l1Drop_sendq (s : State) (h a la : Nat) : (l1Drop s h a la).sendq = s.sendq := rfl
@[simp] theorem l1Drop_fw (s : State) (h a la : Nat) : (l1Drop s h a la).fw = s.fw := rfl
@[simp] theorem l1Drop_answers (s : State) (h a la : Nat) : (l1Drop s h a la).answers = s.answers := rfl
@[simp] theorem l1Drop_poolReqs (s : State) (h a la : Nat) : (l1Drop s h a la).poolReqs = s.poolReqs := rfl
@[simp] theorem l1Drop_poolBack (s : State) (h a la : Nat) : (l1Drop s h a la).poolBack = s.poolBack := rfl
@[simp] theorem l1Drop_remoteLost (s : State) (h a la : Nat) : (l1Drop s h a la).remoteLost = s.remoteLost := rfl
@[simp] theorem l1Drop_qpErrors (s : State) (h a la : Nat) : (l1Drop s h a la).qpErrors = s.qpErrors := rfl
@[simp] theorem l1Drop_paused (s : State) (h a la : Nat) : (l1Drop s h a la).paused = s.paused := rfl
@[simp] theorem l1Drop_ecn (s : State) (h a la : Nat) : (l1Drop s h a la).ecn = s.ecn := rfl
@[simp] theorem l1Drop_outage (s : State) (h a la : Nat) : (l1Drop s h a la).outage = s.outage := rfl
@[simp] theorem l1Drop_cutoff (s : State) (h a la : Nat) : (l1Drop s h a la).cutoff = s.cutoff := rfl
@[simp] theorem l1Drop_poison (s : State) (h a la : Nat) : (l1Drop s h a la).poison = s.poison := rfl
@[simp] theorem l1Drop_ramp (s : State) (h a la : Nat) : (l1Drop s h a la).ramp = s.ramp := rfl
@[simp] theorem l1Drop_stops (s : State) (h a la : Nat) : (l1Drop s h a la).stops = s.stops := rfl
@[simp] theorem l1Drop_stopSteps (s : State) (h a la : Nat) : (l1Drop s h a la).stopSteps = s.stopSteps := rfl
@[simp] theorem l1Drop_promos (s : State) (h a la : Nat) : (l1Drop s h a la).promos = s.promos := rfl
@[simp] theorem l1Drop_trust (s : State) (h a la : Nat) : (l1Drop s h a la).trust = s.trust := rfl

/-! ### Dropping a line from L2 -/

@[simp] theorem l2Drop_f (s : State) (a la : Nat) : (l2Drop s a la).f = s.f := rfl
@[simp] theorem l2Drop_w (s : State) (a la : Nat) : (l2Drop s a la).w = s.w := rfl
@[simp] theorem l2Drop_blk (s : State) (a la : Nat) : (l2Drop s a la).blk = s.blk := rfl
@[simp] theorem l2Drop_blocks (s : State) (a la : Nat) : (l2Drop s a la).blocks = s.blocks := rfl
@[simp] theorem l2Drop_arg (s : State) (a la : Nat) : (l2Drop s a la).arg = s.arg := rfl
@[simp] theorem l2Drop_agenda (s : State) (a la : Nat) : (l2Drop s a la).agenda = s.agenda := rfl
@[simp] theorem l2Drop_tick (s : State) (a la : Nat) : (l2Drop s a la).tick = s.tick := rfl
@[simp] theorem l2Drop_uid (s : State) (a la : Nat) : (l2Drop s a la).uid = s.uid := rfl
@[simp] theorem l2Drop_cycles (s : State) (a la : Nat) : (l2Drop s a la).cycles = s.cycles := rfl
@[simp] theorem l2Drop_timeUnits (s : State) (a la : Nat) : (l2Drop s a la).timeUnits = s.timeUnits := rfl
@[simp] theorem l2Drop_mem (s : State) (a la : Nat) : (l2Drop s a la).mem = s.mem := rfl
@[simp] theorem l2Drop_l1 (s : State) (a la : Nat) : (l2Drop s a la).l1 = s.l1 := rfl
@[simp] theorem l2Drop_icache (s : State) (a la : Nat) : (l2Drop s a la).icache = s.icache := rfl
@[simp] theorem l2Drop_split (s : State) (a la : Nat) : (l2Drop s a la).split = s.split := rfl
@[simp] theorem l2Drop_opc (s : State) (a la : Nat) : (l2Drop s a la).opc = s.opc := rfl
@[simp] theorem l2Drop_tlb (s : State) (a la : Nat) : (l2Drop s a la).tlb = s.tlb := rfl
@[simp] theorem l2Drop_wcache (s : State) (a la : Nat) : (l2Drop s a la).wcache = s.wcache := rfl
@[simp] theorem l2Drop_homes (s : State) (a la : Nat) : (l2Drop s a la).homes = s.homes := rfl
@[simp] theorem l2Drop_dev (s : State) (a la : Nat) : (l2Drop s a la).dev = s.dev := rfl
@[simp] theorem l2Drop_poolTable (s : State) (a la : Nat) : (l2Drop s a la).poolTable = s.poolTable := rfl
@[simp] theorem l2Drop_quotas (s : State) (a la : Nat) : (l2Drop s a la).quotas = s.quotas := rfl
@[simp] theorem l2Drop_grids (s : State) (a la : Nat) : (l2Drop s a la).grids = s.grids := rfl
@[simp] theorem l2Drop_ready (s : State) (a la : Nat) : (l2Drop s a la).ready = s.ready := rfl
@[simp] theorem l2Drop_graphs (s : State) (a la : Nat) : (l2Drop s a la).graphs = s.graphs := rfl
@[simp] theorem l2Drop_colls (s : State) (a la : Nat) : (l2Drop s a la).colls = s.colls := rfl
@[simp] theorem l2Drop_kicks (s : State) (a la : Nat) : (l2Drop s a la).kicks = s.kicks := rfl
@[simp] theorem l2Drop_copies (s : State) (a la : Nat) : (l2Drop s a la).copies = s.copies := rfl
@[simp] theorem l2Drop_walks (s : State) (a la : Nat) : (l2Drop s a la).walks = s.walks := rfl
@[simp] theorem l2Drop_queues (s : State) (a la : Nat) : (l2Drop s a la).queues = s.queues := rfl
@[simp] theorem l2Drop_regions (s : State) (a la : Nat) : (l2Drop s a la).regions = s.regions := rfl
@[simp] theorem l2Drop_recvq (s : State) (a la : Nat) : (l2Drop s a la).recvq = s.recvq := rfl
@[simp] theorem l2Drop_sendq (s : State) (a la : Nat) : (l2Drop s a la).sendq = s.sendq := rfl
@[simp] theorem l2Drop_fw (s : State) (a la : Nat) : (l2Drop s a la).fw = s.fw := rfl
@[simp] theorem l2Drop_answers (s : State) (a la : Nat) : (l2Drop s a la).answers = s.answers := rfl
@[simp] theorem l2Drop_poolReqs (s : State) (a la : Nat) : (l2Drop s a la).poolReqs = s.poolReqs := rfl
@[simp] theorem l2Drop_poolBack (s : State) (a la : Nat) : (l2Drop s a la).poolBack = s.poolBack := rfl
@[simp] theorem l2Drop_remoteLost (s : State) (a la : Nat) : (l2Drop s a la).remoteLost = s.remoteLost := rfl
@[simp] theorem l2Drop_qpErrors (s : State) (a la : Nat) : (l2Drop s a la).qpErrors = s.qpErrors := rfl
@[simp] theorem l2Drop_paused (s : State) (a la : Nat) : (l2Drop s a la).paused = s.paused := rfl
@[simp] theorem l2Drop_ecn (s : State) (a la : Nat) : (l2Drop s a la).ecn = s.ecn := rfl
@[simp] theorem l2Drop_outage (s : State) (a la : Nat) : (l2Drop s a la).outage = s.outage := rfl
@[simp] theorem l2Drop_cutoff (s : State) (a la : Nat) : (l2Drop s a la).cutoff = s.cutoff := rfl
@[simp] theorem l2Drop_poison (s : State) (a la : Nat) : (l2Drop s a la).poison = s.poison := rfl
@[simp] theorem l2Drop_ramp (s : State) (a la : Nat) : (l2Drop s a la).ramp = s.ramp := rfl
@[simp] theorem l2Drop_stops (s : State) (a la : Nat) : (l2Drop s a la).stops = s.stops := rfl
@[simp] theorem l2Drop_stopSteps (s : State) (a la : Nat) : (l2Drop s a la).stopSteps = s.stopSteps := rfl
@[simp] theorem l2Drop_promos (s : State) (a la : Nat) : (l2Drop s a la).promos = s.promos := rfl
@[simp] theorem l2Drop_trust (s : State) (a la : Nat) : (l2Drop s a la).trust = s.trust := rfl

/-! ### Dropping clean lines -/

@[simp] theorem dropClean_f (s : State) (p : L1Line → Bool) : (dropClean s p).f = s.f := rfl
@[simp] theorem dropClean_w (s : State) (p : L1Line → Bool) : (dropClean s p).w = s.w := rfl
@[simp] theorem dropClean_blk (s : State) (p : L1Line → Bool) : (dropClean s p).blk = s.blk := rfl
@[simp] theorem dropClean_blocks (s : State) (p : L1Line → Bool) : (dropClean s p).blocks = s.blocks := rfl
@[simp] theorem dropClean_arg (s : State) (p : L1Line → Bool) : (dropClean s p).arg = s.arg := rfl
@[simp] theorem dropClean_agenda (s : State) (p : L1Line → Bool) : (dropClean s p).agenda = s.agenda := rfl
@[simp] theorem dropClean_tick (s : State) (p : L1Line → Bool) : (dropClean s p).tick = s.tick := rfl
@[simp] theorem dropClean_uid (s : State) (p : L1Line → Bool) : (dropClean s p).uid = s.uid := rfl
@[simp] theorem dropClean_cycles (s : State) (p : L1Line → Bool) : (dropClean s p).cycles = s.cycles := rfl
@[simp] theorem dropClean_timeUnits (s : State) (p : L1Line → Bool) : (dropClean s p).timeUnits = s.timeUnits := rfl
@[simp] theorem dropClean_mem (s : State) (p : L1Line → Bool) : (dropClean s p).mem = s.mem := rfl
@[simp] theorem dropClean_l2 (s : State) (p : L1Line → Bool) : (dropClean s p).l2 = s.l2 := rfl
@[simp] theorem dropClean_icache (s : State) (p : L1Line → Bool) : (dropClean s p).icache = s.icache := rfl
@[simp] theorem dropClean_split (s : State) (p : L1Line → Bool) : (dropClean s p).split = s.split := rfl
@[simp] theorem dropClean_opc (s : State) (p : L1Line → Bool) : (dropClean s p).opc = s.opc := rfl
@[simp] theorem dropClean_tlb (s : State) (p : L1Line → Bool) : (dropClean s p).tlb = s.tlb := rfl
@[simp] theorem dropClean_wcache (s : State) (p : L1Line → Bool) : (dropClean s p).wcache = s.wcache := rfl
@[simp] theorem dropClean_homes (s : State) (p : L1Line → Bool) : (dropClean s p).homes = s.homes := rfl
@[simp] theorem dropClean_dev (s : State) (p : L1Line → Bool) : (dropClean s p).dev = s.dev := rfl
@[simp] theorem dropClean_poolTable (s : State) (p : L1Line → Bool) : (dropClean s p).poolTable = s.poolTable := rfl
@[simp] theorem dropClean_quotas (s : State) (p : L1Line → Bool) : (dropClean s p).quotas = s.quotas := rfl
@[simp] theorem dropClean_grids (s : State) (p : L1Line → Bool) : (dropClean s p).grids = s.grids := rfl
@[simp] theorem dropClean_ready (s : State) (p : L1Line → Bool) : (dropClean s p).ready = s.ready := rfl
@[simp] theorem dropClean_graphs (s : State) (p : L1Line → Bool) : (dropClean s p).graphs = s.graphs := rfl
@[simp] theorem dropClean_colls (s : State) (p : L1Line → Bool) : (dropClean s p).colls = s.colls := rfl
@[simp] theorem dropClean_kicks (s : State) (p : L1Line → Bool) : (dropClean s p).kicks = s.kicks := rfl
@[simp] theorem dropClean_copies (s : State) (p : L1Line → Bool) : (dropClean s p).copies = s.copies := rfl
@[simp] theorem dropClean_walks (s : State) (p : L1Line → Bool) : (dropClean s p).walks = s.walks := rfl
@[simp] theorem dropClean_queues (s : State) (p : L1Line → Bool) : (dropClean s p).queues = s.queues := rfl
@[simp] theorem dropClean_regions (s : State) (p : L1Line → Bool) : (dropClean s p).regions = s.regions := rfl
@[simp] theorem dropClean_recvq (s : State) (p : L1Line → Bool) : (dropClean s p).recvq = s.recvq := rfl
@[simp] theorem dropClean_sendq (s : State) (p : L1Line → Bool) : (dropClean s p).sendq = s.sendq := rfl
@[simp] theorem dropClean_fw (s : State) (p : L1Line → Bool) : (dropClean s p).fw = s.fw := rfl
@[simp] theorem dropClean_answers (s : State) (p : L1Line → Bool) : (dropClean s p).answers = s.answers := rfl
@[simp] theorem dropClean_poolReqs (s : State) (p : L1Line → Bool) : (dropClean s p).poolReqs = s.poolReqs := rfl
@[simp] theorem dropClean_poolBack (s : State) (p : L1Line → Bool) : (dropClean s p).poolBack = s.poolBack := rfl
@[simp] theorem dropClean_remoteLost (s : State) (p : L1Line → Bool) : (dropClean s p).remoteLost = s.remoteLost := rfl
@[simp] theorem dropClean_qpErrors (s : State) (p : L1Line → Bool) : (dropClean s p).qpErrors = s.qpErrors := rfl
@[simp] theorem dropClean_paused (s : State) (p : L1Line → Bool) : (dropClean s p).paused = s.paused := rfl
@[simp] theorem dropClean_ecn (s : State) (p : L1Line → Bool) : (dropClean s p).ecn = s.ecn := rfl
@[simp] theorem dropClean_outage (s : State) (p : L1Line → Bool) : (dropClean s p).outage = s.outage := rfl
@[simp] theorem dropClean_cutoff (s : State) (p : L1Line → Bool) : (dropClean s p).cutoff = s.cutoff := rfl
@[simp] theorem dropClean_poison (s : State) (p : L1Line → Bool) : (dropClean s p).poison = s.poison := rfl
@[simp] theorem dropClean_ramp (s : State) (p : L1Line → Bool) : (dropClean s p).ramp = s.ramp := rfl
@[simp] theorem dropClean_stops (s : State) (p : L1Line → Bool) : (dropClean s p).stops = s.stops := rfl
@[simp] theorem dropClean_stopSteps (s : State) (p : L1Line → Bool) : (dropClean s p).stopSteps = s.stopSteps := rfl
@[simp] theorem dropClean_promos (s : State) (p : L1Line → Bool) : (dropClean s p).promos = s.promos := rfl
@[simp] theorem dropClean_trust (s : State) (p : L1Line → Bool) : (dropClean s p).trust = s.trust := rfl

@[simp] theorem advance_pc (s : State) : (advance s).f.pc = nextPc s.f := rfl
@[simp] theorem advance_inClause (s : State) : (advance s).f.inClause = !lastWord s.f := rfl
@[simp] theorem jump_pc (s : State) (a : W64) : (jump s a).f.pc = a := rfl
@[simp] theorem jump_inClause (s : State) (a : W64) : (jump s a).f.inClause = false := rfl
@[simp] theorem holdAt_hold (h : Hold) (s : State) : (holdAt h s).f.hold = h := rfl
@[simp] theorem sleepAt_hold (h : Hold) (s : State) : (sleepAt h s).f.hold = h := rfl
@[simp] theorem sleepAt_st (h : Hold) (s : State) : (sleepAt h s).f.st = .sleeping := rfl
@[simp] theorem physWrite_mem (s : State) (pa v n : Nat) :
    (physWrite s pa v n).mem = Cells.store s.mem (redirect s pa) v n := rfl

@[simp] theorem applyNotes_f_ent (i : Instr) (n : Nat) (s : State) : (applyNotes i n s).f.ent = s.f.ent := rfl
@[simp] theorem applyNotes_f_mask (i : Instr) (n : Nat) (s : State) : (applyNotes i n s).f.mask = s.f.mask := rfl
@[simp] theorem applyNotes_f_exp (i : Instr) (n : Nat) (s : State) : (applyNotes i n s).f.exp = s.f.exp := rfl
@[simp] theorem applyNotes_f_nw (i : Instr) (n : Nat) (s : State) : (applyNotes i n s).f.nw = s.f.nw := rfl
@[simp] theorem applyNotes_f_pc (i : Instr) (n : Nat) (s : State) : (applyNotes i n s).f.pc = s.f.pc := rfl
@[simp] theorem applyNotes_f_hdr (i : Instr) (n : Nat) (s : State) : (applyNotes i n s).f.hdr = s.f.hdr := rfl
@[simp] theorem applyNotes_f_inClause (i : Instr) (n : Nat) (s : State) : (applyNotes i n s).f.inClause = s.f.inClause := rfl
@[simp] theorem applyNotes_f_h0 (i : Instr) (n : Nat) (s : State) : (applyNotes i n s).f.h0 = s.f.h0 := rfl
@[simp] theorem applyNotes_f_h1 (i : Instr) (n : Nat) (s : State) : (applyNotes i n s).f.h1 = s.f.h1 := rfl
@[simp] theorem applyNotes_f_mode (i : Instr) (n : Nat) (s : State) : (applyNotes i n s).f.mode = s.f.mode := rfl
@[simp] theorem applyNotes_f_sup (i : Instr) (n : Nat) (s : State) : (applyNotes i n s).f.sup = s.f.sup := rfl
@[simp] theorem applyNotes_f_level (i : Instr) (n : Nat) (s : State) : (applyNotes i n s).f.level = s.f.level := rfl
@[simp] theorem applyNotes_f_wave (i : Instr) (n : Nat) (s : State) : (applyNotes i n s).f.wave = s.f.wave := rfl
@[simp] theorem applyNotes_f_replay (i : Instr) (n : Nat) (s : State) : (applyNotes i n s).f.replay = s.f.replay := rfl
@[simp] theorem applyNotes_f_more (i : Instr) (n : Nat) (s : State) : (applyNotes i n s).f.more = s.f.more := rfl
@[simp] theorem applyNotes_w_v (i : Instr) (n : Nat) (s : State) : (applyNotes i n s).w.v = s.w.v := rfl
@[simp] theorem applyNotes_w_s (i : Instr) (n : Nat) (s : State) : (applyNotes i n s).w.s = s.w.s := rfl
@[simp] theorem applyNotes_w_p (i : Instr) (n : Nat) (s : State) : (applyNotes i n s).w.p = s.w.p := rfl
@[simp] theorem applyNotes_w_pend (i : Instr) (n : Nat) (s : State) : (applyNotes i n s).w.pend = s.w.pend := rfl
@[simp] theorem applyNotes_w_allot (i : Instr) (n : Nat) (s : State) : (applyNotes i n s).w.allot = s.w.allot := rfl
@[simp] theorem applyNotes_w_exps (i : Instr) (n : Nat) (s : State) : (applyNotes i n s).w.exps = s.w.exps := rfl
@[simp] theorem applyNotes_w_jst (i : Instr) (n : Nat) (s : State) : (applyNotes i n s).w.jst = s.w.jst := rfl
@[simp] theorem applyNotes_w_frags (i : Instr) (n : Nat) (s : State) : (applyNotes i n s).w.frags = s.w.frags := rfl
@[simp] theorem applyNotes_w_launched (i : Instr) (n : Nat) (s : State) : (applyNotes i n s).w.launched = s.w.launched := rfl
@[simp] theorem applyNotes_w_exited (i : Instr) (n : Nat) (s : State) : (applyNotes i n s).w.exited = s.w.exited := rfl
@[simp] theorem applyNotes_w_handler (i : Instr) (n : Nat) (s : State) : (applyNotes i n s).w.handler = s.w.handler := rfl
@[simp] theorem applyNotes_w_faultq (i : Instr) (n : Nat) (s : State) : (applyNotes i n s).w.faultq = s.w.faultq := rfl

end Sys2Proof.Machine
end

