-- ==== Sys2Proof/Laws/Regs.lean ====
section
/-!
SUPPORT. What the register operations can do, once each: which fields a write changes, and what the fragment finds in
its core's file after it.
-/
namespace Sys2Proof.Machine

/-! ### Kept values -/

theorem lookup_filter_ne {α : Type} (k j : Nat) (l : List (Nat × α)) :
    lookup j (l.filter (fun p => p.1 != k)) = if j = k then none else lookup j l := by
  induction l with
  | nil => simp [lookup]
  | cons p r ih =>
    obtain ⟨a, v⟩ := p
    by_cases h : a = k
    · subst h
      simp only [List.filter_cons, bne_self_eq_false, Bool.false_eq_true, ↓reduceIte, ih, lookup]
      split <;> simp_all [eq_comm]
    · simp only [List.filter_cons, bne_iff_ne, ne_eq, h, not_false_eq_true, ↓reduceIte, lookup, ih]
      split <;> simp_all

/-- What stands under a key after a value is kept. -/
theorem lookup_keep {α : Type} (k : Nat) (v : α) (l : List (Nat × α)) (j : Nat) :
    lookup j (keep k v l) = if j = k then some v else lookup j l := by
  simp only [keep, lookup, lookup_filter_ne]
  by_cases h : j = k
  · subst h; simp
  · simp [h, Ne.symm h]

/-- Values of one narrow warp have keys of their own. -/
@[simp] theorem viewKey_inj (n k j : Nat) : viewKey n k = viewKey n j ↔ k = j := by unfold viewKey; omega

/-! ### Exports -/

/-- A change that keeps the identifiers of the warp's exports keeps which one is found by its identifier. -/
theorem find_map_id (l : List Export) (u : Export → Export) (hu : ∀ e, (u e).id = e.id) (y : Nat) :
    (l.map u).find? (fun e => e.id == y) = (l.find? (fun e => e.id == y)).map u := by
  rw [List.find?_map]
  congr 2
  funext e
  simp [hu]

/-- The fragment's export after a change of the warp's exports that keeps their identifiers. -/
theorem exportOf_map {s t : State} (u : Export → Export) (hf : t.f.exp = s.f.exp) (he : t.w.exps = s.w.exps.map u)
    (hu : ∀ e, (u e).id = e.id) : exportOf t = (exportOf s).map u := by
  unfold exportOf
  rw [hf, he]
  cases s.f.exp with
  | none => rfl
  | some y => exact find_map_id s.w.exps u hu y

/-- Only exports of the warp change. -/
theorem updExport_frame (s : State) (x : Nat) (u : Export → Export) :
    updExport s x u = { s with w := { s.w with exps := (updExport s x u).w.exps } } := rfl

theorem exportOf_updExport (s : State) (x : Nat) (u : Export → Export) (hu : ∀ e, (u e).id = e.id) :
    exportOf (updExport s x u) = (exportOf s).map (fun (e : Export) => if e.id == x then u e else e) :=
  exportOf_map _ rfl rfl (fun e => by split <;> simp [hu])

/-- A fragment in place finds the warp's own file. -/
theorem fileLane_inPlace {s : State} (h : s.f.exp = none) (k : Nat) : fileLane s k = Cells.get s.w.v k := by
  simp [fileLane, exportOf, h]

theorem filePred_inPlace {s : State} (h : s.f.exp = none) (p l : Nat) : filePred s p l = (Cells.get s.w.p p).getLsbD l := by
  simp [filePred, exportOf, h]

/-! ### Vector registers -/

/-- Writing a register lane from a seat changes the registers and the exports of the warp at the front. -/
theorem putLane_frame (me : Option (Nat × Nat)) (k : Nat) (v : W32) (s : State) :
    putLane me k v s = { s with w := { s.w with v := (putLane me k v s).w.v, exps := (putLane me k v s).w.exps } } := by
  unfold putLane
  dsimp only
  split
  · rfl
  · split
    · split <;> rfl
    · rfl

/-- A write from a fragment in place reaches the warp's file. -/
theorem putLane_v (k : Nat) (v : W32) (s : State) : (putLane none k v s).w.v = Cells.set s.w.v k v := by
  unfold putLane
  dsimp only
  split <;> rfl

/-- Writing a register lane changes the registers, the last-read marks and the exports of the warp at the front. -/
theorem writeLane_frame (s : State) (r l : Nat) (v : W32) :
    writeLane s r l v = { s with w := { s.w with v := (writeLane s r l v).w.v, lastRead := (writeLane s r l v).w.lastRead,
                                                 exps := (writeLane s r l v).w.exps } } := by
  unfold writeLane
  rw [putLane_frame]
  rfl

theorem writeLane_lastRead (s : State) (r l : Nat) (v : W32) :
    (writeLane s r l v).w.lastRead = s.w.lastRead.filter (· != regKey r l) := by
  unfold writeLane
  rw [putLane_frame]
  rfl

/-- For a fragment in place, a written register lane holds the value, and every other one what it held. -/
theorem fileLane_writeLane_inPlace (s : State) (r l : Nat) (v : W32) (k : Nat) (h : s.f.exp = none) :
    fileLane (writeLane s r l v) k = if k = regKey r l then v else fileLane s k := by
  have hf : (writeLane s r l v).f.exp = none := by rw [writeLane_frame]; exact h
  have hv : (writeLane s r l v).w.v = Cells.set s.w.v (regKey r l) v := by
    unfold writeLane
    rw [show s.f.seat = none by simp [Frag.seat, h], putLane_v]
    rfl
  rw [fileLane_inPlace h, fileLane_inPlace hf, hv, Cells.get_set]
  simp only [eq_comm]

/-- For a narrow warp that holds the lane, likewise, in its own file. -/
theorem fileLane_writeLane_export (s : State) (r l : Nat) (v : W32) (k : Nat) (e : Export) (he : exportOf s = some e)
    (hx : s.f.exp = some e.id) (hl : seatHolds s s.f.seat (regKey r l % 32) = true) :
    fileLane (writeLane s r l v) k = if k = regKey r l then v else fileLane s k := by
  have hne : s.w.exps.isEmpty = false := by
    unfold exportOf at he
    cases h : s.w.exps with
    | nil => rw [h] at he; split at he <;> cases he
    | cons _ _ => rfl
  have hs : s.f.seat = some (e.id, s.f.nw) := by simp [Frag.seat, hx]
  have hw : writeLane s r l v = updExport (unmark (regKey r l) s) e.id (fun e =>
      { e with held := keep (viewKey s.f.nw (regKey r l)) v e.held, dirty := addOnce (regKey r l) e.dirty }) := by
    rw [hs] at hl
    unfold writeLane putLane
    rw [hs]
    dsimp only
    have hl' : seatHolds (unmark (regKey r l) s) (some (e.id, s.f.nw)) (regKey r l % 32) = true := hl
    rw [if_neg (by simp only [unmark, hne]; exact Bool.false_ne_true), if_pos hl']
  have he' : exportOf (writeLane s r l v) = some
      { e with held := keep (viewKey s.f.nw (regKey r l)) v e.held, dirty := addOnce (regKey r l) e.dirty } := by
    have hu : exportOf (unmark (regKey r l) s) = some e := he
    rw [hw, exportOf_updExport _ _ _ (by intro x; rfl), hu]
    simp
  have hv : (writeLane s r l v).w.v = s.w.v := by rw [hw]; rfl
  have hn : (writeLane s r l v).f.nw = s.f.nw := by rw [hw]; rfl
  unfold fileLane
  rw [he', he]
  dsimp only
  rw [lookup_keep, hv, hn]
  simp only [viewKey_inj]
  split <;> rfl

/-! ### Scalar registers -/

/-- Writing a scalar changes the warp's scalars only; a write to s0 changes nothing. -/
theorem writeS_frame (s : State) (n : Nat) (v : W64) :
    writeS s n v = { s with w := { s.w with s := (writeS s n v).w.s } } := by
  unfold writeS
  split <;> rfl

/-- With no result in flight a written scalar reads the value, s0 reads 0, and every other one reads what it held. -/
theorem readS_writeS (s : State) (n : Nat) (v : W64) (m : Nat) (h : ∀ m, inflightS s m = none) :
    readS (writeS s n v) m = if m = n ∧ n ≠ 0 then v else readS s m := by
  have hi : inflightS (writeS s n v) m = none := by
    unfold inflightS
    rw [writeS_frame]
    exact h m
  unfold readS
  rw [hi, h m]
  by_cases hm : m = 0
  · subst hm
    by_cases hn : n = 0
    · simp [hn]
    · simp [Ne.symm hn]
  · unfold writeS
    by_cases hn : n = 0
    · simp [hn, hm]
    · simp [hn, hm, Cells.get_set, eq_comm]

/-! ### Predicates -/

theorem putBit_frame (me : Option (Nat × Nat)) (p l : Nat) (b : Bool) (s : State) :
    putBit me p l b s = { s with w := { s.w with p := (putBit me p l b s).w.p, exps := (putBit me p l b s).w.exps } } := by
  unfold putBit
  dsimp only
  split
  · rfl
  · split
    · split <;> rfl
    · rfl

/-- Writing a predicate bit changes the predicates and the exports of the warp at the front. -/
theorem writePBit_frame (s : State) (p l : Nat) (b : Bool) :
    writePBit s p l b = { s with w := { s.w with p := (writePBit s p l b).w.p, exps := (writePBit s p l b).w.exps } } := by
  unfold writePBit
  split
  · rfl
  · exact putBit_frame ..

/-- p0 is never written (09 R256). -/
theorem writePBit_zero (s : State) (l : Nat) (b : Bool) : writePBit s 0 l b = s := rfl

/-- For a fragment in place, a written predicate bit holds the value, and every other one what it held. -/
theorem filePred_writePBit_inPlace (s : State) (p l : Nat) (b : Bool) (q j : Nat) (h : s.f.exp = none) (hp : p ≠ 0)
    (hl : l < 32) : filePred (writePBit s p l b) q j = if q = p ∧ j = l then b else filePred s q j := by
  have hf : (writePBit s p l b).f.exp = none := by rw [writePBit_frame]; exact h
  have hput : (writePBit s p l b).w.p = Cells.set s.w.p p (setBit (Cells.get s.w.p p) l b) := by
    unfold writePBit
    rw [if_neg hp, show s.f.seat = none by simp [Frag.seat, h]]
    unfold putBit
    dsimp only
    split <;> rfl
  rw [filePred_inPlace h, filePred_inPlace hf, hput, Cells.get_set]
  by_cases hq : q = p
  · subst hq
    simp only [true_and, ↓reduceIte]
    rw [setBit_getLsbD _ _ _ _ hl]
  · simp [hq, Ne.symm hq]

end Sys2Proof.Machine
end

