-- ==== Sys2Proof/Laws/Exceptions.lean ====
section
/-!
SUPPORT. What the operations of flags and of exceptions can do, once each: starting and ending an operation, delivery,
escalation, and a precise fault.
-/
namespace Sys2Proof.Machine

/-! ### The front of the state (log 2) -/

/-- Bringing another fragment to the front moves fragments, warps and blocks only. -/
theorem unfocus_frame (s : State) :
    unfocus s = { s with f := (unfocus s).f, w := (unfocus s).w, blk := (unfocus s).blk, blocks := (unfocus s).blocks } := rfl

theorem focusBlock_frame (s : State) (b : Nat) :
    focusBlock s b = { s with f := (focusBlock s b).f, w := (focusBlock s b).w, blk := (focusBlock s b).blk,
                              blocks := (focusBlock s b).blocks } := by
  unfold focusBlock
  dsimp only
  split <;> rfl

theorem focusWarp_frame (s : State) (b w : Nat) :
    focusWarp s b w = { s with f := (focusWarp s b w).f, w := (focusWarp s b w).w, blk := (focusWarp s b w).blk,
                               blocks := (focusWarp s b w).blocks } := by
  have h := focusBlock_frame s b
  unfold focusWarp
  dsimp only
  generalize focusBlock s b = t at h ⊢
  split <;> rw [h]

theorem focusEnt_frame (s : State) (e : Nat) :
    focusEnt s e = { s with f := (focusEnt s e).f, w := (focusEnt s e).w, blk := (focusEnt s e).blk } := by
  unfold focusEnt
  dsimp only
  split <;> rfl

theorem focus_frame (s : State) (b w e : Nat) :
    focus s b w e = { s with f := (focus s b w e).f, w := (focus s b w e).w, blk := (focus s b w e).blk,
                             blocks := (focus s b w e).blocks } := by
  have h := focusWarp_frame s b w
  have k := focusEnt_frame (focusWarp s b w) e
  unfold focus
  generalize focusWarp s b w = t at h k ⊢
  rw [k, h]

/-! ### Operations under a flag (09 R248) -/

/-- Starting an operation adds it to the warp at the front and takes an identifier. -/
theorem addPend_frame (s : State) (flag : Nat) (whole : Option Lanes) (u : PendUnit) (m : Lanes) (l : List Landing)
    (left : Nat) (owes : List Nat) :
    ∃ p, p.id = s.uid ∧ p.lanes = m ∧ p.lands = l ∧ p.sup = s.f.sup ∧ p.owes = owes ∧ p.src = none ∧
      addPend s flag whole u m l left owes = { s with w := { s.w with pend := s.w.pend ++ [p] }, uid := s.uid + 1 } :=
  ⟨_, rfl, rfl, rfl, rfl, rfl, rfl, rfl⟩

/-- Changing an operation changes the warp's operations only. -/
theorem updPend_frame (s : State) (id : Nat) (u : Pend → Pend) :
    updPend s id u = { s with w := { s.w with pend := (updPend s id u).w.pend } } := rfl

/-- Discarding parts of an operation changes the warp's operations only. -/
theorem dropLanes_frame (s : State) (id : Nat) (m : Lanes) :
    dropLanes s id m = { s with w := { s.w with pend := (dropLanes s id m).w.pend } } := rfl

/-- Marking registers changes the warp's marks only. -/
theorem markRead_frame (ks : List Nat) (s : State) :
    markRead ks s = { s with w := { s.w with lastRead := (markRead ks s).w.lastRead } } := rfl

/-- Only registers, scalars, predicates, marks and the exports' copies of the warp at the front may have changed. -/
def LandStep (s t : State) : Prop :=
  t = { s with w := { s.w with v := t.w.v, s := t.w.s, p := t.w.p, lastRead := t.w.lastRead, exps := t.w.exps } }

theorem LandStep.trans {s t u : State} (h : LandStep s t) (k : LandStep t u) : LandStep s u := by
  unfold LandStep at *
  rw [k, h]

/-- What a landing may change. -/
theorem land_frame (own : Lanes) (s : State) (x : Landing) : LandStep s (land own s x) := by
  unfold LandStep land
  split
  · split
    · rfl
    · rw [putLane_frame]; rfl
  · unfold writeS
    split <;> rfl
  · split
    · rfl
    · rw [putBit_frame]

theorem foldl_land_frame (own : Lanes) (l : List Landing) (s : State) : LandStep s (l.foldl (land own) s) := by
  induction l generalizing s with
  | nil => rfl
  | cons x r ih => exact (land_frame own s x).trans (ih _)

/-- Completing parts of an operation lands their results and ends or shortens the operation. -/
theorem completeLanes_frame (s : State) (id : Nat) (m : Lanes) :
    let t := completeLanes s id m
    t = { s with w := { s.w with v := t.w.v, s := t.w.s, p := t.w.p, lastRead := t.w.lastRead, exps := t.w.exps,
                                 pend := t.w.pend } } := by
  dsimp only
  unfold completeLanes
  split
  · rfl
  · rename_i p _
    dsimp only
    have h := fun l => foldl_land_frame p.own l s
    unfold LandStep at h
    split
    · rw [markRead_frame]; dsimp only; rw [h]
    · rw [updPend_frame, h]

/-! ### Taking an exception (07 R208, R209, R211) -/

/-- An escalation ends the block's grid: no further block starts, and its retirement is due. -/
theorem escalate_grid (fr : FaultRec) (s : State) :
    (∀ g ∈ (escalate fr s).grids, g.gid = s.blk.gid → g.dead.isSome = true ∧ g.next = g.total) ∧
      (.gridRetirement, .unit s.blk.gid) ∈ (escalate fr s).agenda := by
  unfold escalate
  dsimp only
  rw [focus_frame]
  constructor
  · intro g hg he
    simp only [push, updGrid, List.mem_map] at hg
    obtain ⟨a, -, rfl⟩ := hg
    by_cases h : a.gid = s.blk.gid
    · simp [h]
    · rw [if_neg (by simpa using h)] at he; exact absurd he h
  · simp [push]

/-- A fault of a handler, of a warp without one, or of a home with no route left escalates. -/
theorem deliver_escalates {fr : FaultRec} {s : State} (h : s.f.sup = true ∨ s.w.tvec = 0 ∨ noRoute fr = true) :
    deliver fr s = escalate fr s := by
  unfold deliver
  rw [if_pos (by rcases h with h | h | h <;> simp [h])]

/-- Otherwise the handler runs at TVEC, at supervisor privilege with a mode of all zeros; only the fragment, the trap
registers, the hidden state and what a repatriation changes differ. The hidden state holds the fragment as it was. -/
theorem deliver_runs {fr : FaultRec} {s : State} (hs : s.f.sup = false) (ht : s.w.tvec ≠ 0) (hn : noRoute fr = false) :
    let r := repatriateFront s
    let t := deliver fr s
    t = { r with f := t.f, w := t.w } ∧
    t.f = { r.f with mask := (if fr.kind = 0 || fr.kind = 3 then r.f.mask else fr.lanes &&& r.f.mask), mode := 0,
                     sup := true, pc := r.w.tvec, inClause := false, latch := [], hold := .free, st := .ready,
                     wave := none, replay := none, more := [], done := 0, count := 0 } ∧
    t.w = { r.w with handler := t.w.handler, trapcode := trapcodeOf fr, trapmask := fr.lanes.setWidth 64, trapva := fr.va,
                     trappc := fr.pc, trapaux := fr.aux } ∧
    ∃ h, t.w.handler = some h ∧ h.mask = r.f.mask ∧ h.mode = r.f.mode ∧ h.pc = r.f.pc ∧ h.hdr = r.f.hdr ∧
      h.inClause = r.f.inClause ∧ h.h0 = r.f.h0 ∧ h.h1 = r.f.h1 ∧ h.wave = r.f.wave ∧ h.done = r.f.done ∧
      h.count = r.f.count ∧ h.replays = r.f.replays ∧ h.delivered = fr.pc ∧ h.kind = fr.kind ∧ h.part = fr.part ∧
      h.lanes = (if fr.kind = 0 || fr.kind = 3 then r.f.mask else fr.lanes &&& r.f.mask) := by
  have h : ¬((s.f.sup || decide (s.w.tvec = 0) || noRoute fr) = true) := by simpa [hs, hn] using ht
  unfold deliver
  rw [if_neg h]
  refine ⟨rfl, rfl, rfl, _, rfl, ?_⟩
  dsimp only
  trivial

/-- Only FABRIC counts against an outage. -/
theorem lossCounted_other {code cause : Nat} (s : State) (h : code ≠ 0x12) : lossCounted code cause s = s := by
  unfold lossCounted
  rw [if_neg h]
  rfl

/-- A fault is delivered at once where the warp runs no handler and none is queued before it. -/
theorem raise_delivers {fr : FaultRec} {s : State} (hc : fr.code.toNat ≠ 0x12) (hs : s.f.sup = false)
    (hh : s.w.handler = none) (hq : s.w.faultq = []) : raise fr s = deliver fr s := by
  unfold raise
  dsimp only
  rw [lossCounted_other s hc]
  simp [hs, hh, hq]

/-- A fault met by a handler escalates. -/
theorem raise_escalates {fr : FaultRec} {s : State} (hc : fr.code.toNat ≠ 0x12) (hs : s.f.sup = true) :
    raise fr s = escalate fr s := by
  unfold raise
  dsimp only
  rw [lossCounted_other s hc]
  simp [hs]

/-- Behind a handler, or behind other faults, a fault is queued. -/
theorem raise_queues {fr : FaultRec} {s : State} (hc : fr.code.toNat ≠ 0x12) (hs : s.f.sup = false)
    (hh : s.w.handler.isSome = true ∨ s.w.faultq ≠ []) :
    raise fr s = { s with w := { s.w with faultq := s.w.faultq ++ [fr] } } := by
  unfold raise
  dsimp only
  rw [lossCounted_other s hc]
  rcases hh with h | h <;> simp [hs, h]

/-- A precise fault of a fragment that reissues nothing: delivered in the whole fragment where it stands. -/
theorem precise_first {code : Nat} {m : Lanes} {va aux : W64} {s : State} (hr : s.f.replay = none) :
    precise code m va aux s =
      raise { ent := s.f.ent, code := BitVec.ofNat 8 code, kind := 0, lanes := m, va := va, aux := aux, pc := s.f.pc,
              part := .none } { s with f := { s.f with hold := .free } } := by
  unfold precise
  rw [hr]

end Sys2Proof.Machine
end

