-- ==== Sys2Proof/Laws/Issue.lean ====
section
/-!
SUPPORT. Laws of issue and retirement: what `issue` answers, case by case, and what an instruction that retires leaves.
-/
namespace Sys2Proof.Machine

/-- The issuing fragment, ready and with no hold: what an instruction's own effect starts from. -/
def unheld (s : State) : State := { s with f := { s.f with hold := .free, st := .ready } }

/-- An instruction that nothing keeps from it has its own effect. -/
theorem issue_ready {i : Instr} {k : State → State} {s : State} (hd : decodeFault i s = none) (hs : stalls i s = false)
    (hm : mustReturn i s = false) (hu : unpulled i s = []) : issue i k s = .next (k (unheld s)) := by
  simp [issue, hd, hs, hm, hu, unheld]

/-- A decode fault is delivered precisely. -/
theorem issue_fault {i : Instr} {k : State → State} {s : State} {c : BitVec 8} (hd : decodeFault i s = some c) :
    issue i k s = .next (precise c.toNat s.f.mask 0 (wordAux i) s) := by
  simp [issue, hd]

/-- An instruction that stalls changes nothing. -/
theorem issue_stalled {i : Instr} {k : State → State} {s : State} (hd : decodeFault i s = none) (hm : mustReturn i s = false)
    (hs : stalls i s = true) : issue i k s = .next s := by
  simp [issue, hd, hs, hm]

/-- `issue` always answers a next state. -/
theorem issue_next (i : Instr) (k : State → State) (s : State) : ∃ t, issue i k s = .next t := ⟨_, rfl⟩

/-- A fragment that reissues nothing goes on behind its instruction. -/
theorem goOn_eq (s : State) (h : s.f.replay = none) :
    goOn s = (let t := advance s; { t with f := { t.f with hold := .free, done := 0, count := 0 } }) := by
  simp [goOn, h]

/-- The note of an instruction that is no reissue stands in its clause's header. -/
theorem currentNote_eq (s : State) (h : s.f.replay = none) : currentNote s = noteAt s.f s.f.pc := by simp [currentNote, h]

/-- An instruction that is no reissue retires: its note takes effect and the fragment moves past it. -/
theorem retire_eq (i : Instr) (s : State) (h : s.f.replay = none) :
    retire i s = (let t := advance (applyNotes i (noteAt s.f s.f.pc) s)
      { t with f := { t.f with hold := .free, done := 0, count := 0 } }) := by
  unfold retire
  rw [goOn_eq _ (by simpa using h), currentNote_eq _ h]

theorem retire_w (i : Instr) (s : State) (h : s.f.replay = none) :
    (retire i s).w = (applyNotes i (noteAt s.f s.f.pc) s).w := by
  rw [retire_eq _ _ h]
  rfl

/-- The operand note changes nothing of the warp but its last-read marks. -/
theorem applyNotes_w (i : Instr) (n : Nat) (s : State) :
    (applyNotes i n s).w = { s.w with lastRead := (applyNotes i n s).w.lastRead } := rfl

/-- Retiring changes the fragment's position and the last-read marks, and nothing else. -/
theorem retire_frame (i : Instr) (s : State) (h : s.f.replay = none) :
    retire i s = { s with f := (retire i s).f, w := { s.w with lastRead := (retire i s).w.lastRead } } := by
  rw [retire_eq _ _ h]; rfl

/-- Where the fragment stands after retiring. -/
theorem retire_f (i : Instr) (s : State) (h : s.f.replay = none) :
    (retire i s).f = { s.f with pc := nextPc s.f, inClause := !lastWord s.f, hold := .free, done := 0, count := 0,
                                latch := (retire i s).f.latch } := by
  rw [retire_eq _ _ h]; rfl

theorem contains_addOnce (x : Nat) (l : List Nat) (k : Nat) : (addOnce x l).contains k = (k == x || l.contains k) := by
  unfold addOnce
  split
  · rename_i h
    by_cases hk : k = x
    · subst hk; rw [h]; simp
    · simp [hk]
  · exact List.contains_cons

theorem contains_foldl_addOnce (ks l : List Nat) (k : Nat) :
    (ks.foldl (fun l k => addOnce k l) l).contains k = (ks.contains k || l.contains k) := by
  induction ks generalizing l with
  | nil => simp
  | cons x r ih =>
    rw [List.foldl_cons, ih, contains_addOnce, List.contains_cons]
    cases k == x <;> cases r.contains k <;> rfl

/-- The last-read marks after an operand note. -/
theorem applyNotes_lastRead (i : Instr) (n : Nat) (s : State) (k : Nat) :
    (applyNotes i n s).w.lastRead.contains k = ((noteKeys i n s).contains k || s.w.lastRead.contains k) :=
  contains_foldl_addOnce _ _ _

/-- A note of an instruction with no vector source marks nothing. -/
theorem noteKeys_of_no_source (i : Instr) (n : Nat) (s : State) (ha : (operands s i).va = [])
    (hb : (operands s i).vb = []) : noteKeys i n s = [] := by
  simp [noteKeys, markedRegs, ha, hb, regsOf]

theorem applyNotes_lastRead_of_no_source (i : Instr) (n : Nat) (s : State) (ha : (operands s i).va = [])
    (hb : (operands s i).vb = []) : (applyNotes i n s).w.lastRead = s.w.lastRead := by
  simp [applyNotes, latchNote, markRead, noteKeys_of_no_source i n s ha hb]

end Sys2Proof.Machine
end

