-- ==== Sys2Proof/Laws/Memory.lean ====
section
/-!
SUPPORT. What the operations over memory can do, once each: a `HomeStep` changes memory, L1 and L2 lines only and keeps the
memory's canonical form; a `PlaceStep` may change the block window and put a wake write on the agenda as well.
-/
namespace Sys2Proof.Machine

/-- The directory names exactly the halves that hold a line (02 R59). -/
theorem presence_bit (s : State) (asid la h : Nat) (hh : h < 256) :
    (presence s asid la).getLsbD h = (l1Find s h asid la).isSome := by
  have key : ∀ (l : List Nat) (m : BitVec 256), (l.foldl (fun m h =>
      if (l1Find s h asid la).isSome then m ||| BitVec.twoPow 256 h else m) m).getLsbD h =
        (m.getLsbD h || (l.contains h && (l1Find s h asid la).isSome)) := by
    intro l
    induction l with
    | nil => simp
    | cons a r ih =>
      intro m
      rw [List.foldl_cons, ih]
      by_cases e : a = h
      · subst e; cases hc : (l1Find s a asid la).isSome <;> simp [hh]
      · cases hc : (l1Find s a asid la).isSome <;> simp [e, Ne.symm e]
  rw [presence, key]
  simp [hh]

/-- An access that cached lines answer whole keeps no translation and learns no home. -/
theorem keepLeaves_hit (s : State) (lvl : Nat) (ps : List Piece) (h : ∀ q ∈ ps, q.hit = true) :
    keepLeaves s (.mem lvl ps) = s := by
  have k : keepTlb s (.mem lvl ps) = s := by
    have : ps.filter (fun q => !q.hit) = [] := by simpa [List.filter_eq_nil_iff] using h
    simp [keepTlb, this]
  have l : ∀ (ps : List Piece) (u : State), (∀ q ∈ ps, q.hit = true) → ps.foldl learnHome u = u := by
    intro ps
    induction ps with
    | nil => exact fun _ _ => rfl
    | cons q r ih =>
      intro u h
      rw [List.foldl_cons, show learnHome u q = u by simp [learnHome, h q (by simp)]]
      exact ih u (fun x hx => h x (by simp [hx]))
  simp [keepLeaves, k, l ps s h]

/-- A byte of one line over another: the mask says which line gives it. -/
@[simp] theorem get_overlay (base top : Memory) (m : BitVec 128) (j : Nat) :
    Cells.get (overlay base top m) j = if m.getLsbD j = true then Cells.get top j else Cells.get base j := by
  have key : ∀ (l : List Nat) (d : Memory), Cells.get (l.foldl (fun d o => Cells.set d o (Cells.get top o)) d) j =
      if j ∈ l then Cells.get top j else Cells.get d j := by
    intro l
    induction l with
    | nil => simp
    | cons o r ih =>
      intro d
      rw [List.foldl_cons, ih, Cells.get_set]
      by_cases h : o = j <;> by_cases h' : j ∈ r <;> simp [h, h', eq_comm]
      exact fun e => absurd e.symm h
  unfold overlay
  rw [key]
  have e : j ∈ offsOf m ↔ m.getLsbD j = true := by
    simp only [offsOf, List.mem_filter, List.mem_range, and_iff_right_iff_imp]
    exact fun h => BitVec.lt_of_getLsbD h
  simp only [e]

/-- Only memory and the lines of L1 and L2 may have changed, and memory has kept its canonical form. -/
structure HomeStep (s t : State) : Prop where
  frame : t = { s with mem := t.mem, l1 := t.l1, l2 := t.l2 }
  form : Memory.wf s.mem = true → Memory.wf t.mem = true

/-- Only memory, the lines of L1 and L2, the block window and the agenda may have changed, and memory has kept its form. -/
structure PlaceStep (s t : State) : Prop where
  frame : t = { s with mem := t.mem, l1 := t.l1, l2 := t.l2, blk := { s.blk with win := t.blk.win }, agenda := t.agenda }
  form : Memory.wf s.mem = true → Memory.wf t.mem = true

theorem HomeStep.refl (s : State) : HomeStep s s := ⟨rfl, id⟩

theorem HomeStep.trans {s t u : State} (h : HomeStep s t) (k : HomeStep t u) : HomeStep s u :=
  ⟨k.frame.trans (by rw [h.frame]), fun w => k.form (h.form w)⟩

/-- A list of home steps is a home step. -/
theorem HomeStep.foldl {α : Type} {f : State → α → State} (hf : ∀ s a, HomeStep s (f s a)) (l : List α) (s : State) :
    HomeStep s (l.foldl f s) := by
  induction l generalizing s with
  | nil => exact .refl s
  | cons a r ih => exact (hf s a).trans (ih _)

theorem HomeStep.ite {c : Prop} [Decidable c] {s t u : State} (h : HomeStep s t) (k : HomeStep s u) :
    HomeStep s (if c then t else u) := by
  split
  · exact h
  · exact k

/-- A step that changes L1 or L2 lines only. -/
theorem HomeStep.lines (s : State) (l1 : List L1Line) (l2 : List L2Line) : HomeStep s { s with l1 := l1, l2 := l2 } := ⟨rfl, id⟩

theorem PlaceStep.refl (s : State) : PlaceStep s s := ⟨rfl, id⟩

theorem HomeStep.toPlace {s t : State} (h : HomeStep s t) : PlaceStep s t :=
  ⟨by have e := h.frame; rw [e], h.form⟩

theorem PlaceStep.trans {s t u : State} (h : PlaceStep s t) (k : PlaceStep t u) : PlaceStep s u :=
  ⟨k.frame.trans (by rw [h.frame]), fun w => k.form (h.form w)⟩

/-! ### L2 and the controllers (02 R57, R58, R60, 04 R128) -/

theorem physWrite_home (s : State) (pa v n : Nat) : HomeStep s (physWrite s pa v n) := ⟨rfl, Cells.wf_store _ _ _⟩

theorem setGran_home (s : State) (pa v : Nat) : HomeStep s (setGran s pa v) := by
  unfold setGran
  split
  · exact ⟨rfl, Cells.wf_store _ _ _⟩
  · exact .refl s

theorem setTag_home (s : State) (pa : Nat) (b : Bool) : HomeStep s (setTag s pa b) :=
  HomeStep.ite (.refl s) (setGran_home ..)

theorem l2Write_home (s : State) (x : L2Line) (m : BitVec 128) : HomeStep s (l2Write s x m) :=
  HomeStep.foldl (fun s _ => physWrite_home s _ _ _) _ s

theorem l2Drop_home (s : State) (a la : Nat) : HomeStep s (l2Drop s a la) := .lines ..

theorem l2Put_home (s : State) (x : L2Line) : HomeStep s (l2Put s x) := by
  unfold l2Put
  dsimp only
  have h (l : List L2Line) : HomeStep s { s with l2 := l } := .lines ..
  split
  · exact h _
  · split
    · exact h _
    · split
      · exact ((h _).trans (l2Write_home ..)).trans (l2Drop_home ..)
      · exact h _

theorem l2Clean_home (s : State) (p : Piece) : HomeStep s (l2Clean s p) := by
  unfold l2Clean
  split
  · exact .refl s
  · exact (l2Write_home ..).trans (.lines ..)

/-- A read at the home may fill the slice, or write its dirty bytes back. -/
theorem homeRead_home (s : State) (lvl : Nat) (p : Piece) : HomeStep s (homeRead s lvl p).1 := by
  unfold homeRead
  split
  · exact .refl s
  · split
    · exact l2Clean_home ..
    · exact l2Put_home ..

theorem clearTags_home (s : State) (p : Piece) : HomeStep s (clearTags s p) :=
  HomeStep.ite (HomeStep.foldl (fun s _ => setTag_home s _ false) _ s) (.refl s)

theorem homeWrite_home (s : State) (lvl : Nat) (p : Piece) (v : Nat) : HomeStep s (homeWrite s lvl p v) := by
  unfold homeWrite
  dsimp only
  split
  · exact ((clearTags_home ..).trans (physWrite_home ..)).trans (.lines ..)
  · exact (clearTags_home ..).trans (l2Put_home ..)

/-! ### The L1 (02 R55, R56, 03 R87, 04 R129) -/

theorem l1Drop_home (s : State) (half asid la : Nat) : HomeStep s (l1Drop s half asid la) := .lines ..

theorem l1Keep_home (s : State) (x : L1Line) : HomeStep s (l1Keep s x) := .lines ..

theorem dropClean_home (s : State) (p : L1Line → Bool) : HomeStep s (dropClean s p) := .lines ..

theorem l1Write_home (s : State) (x : L1Line) (m : BitVec 128) : HomeStep s (l1Write s x m) := by
  have h : HomeStep s ((offsOf m).foldl (fun s o => homeWrite s 1 (x.piece o 1) (Cells.get x.data o).toNat) s) :=
    HomeStep.foldl (fun s _ => homeWrite_home s ..) _ s
  unfold l1Write
  dsimp only
  split
  · exact h
  · exact h.trans (HomeStep.foldl (fun s _ => HomeStep.ite (setTag_home s _ true) (.refl s)) _ _)

theorem l1Put_home (s : State) (x : L1Line) : HomeStep s (l1Put s x) := by
  unfold l1Put
  dsimp only
  have h (l : List L1Line) : HomeStep s { s with l1 := l } := .lines ..
  split
  · exact h _
  · split
    · split
      · exact h _
      · exact ((h _).trans (l1Write_home ..)).trans (l1Drop_home ..)
    · exact h _

theorem writeBack_home (s : State) (x : L1Line) (k : Bool) : HomeStep s (writeBack s x k) :=
  (l1Write_home ..).trans (l1Keep_home ..)

theorem writeBackHalf_home (s : State) (p : L1Line → Bool) (k : Bool) : HomeStep s (writeBackHalf s p k) :=
  HomeStep.foldl (fun s x => writeBack_home s x k) _ s

theorem l1Fill_home (s : State) (p : Piece) : HomeStep s (l1Fill s p).1 := by
  unfold l1Fill
  dsimp only
  split
  · exact l1Put_home ..
  · exact (homeRead_home ..).trans (l1Put_home ..)

theorem l1Load_home (s : State) (p : Piece) : HomeStep s (l1Load s p).1 := l1Fill_home s p

theorem l1Store_home (s : State) (p : Piece) (v : Nat) : HomeStep s (l1Store s p v) := l1Put_home ..

theorem beforeHome_home (s : State) (asid : Nat) (va : W64) : HomeStep s (beforeHome s asid va) := by
  unfold beforeHome
  dsimp only
  split
  · exact .ite (.refl s) (writeBack_home ..)
  · exact .refl s

theorem dropCopy_home (s : State) (asid : Nat) (va : W64) : HomeStep s (dropCopy s asid va) := l1Drop_home ..

theorem updateCopy_home (s : State) (p : Piece) (v : Nat) : HomeStep s (updateCopy s p v) := by
  unfold updateCopy
  dsimp only
  split
  · exact .refl s
  · exact l1Keep_home ..

theorem homeLoad_home (s : State) (lvl : Nat) (p : Piece) : HomeStep s (homeLoad s lvl p).1 :=
  (beforeHome_home ..).trans (homeRead_home ..)

theorem homeStore_home (s : State) (lvl : Nat) (p : Piece) (v : Nat) : HomeStep s (homeStore s lvl p v) :=
  ((beforeHome_home ..).trans (homeWrite_home ..)).trans (updateCopy_home ..)

/-- A release by the issuing core only writes lines back (03 R91). -/
theorem releaseAt_home (scope : Nat) (s : State) : HomeStep s (releaseAt scope s) :=
  .ite (.refl s) (writeBackHalf_home ..)

/-- An acquire by the issuing core only drops lines (03 R91). -/
theorem acquireAt_home (scope : Nat) (s : State) : HomeStep s (acquireAt scope s) := .ite (.refl s) (dropClean_home ..)

/-! ### Accesses -/

theorem loadPieces_home (s : State) (lvl : Nat) (ps : List Piece) : HomeStep s (loadPieces s lvl ps).1 := by
  induction ps generalizing s with
  | nil => exact .refl s
  | cons p r ih =>
    show HomeStep s (loadPieces (if atL1 lvl p then l1Load s p else homeLoad s lvl p).1 lvl r).1
    split
    · exact (l1Load_home s p).trans (ih _)
    · exact (homeLoad_home s lvl p).trans (ih _)

theorem storePieces_home (s : State) (lvl v : Nat) (ps : List Piece) : HomeStep s (storePieces s lvl v ps) := by
  induction ps generalizing s v with
  | nil => exact .refl s
  | cons p r ih => exact (HomeStep.ite (l1Store_home ..) (homeStore_home ..)).trans (ih _ _)

/-- A load changes at most memory (a write-back) and lines. -/
theorem loadAt_home (s : State) (p : Place) (n : Nat) : HomeStep s (loadAt s p n).1 := by
  cases p with
  | win o => exact .refl s
  | dev o => exact .refl s
  | mem lvl ps => exact loadPieces_home s lvl ps

theorem winStore_place (s : State) (off v n : Nat) : PlaceStep s (winStore s off v n) := ⟨rfl, id⟩

/-- A store changes memory and lines, the window, or the agenda. -/
theorem storeAt_place (s : State) (p : Place) (v n : Nat) : PlaceStep s (storeAt s p v n) := by
  cases p with
  | win o => exact winStore_place s o v n
  | dev o =>
    unfold storeAt
    dsimp only
    split
    · exact ⟨rfl, id⟩
    · exact .refl s
  | mem lvl ps => exact (storePieces_home s lvl v ps).toPlace

/-- A store through the issuing core, which releases before a wake write (04 R115, 15 R407). -/
theorem storeThrough_place (s : State) (p : Place) (v n : Nat) : PlaceStep s (storeThrough s p v n) := by
  unfold storeThrough
  split
  · exact (HomeStep.ite (releaseAt_home ..) (.refl s)).toPlace.trans (storeAt_place ..)
  · exact storeAt_place ..

theorem homeWrites_home (s : State) (v : Nat) (ps : List Piece) : HomeStep s (homeWrites s v ps) := by
  induction ps generalizing s v with
  | nil => exact .refl s
  | cons p r ih => exact (homeWrite_home ..).trans (ih _ _)

theorem homeReads_home (s : State) (ps : List Piece) : HomeStep s (homeReads s ps).1 := by
  induction ps generalizing s with
  | nil => exact .refl s
  | cons p r ih => exact (homeRead_home s 1 p).trans (ih _)

theorem dropCopies_home (s : State) (ps : List Piece) : HomeStep s (dropCopies s ps) :=
  (HomeStep.foldl (f := fun s (q : Piece) => beforeHome s q.asid q.va) (fun s _ => beforeHome_home s _ _) ps s).trans
    (HomeStep.foldl (f := fun s (q : Piece) => dropCopy s q.asid q.va) (fun s _ => dropCopy_home s _ _) ps _)

/-- A read-modify-write changes memory and lines, or the window. -/
theorem rmwAt_place (s : State) (p : Place) (n : Nat) (f : Nat → Nat) : PlaceStep s (rmwAt s p n f).1 := by
  cases p with
  | win o => exact winStore_place s o _ n
  | dev o => exact .refl s
  | mem lvl ps => exact (((dropCopies_home s ps).trans (homeReads_home ..)).trans (homeWrites_home ..)).toPlace

/-- A write by an agent at the home (15, 16). -/
theorem agentWrite_place {s t : State} {asid : Nat} {va : W64} {v n : Nat} (h : agentWrite s asid va v n = .ok t) :
    PlaceStep s t := by
  unfold agentWrite at h
  split at h
  · cases h
  · split at h
    · split at h
      · cases h
      · cases h; exact storeAt_place ..
    · split at h
      · cases h
      · cases h; exact (homeWrite_home ..).toPlace

/-- A read-modify-write by an agent at the home. -/
theorem agentRmw_home {s t : State} {asid v : Nat} {va : W64} {f : Nat → Nat} (h : agentRmw s asid va f = .ok (t, v)) :
    HomeStep s t := by
  unfold agentRmw at h
  split at h
  · cases h
  · split at h
    · cases h
    · split at h
      · cases h
      · cases h; exact (homeRead_home ..).trans (homeWrite_home ..)

theorem readPieces_home (s : State) (ps : List Piece) : HomeStep s (readPieces s ps).1 := by
  induction ps generalizing s with
  | nil => exact .refl s
  | cons p r ih => exact (homeRead_home s 1 p).trans (ih _)

theorem writePieces_home (ps : List Piece) (b : List Byte) (s : State) : HomeStep s (writePieces ps b s) := by
  induction ps generalizing s b with
  | nil => exact .refl s
  | cons p r ih => exact (homeWrite_home ..).trans (ih _ _)

/-! ### Frames and migration (01 R38, R40) -/

/-- Dropping addresses keeps the form. -/
theorem Memory.wf_filter {m : Memory} (q : Host.Cell → Bool) (h : Memory.wf m = true) : Memory.wf (m.filter q) = true :=
  Cells.wfFrom_filter m q 0 h

theorem zeroFrame_home (attrs frame : Nat) (s : State) : HomeStep s (zeroFrame attrs frame s) := by
  refine ⟨rfl, fun h => ?_⟩
  show Memory.wf (match granAddr s _ with
    | some a => _
    | none => _) = true
  split
  · exact Memory.wf_filter _ (Memory.wf_filter _ h)
  · exact Memory.wf_filter _ h

theorem copyLine_home (m : Mig) (n : Nat) (s : State) : HomeStep s (copyLine m n s) :=
  have h : HomeStep s { s with mem := Cells.store s.mem (m.new + 128 * n) (Cells.load s.mem (m.old + 128 * n) 128) 128 } :=
    ⟨rfl, Cells.wf_store _ _ _⟩
  (h.trans (setGran_home ..)).trans (setGran_home ..)

/-! ### A program loaded from outside -/

theorem loadedTables_wf {m : Memory} (h : Memory.wf m = true) : Memory.wf (loadedTables m) = true := by
  unfold loadedTables
  iterate 6 refine Cells.wf_store _ _ _ ?_
  exact h

/-- Placing an instruction keeps the memory's form. -/
theorem withFetchWord_wf (s : State) (nbits w : Nat) (h : Memory.wf s.mem = true) :
    Memory.wf (s.withFetchWord nbits w).mem = true := by
  show Memory.wf (Cells.store (Cells.store (Cells.store (loadedTables s.mem) _ _ _) _ _ _) _ _ _) = true
  iterate 3 refine Cells.wf_store _ _ _ ?_
  exact loadedTables_wf h

end Sys2Proof.Machine
end

