-- ==== Sys2Proof/Laws/PerInstr.lean ====
section
/-!
SUPPORT. The family `Shape` of statements, one lemma per constructor of `Instr`: an instruction's word has 32 bits.
-/
namespace Sys2Proof.Laws.Shape
open Sys2Proof Sys2Proof.Decode

/-- The word that the encoder gives an instruction has 32 bits, whatever its fields hold (09 R246). -/
def Statement (i : Instr) : Prop := ∀ w, encodeNat i = some w → w < 2 ^ 32

/-- A field's contribution is at most its largest value at its place. -/
theorem field_le {n : Nat} (x : BitVec n) (i : Nat) : x.toNat * 2 ^ i ≤ (2 ^ n - 1) * 2 ^ i :=
  Nat.mul_le_mul_right _ (Nat.le_sub_one_of_lt x.isLt)

/-- A word of 1 field stays below 2 ^ 32 where it does so with every field at its largest value. -/
theorem enc1_lt {n base : Nat} (x : BitVec n) (i : Nat)
    (h : base + (2 ^ n - 1) * 2 ^ i < 2 ^ 32) (w : Nat)
    (hw : enc1 base x i = some w) : w < 2 ^ 32 := by
  have h0 := field_le x i
  rw [enc1] at hw; cases hw; omega

/-- A word of 2 fields stays below 2 ^ 32 where it does so with every field at its largest value. -/
theorem enc2_lt {n m base : Nat} (x : BitVec n) (i : Nat) (y : BitVec m) (j : Nat)
    (h : base + (2 ^ n - 1) * 2 ^ i + (2 ^ m - 1) * 2 ^ j < 2 ^ 32) (w : Nat)
    (hw : enc2 base x i y j = some w) : w < 2 ^ 32 := by
  have h0 := field_le x i; have h1 := field_le y j
  rw [enc2] at hw; cases hw; omega

/-- A word of 3 fields stays below 2 ^ 32 where it does so with every field at its largest value. -/
theorem enc3_lt {n m k base : Nat} (x : BitVec n) (i : Nat) (y : BitVec m) (j : Nat) (z : BitVec k) (l : Nat)
    (h : base + (2 ^ n - 1) * 2 ^ i + (2 ^ m - 1) * 2 ^ j + (2 ^ k - 1) * 2 ^ l < 2 ^ 32) (w : Nat)
    (hw : enc3 base x i y j z l = some w) : w < 2 ^ 32 := by
  have h0 := field_le x i; have h1 := field_le y j; have h2 := field_le z l
  rw [enc3] at hw; cases hw; omega

/-- A word of 4 fields stays below 2 ^ 32 where it does so with every field at its largest value. -/
theorem enc4_lt {n m k r base : Nat} (x : BitVec n) (i : Nat) (y : BitVec m) (j : Nat) (z : BitVec k) (l : Nat) (u : BitVec r) (p : Nat)
    (h : base + (2 ^ n - 1) * 2 ^ i + (2 ^ m - 1) * 2 ^ j + (2 ^ k - 1) * 2 ^ l + (2 ^ r - 1) * 2 ^ p < 2 ^ 32) (w : Nat)
    (hw : enc4 base x i y j z l u p = some w) : w < 2 ^ 32 := by
  have h0 := field_le x i; have h1 := field_le y j; have h2 := field_le z l; have h3 := field_le u p
  rw [enc4] at hw; cases hw; omega

/-- A word of 5 fields stays below 2 ^ 32 where it does so with every field at its largest value. -/
theorem enc5_lt {n m k r q base : Nat} (x : BitVec n) (i : Nat) (y : BitVec m) (j : Nat) (z : BitVec k) (l : Nat) (u : BitVec r) (p : Nat) (v : BitVec q) (t : Nat)
    (h : base + (2 ^ n - 1) * 2 ^ i + (2 ^ m - 1) * 2 ^ j + (2 ^ k - 1) * 2 ^ l + (2 ^ r - 1) * 2 ^ p + (2 ^ q - 1) * 2 ^ t < 2 ^ 32) (w : Nat)
    (hw : enc5 base x i y j z l u p v t = some w) : w < 2 ^ 32 := by
  have h0 := field_le x i; have h1 := field_le y j; have h2 := field_le z l; have h3 := field_le u p; have h4 := field_le v t
  rw [enc5] at hw; cases hw; omega

theorem add d a b : Statement (.add d a b) :=
  enc3_lt d 16 a 8 b 0 (by decide)
theorem sub d a b : Statement (.sub d a b) :=
  enc3_lt d 16 a 8 b 0 (by decide)
theorem mul d a b : Statement (.mul d a b) :=
  enc3_lt d 16 a 8 b 0 (by decide)
theorem mulhi d a b : Statement (.mulhi d a b) :=
  enc3_lt d 16 a 8 b 0 (by decide)
theorem fma d a b : Statement (.fma d a b) :=
  enc3_lt d 16 a 8 b 0 (by decide)
theorem fms d a b : Statement (.fms d a b) :=
  enc3_lt d 16 a 8 b 0 (by decide)
theorem fnma d a b : Statement (.fnma d a b) :=
  enc3_lt d 16 a 8 b 0 (by decide)
theorem min d a b : Statement (.min d a b) :=
  enc3_lt d 16 a 8 b 0 (by decide)
theorem max d a b : Statement (.max d a b) :=
  enc3_lt d 16 a 8 b 0 (by decide)
theorem abd d a b : Statement (.abd d a b) :=
  enc3_lt d 16 a 8 b 0 (by decide)
theorem and d a b : Statement (.and d a b) :=
  enc3_lt d 16 a 8 b 0 (by decide)
theorem or d a b : Statement (.or d a b) :=
  enc3_lt d 16 a 8 b 0 (by decide)
theorem xor d a b : Statement (.xor d a b) :=
  enc3_lt d 16 a 8 b 0 (by decide)
theorem andn d a b : Statement (.andn d a b) :=
  enc3_lt d 16 a 8 b 0 (by decide)
theorem shl d a b : Statement (.shl d a b) :=
  enc3_lt d 16 a 8 b 0 (by decide)
theorem shr d a b : Statement (.shr d a b) :=
  enc3_lt d 16 a 8 b 0 (by decide)
theorem rot d a b : Statement (.rot d a b) :=
  enc3_lt d 16 a 8 b 0 (by decide)
theorem sel d a b : Statement (.sel d a b) :=
  enc3_lt d 16 a 8 b 0 (by decide)
theorem ceq p a b : Statement (.ceq p a b) :=
  enc3_lt p 16 a 8 b 0 (by decide)
theorem cne p a b : Statement (.cne p a b) :=
  enc3_lt p 16 a 8 b 0 (by decide)
theorem clt p a b : Statement (.clt p a b) :=
  enc3_lt p 16 a 8 b 0 (by decide)
theorem cle p a b : Statement (.cle p a b) :=
  enc3_lt p 16 a 8 b 0 (by decide)
theorem cgt p a b : Statement (.cgt p a b) :=
  enc3_lt p 16 a 8 b 0 (by decide)
theorem cge p a b : Statement (.cge p a b) :=
  enc3_lt p 16 a 8 b 0 (by decide)
theorem cun p a b : Statement (.cun p a b) :=
  enc3_lt p 16 a 8 b 0 (by decide)
theorem ccls p a cls : Statement (.ccls p a cls) :=
  enc3_lt p 16 a 8 cls 0 (by decide)
theorem mov d a : Statement (.mov d a) :=
  enc2_lt d 16 a 8 (by decide)
theorem cvt d a dt us slot : Statement (.cvt d a dt us slot) :=
  enc5_lt d 16 a 8 dt 4 us 3 slot 0 (by decide)
theorem neg d a : Statement (.neg d a) :=
  enc2_lt d 16 a 8 (by decide)
theorem abs d a : Statement (.abs d a) :=
  enc2_lt d 16 a 8 (by decide)
theorem popc d a : Statement (.popc d a) :=
  enc2_lt d 16 a 8 (by decide)
theorem clz d a : Statement (.clz d a) :=
  enc2_lt d 16 a 8 (by decide)
theorem brev d a : Statement (.brev d a) :=
  enc2_lt d 16 a 8 (by decide)
theorem bfe d a b : Statement (.bfe d a b) :=
  enc3_lt d 16 a 8 b 0 (by decide)
theorem bfi d a b : Statement (.bfi d a b) :=
  enc3_lt d 16 a 8 b 0 (by decide)
theorem mulw d a b : Statement (.mulw d a b) :=
  enc3_lt d 16 a 8 b 0 (by decide)
theorem dot2 d a b : Statement (.dot2 d a b) :=
  enc3_lt d 16 a 8 b 0 (by decide)
theorem dot4 d a b : Statement (.dot4 d a b) :=
  enc3_lt d 16 a 8 b 0 (by decide)
theorem addc d a b : Statement (.addc d a b) :=
  enc3_lt d 16 a 8 b 0 (by decide)
theorem subb d a b : Statement (.subb d a b) :=
  enc3_lt d 16 a 8 b 0 (by decide)
theorem pack d a b : Statement (.pack d a b) :=
  enc3_lt d 16 a 8 b 0 (by decide)
theorem unplo d a : Statement (.unplo d a) :=
  enc2_lt d 16 a 8 (by decide)
theorem unphi d a : Statement (.unphi d a) :=
  enc2_lt d 16 a 8 (by decide)
theorem clamp d a b : Statement (.clamp d a b) :=
  enc3_lt d 16 a 8 b 0 (by decide)
theorem csgn d a b : Statement (.csgn d a b) :=
  enc3_lt d 16 a 8 b 0 (by decide)
theorem fract d a : Statement (.fract d a) :=
  enc2_lt d 16 a 8 (by decide)
theorem rnd d a : Statement (.rnd d a) :=
  enc2_lt d 16 a 8 (by decide)
theorem scl d a b : Statement (.scl d a b) :=
  enc3_lt d 16 a 8 b 0 (by decide)
theorem rcp d a : Statement (.rcp d a) :=
  enc2_lt d 16 a 8 (by decide)
theorem rsq d a : Statement (.rsq d a) :=
  enc2_lt d 16 a 8 (by decide)
theorem sqrt d a : Statement (.sqrt d a) :=
  enc2_lt d 16 a 8 (by decide)
theorem exp2 d a : Statement (.exp2 d a) :=
  enc2_lt d 16 a 8 (by decide)
theorem log2 d a : Statement (.log2 d a) :=
  enc2_lt d 16 a 8 (by decide)
theorem sin d a : Statement (.sin d a) :=
  enc2_lt d 16 a 8 (by decide)
theorem cos d a : Statement (.cos d a) :=
  enc2_lt d 16 a 8 (by decide)
theorem tanh d a : Statement (.tanh d a) :=
  enc2_lt d 16 a 8 (by decide)
theorem sigm d a : Statement (.sigm d a) :=
  enc2_lt d 16 a 8 (by decide)
theorem div d a b : Statement (.div d a b) :=
  enc3_lt d 16 a 8 b 0 (by decide)
theorem erf d a : Statement (.erf d a) :=
  enc2_lt d 16 a 8 (by decide)
theorem shfl d a b : Statement (.shfl d a b) :=
  enc3_lt d 16 a 8 b 0 (by decide)
theorem shup d a b : Statement (.shup d a b) :=
  enc3_lt d 16 a 8 b 0 (by decide)
theorem shdn d a b : Statement (.shdn d a b) :=
  enc3_lt d 16 a 8 b 0 (by decide)
theorem shxr d a b : Statement (.shxr d a b) :=
  enc3_lt d 16 a 8 b 0 (by decide)
theorem vall p q : Statement (.vall p q) :=
  enc2_lt p 16 q 8 (by decide)
theorem vany p q : Statement (.vany p q) :=
  enc2_lt p 16 q 8 (by decide)
theorem blt d q : Statement (.blt d q) :=
  enc2_lt d 16 q 8 (by decide)
theorem radd d a : Statement (.radd d a) :=
  enc2_lt d 16 a 8 (by decide)
theorem rmin d a : Statement (.rmin d a) :=
  enc2_lt d 16 a 8 (by decide)
theorem rmax d a : Statement (.rmax d a) :=
  enc2_lt d 16 a 8 (by decide)
theorem psum d a ex : Statement (.psum d a ex) :=
  enc3_lt d 16 a 8 ex 0 (by decide)
theorem mtch d a : Statement (.mtch d a) :=
  enc2_lt d 16 a 8 (by decide)
theorem conf d a : Statement (.conf d a) :=
  enc2_lt d 16 a 8 (by decide)
theorem bcst d a : Statement (.bcst d a) :=
  enc2_lt d 16 a 8 (by decide)
theorem ld d a b : Statement (.ld d a b) :=
  enc3_lt d 16 a 8 b 0 (by decide)
theorem st d a b : Statement (.st d a b) :=
  enc3_lt d 16 a 8 b 0 (by decide)
theorem ldq d a b : Statement (.ldq d a b) :=
  enc3_lt d 16 a 8 b 0 (by decide)
theorem stq d a b : Statement (.stq d a b) :=
  enc3_lt d 16 a 8 b 0 (by decide)
theorem ldacq d a b : Statement (.ldacq d a b) :=
  enc3_lt d 16 a 8 b 0 (by decide)
theorem strel d a b : Statement (.strel d a b) :=
  enc3_lt d 16 a 8 b 0 (by decide)
theorem ldref d a b : Statement (.ldref d a b) :=
  enc3_lt d 16 a 8 b 0 (by decide)
theorem stref d a b : Statement (.stref d a b) :=
  enc3_lt d 16 a 8 b 0 (by decide)
theorem pub d a b : Statement (.pub d a b) :=
  enc3_lt d 16 a 8 b 0 (by decide)
theorem aadd d a b : Statement (.aadd d a b) :=
  enc3_lt d 16 a 8 b 0 (by decide)
theorem amin d a b : Statement (.amin d a b) :=
  enc3_lt d 16 a 8 b 0 (by decide)
theorem amax d a b : Statement (.amax d a b) :=
  enc3_lt d 16 a 8 b 0 (by decide)
theorem aand d a b : Statement (.aand d a b) :=
  enc3_lt d 16 a 8 b 0 (by decide)
theorem aor d a b : Statement (.aor d a b) :=
  enc3_lt d 16 a 8 b 0 (by decide)
theorem axor d a b : Statement (.axor d a b) :=
  enc3_lt d 16 a 8 b 0 (by decide)
theorem axch d a b : Statement (.axch d a b) :=
  enc3_lt d 16 a 8 b 0 (by decide)
theorem acas d a b : Statement (.acas d a b) :=
  enc3_lt d 16 a 8 b 0 (by decide)
theorem ainc d a b : Statement (.ainc d a b) :=
  enc3_lt d 16 a 8 b 0 (by decide)
theorem gred a b : Statement (.gred a b) :=
  enc2_lt a 8 b 0 (by decide)
theorem gmin a b : Statement (.gmin a b) :=
  enc2_lt a 8 b 0 (by decide)
theorem gmax a b : Statement (.gmax a b) :=
  enc2_lt a 8 b 0 (by decide)
theorem gth d a k : Statement (.gth d a k) :=
  enc3_lt d 16 a 8 k 1 (by decide)
theorem sct d a k : Statement (.sct d a k) :=
  enc3_lt d 16 a 8 k 1 (by decide)
theorem scad d a k : Statement (.scad d a k) :=
  enc3_lt d 16 a 8 k 1 (by decide)
theorem gthh d a k : Statement (.gthh d a k) :=
  enc3_lt d 16 a 8 k 1 (by decide)
theorem pref a b : Statement (.pref a b) :=
  enc2_lt a 8 b 0 (by decide)
theorem ohdr d a b : Statement (.ohdr d a b) :=
  enc3_lt d 16 a 8 b 0 (by decide)
theorem accrd d a : Statement (.accrd d a) :=
  enc2_lt d 16 a 8 (by decide)
theorem accwr d a : Statement (.accwr d a) :=
  enc2_lt d 16 a 8 (by decide)
theorem rkrd d a : Statement (.rkrd d a) :=
  enc2_lt d 16 a 8 (by decide)
theorem tw d a b : Statement (.tw d a b) :=
  enc3_lt d 16 a 8 b 0 (by decide)
theorem twi d a b : Statement (.twi d a b) :=
  enc3_lt d 16 a 8 b 0 (by decide)
theorem addi d a imm : Statement (.addi d a imm) :=
  enc3_lt d 18 a 10 imm 0 (by decide)
theorem andi d a imm : Statement (.andi d a imm) :=
  enc3_lt d 18 a 10 imm 0 (by decide)
theorem ori d a imm : Statement (.ori d a imm) :=
  enc3_lt d 18 a 10 imm 0 (by decide)
theorem xori d a imm : Statement (.xori d a imm) :=
  enc3_lt d 18 a 10 imm 0 (by decide)
theorem shli d a imm : Statement (.shli d a imm) :=
  enc3_lt d 18 a 10 imm 0 (by decide)
theorem shri d a imm : Statement (.shri d a imm) :=
  enc3_lt d 18 a 10 imm 0 (by decide)
theorem ceqi p a imm : Statement (.ceqi p a imm) :=
  enc3_lt p 18 a 10 imm 0 (by decide)
theorem clti p a imm : Statement (.clti p a imm) :=
  enc3_lt p 18 a 10 imm 0 (by decide)
theorem cgti p a imm : Statement (.cgti p a imm) :=
  enc3_lt p 18 a 10 imm 0 (by decide)
theorem ldi d a imm : Statement (.ldi d a imm) :=
  enc3_lt d 18 a 10 imm 0 (by decide)
theorem sti d a imm : Statement (.sti d a imm) :=
  enc3_lt d 18 a 10 imm 0 (by decide)
theorem muli d a imm : Statement (.muli d a imm) :=
  enc3_lt d 18 a 10 imm 0 (by decide)
theorem mini d a imm : Statement (.mini d a imm) :=
  enc3_lt d 18 a 10 imm 0 (by decide)
theorem maxi d a imm : Statement (.maxi d a imm) :=
  enc3_lt d 18 a 10 imm 0 (by decide)
theorem sAdd sd sa sb : Statement (.sAdd sd sa sb) :=
  enc3_lt sd 16 sa 10 sb 4 (by decide)
theorem sSub sd sa sb : Statement (.sSub sd sa sb) :=
  enc3_lt sd 16 sa 10 sb 4 (by decide)
theorem sMul sd sa sb : Statement (.sMul sd sa sb) :=
  enc3_lt sd 16 sa 10 sb 4 (by decide)
theorem sMulh sd sa sb : Statement (.sMulh sd sa sb) :=
  enc3_lt sd 16 sa 10 sb 4 (by decide)
theorem sAnd sd sa sb : Statement (.sAnd sd sa sb) :=
  enc3_lt sd 16 sa 10 sb 4 (by decide)
theorem sOr sd sa sb : Statement (.sOr sd sa sb) :=
  enc3_lt sd 16 sa 10 sb 4 (by decide)
theorem sXor sd sa sb : Statement (.sXor sd sa sb) :=
  enc3_lt sd 16 sa 10 sb 4 (by decide)
theorem sShl sd sa sb : Statement (.sShl sd sa sb) :=
  enc3_lt sd 16 sa 10 sb 4 (by decide)
theorem sShr sd sa sb : Statement (.sShr sd sa sb) :=
  enc3_lt sd 16 sa 10 sb 4 (by decide)
theorem sSar sd sa sb : Statement (.sSar sd sa sb) :=
  enc3_lt sd 16 sa 10 sb 4 (by decide)
theorem sMin sd sa sb : Statement (.sMin sd sa sb) :=
  enc3_lt sd 16 sa 10 sb 4 (by decide)
theorem sMax sd sa sb : Statement (.sMax sd sa sb) :=
  enc3_lt sd 16 sa 10 sb 4 (by decide)
theorem sMinu sd sa sb : Statement (.sMinu sd sa sb) :=
  enc3_lt sd 16 sa 10 sb 4 (by decide)
theorem sMaxu sd sa sb : Statement (.sMaxu sd sa sb) :=
  enc3_lt sd 16 sa 10 sb 4 (by decide)
theorem sMov sd sa : Statement (.sMov sd sa) :=
  enc2_lt sd 16 sa 10 (by decide)
theorem sCeq sd sa sb : Statement (.sCeq sd sa sb) :=
  enc3_lt sd 16 sa 10 sb 4 (by decide)
theorem sClt sd sa sb : Statement (.sClt sd sa sb) :=
  enc3_lt sd 16 sa 10 sb 4 (by decide)
theorem sCltu sd sa sb : Statement (.sCltu sd sa sb) :=
  enc3_lt sd 16 sa 10 sb 4 (by decide)
theorem sAddi sd sa imm : Statement (.sAddi sd sa imm) :=
  enc3_lt sd 16 sa 10 imm 0 (by decide)
theorem sAndi sd sa imm : Statement (.sAndi sd sa imm) :=
  enc3_lt sd 16 sa 10 imm 0 (by decide)
theorem sOri sd sa imm : Statement (.sOri sd sa imm) :=
  enc3_lt sd 16 sa 10 imm 0 (by decide)
theorem sXori sd sa imm : Statement (.sXori sd sa imm) :=
  enc3_lt sd 16 sa 10 imm 0 (by decide)
theorem sShli sd sa imm : Statement (.sShli sd sa imm) :=
  enc3_lt sd 16 sa 10 imm 0 (by decide)
theorem sShri sd sa imm : Statement (.sShri sd sa imm) :=
  enc3_lt sd 16 sa 10 imm 0 (by decide)
theorem sMuli sd sa imm : Statement (.sMuli sd sa imm) :=
  enc3_lt sd 16 sa 10 imm 0 (by decide)
theorem sLd sd sa imm : Statement (.sLd sd sa imm) :=
  enc3_lt sd 16 sa 10 imm 0 (by decide)
theorem sLd32 sd sa imm : Statement (.sLd32 sd sa imm) :=
  enc3_lt sd 16 sa 10 imm 0 (by decide)
theorem sSt sd sa imm : Statement (.sSt sd sa imm) :=
  enc3_lt sd 16 sa 10 imm 0 (by decide)
theorem sSt32 sd sa imm : Statement (.sSt32 sd sa imm) :=
  enc3_lt sd 16 sa 10 imm 0 (by decide)
theorem sLdacq sd sa imm : Statement (.sLdacq sd sa imm) :=
  enc3_lt sd 16 sa 10 imm 0 (by decide)
theorem sStrel sd sa imm : Statement (.sStrel sd sa imm) :=
  enc3_lt sd 16 sa 10 imm 0 (by decide)
theorem sAadd sd sa sb w : Statement (.sAadd sd sa sb w) :=
  enc4_lt sd 16 sa 10 sb 4 w 0 (by decide)
theorem sAcas sd sa sb w : Statement (.sAcas sd sa sb w) :=
  enc4_lt sd 16 sa 10 sb 4 w 0 (by decide)
theorem sRdl sd r lane : Statement (.sRdl sd r lane) :=
  enc3_lt sd 16 r 8 lane 0 (by decide)
theorem sSrd sd idx : Statement (.sSrd sd idx) :=
  enc2_lt sd 16 idx 0 (by decide)
theorem sSwr idx sa : Statement (.sSwr idx sa) :=
  enc2_lt idx 0 sa 10 (by decide)
theorem pAnd pd pa pb : Statement (.pAnd pd pa pb) :=
  enc3_lt pd 16 pa 10 pb 4 (by decide)
theorem pOr pd pa pb : Statement (.pOr pd pa pb) :=
  enc3_lt pd 16 pa 10 pb 4 (by decide)
theorem pXor pd pa pb : Statement (.pXor pd pa pb) :=
  enc3_lt pd 16 pa 10 pb 4 (by decide)
theorem pAndn pd pa pb : Statement (.pAndn pd pa pb) :=
  enc3_lt pd 16 pa 10 pb 4 (by decide)
theorem pNot pd pa : Statement (.pNot pd pa) :=
  enc2_lt pd 16 pa 10 (by decide)
theorem pMov pd sa : Statement (.pMov pd sa) :=
  enc2_lt pd 16 sa 10 (by decide)
theorem pGet sd pa : Statement (.pGet sd pa) :=
  enc2_lt sd 16 pa 10 (by decide)
theorem pPop sd pa : Statement (.pPop sd pa) :=
  enc2_lt sd 16 pa 10 (by decide)
theorem pFfs sd pa : Statement (.pFfs sd pa) :=
  enc2_lt sd 16 pa 10 (by decide)
theorem part imm : Statement (.part imm) :=
  enc1_lt imm 0 (by decide)
theorem acb sa imm : Statement (.acb sa imm) :=
  enc2_lt sa 10 imm 0 (by decide)
theorem msf val code : Statement (.msf val code) :=
  enc2_lt val 4 code 0 (by decide)
theorem sPopc sd sa : Statement (.sPopc sd sa) :=
  enc2_lt sd 16 sa 10 (by decide)
theorem sClz sd sa : Statement (.sClz sd sa) :=
  enc2_lt sd 16 sa 10 (by decide)
theorem bra off : Statement (.bra off) :=
  enc1_lt off 0 (by decide)
theorem brd c off : Statement (.brd c off) :=
  enc2_lt c 20 off 0 (by decide)
theorem brdx c off : Statement (.brdx c off) :=
  enc2_lt c 20 off 0 (by decide)
theorem bany c off : Statement (.bany c off) :=
  enc2_lt c 20 off 0 (by decide)
theorem ball c off : Statement (.ball c off) :=
  enc2_lt c 20 off 0 (by decide)
theorem bnon c off : Statement (.bnon c off) :=
  enc2_lt c 20 off 0 (by decide)
theorem mark off : Statement (.mark off) :=
  enc1_lt off 0 (by decide)
theorem call off : Statement (.call off) :=
  enc1_lt off 0 (by decide)
theorem jr c : Statement (.jr c) :=
  enc1_lt c 20 (by decide)
theorem loop c off : Statement (.loop c off) :=
  enc2_lt c 20 off 0 (by decide)
theorem wait mask : Statement (.wait mask) :=
  enc1_lt mask 0 (by decide)
theorem sbr c off : Statement (.sbr c off) :=
  enc2_lt c 20 off 0 (by decide)
theorem liV d imm : Statement (.liV d imm) :=
  enc2_lt d 18 imm 0 (by decide)
theorem luiV d imm : Statement (.luiV d imm) :=
  enc2_lt d 18 imm 0 (by decide)
theorem liS sd imm : Statement (.liS sd imm) :=
  enc2_lt sd 20 imm 0 (by decide)
theorem mode image : Statement (.mode image) :=
  enc1_lt image 0 (by decide)
theorem mm hA hB slot off z : Statement (.mm hA hB slot off z) :=
  enc5_lt hA 16 hB 12 slot 9 off 4 z 3 (by decide)
theorem mmsp hA hB slot m z : Statement (.mmsp hA hB slot m z) :=
  enc5_lt hA 16 hB 12 slot 9 m 1 z 0 (by decide)
theorem mmg hA hB slot x z : Statement (.mmg hA hB slot x z) :=
  enc5_lt hA 16 hB 12 slot 9 x 1 z 0 (by decide)
theorem mmrk hA hB slot off : Statement (.mmrk hA hB slot off) :=
  enc4_lt hA 16 hB 12 slot 9 off 4 (by decide)
theorem spcmp hS hD slot m : Statement (.spcmp hS hD slot m) :=
  enc4_lt hS 16 hD 12 slot 9 m 1 (by decide)
theorem accclr n off : Statement (.accclr n off) :=
  enc2_lt n 16 off 4 (by decide)
theorem accdcl k off : Statement (.accdcl k off) :=
  enc2_lt k 14 off 4 (by decide)
theorem accdclU k off : Statement (.accdclU k off) :=
  enc2_lt k 14 off 4 (by decide)
theorem accst h slot off : Statement (.accst h slot off) :=
  enc3_lt h 16 slot 9 off 4 (by decide)
theorem accld h slot off : Statement (.accld h slot off) :=
  enc3_lt h 16 slot 9 off 4 (by decide)
theorem rkbnd z b off : Statement (.rkbnd z b off) :=
  enc3_lt z 17 b 9 off 4 (by decide)
theorem rkmrg sa off : Statement (.rkmrg sa off) :=
  enc2_lt sa 14 off 4 (by decide)
theorem rkst sa off : Statement (.rkst sa off) :=
  enc2_lt sa 14 off 4 (by decide)
theorem rkstM sa off : Statement (.rkstM sa off) :=
  enc2_lt sa 14 off 4 (by decide)
theorem zset z imm : Statement (.zset z imm) :=
  enc2_lt z 17 imm 0 (by decide)
theorem zlog z za zb fn : Statement (.zlog z za zb fn) :=
  enc4_lt z 17 za 14 zb 11 fn 0 (by decide)
theorem ztst z p : Statement (.ztst z p) :=
  enc2_lt z 17 p 14 (by decide)
theorem hset h sa sb st : Statement (.hset h sa sb st) :=
  enc4_lt h 16 sa 10 sb 4 st 3 (by decide)
theorem hadj h sa sl : Statement (.hadj h sa sl) :=
  enc3_lt h 16 sa 10 sl 8 (by decide)
theorem cpk sa n : Statement (.cpk sa n) :=
  enc2_lt sa 14 n 0 (by decide)
theorem cpcl res sd : Statement (.cpcl res sd) :=
  enc2_lt res 19 sd 13 (by decide)
theorem cpwt res sd rel sa k : Statement (.cpwt res sd rel sa k) :=
  enc5_lt res 19 sd 13 rel 12 sa 6 k 0 (by decide)
theorem arin sa sb : Statement (.arin sa sb) :=
  enc2_lt sa 14 sb 8 (by decide)
theorem arinSet sa sb : Statement (.arinSet sa sb) :=
  enc2_lt sa 14 sb 8 (by decide)
theorem arwt sa : Statement (.arwt sa) :=
  enc1_lt sa 14 (by decide)
theorem bar id cnt sa : Statement (.bar id cnt sa) :=
  enc3_lt id 16 cnt 15 sa 9 (by decide)
theorem bara id cnt sa : Statement (.bara id cnt sa) :=
  enc3_lt id 16 cnt 15 sa 9 (by decide)
theorem barw id : Statement (.barw id) :=
  enc1_lt id 16 (by decide)
theorem schn sd : Statement (.schn sd) :=
  enc1_lt sd 14 (by decide)
theorem schd sa : Statement (.schd sa) :=
  enc1_lt sa 14 (by decide)
theorem schp sd : Statement (.schp sd) :=
  enc1_lt sd 14 (by decide)
theorem schs idx sa : Statement (.schs idx sa) :=
  enc2_lt idx 12 sa 6 (by decide)
theorem schh sa sb sc : Statement (.schh sa sb sc) :=
  enc3_lt sa 14 sb 8 sc 2 (by decide)
theorem schq idx sd : Statement (.schq idx sd) :=
  enc2_lt idx 12 sd 6 (by decide)
theorem rpush d sa sb : Statement (.rpush d sa sb) :=
  enc3_lt d 12 sa 6 sb 0 (by decide)
theorem rpop d p w : Statement (.rpop d p w) :=
  enc3_lt d 12 p 9 w 8 (by decide)
theorem dadd sa sb : Statement (.dadd sa sb) :=
  enc2_lt sa 14 sb 8 (by decide)
theorem ddec sa sb : Statement (.ddec sa sb) :=
  enc2_lt sa 14 sb 8 (by decide)
theorem launch sa : Statement (.launch sa) :=
  enc1_lt sa 14 (by decide)
theorem amsd a sb sc : Statement (.amsd a sb sc) :=
  enc3_lt a 12 sb 6 sc 0 (by decide)
theorem bwt sa sb cond : Statement (.bwt sa sb cond) :=
  enc3_lt sa 14 sb 8 cond 6 (by decide)
theorem bwk sa sb : Statement (.bwk sa sb) :=
  enc2_lt sa 14 sb 8 (by decide)
theorem rdon sa n : Statement (.rdon sa n) :=
  enc2_lt sa 14 n 9 (by decide)
theorem racc sa : Statement (.racc sa) :=
  enc1_lt sa 14 (by decide)
theorem fence scope kind : Statement (.fence scope kind) :=
  enc2_lt scope 18 kind 16 (by decide)
theorem trap imm : Statement (.trap imm) :=
  enc1_lt imm 0 (by decide)
theorem pmap sd sa sb : Statement (.pmap sd sa sb) :=
  enc3_lt sd 14 sa 8 sb 2 (by decide)
theorem pumap sa sb : Statement (.pumap sa sb) :=
  enc2_lt sa 14 sb 8 (by decide)
theorem tinv sa sb : Statement (.tinv sa sb) :=
  enc2_lt sa 14 sb 8 (by decide)
theorem pool sd sa : Statement (.pool sd sa) :=
  enc2_lt sd 14 sa 8 (by decide)
theorem poolPush sa sb : Statement (.poolPush sa sb) :=
  enc2_lt sa 8 sb 2 (by decide)
theorem l1wb rng sa sb : Statement (.l1wb rng sa sb) :=
  enc3_lt rng 19 sa 13 sb 7 (by decide)
theorem l1inv rng sa sb : Statement (.l1inv rng sa sb) :=
  enc3_lt rng 19 sa 13 sb 7 (by decide)
theorem join : Statement .join := by intro w h; cases h; decide
theorem regang : Statement .regang := by intro w h; cases h; decide
theorem ret : Statement .ret := by intro w h; cases h; decide
theorem exit : Statement .exit := by intro w h; cases h; decide
theorem spfen : Statement .spfen := by intro w h; cases h; decide
theorem schc : Statement .schc := by intro w h; cases h; decide
theorem yld : Statement .yld := by intro w h; cases h; decide
theorem tret : Statement .tret := by intro w h; cases h; decide
theorem brk : Statement .brk := by intro w h; cases h; decide
theorem nop : Statement .nop := by intro w h; cases h; decide
theorem halt : Statement .halt := by intro w h; cases h; decide
theorem wakeRegisterWrite : Statement .wakeRegisterWrite := by intro w h; cases h
theorem nopPacket : Statement .nopPacket := by intro w h; cases h
theorem launchPacket : Statement .launchPacket := by intro w h; cases h
theorem graphPacket : Statement .graphPacket := by intro w h; cases h
theorem copyPacket : Statement .copyPacket := by intro w h; cases h
theorem signalPacket : Statement .signalPacket := by intro w h; cases h
theorem waitmemPacket : Statement .waitmemPacket := by intro w h; cases h
theorem releasePacket : Statement .releasePacket := by intro w h; cases h
theorem acquirePacket : Statement .acquirePacket := by intro w h; cases h
theorem fencePacket : Statement .fencePacket := by intro w h; cases h
theorem timePacket : Statement .timePacket := by intro w h; cases h
theorem invalPacket : Statement .invalPacket := by intro w h; cases h
theorem queueCreation : Statement .queueCreation := by intro w h; cases h
theorem refetch : Statement .refetch := by intro w h; cases h
theorem skip : Statement .skip := by intro w h; cases h
theorem linkBinding : Statement .linkBinding := by intro w h; cases h
theorem debugResume : Statement .debugResume := by intro w h; cases h
theorem accumulatorQuotaDivision : Statement .accumulatorQuotaDivision := by intro w h; cases h
theorem attestationRequest : Statement .attestationRequest := by intro w h; cases h
theorem firmwareImageWrite : Statement .firmwareImageWrite := by intro w h; cases h
theorem regionRegistration : Statement .regionRegistration := by intro w h; cases h
theorem queueRemap : Statement .queueRemap := by intro w h; cases h
theorem start : Statement .start := by intro w h; cases h
theorem failedStartCounterClear : Statement .failedStartCounterClear := by intro w h; cases h
theorem throttling : Statement .throttling := by intro w h; cases h
theorem shutdown : Statement .shutdown := by intro w h; cases h
theorem doubledRefresh : Statement .doubledRefresh := by intro w h; cases h
theorem drain : Statement .drain := by intro w h; cases h
theorem lossNotice : Statement .lossNotice := by intro w h; cases h
theorem portDown : Statement .portDown := by intro w h; cases h
theorem rdmaWrite : Statement .rdmaWrite := by intro w h; cases h
theorem rdmaRead : Statement .rdmaRead := by intro w h; cases h
theorem fetchAndAdd : Statement .fetchAndAdd := by intro w h; cases h
theorem compareAndSwap : Statement .compareAndSwap := by intro w h; cases h
theorem rdmaSend : Statement .rdmaSend := by intro w h; cases h
theorem rnrNak : Statement .rnrNak := by intro w h; cases h
theorem sendAcknowledgement : Statement .sendAcknowledgement := by intro w h; cases h
theorem activeMessageHandlerStart : Statement .activeMessageHandlerStart := by intro w h; cases h
theorem migctlGo : Statement .migctlGo := by intro w h; cases h
theorem migctlEn : Statement .migctlEn := by intro w h; cases h
theorem migctlDoneClear : Statement .migctlDoneClear := by intro w h; cases h
theorem migrationLineCopy : Statement .migrationLineCopy := by intro w h; cases h
theorem deviceRegisterWrite : Statement .deviceRegisterWrite := by intro w h; cases h
theorem translationWalk : Statement .translationWalk := by intro w h; cases h
theorem homeSliceRequest : Statement .homeSliceRequest := by intro w h; cases h
theorem mergeWindowExpiry : Statement .mergeWindowExpiry := by intro w h; cases h
theorem collectorCommit : Statement .collectorCommit := by intro w h; cases h
theorem memoryReply : Statement .memoryReply := by intro w h; cases h
theorem copyIssue : Statement .copyIssue := by intro w h; cases h
theorem copyGranuleWrite : Statement .copyGranuleWrite := by intro w h; cases h
theorem copyCompletion : Statement .copyCompletion := by intro w h; cases h
theorem faultDelivery : Statement .faultDelivery := by intro w h; cases h
theorem publicationWalk : Statement .publicationWalk := by intro w h; cases h
theorem objectScan : Statement .objectScan := by intro w h; cases h
theorem flipPhase : Statement .flipPhase := by intro w h; cases h
theorem finalStore : Statement .finalStore := by intro w h; cases h
theorem launchAcceptance : Statement .launchAcceptance := by intro w h; cases h
theorem blockStart : Statement .blockStart := by intro w h; cases h
theorem cadenceStep : Statement .cadenceStep := by intro w h; cases h
theorem blockEnd : Statement .blockEnd := by intro w h; cases h
theorem gridRetirement : Statement .gridRetirement := by intro w h; cases h
theorem quantumExpiry : Statement .quantumExpiry := by intro w h; cases h
theorem blockRestore : Statement .blockRestore := by intro w h; cases h
theorem nodeTimerExpiry : Statement .nodeTimerExpiry := by intro w h; cases h
theorem waitWordReread : Statement .waitWordReread := by intro w h; cases h
theorem issuePromotion : Statement .issuePromotion := by intro w h; cases h
theorem yieldExpiry : Statement .yieldExpiry := by intro w h; cases h
theorem joinStackRefill : Statement .joinStackRefill := by intro w h; cases h
theorem registerPull : Statement .registerPull := by intro w h; cases h
theorem exportReturn : Statement .exportReturn := by intro w h; cases h
theorem poolRefill : Statement .poolRefill := by intro w h; cases h
theorem quarterOperationCompletion : Statement .quarterOperationCompletion := by intro w h; cases h
theorem longLatencyResult : Statement .longLatencyResult := by intro w h; cases h
theorem powerLoss : Statement .powerLoss := by intro w h; cases h
theorem lmsKeyProvisioning : Statement .lmsKeyProvisioning := by intro w h; cases h
theorem priorityFlowControl : Statement .priorityFlowControl := by intro w h; cases h
theorem ecnMarking : Statement .ecnMarking := by intro w h; cases h

end Sys2Proof.Laws.Shape
end

