-- ==== Sys2Proof/Laws/Translate.lean ====
section
/-!
SUPPORT. Laws of translation: a walk that ends at a leaf gives that leaf for every address of the same 64 KiB page (01
R26), and where nothing is cached, no outage lasts and no line is poisoned, an access is translated by its page's leaf and
reads physical memory.
-/
namespace Sys2Proof.Machine

theorem bits_page {v v' lo n : Nat} (h : v / 0x10000 = v' / 0x10000) (hl : 16 ≤ lo) : bits v lo n = bits v' lo n := by
  obtain ⟨k, rfl⟩ := Nat.exists_eq_add_of_le hl
  simp only [bits, Nat.pow_add, ← Nat.div_div_eq_div_mul]
  rw [show 2 ^ 16 = 0x10000 from rfl, h]

theorem effAsid_page {asid v v' : Nat} (h : v / 0x10000 = v' / 0x10000) : effAsid asid v = effAsid asid v' := by
  have := bits_page (n := 1) h (show 16 ≤ 55 by decide)
  simp only [bits, Nat.pow_one] at this
  unfold effAsid bit
  rw [this]

theorem asidRoot_va {s : State} {asid t : Nat} {va va' : W64} (h : asidRoot s asid va = .ok t) : asidRoot s asid va' = .ok t := by
  unfold asidRoot at h ⊢
  simp only at h ⊢
  repeat' split at h
  all_goals simp_all

/-- Nothing is cached: no line, no translation and no table entry; no die is cut off, no outage lasts and no line is
poisoned. -/
structure Uncached (s : State) : Prop where
  l1 : s.l1 = []
  l2 : s.l2 = []
  tlb : s.tlb = []
  wcache : s.wcache = []
  cutoff : s.cutoff = []
  outage : s.outage = none
  poison : s.poison = []

/-- With no walk-cache entry a walk reads its table entries in memory. -/
theorem tableEntry_eq {s : State} (h : s.wcache = []) (k : Walker) (level pa : Nat) :
    tableEntry s k level pa = physRead s pa 8 := by simp [tableEntry, wcacheFind, h]

theorem walkPointer_va {s : State} {e level : Nat} {va va' : W64} {r : Nat ⊕ Leaf}
    (h : walkPointer s e level va = .ok r) : walkPointer s e level va' = .ok r := by
  unfold walkPointer at h ⊢
  repeat' split at h
  all_goals simp_all

theorem checkLeaf3_va {s : State} {e size : Nat} {first : Bool} {va va' : W64} {l : Leaf}
    (h : checkLeaf3 s e size first va = .ok l) : checkLeaf3 s e size first va' = .ok l := by
  unfold checkLeaf3 at h ⊢
  repeat' split at h
  all_goals simp_all

theorem walkTable_page {s : State} {asid : Nat} {va va' : W64} {hub hub' : Bool} {r : Nat ⊕ Leaf} (hw : s.wcache = [])
    (hp : vaOf va / 0x10000 = vaOf va' / 0x10000) (h : walkTable s asid va hub = .ok r) :
    walkTable s asid va' hub' = .ok r := by
  unfold walkTable at h ⊢
  simp only [tableEntry_eq hw] at h ⊢
  rw [← effAsid_page hp, ← bits_page hp (by decide : 16 ≤ 48), ← bits_page hp (by decide : 16 ≤ 39), ← bits_page hp (by decide : 16 ≤ 30)]
  split at h
  · cases h
  · rename_i t h0
    rw [asidRoot_va h0]
    simp only
    split at h
    · cases h
    · rename_i l h1
      rw [walkPointer_va h1]; exact h
    · rename_i t1 h1
      rw [walkPointer_va h1]
      simp only
      split at h
      · cases h
      · rename_i l h2
        rw [walkPointer_va h2]; exact h
      · rename_i t2 h2
        rw [walkPointer_va h2]; exact walkPointer_va h

/-- 01 R26: addresses of one page have one leaf. -/
theorem walk_page {s : State} {asid : Nat} {va va' : W64} {hub hub' : Bool} {l : Leaf} (hw : s.wcache = [])
    (hp : vaOf va / 0x10000 = vaOf va' / 0x10000) (h : walk s asid va hub = .ok l) : walk s asid va' hub' = .ok l := by
  unfold walk at h ⊢
  simp only at h ⊢
  split at h
  · cases h
  · rename_i l' h0
    rw [walkTable_page hw hp h0]; exact h
  · rename_i t h0
    rw [walkTable_page hw hp h0, ← bits_page hp (by decide : 16 ≤ 21), ← bits_page hp (by decide : 16 ≤ 16), ← bits_page hp (by decide : 16 ≤ 16)]
    simp only
    split
    · rename_i c; rw [if_pos c] at h; exact checkLeaf3_va h
    · rename_i c; rw [if_neg c] at h
      split
      · rename_i c; rw [if_pos c] at h; cases h
      · rename_i c; rw [if_neg c] at h
        split
        · rename_i c; rw [if_pos c] at h; split at h <;> cases h
        · rename_i c; rw [if_neg c] at h; exact checkLeaf3_va h

/-- An access of a page whose leaf allows it, where nothing is cached. -/
theorem translate_page {s : State} {asid : Nat} {user hub hub' : Bool} {k : Access} {va va' : W64} {n lvl : Nat} {l : Leaf}
    (hs : Uncached s) (hp : vaOf va / 0x10000 = vaOf va' / 0x10000)
    (h : walk s asid va hub = .ok l) (hd : denied l.e k user = none) :
    translate s asid user k va' n lvl hub' =
      .ok { asid := effAsid asid (vaOf va'), va := va', pa := leafPa s l (vaOf va'), n := n, leaf := l, hit := false } := by
  have hl : leafOf s asid va' hub' = .ok l := by simp [leafOf, tlbFind, hs.tlb, walk_page hs.wcache hp h]
  have hf : fabricFault s l.e k va' = none := by simp [fabricFault, hs.cutoff, hs.outage]
  have hh : lineHit s asid k va' n lvl = none := by simp [lineHit, l1Find, l2Find, hs.l1, hs.l2]
  simp [translate, hh, hl, hd, hf, eccFault, hs.poison]

/-- What bytes of a page read as, where nothing is cached. -/
theorem homeValueOf_page {s : State} {l : Leaf} (hs : Uncached s) (hm : isDevLeaf l.e = false) (a : Nat) (va : W64)
    (pa n : Nat) (hit : Bool) : homeValueOf s { asid := a, va := va, pa := pa, n := n, leaf := l, hit := hit } = physRead s pa n := by
  simp [homeValueOf, hm, l2Find, hs.l2]

/-- A byte of a page of global memory, by its number: its address, and that the page's leaf serves it. -/
theorem page_byte {v0 va n : Nat} (hg : isGlobal (BitVec.ofNat 64 v0) = true) (hv0 : v0 < 2 ^ 64)
    (a : va / 0x10000 = v0 / 0x10000) (b : (va + (n + 1) - 1) / 0x10000 = v0 / 0x10000) :
    vaOf (BitVec.ofNat 64 va) = va % 2 ^ 56 ∧ isGlobal (BitVec.ofNat 64 va) = true ∧
      BitVec.ofNat 64 va + 1 = BitVec.ofNat 64 (va + 1) ∧
      vaOf (BitVec.ofNat 64 v0) / 0x10000 = vaOf (BitVec.ofNat 64 va) / 0x10000 := by
  have e : (BitVec.ofNat 64 va).toNat = va := by rw [BitVec.toNat_ofNat]; omega
  have e0 : (BitVec.ofNat 64 v0).toNat = v0 := by rw [BitVec.toNat_ofNat]; omega
  have hv : vaOf (BitVec.ofNat 64 va) = va % 2 ^ 56 := by unfold vaOf; rw [e]
  have hv' : vaOf (BitVec.ofNat 64 v0) = v0 % 2 ^ 56 := by unfold vaOf; rw [e0]
  refine ⟨hv, ?_, by simp [BitVec.ofNat_add], by rw [hv, hv']; omega⟩
  unfold isGlobal bit at hg ⊢; simp only [e, e0] at hg ⊢
  rwa [show va / 2 ^ 56 = v0 / 2 ^ 56 by omega, show va / 2 ^ 55 = v0 / 2 ^ 55 by omega]

/-- A record that lies in one page reads as the bytes of the page's frame (01 R26, 06 R172). -/
theorem recordBytes_page {s : State} {asid : Nat} {user hub hub' : Bool} {v0 : Nat} {l : Leaf} (hs : Uncached s)
    (h : walk s asid (BitVec.ofNat 64 v0) hub = .ok l) (hd : denied l.e .read user = none) (hm : isDevLeaf l.e = false)
    (hg : isGlobal (BitVec.ofNat 64 v0) = true) (hv0 : v0 < 2 ^ 64) :
    ∀ (n va : Nat), (n ≠ 0 → va / 0x10000 = v0 / 0x10000) → (n ≠ 0 → (va + n - 1) / 0x10000 = v0 / 0x10000) →
      recordBytes s asid user hub' (BitVec.ofNat 64 va) n =
        .ok ((List.range n).map (fun k => BitVec.ofNat 8 (physRead s (leafPa s l ((va + k) % 2 ^ 56)) 1)))
  | 0, _, _, _ => rfl
  | n + 1, va, h0, h1 => by
    obtain ⟨hv, g, e1, hp⟩ := page_byte hg hv0 (h0 (by omega)) (h1 (by omega))
    have a := h0 (by omega)
    have b := h1 (by omega)
    have ih := recordBytes_page (hub' := hub') hs h hd hm hg hv0 n (va + 1) (fun _ => by omega) (fun _ => by omega)
    unfold recordBytes notGlobal
    rw [if_pos g]
    simp only [translate_page (n := 1) (lvl := 1) (hub' := hub') hs hp h hd, homeValueOf_page hs hm, e1, ih, hv,
      List.range_succ_eq_map, List.map_cons, List.map_map]
    congr 2
    exact List.map_congr_left (fun k _ => by simp [Nat.add_comm, Nat.add_left_comm])

/-- Bytes that an agent reads of one page of plain memory (01 R26, 15 R407). -/
theorem agentBytes_page {s : State} {asid : Nat} {hub : Bool} {v0 : Nat} {l : Leaf} (hs : Uncached s)
    (h : walk s asid (BitVec.ofNat 64 v0) hub = .ok l) (hd : denied l.e .read false = none) (hm : isDevLeaf l.e = false)
    (hg : isGlobal (BitVec.ofNat 64 v0) = true) (hv0 : v0 < 2 ^ 64) :
    ∀ (n va : Nat), (n ≠ 0 → va / 0x10000 = v0 / 0x10000) → (n ≠ 0 → (va + n - 1) / 0x10000 = v0 / 0x10000) →
      agentBytes s asid (BitVec.ofNat 64 va) n =
        .ok ((List.range n).map (fun k => BitVec.ofNat 8 (physRead s (leafPa s l ((va + k) % 2 ^ 56)) 1)))
  | 0, _, _, _ => rfl
  | n + 1, va, h0, h1 => by
    obtain ⟨hv, g, e1, hp⟩ := page_byte hg hv0 (h0 (by omega)) (h1 (by omega))
    have a := h0 (by omega)
    have b := h1 (by omega)
    have ih := agentBytes_page hs h hd hm hg hv0 n (va + 1) (fun _ => by omega) (fun _ => by omega)
    have hr : agentRead s asid (BitVec.ofNat 64 va) 1 = .ok (physRead s (leafPa s l (va % 2 ^ 56)) 1) := by
      unfold agentRead agentPlace notGlobal
      rw [if_pos g]
      simp only [translate_page (n := 1) (lvl := 1) (hub' := true) hs hp h hd, homeValueOf_page hs hm, hv]
    unfold agentBytes
    rw [hr, e1, ih]
    simp only [List.range_succ_eq_map, List.map_cons, List.map_map]
    congr 2
    exact List.map_congr_left (fun k _ => by simp [Nat.add_comm, Nat.add_left_comm])

end Sys2Proof.Machine
end

