-- ==== Sys2Proof/Tests/Slice0.lean ====
section
/-!
SUPPORT. Tests: words written out from the encoding tables, ill-formed words, single results worked out by hand from the
spec, and for the statements of `Certificates/Slice0/Obligations.lean` that have hypotheses states that meet them.
-/

namespace Sys2Proof.Tests
open Sys2Proof.Machine hiding Ready
open Sys2Proof.Machine.Num Sys2Proof.Claims
set_option Elab.async false

/-! ### States -/

/-- A fragment of every lane inside a clause of one word. -/
def frag : Frag :=
  { Frag.empty with pc := 0x10008, hdr := 0x10000, inClause := true, h0 := 0xFC003FC0, mask := 0xFFFFFFFF }

/-- Its warp, with a handler to run. -/
def warp : Warp := { Warp.empty with launched := 0xFFFFFFFF, allot := 216, tvec := 0x20000 }

/-- Its block, the running block of grid 1, with a window of 64 KiB. -/
def block : Block :=
  { Block.empty with uid := 1, gid := 1, nthreads := 32, st := .running, slots := [0], clusters := [0], cores := [0],
                     winSize := 0x10000, ntiles := 512 }

/-- Page tables of ASID 1: pages 0x10000 to 0x60000 are far frames 0x20 to 0x25, readable, writable, executable,
cacheable and open to user mode, 0x20000 an object page. -/
def pages : Memory :=
  [(0x20000000012, 0x10), (0x20000000015, 0x2), (0x20000000018, 0x1), (0x20000100000, 0x1), (0x20000100003, 0x1),
   (0x20000100004, 0x1), (0x20000100006, 0x20), (0x20000101000, 0x1), (0x20000101003, 0x2), (0x20000101004, 0x1),
   (0x20000101006, 0x20), (0x20000102000, 0x1), (0x20000102003, 0x20), (0x20000102004, 0x1), (0x20000102006, 0x20),
   (0x20000120008, 0x3F), (0x20000120009, 0x11), (0x2000012000B, 0x20), (0x20000120010, 0x7F), (0x20000120011, 0x11),
   (0x20000120013, 0x21), (0x20000120018, 0x3F), (0x20000120019, 0x11), (0x2000012001B, 0x22), (0x20000120020, 0x3F),
   (0x20000120021, 0x11), (0x20000120023, 0x23), (0x20000120028, 0x3F), (0x20000120029, 0x11), (0x2000012002B, 0x24),
   (0x20000120030, 0x3F), (0x20000120031, 0x11), (0x20000120033, 0x25)]

/-- The fragment runs in user privilege, with a carve-out of the far frames below 0x1000; `st` with scalars, a mode, and registers that hold a value for each lane. -/
def st : State :=
  { State.reset with f := frag, w := warp, blk := block, grids := [loadedGrid], uid := 3, mem := pages,
                     dev := { DevRegs.reset with asidbase := BitVec.ofNat 64 Config.farBase
                                                 objcfg := DevRegs.reset.objcfg.set 5 (0x1000, BitVec.ofNat 64 (Config.farBase + 0x40000000)) } }
def scalars (l : List (Nat × W64)) (s : State) : State := { s with w := { s.w with s := l } }
def withMode (m : BitVec 26) (s : State) : State := { s with f := { s.f with mode := m } }
def lanes (m : Lanes) (s : State) : State := { s with f := { s.f with mask := m } }
def regs (l : List (Nat × (Nat → Nat))) (s : State) : State :=
  { s with w := { s.w with v := l.flatMap (fun p => (List.range 32).filterMap (fun i =>
      if BitVec.ofNat 32 (p.2 i) = 0 then none else some (regKey p.1 i, BitVec.ofNat 32 (p.2 i)))) } }
def supervisor (s : State) : State := { s with f := { s.f with sup := true } }

/-- A property of every lane of a mask. -/
theorem lanes_forall {m : Lanes} {P : Nat → Prop} (h : ∀ l, l < 32 → m.getLsbD l = true → P l) :
    ∀ l, m.getLsbD l = true → P l := fun l hl => h l (BitVec.lt_of_getLsbD hl) hl

/-- Checks of what an evaluation answers. -/
def someAnd {α} (f : α → Bool) : Option α → Bool
  | some a => f a
  | none => false
def okAnd {ε α} (f : α → Bool) : Except ε α → Bool
  | .ok a => f a
  | .error _ => false
def nextAnd (f : State → Bool) : Host.Outcome State Fault Refusal → Bool
  | .next t => f t
  | _ => false

theorem some_of {α} {f : α → Bool} {o : Option α} (h : someAnd f o = true) : ∃ a, o = some a ∧ f a = true := by
  cases o with
  | none => exact absurd h Bool.false_ne_true
  | some a => exact ⟨a, rfl, h⟩
theorem ok_of {ε α} {f : α → Bool} {o : Except ε α} (h : okAnd f o = true) : ∃ a, o = .ok a ∧ f a = true := by
  cases o with
  | error e => exact absurd h Bool.false_ne_true
  | ok a => exact ⟨a, rfl, h⟩
theorem next_of {f : State → Bool} {o : Host.Outcome State Fault Refusal} (h : nextAnd f o = true) :
    ∃ t, o = .next t ∧ f t = true := by
  cases o with
  | next t => exact ⟨t, rfl, h⟩
  | fault e => exact absurd h Bool.false_ne_true
  | refused e => exact absurd h Bool.false_ne_true

/-- Equations of evaluations as checks. -/
def okIs {ε α} [DecidableEq α] (a : α) (e : Except ε α) : Bool := okAnd (fun b => decide (b = a)) e
theorem ok_iff {ε α} [DecidableEq α] {a : α} {e : Except ε α} : e = .ok a ↔ okIs a e = true := by
  cases e <;> simp [okIs, okAnd]

/-! ### Witnesses: the machine and its exceptions -/

/-- The first step of a loaded `s.add s5, s5, s32`. -/
def loaded : State := State.reset.withFetchWord 32 0xC0051600

/-- Its fragment, focused as `step` focuses it. -/
def loadedFront (c : Cand) : State :=
  let x := focus (ageWaiters (some c) loaded) c.blk c.wp c.ent
  { x with f := { x.f with waited := 0, promoted := none } }

theorem witness_StepRunsDecoded : ∃ c s' u i, running loaded = true ∧ loaded.agenda = [] ∧ choose loaded = some c ∧
    s' = (let x := focus (ageWaiters (some c) loaded) c.blk c.wp c.ent
          { x with f := { x.f with waited := 0, promoted := none } }) ∧
    (canWave s' s'.blk s'.w s'.f = false ∨ headerDone s' = true) ∧ s'.f.replay = none ∧ s'.f.inClause = true ∧ fetch s' s'.f.pc 4 = .ok (0xC0051600, u) ∧
    decodeTableWord 32 0xC0051600 = some i ∧ (isTransfer i = true → lastWord s'.f = true) := by
  obtain ⟨c, hc, h⟩ := some_of (o := choose loaded) (f := fun c => decide (canWave (loadedFront c) (loadedFront c).blk (loadedFront c).w (loadedFront c).f = false ∧
      (loadedFront c).f.replay = none ∧ (loadedFront c).f.inClause = true ∧ lastWord (loadedFront c).f = true) &&
    okAnd (fun p => p.1 == 0xC0051600) (fetch (loadedFront c) (loadedFront c).f.pc 4)) (by decide +kernel)
  obtain ⟨h, hf⟩ := Bool.and_eq_true_iff.mp h
  obtain ⟨⟨_, u⟩, hu, hw⟩ := ok_of hf
  obtain ⟨h1, h2, h3, h4⟩ := of_decide_eq_true h
  obtain rfl := eq_of_beq hw
  exact ⟨c, loadedFront c, u, .sAdd 5 5 32, by decide +kernel, by decide +kernel, hc, rfl, .inl h1, h2, h3, hu, by decide +kernel,
    fun _ => h4⟩

/-- A module at rest with one event due. -/
def due : State := { State.reset with agenda := [(.doubledRefresh, .unit 3)] }

theorem witness_StepPerformsDueEvents : running due = true ∧ due.agenda ≠ [] ∧ choose due = none ∧
    due.agenda[duePlace due (Config.eventPick due.tick % due.agenda.length)]? = some (.doubledRefresh, .unit 3) ∧
    admitted due .doubledRefresh = true := by
  refine ⟨by decide +kernel, by decide, by decide +kernel, ?_, by decide +kernel⟩
  have h : Config.eventPick due.tick % due.agenda.length = 0 := Nat.mod_one _
  rw [h]; decide +kernel

/-- A module that has lost its power. -/
def dark : State := { State.reset with trust := { State.reset.trust with powered := false, ready := false } }

theorem witness_StepStopsOnlyInReset :
    (running dark = false ∧ dark.agenda = []) ∧ running State.reset = true := by decide +kernel

theorem witness_MemoryStaysCanonical : Memory.wf loaded.mem = true ∧ ∃ t, step loaded = .next t :=
  have ⟨t, h, _⟩ := next_of (f := fun _ => true) (o := step loaded) (by decide +kernel)
  ⟨by decide +kernel, t, h⟩

theorem witness_DecodeEncode : (Instr.sAddi 6 6 0x3FF).wellFormed = true ∧
    Decode.encodeNat (.sAddi 6 6 0x3FF) = some 0xC4861BFF := by decide +kernel

/-- A part of the warp: the other lanes stand at a header. -/
def parted : State :=
  lanes 0xFF { st with w := { st.w with frags := [{ Frag.empty with ent := 1, pc := 0x10010, mask := 0xFFFFFF00 }] } }

theorem witness_DecodeFaultsAreDelivered :
    (∀ p ∈ [(Instr.mov 224 0, st, (1 : BitVec 8)), (.tret, st, 2), (.add 40 2 3, { st with w := { st.w with allot := 40 } }, 3),
            (.sAdd 5 5 32, parted, 4)],
      decodeFault p.1 p.2.1 = some p.2.2 ∧ TakesFaults p.2.1 ∧ p.2.1.f.replay = none) := by
  unfold TakesFaults; decide +kernel

theorem witness_DecodeFaultOrder :
    (Instr.mov 224 0).wellFormed = false ∧
    (decodeFault .tret st ≠ some 1 ∧ st.f.sup = false ∧ (operands st .tret).sup = true) ∧
    (decodeFault (.sAdd 56 5 32) st ≠ some 1 ∧ 56 ∈ (operands st (.sAdd 56 5 32)).sr ++ (operands st (.sAdd 56 5 32)).sw) ∧
    (decodeFault (.add 40 2 216) st ≠ some 1 ∧ (216, 1) ∈ (operands st (.add 40 2 216)).reads ++ (operands st (.add 40 2 216)).vw) ∧
    (let s := { st with w := { st.w with allot := 40 } }
     decodeFault (.add 40 2 3) s ≠ some 1 ∧ decodeFault (.add 40 2 3) s ≠ some 2 ∧
     (40, 1) ∈ (operands s (.add 40 2 3)).reads ++ (operands s (.add 40 2 3)).vw ∧ s.w.allot < 40 + 1) ∧
    (decodeFault (.sAdd 5 5 32) parted ≠ some 1 ∧ decodeFault (.sAdd 5 5 32) parted ≠ some 2 ∧
     decodeFault (.sAdd 5 5 32) parted ≠ some 3 ∧ parted.f.mask ≠ 0 ∧ parted.w.frags ≠ [] ∧
     5 ∈ (operands parted (.sAdd 5 5 32)).sw) := by decide +kernel

theorem witness_FaultsEscalate :
    (decodeFault (.mov 224 0) (supervisor st) = some 1 ∧ (supervisor st).f.replay = none ∧ (supervisor st).f.sup = true) ∧
    (let s := { st with w := { st.w with tvec := 0 } }
     decodeFault (.mov 224 0) s = some 1 ∧ s.w.tvec = 0 ∧ s.w.handler = none ∧ s.w.faultq = []) := by decide +kernel

/-- A handler at its `tret`, entered for the lanes 0 to 7 of a fault of kind `k` with the pending part `p`. -/
def handling (k : BitVec 2) (p : Part) : State :=
  let s := lanes (if k = 0 ∨ k = 3 then 0xFFFFFFFF else 0xFF) (supervisor st)
  let h : Handler :=
    { mask := 0xFFFFFFFF, mode := 0, pc := 0x10008, hdr := 0x10000, inClause := true, h0 := 0xFC003FC0, h1 := 0, wave := none, wait := 0,
      done := 0, count := 0, replays := [], delivered := 0x10008, kind := k, lanes := s.f.mask, part := p }
  { s with w := { s.w with trappc := 0x10008, handler := some h } }

/-- A pending load of the lanes 0 to 7. -/
def pending : Part := .instr { i := .ld 4 2 6, lanes := 0xFF, pc := 0x10008, h0 := 0xFC003FC0, note := 0, id := 2 }

theorem witness_TretReturns : ∀ s, s = handling 0 .none ∨ s = handling 1 pending ∨ s = handling 3 .none → ∃ h, Ready .tret s ∧
    s.f.sup = true ∧ s.w.handler = some h ∧ h.replays = [] ∧ s.w.faultq = [] ∧ (∀ x ∈ s.w.frags, x.sup = false) ∧
    s.w.pend.all (fun p => !p.sup) = true ∧ (h.part = .none ∨ (h.kind ≠ 0 ∧ h.kind ≠ 3 ∧ ∃ r, h.part = .instr r)) := by
  unfold Ready
  rintro s (rfl | rfl | rfl)
  · exact ⟨_, by decide +kernel, by decide, rfl, by decide, by decide, by decide, by decide, .inl rfl⟩
  · exact ⟨_, by decide +kernel, by decide, rfl, by decide, by decide, by decide, by decide, .inr ⟨by decide, by decide, _, rfl⟩⟩
  · exact ⟨_, by decide +kernel, by decide, rfl, by decide, by decide, by decide, by decide, .inl rfl⟩

/-! ### Witnesses: results in registers -/

theorem witness_ScalarResults : (∃ v, scalarResult st (.sAdd 5 5 32) = some (5, v)) ∧ Ready (.sAdd 5 5 32) st ∧
    (∃ v, scalarResult st (.liS 0 1) = some (0, v)) ∧ Ready (.liS 0 1) st := by
  unfold Ready; exact ⟨⟨_, rfl⟩, by decide +kernel, ⟨_, rfl⟩, by decide +kernel⟩

theorem witness_HardwiredRegisters :
    (∀ sd : BitVec 6, sd = 0 ∨ sd = 55 → Ready (.sAdd sd 5 32) st) ∧ Ready (.sAdd 63 63 63) (supervisor st) ∧ Ready (.pAnd 0 1 7) st ∧
    decodeFault (.sAdd 5 56 6) st ≠ some 1 ∧ st.f.sup = false ∧ 56 ∈ (operands st (.sAdd 5 56 6)).sr ++ (operands st (.sAdd 5 56 6)).sw := by
  simp only [Ready]
  refine ⟨?_, by decide +kernel, by decide +kernel, by decide +kernel⟩
  rintro sd (rfl | rfl) <;> decide +kernel

theorem witness_SpecialRegisterValues : rec st 0x14 2 = 32 ∧ rec st 0x16 2 = 1 := by decide +kernel

theorem witness_IntegerArithmetic : ({ rnd := 0, sat := false, ftz := false } : Md).sat = false ∧ (1 : W32) ≠ 0 := by decide

theorem witness_PredicateResults : ∀ p : BitVec 3, p = 0 ∨ p = 7 → (∃ g, predicateResult st (.pAnd p 2 3) = some (p, g)) ∧
    Ready (.pAnd p 2 3) st := by
  unfold Ready
  rintro p (rfl | rfl) <;> exact ⟨⟨_, rfl⟩, by decide +kernel⟩

/-- A mode of i64 (type 6) under NOMASK. -/
def wideMode : State := withMode (6 * 2 ^ 22 + 2 ^ 17) st

theorem witness_LaneResults :
    ((∃ m g, laneResult st (.add 4 2 3) = some (m, 1, 4, g)) ∧ Ready (.add 4 2 3) st) ∧
    (∃ m g, laneResult wideMode (.add 214 2 6) = some (m, 2, 214, g)) ∧ Ready (.add 214 2 6) wideMode := by
  unfold Ready
  exact ⟨⟨⟨_, _, rfl⟩, by decide +kernel⟩, ⟨_, _, rfl⟩, by decide +kernel⟩

theorem witness_CompareResults : (∃ g, compareResult st (.clt 1 3 4) = some (1, g)) ∧ Ready (.clt 1 3 4) st := by
  unfold Ready; exact ⟨⟨_, rfl⟩, by decide +kernel⟩

theorem witness_CarryResults : Ready (.addc 4 2 3) st ∧ Ready (.subb 4 2 3) st ∧
    modeType (withMode 0x800000 st) = 2 := by
  unfold Ready; exact ⟨by decide +kernel, by decide +kernel, by decide +kernel⟩

theorem witness_LongLatencyStarts : (∃ m n g, longResult st (.shfl 4 2 3) = some (m, n, 4, g)) ∧ Ready (.shfl 4 2 3) st ∧
    Ready (.vall 1 2) st ∧ Ready (.vany 1 2) st ∧ Ready (.sRdl 4 12 31) st ∧ st.f.mask ≠ 0 := by
  unfold Ready; exact ⟨⟨_, _, _, rfl⟩, by decide +kernel, by decide +kernel, by decide +kernel, by decide +kernel, by decide⟩

/-! ### Witnesses: memory -/

/-- A fragment of the lanes 0 and 1, which hold the addresses `base` and `base` + `step` in v2 and v3, and values in v8 to
v11. -/
def addressed (base step : Nat) : State :=
  let w := fun (n : Nat) => BitVec.ofNat 32 n
  lanes 3 { st with w := { st.w with v := (List.filter (fun c : Nat × W32 => c.2 != 0)
    [(64, w base), (65, w (base + step)), (96, w (base / 2 ^ 32)), (97, w ((base + step) / 2 ^ 32)), (256, 5), (257, 6), (288, 7),
     (289, 8), (320, 9), (321, 10), (352, 11), (353, 12)]) } }
def window : Nat := 0xFE * 2 ^ 56

/-- Where the accesses of the active lanes lead, and the faults of those that lead nowhere. -/
def resolved (s : State) (i : Instr) : List (Nat × Except MFault Place) :=
  match laneForm s i with
  | some m => (lanesOf (activeLanesOf s)).map (fun l => (l, laneResolve s m.acc (m.addr l) l))
  | none => []
def placed (s : State) (i : Instr) : List (Nat × Place) :=
  (resolved s i).filterMap (fun x => match x.2 with
    | .ok q => some (x.1, q)
    | .error _ => none)

theorem witness_LaneMemoryCompletes : ∀ p, p = (Instr.ld 6 2 4, addressed window 4) ∨ p = (.stq 8 2 4, addressed 0x30000 16) ∨
    p = (.strel 8 2 4, addressed 0x3FFF8 4) ∨ p = (.aadd 6 2 8, addressed 0x30000 0) →
    ∃ m, laneForm p.2 p.1 = some m ∧ Ready p.1 p.2 ∧ Reaches p.1 p.2 m (placed p.2 p.1) := by
  simp only [Ready, Reaches, InOrder, ReleaseDue, ok_iff]
  rintro p (rfl | rfl | rfl | rfl) <;>
  exact ⟨_, rfl, by decide +kernel, by decide +kernel, by decide +kernel, by decide +kernel, fun _ => by decide +kernel⟩

theorem witness_MisalignedLanesFault : ∃ m, laneForm (addressed 0x30001 4) (.ld 6 2 4) = some m ∧ Ready (.ld 6 2 4) (addressed 0x30001 4) ∧
    TakesFaults (addressed 0x30001 4) ∧ ReleaseDue (.ld 6 2 4) (addressed 0x30001 4) ∧
    (lanesOf (activeLanesOf (addressed 0x30001 4))).filter (fun l => (m.addr l).toNat % m.acc.n != 0) ≠ [] := by
  unfold Ready TakesFaults ReleaseDue
  exact ⟨_, rfl, by decide +kernel, by decide +kernel, fun _ => by decide +kernel, by decide +kernel⟩

def badOf (s : State) (i : Instr) : List (Nat × MFault) :=
  (resolved s i).filterMap (fun x => match x.2 with
    | .ok _ => none
    | .error e => some (x.1, e))
def goodOf (s : State) (i : Instr) (quad : Bool) (first : Nat) : List (Nat × Place) :=
  (placed s i).filter (fun x => !(quad && first < x.1))

theorem witness_FaultingLanesWait : ∀ p, p = (Instr.ld 6 2 4, addressed 0x6FFFC 4, false) ∨ p = (.ldq 8 2 4, addressed 0x6FFF0 16, true) →
    ∃ m x, laneForm p.2.1 p.1 = some m ∧ Ready p.1 p.2.1 ∧ TakesFaults p.2.1 ∧ p.2.1.f.exp = none ∧ (badOf p.2.1 p.1).head? = some x ∧
    (∀ l ∈ lanesOf (activeLanesOf p.2.1), (m.addr l).toNat % m.acc.n = 0) ∧
    badOf p.2.1 p.1 = (lanesOf (activeLanesOf p.2.1)).filterMap (fun l => match laneResolve p.2.1 m.acc (m.addr l) l with
      | .ok _ => none
      | .error e => some (l, e)) ∧
    goodOf p.2.1 p.1 p.2.2 x.1 = (lanesOf (activeLanesOf p.2.1)).filterMap (fun l => match laneResolve p.2.1 m.acc (m.addr l) l with
      | .ok q => if m.acc.partialCommit && x.1 < l then none else some (l, q)
      | .error _ => none) ∧
    (∀ y ∈ badOf p.2.1 p.1, y.2.code = 0x06 ∨ y.2.code = 0x07) ∧
    (∀ y ∈ goodOf p.2.1 p.1 p.2.2 x.1, fillHeld p.2.1 y.2 m.acc.n = false ∧ (m.acc.store = true → wakeHeld p.2.1 y.2 m.acc.n = false)) ∧
    InOrder p.2.1 (m.accesses p.2.1) m.acc.n ∧ ReleaseDue p.1 p.2.1 := by
  unfold Ready TakesFaults InOrder ReleaseDue
  rintro p (rfl | rfl)
  all_goals
    refine ⟨_, (1, { code := 6, cause := 2, level := 3, pool := 0, va := 0x70000 }), rfl, ?_⟩
    refine ⟨?_, ?_, ?_, ?_, ?_, ?_, ?_, ?_, ?_, ?_, fun _ => ?_⟩ <;> decide +kernel

/-- The last words of the window. -/
def atEnd : State := addressed (window + 0xFFF8) 4

theorem witness_WindowLoadsAndStores : ∀ i, i = Instr.ld 6 2 4 ∨ i = .st 8 2 4 →
    ∃ m, laneForm atEnd i = some m ∧ Ready i atEnd ∧ (∃ d a b, i = .ld d a b ∨ i = .st d a b) ∧
    (∀ l, (activeLanesOf atEnd).getLsbD l = true → (m.addr l).toNat = 0xFE * 2 ^ 56 + (0xFFF8 + 4 * l) ∧
      0xFFF8 + 4 * l < 2 ^ 56 ∧ (0xFFF8 + 4 * l) % m.acc.n = 0 ∧ (0xFFF8 + 4 * l) + m.acc.n ≤ atEnd.blk.winSize ∧
      fillHeld atEnd (.win (0xFFF8 + 4 * l)) m.acc.n = false) ∧
    InOrder atEnd (m.accesses atEnd) m.acc.n ∧ activeLanesOf atEnd ≠ 0 := by
  have h : activeLanesOf atEnd = 3 := by decide +kernel
  rw [h]
  unfold Ready InOrder
  rintro i (rfl | rfl) <;>
  exact ⟨_, rfl, by decide +kernel, by simp, lanes_forall (by decide +kernel), by decide +kernel, by decide +kernel⟩

/-- A piece of the pages: a word at 0x30008, cacheable, and one at 0x20008 of an object page. -/
def piece : Piece := { asid := 1, hit := false, va := 0x30008, pa := Config.farBase + 0x220008, n := 8, leaf := { e := 0x22 * 2 ^ 24 + 0x113F, size := 0x10000 } }
def objPiece : Piece := { asid := 1, hit := false, va := 0x20008, pa := Config.farBase + 0x210008, n := 8, leaf := { e := 0x21 * 2 ^ 24 + 0x117F, size := 0x10000 } }

theorem in_line {p : Piece} (h : isDevLeaf p.leaf.e = false ∧ p.pa % 128 + p.n ≤ 128 ∧
    ∀ o, o < 128 → redirect st (p.pa / 128 * 128 + o) = redirect st (p.pa / 128 * 128) + o) : InLine st p :=
  ⟨h.1, h.2.1, h.2.2, fun _ hx => by cases hx⟩
theorem witness_StoresTouchOnlyAndAreRead : atL1 0 piece = true ∧ atL1 2 piece = false ∧ st.l1.length < 16 ∧
    heldLine st piece = none ∧ heldLine st objPiece = none ∧ InLine st piece ∧ InLine st objPiece ∧
    atL1 1 objPiece = false ∧ atController 1 objPiece = false ∧
    l2Find st objPiece.asid (lineOf objPiece.va) = none ∧
    (let p := { piece with leaf := { piece.leaf with e := 0x22 * 2 ^ 24 + 0x111F } }
     InLine st p ∧ atL1 1 p = false ∧ atController 1 p = true ∧ heldLine st p = none ∧ l2Find st p.asid (lineOf p.va) = none) := by
  refine ⟨?_, ?_, ?_, ?_, ?_, in_line ?_, in_line ?_, ?_, ?_, ?_, in_line ?_, ?_⟩ <;> decide +kernel
theorem test_pieces : okIs (.mem 0 [piece]) (resolve st true .read (.plain 0) 0x30008 8 0) = true ∧
    okIs (.mem 0 [objPiece]) (resolve st true .read (.plain 0) 0x20008 8 0) = true := by decide +kernel

theorem witness_AtomicsUpdateHome : InLine st piece ∧ ∀ x, heldLine st piece = some x → x.dirty = 0 := by
  have h : heldLine st piece = none := by decide +kernel
  rw [h]; exact ⟨in_line (by decide +kernel), fun x hx => by cases hx⟩

theorem witness_ScalarMemoryCompletes : ∀ p, p = (Instr.sLd 5 6 8, 0, piece) ∨ p = (.sSt 5 6 8, 0, piece) ∨ p = (.sStrel 5 6 8, 1, piece) ∨
    p = (.sAadd 5 7 8 1, 1, { piece with va := 0x30004, pa := piece.pa - 4, n := 4 }) →
    let s := scalars [(6, 0x30000), (7, 0x30004)] st
    ∃ m q, scalarForm s p.1 = some m ∧ q = Place.mem p.2.1 [p.2.2] ∧ Ready p.1 s ∧ s.f.mask ≠ 0 ∧
    m.addr.toNat % m.acc.n = 0 ∧ laneResolve s m.acc m.addr (lowLane s.f.mask) = .ok q ∧
    fillHeld s q m.acc.n = false ∧ InOrder s (m.accesses s) m.acc.n ∧ (m.acc.store = true → wakeHeld s q m.acc.n = false) ∧
    ReleaseDue p.1 s := by
  simp only [Ready, InOrder, ReleaseDue, ok_iff]
  rintro p (rfl | rfl | rfl | rfl)
  all_goals
    refine ⟨_, _, rfl, rfl, ?_⟩
    refine ⟨?_, ?_, ?_, ?_, ?_, ?_, ?_, fun _ => ?_⟩ <;> decide +kernel

/-- Three lanes with the indices 0 to 2 in v4, and a base and the extent 2 in s2 and s3. -/
def gathering : State :=
  scalars [(2, 0x30000), (3, 2)] (lanes 7 { st with w := { st.w with v := [(129, 1), (130, 2)] } })

/-- Two lanes with the addresses of their indices, and the base and extent of the elements. -/
def twice : State := scalars [(2, 0x40000), (3, 24)] (addressed 0x30000 4)

theorem witness_GathersAndPrefetches :
    (gatherForm (.gth 6 4 1) = some (0, 6, 4, 1) ∧ Ready (.gth 6 4 1) gathering ∧
      (readS gathering 2).toNat % memBytes (modeType gathering) = 0 ∧ activeLanesOf gathering ≠ 0 ∧
      orderHeld gathering ((elementsOf gathering 0 6 4 1).map (fun e => (e.lane, e.va))) (memBytes (modeType gathering)) = false ∧
      collEntries gathering (collectorOf gathering.w.core) + (elementsOf gathering 0 6 4 1).length ≤ 512) ∧
    (∃ u vs, Ready (.gthh 6 2 1) twice ∧
      (let base := readS twice 2
       let extent := readS twice 3
       let addr := fun l => src64 twice 2 l
       base.toNat % 4 = 0 ∧ memBytes (modeType twice) = 4 ∧
       (∀ l ∈ lanesOf (activeLanesOf twice), (addr l).toNat % 4 = 0 ∧ gthhHeld twice addr base extent 4 l = false) ∧
       InOrder twice ((lanesOf (activeLanesOf twice)).map (fun l => (l, addr l))) 4 ∧
       InOrder twice ((lanesOf (activeLanesOf twice)).filterMap (fun l => (secondAddr twice addr base extent 4 l).map (fun e => (l, e)))) 4 ∧
       gthhLanes addr base extent 4 (lanesOf (activeLanesOf twice)) (started twice) = (u, vs, []))) ∧
    Ready (.pref 2 4) (addressed 0x30000 4) := by
  unfold Ready InOrder
  refine ⟨by decide +kernel, ?_, by decide +kernel⟩
  have h : (gthhLanes (fun l => src64 twice 2 l) (readS twice 2) (readS twice 3) 4 (lanesOf (activeLanesOf twice)) (started twice)).2.2 = [] := by
    decide +kernel
  generalize hx : gthhLanes (fun l => src64 twice 2 l) (readS twice 2) (readS twice 3) 4 (lanesOf (activeLanesOf twice)) (started twice) = x at h
  obtain ⟨u, vs, bad⟩ := x
  cases h
  refine ⟨u, vs, ?_, ?_, ?_, ?_, ?_, ?_, hx⟩ <;> decide +kernel

/-! ### Witnesses: conversions, objects and tiles -/

/-- A grid with format slots: 1 of f32, 2 of bf16, 3 of zb8, each with the scale 1. -/
def slotted : List Byte :=
  let slot := fun (code : Nat) => toBytes code 1 ++ toBytes 0 3 ++ toBytes 0x3F800000 4 ++ toBytes 0 8
  loadedRecord.take 0x40 ++ slot 0 ++ slot 1 ++ slot 2 ++ slot 0x10 ++ loadedRecord.drop 0x80
def withSlots (s : State) : State := { s with grids := [{ loadedGrid with record := slotted }] }
def f32Mode : State := withMode (2 * 2 ^ 22) (withSlots (lanes 3 st))

theorem witness_SlotConversions :
    (∀ k : BitVec 3, k = 0 ∨ k = 1 → Ready (.cvt 4 2 2 1 k) f32Mode) ∧
    (modeType f32Mode ≠ 15 ∧ (2 : BitVec 4) ≠ 15 ∧ slotCode 2 ≠ some (slotOf f32Mode 0).code ∧ TakesFaults f32Mode) ∧
    (slotCode 2 = some (slotOf f32Mode 1).code ∧ (slotOf f32Mode 1).outl = false) ∧
    (let s := withMode (15 * 2 ^ 22) f32Mode
     Ready (.cvt 4 2 2 1 3) s ∧ modeType s = 15 ∧ isZb (slotOf s 3).code = true ∧ ownNarrow s = false) ∧
    Ready (.cvt 4 2 15 1 3) f32Mode ∧ isZb (slotOf f32Mode 3).code = true ∧ ownNarrow f32Mode = false ∧
    (slotOf f32Mode 3).outl = false := by
  unfold Ready TakesFaults
  refine ⟨?_, ?_⟩
  · rintro k (rfl | rfl) <;> decide +kernel
  · decide +kernel

/-- Lane 0 holds an address in v2 and v3 and a reference or template in v8 and v9. -/
def lane0 (va r : Nat) : State :=
  let w := fun (n : Nat) => BitVec.ofNat 32 n
  lanes 1 { st with w := { st.w with v := (List.filter (fun c : Nat × W32 => c.2 != 0)
    [(64, w va), (96, w (va / 2 ^ 32)), (256, w r), (288, w (r / 2 ^ 32))]) } }

theorem none_dirty {a : Nat} : ¬DirtyInL2 st a := by
  rintro ⟨x, hx, -⟩
  cases hx

def refPlace : Place := .mem 1 [{ objPiece with va := 0x20048, pa := objPiece.pa + 0x40 }]
theorem witness_ReferencesAreStored :
    (let s := lane0 0x20048 0
     Ready (.stref 8 2 4) s ∧ [(0, refPlace)].map Prod.fst = lanesOf (activeLanesOf s) ∧
     (∀ x ∈ [(0, refPlace)], ∀ g, (x.1, g) ∈ laneAddrs s 2 4 → g.toNat % 8 = 0 ∧
       strefCheck s g (laneRef s 8 x.1) x.1 = .ok x.2 ∧ fillHeld s x.2 8 = false ∧ strefHeld s g (laneRef s 8 x.1) = false ∧
       wakeHeld s x.2 8 = false) ∧
     InOrder s (laneAddrs s 2 4) 8) ∧
    atL1 1 objPiece = false ∧ heldLine st objPiece = none ∧ InLine st objPiece ∧ objPiece.n = 8 ∧ objPiece.pa % 8 = 0 ∧
    eOBJ objPiece.leaf.e = true ∧
    ∃ c, granAddr st objPiece.pa = some c ∧ redirect st objPiece.pa + 8 ≤ c ∧ ∀ a, c ≤ a → a < c + 2 → ¬DirtyInL2 st a := by
  simp only [Ready, InOrder, ok_iff]
  have h : laneAddrs (lane0 0x20048 0) 2 4 = [(0, 0x20048)] := by decide +kernel
  obtain ⟨c, hc, hb⟩ := some_of (f := fun c => decide (redirect st objPiece.pa + 8 ≤ c)) (o := granAddr st objPiece.pa)
    (by decide +kernel)
  refine ⟨⟨?_, ?_, ?_, ?_⟩, ?_, ?_, in_line ?_, ?_, ?_, ?_, c, hc, of_decide_eq_true hb, fun _ _ _ => none_dirty⟩
  case refine_3 =>
    rw [h]
    simp only [List.mem_singleton, Prod.mk.injEq]
    rintro x rfl g ⟨-, rfl⟩
    decide +kernel
  all_goals decide +kernel

def header : Piece := { objPiece with va := 0x20040, pa := objPiece.pa + 0x38 }
def made : List (Nat × W64 × Nat × List Piece) := [(0, 0x20040, 1, [header])]
theorem witness_ObjectsAreCreated :
    (let s := lane0 0x20040 1
     Ready (.ohdr 8 2 4) s ∧ made.map (fun x => (x.1, x.2.1)) = laneAddrs s 2 4 ∧
     (∀ x ∈ made, x.2.1.toNat % 64 = 0 ∧ x.2.2.1 = (laneRef s 8 x.1).toNat ∧
       ohdrCheck s x.2.1 x.2.2.1 = .ok x.2.2.2 ∧ objHeld s x.2.2.2 = false) ∧
     InOrder s (laneAddrs s 2 4) 64 ∧ (ohdrLanes made (started s)).2 = []) ∧
    heldLine st header = none ∧ InLine st header ∧ header.n = 8 ∧
    ∃ c, granAddr st header.pa = some c ∧ redirect st header.pa + 8 ≤ c := by
  simp only [Ready, InOrder, ok_iff]
  obtain ⟨c, hc, hb⟩ := some_of (f := fun c => decide (redirect st header.pa + 8 ≤ c)) (o := granAddr st header.pa)
    (by decide +kernel)
  refine ⟨?_, ?_, in_line ?_, rfl, c, hc, of_decide_eq_true hb⟩ <;> decide +kernel

theorem witness_PublicationsAreQueued :
    let s := lane0 0x30000 0
    Ready (.pub 8 2 4) s ∧ activeLanesOf s ≠ 0 ∧
    (∀ x ∈ laneAddrs s 2 4, x.2.toNat % 8 = 0 ∧ pubCheck s x.2 (laneRef s 8 x.1) x.1 = .ok () ∧
      refHeld s (asidOf s) (laneRef s 8 x.1) = false) ∧
    collected s = true ∧ pubQueued s (clusterOf s.w.core) + (laneAddrs s 2 4).length ≤ 64 := by
  simp only [Ready, ok_iff]; decide +kernel

/-- Quarter 0 with handles of bf16 matrices: h0 of 16 rows and 32 columns, h1 of 32 and 32, and h2 of 16 and 32 with a budget
table; the other handles are zero. -/
def tiled : State :=
  let h := fun (off rows slot : Nat) => BitVec.ofNat 128 (off + 64 * 2 ^ 32 + rows * 2 ^ 48 + 32 * 2 ^ 64 + slot * 2 ^ 80 +
    2 ^ 86 + 0x8000 * 2 ^ 96)
  let s := withSlots (lanes 0xFF st)
  { s with w := { s.w with h := [(0, h 0 16 2), (1, h 0x1000 32 2), (2, h 0x2000 16 2)] } }

theorem witness_TileComputationsComplete : ∀ i, i = Instr.mm 0 1 2 0 1 ∨ i = .mmg 0 1 2 4 0 ∨ i = .mmsp 0 1 2 8 1 ∨ i = .accld 0 2 0 →
    ∃ m, tileForm tiled i = some m ∧ Ready i tiled ∧ liveQuarters tiled = [0] ∧ ∀ q ∈ liveQuarters tiled, m.ok q := by
  have h : liveQuarters tiled = [0] := by decide +kernel
  rw [h]
  simp only [List.mem_singleton, forall_eq, Ready]
  rintro i (rfl | rfl | rfl | rfl)
  · refine ⟨_, rfl, by decide +kernel, trivial, ?_⟩
    simp only [HandleOk, PlainTile]; decide +kernel
  · refine ⟨_, rfl, by decide +kernel, trivial, ?_⟩
    simp only [HandleOk, PlainTile]; decide +kernel
  · refine ⟨_, rfl, by decide +kernel, trivial, ?_⟩
    simp only [HandleOk, PlainTile]; decide +kernel
  · refine ⟨_, rfl, by decide +kernel, trivial, ?_⟩
    simp only [HandleOk, PlainTile]; decide +kernel

theorem witness_DenseProductValues : ∀ e ∈ tiled.opc, e.core ≠ tiled.w.core ∨ e.blk ≠ tiled.blk.uid := by decide +kernel

/-- The same with a ranked list of 4 entries declared in tile 0, and an image of it at 0x100 of the window. -/
def ranked : State :=
  scalars [(2, BitVec.ofNat 64 (window + 0x100))] { tiled with blk := { tiled.blk with
    lists := [{ core := coreIdx tiled, first := 0, k := 4, rejected := 0 }], win := [(0x100, 4), (0x102, 16)] } }

theorem witness_TilesClearedAndDeclared :
    (Ready (.accclr 1 0) ranked ∧ ∀ q ∈ liveQuarters ranked, ∀ j, j ≤ 1 → tileOf ranked 0 q + 4 * j < tileCount ranked) ∧
    (Ready (.accdcl 3 0) ranked ∧
      ∀ q ∈ liveQuarters ranked, ∀ j, j < listTiles 4 → firstTile ranked 0 4 q + j < tileCount ranked) ∧
    Ready (.accdclU 3 0) ranked ∧
      (∀ q ∈ liveQuarters ranked, ∃ x, listAt ranked (firstTile ranked 0 4 q) = some x ∧ x.k = 4) := by
  have h : liveQuarters ranked = [0] := by decide +kernel
  rw [h]
  simp only [List.mem_singleton, forall_eq, Ready]
  exact ⟨by decide +kernel, by decide +kernel, by decide +kernel, _, rfl, rfl⟩

theorem witness_TilesStored :
    (Ready (.accst 0 2 4) tiled ∧ collected tiled = true ∧ liveQuarters tiled = [0] ∧ moveHeld tiled (slotOf tiled 2) 0 [0] = false ∧
      (storePart tiled (slotOf tiled 2) (handleAt tiled 0 0) (tileOf tiled 4 0) 0).2 = [] ∧
      HandleOk tiled 2 storeCodes 0 .dst 0 ∧ PlainTile tiled (tileOf tiled 4 0)) ∧
    appendsHeld (started tiled) [] = false ∧
    Ready (.spcmp 0 2 2 8) tiled ∧ tiled.blk.fillPend = [] ∧
      ∀ q ∈ liveQuarters tiled, HandleOk tiled 2 sparseCodes 0 .a q ∧ HandleOk tiled 2 sparseCodes 2 .dst q ∧
        packedFault tiled 0 2 q = none ∧ ∀ r, r < 16 → budget tiled (handleAt tiled q 2) r ≤ 8 := by
  simp only [HandleOk, PlainTile, Ready]
  refine ⟨?_, ?_, ?_⟩ <;> decide +kernel

theorem witness_TileColumnsMove :
    (Ready (.accrd 16 5) tiled ∧ ∀ l, (writeLanesOf tiled).getLsbD l = true → PlainTile tiled (tiled.w.acb.toNat + (src32 tiled 5 l).toNat % 2048)) ∧
    Ready (.accwr 16 5) tiled := by
  have h : writeLanesOf tiled = 0xFF := by decide +kernel
  rw [h]
  simp only [PlainTile, Ready]
  exact ⟨⟨by decide +kernel, lanes_forall (by decide +kernel)⟩, by decide +kernel⟩

/-- `ranked` reads its image, and nothing holds it back. -/
def rankedImage (i : Instr) : Bool :=
  let a := imageVa (readS ranked 2) 0 4
  liveQuarters ranked == [0] && !imageHeld ranked (imageAccess i ranked) a 65 &&
  okAnd (fun _ => true) (inTurn (fun q v => match listOf ranked 0 q with
    | some x => imagePart i ranked x (imageVa (readS ranked 2) q x.k) v
    | none => .ok v) (liveQuarters ranked) (started ranked))

theorem witness_RankedListsComplete :
    (Ready (.mmrk 0 1 2 0) ranked ∧ liveQuarters ranked = [0] ∧
      ∀ q ∈ liveQuarters ranked, HandleOk ranked 2 matrixCodes 0 .a q ∧ HandleOk ranked 2 matrixCodes 1 .b q ∧
        (listOf ranked 0 q).isSome = true ∧ denseHeld ranked 0 1 (slotOf ranked 2).code (fun _ r => r) q = false) ∧
    (Ready (.rkbnd 1 4 0) ranked ∧ ranked.w.z.length = 8) ∧
    (Ready (.rkrd 10 5) ranked ∧ ∀ l, (writeLanesOf ranked).getLsbD l = true →
      (listAt ranked (ranked.w.acb.toNat + (src32 ranked 5 l).toNat % 2048)).isSome = true) ∧
    (∀ i, i = Instr.rkst 2 0 ∨ i = .rkstM 2 0 ∨ i = .rkmrg 2 0 → Ready i ranked ∧ rankedImage i = true) ∧
    (imageHeader (.rkstM 2 0) ranked (imageVa (readS ranked 2) 0 4) = some (4, 16) ∧
      imageHeader (.rkmrg 2 0) ranked (imageVa (readS ranked 2) 0 4) = some (4, 16)) ∧
    collected ranked = true ∧ ranked.blk.fillPend = [] ∧
    ∃ x, listOf ranked 0 0 = some x ∧ x.k = 4 ∧ WindowImage ranked (readS ranked 2) 0 x.k (1 + 16 * 4) ∧
      imageWord ranked (readS ranked 2) 0 x.k 0 % 2 ^ 32 = 4 + 2 ^ 16 * 16 := by
  have h : writeLanesOf ranked = 0xFF := by decide +kernel
  rw [h]
  simp only [HandleOk, Ready, WindowImage]
  refine ⟨?_, ?_, ⟨?_, lanes_forall ?_⟩, ?_, ?_, ?_, ?_, _, rfl, rfl, ?_⟩
  case refine_5 => rintro i (rfl | rfl | rfl) <;> decide +kernel
  all_goals decide +kernel

theorem witness_HandlesAndTilePredicates :
    (Ready (.hset 3 5 6 1) tiled ∧ ∀ q ∈ liveQuarters tiled, (handleOf (setHandle 0 0 32 ((handleOf 0).off + 16 * (handleOf 0).pitch * q))).broken = false) ∧
    (Ready (.hadj 0 5 0) tiled ∧ ∀ q ∈ liveQuarters tiled, (handleOf (handleBits tiled q 0)).broken = false) ∧
    (∀ i, i = Instr.zset 7 5 ∨ i = .zlog 0 1 2 2 → Ready i tiled ∧ tiled.w.z.length = 8) ∧
    Ready (.ztst 1 2) tiled ∧ Ready .spfen tiled ∧ collected tiled = true := by
  simp only [Ready]
  refine ⟨by decide +kernel, by decide +kernel, ?_, by decide +kernel⟩
  rintro i (rfl | rfl) <;> decide +kernel

/-- A tree whose node 0, at the start of the window, is a leaf of value 9. -/
def tree : State := lanes 3 { st with blk := { st.blk with win := [(0, 9), (6, 1)] } }

theorem witness_TreeWalksComplete : Ready (.tw 6 4 5) tree ∧ Ready (.twi 6 4 5) tree ∧ tree.w.twbase.toNat % 2 ^ 32 % 16 = 0 ∧
    (∀ l, (writeLanesOf tree).getLsbD l = true → (src32 tree 4 l).toNat % 4 = 0) ∧ collected tree = true ∧
    tree.blk.fillPend = [] ∧
    ∀ l, (writeLanesOf tree).getLsbD l = true → (treeWalk tree (tree.w.twbase.toNat % 2 ^ 32) (src32 tree 4 l).toNat 64
      ((tree.w.twbase.toNat / 2 ^ 32 + (src32 tree 5 l).toNat) % 2 ^ 32)).2 = .leaf 9 0 := by
  have h : writeLanesOf tree = 3 := by decide +kernel
  rw [h]
  simp only [Ready]
  exact ⟨by decide +kernel, by decide +kernel, by decide +kernel, lanes_forall (by decide +kernel), by decide +kernel,
    by decide +kernel, lanes_forall (by decide +kernel)⟩

/-! ### Witnesses: control -/

def preds (l : List (Nat × W32)) (s : State) : State := { s with w := { s.w with p := l } }

theorem witness_WarpRegistersWritten :
    (∀ idx : BitVec 10, idx = 0x013 ∨ idx = 0x014 ∨ idx = 0x100 ∨ idx = 0x103 ∨ idx = 0x105 ∨ idx = 0x106 →
      Ready (.sSwr idx 5) (supervisor st)) ∧ Ready (.part 2) st ∧
    (Ready (.acb 5 3) (scalars [(5, 508)] st) ∧ (readS (scalars [(5, 508)] st) 5).toNat + 3 < tileCount (scalars [(5, 508)] st)) ∧
    (let s := scalars [(5, 509)] st
     Ready (.acb 5 3) s ∧ tileCount s ≤ (readS s 5).toNat + 3 ∧ TakesFaults s) ∧
    Ready (.msf 3 7) st ∧ Ready (.mode 0x802900) st := by
  simp only [Ready, TakesFaults]
  refine ⟨?_, by decide +kernel⟩
  rintro idx (rfl | rfl | rfl | rfl | rfl | rfl) <;> decide +kernel

theorem witness_BranchesMoveWhole :
    let s := scalars [(32, 1), (33, 2), (46, 0x10010)] (preds [(1, 0xFF)] st)
    ∀ i, i = Instr.bra 0xFFFFF ∨ i = .bany 1 2 ∨ i = .ball 9 2 ∨ i = .bnon 1 2 ∨ i = .sbr 0 2 ∨ i = .loop 0 2 ∨ i = .loop 1 2 ∨
      i = .call 2 ∨ i = .jr 14 ∨ i = .ret → (∃ d w, branchResult s i = some (d, w)) ∧ Ready i s := by
  simp only [Ready]
  rintro i (rfl | rfl | rfl | rfl | rfl | rfl | rfl | rfl | rfl | rfl) <;> exact ⟨⟨_, _, rfl⟩, by decide +kernel⟩

/-- A warp whose split table is full. -/
def crowded : State :=
  preds [(1, 0x1)] (lanes 3 { st with w := { st.w with frags := (List.range 15).map (fun k =>
    { Frag.empty with ent := k + 1, pc := 0x10010, mask := BitVec.ofNat 32 (4 * 2 ^ k) }) } })

/-- A join-stack entry; a fragment at its level that may export sides of fewer than 8 lanes. -/
def entry0 : JEntry :=
  { rejoin := 0x10000, expected := 0xFFFFFFFF, mode := 0, counter := 0, parent := 0xFFFF, free := false, spilled := false }
def exporting : State :=
  let s := preds [(1, 0x7F)] st
  { s with f := { s.f with level := 0 }, w := { s.w with xthr := 8, jst := [entry0] } }

theorem witness_DivergentBranches :
    (∀ i, i = Instr.brd 1 2 ∨ i = .brdx 1 2 → Ready i (preds [(1, 0xFFFFFFFF)] st) ∧ Ready i st ∧ Ready i (preds [(1, 0xFF)] st) ∧ Ready i crowded) ∧
    takenBy (preds [(1, 0xFFFFFFFF)] st) 1 = 0xFFFFFFFF ∧ takenBy st 1 = 0 ∧
    (takenBy (preds [(1, 0xFF)] st) 1 = 0xFF ∧ mayExport (preds [(1, 0xFF)] st) (smallerSide (preds [(1, 0xFF)] st) 1) = none ∧
      entryFree (preds [(1, 0xFF)] st) = true) ∧
    (takenBy crowded 1 = 1 ∧ crowded.f.mask = 3 ∧ entryFree crowded = false ∧ crowded.f.exp = none ∧ TakesFaults crowded ∧
      mayExport crowded (smallerSide crowded 1) = none) ∧
    Ready (.brdx 1 2) exporting ∧ takenBy exporting 1 = 0x7F ∧ smallerSide exporting 1 = 0x7F ∧
      ∃ core, mayExport exporting 0x7F = some core := by
  simp only [Ready, TakesFaults]
  refine ⟨?_, ?_, ?_, ?_, ?_, ?_, ?_, ?_, _, rfl⟩
  · rintro i (rfl | rfl) <;> decide +kernel
  all_goals decide +kernel

/-- A fragment of lanes 4 to 7 that runs in an export of them. -/
def exported : State :=
  let s := lanes 0xF0 st
  let e : Export :=
    { id := 50, core := 300, nwarps := 1, total := 1, map := [4, 5, 6, 7], level := 0, pulled := [], held := [], dirty := [],
      pheld := [], pdirty := [], jst := [] }
  { s with f := { s.f with exp := some 50, level := 0 }, w := { s.w with jst := [{ entry0 with counter := 1 }], exps := [e] } }

/-- A full join stack with room in its spill area, at 0x30000. -/
def brimful : State :=
  { st with grids := [{ loadedGrid with spillVa := 0x30000, spillE := 4 }], w := { st.w with jst := List.replicate 16 entry0 } }

theorem witness_JoinsExitsAndWaits :
    (Ready (.mark 2) st ∧ st.f.exp = none ∧ narrow st = false ∧ st.w.jst.length < 16 + spillMax st ∧ heldEntries st < 16) ∧
    (Ready (.mark 2) brimful ∧ brimful.w.jst.length < 16 + spillMax brimful ∧ heldEntries brimful = 16 ∧
      okAnd (fun q => !fillHeld brimful q 32) (spillPlace (started brimful)) = true) ∧
    (let s := { st with w := { st.w with jst := List.replicate 16 entry0 } }
     Ready (.mark 2) s ∧ 16 + spillMax s ≤ s.w.jst.length ∧ TakesFaults s) ∧
    (∃ e, Ready (.mark 2) exported ∧ exportOf exported = some e ∧ narrowEntries e exported.f.nw < 8) ∧
    (Ready .join exporting ∧ levelEntry exporting = some entry0 ∧ entry0.spilled = false ∧ exporting.f.hdr = entry0.rejoin) ∧
    (let s := { exporting with w := { exporting.w with jst := [{ entry0 with free := true }] } }
     Ready .join s ∧ levelEntry s = some { entry0 with free := true } ∧ TakesFaults s) ∧
    Ready .regang st ∧
    (Ready .exit st ∧ st.f.sup = false ∧ st.walks = [] ∧ (∀ b ∈ st.blk.bars, b.expected = none) ∧ st.blk.donations = []) ∧
    (Ready (.wait 0x801) st ∧ flagCount st.w st.f 0 = 0) ∧
    (let s := { st with w := { st.w with pend := [operation st 11 true .memory 1 []] } }
     Ready (.wait 0x801) s ∧ flagCount s.w s.f 11 ≠ 0) := by
  simp only [Ready, TakesFaults]
  refine ⟨?_, ?_, ?_, ⟨_, ?_, rfl, ?_⟩, ?_⟩ <;> decide +kernel

/-- A request in the kick queue of core 0. -/
def kicked : Kick :=
  { core := 0, blk := 1, wp := 0, lanes := 1, req := 0x100, pend := 1, pc := 0x10008, word := 0, user := true, stream := false,
    batch := 1, stopped := false }

/-- s5 names a request, and an arrival object, of the window; the kick queue is empty, or full. -/
def copying : State := scalars [(5, BitVec.ofNat 64 (window + 0x100)), (6, 1)] st
def kicking : State := { copying with kicks := List.replicate 16 kicked }

theorem witness_CopiesAndArrivalObjects :
    (Ready (.cpk 5 1) copying ∧ WindowOperand copying (readS copying 5) 64 128 ∧ copying.f.count = 0 ∧
      queued copying copying.w.core + 2 ≤ 16) ∧
    (Ready (.cpk 5 1) kicking ∧ WindowOperand kicking (readS kicking 5) 64 128 ∧ 16 ≤ queued kicking kicking.w.core) ∧
    (Ready (.cpcl 1 4) copying ∧ Ready (.cpcl 0 0) copying) ∧
    (Ready (.cpwt 0 0 0 6 0) copying ∧ ((readS copying 6).setWidth 32 - copying.w.batch).toNat = 1 ∧ TakesFaults copying) ∧
    (Ready (.cpwt 1 4 1 0 1) copying ∧ Ready (.cpwt 0 0 0 7 0) copying ∧
      ((readS copying 7).setWidth 32 - copying.w.batch).toNat = 0) ∧
    Ready (.arin 5 6) copying ∧ Ready (.arinSet 5 6) copying ∧ Ready (.arwt 5) copying ∧ ArrivalObject copying (readS copying 5) := by
  simp only [Ready, TakesFaults, ArrivalObject, WindowOperand]
  refine ⟨?_, ?_, ?_, ?_, ?_⟩ <;> decide +kernel

theorem witness_BarriersComplete :
    (∀ i, i = Instr.bar 15 0 0 ∨ i = .bara 15 1 5 → Ready i st ∧ collected st = true ∧ NoneWaits 15 0 st) ∧
    st.blk.bars[15]? = some { phase := 0, expected := none, counted := false, arrived := [] } ∧
    Ready (.barw 15) st ∧ Ready (.barw 15) { st with w := { st.w with arrived := [(480, 0)] } } ∧
    lookup (32 * 15 + 0) [(480, (0 : BitVec 32))] = some 0 := by
  simp only [Ready, NoneWaits]
  refine ⟨?_, by decide +kernel⟩
  rintro i (rfl | rfl) <;> decide +kernel

theorem witness_WaitWordsYieldsAndFences :
    let s := scalars [(5, 0x30008), (6, 7)] st
    (∀ c : BitVec 2, c = 0 ∨ c = 1 → Ready (.bwt 5 6 c) s) ∧ Ready (.bwk 5 6) s ∧ collected s = true ∧
    WaitWord s .read (readS s 5) (.mem 1 [piece]) ∧ WaitWord s .write (readS s 5) (.mem 1 [piece]) ∧
    Ready .yld s ∧ Ready (.fence 2 2) s ∧ Ready .nop s := by
  simp only [Ready, WaitWord, InOrder, ok_iff]
  refine ⟨?_, by decide +kernel⟩
  rintro c (rfl | rfl) <;> decide +kernel

/-- A donor of 40 registers and a recipient of 16 that has accepted. -/
def donor : State :=
  let g := { frag with pc := 0x10008, hold := .accept 0, st := .sleeping }
  scalars [(5, 1)] { st with w := { st.w with allot := 40 }, blk := { st.blk with warps := [{ warp with idx := 1, allot := 16, frags := [g] }] } }

theorem witness_RegistersAreDonated : Ready (.racc 5) donor ∧
    ∃ r g, Ready (.rdon 5 3) donor ∧ (3 : BitVec 5) ≠ 0 ∧ donor.blk.st ≠ .none ∧ donor.f.mask ≠ 0 ∧ donor.w.launched ≠ 0 ∧
    Cells.wf donor.w.v = true ∧ (∀ b ∈ donor.blocks, b.uid ≠ donor.blk.uid) ∧ donor.blk.warps = [] ++ r :: [] ∧
    (donor.blk.warps.map Warp.idx).Pairwise (· < ·) ∧ (∀ w ∈ donor.blk.warps, w.idx ≠ donor.w.idx) ∧
    (readS donor 5).toNat % 2 ^ 16 = r.idx ∧ r.core = donor.w.core ∧ r.launched ≠ r.exited ∧ r.launched ≠ 0 ∧ r.frags = [g] ∧
    g.mask ≠ 0 ∧ g.replay = none ∧ g.hold = .accept donor.w.idx ∧ donor.w.frags = [] ∧ donor.w.exps = [] ∧ r.exps = [] ∧
    16 + 24 ≤ donor.w.allot ∧ r.allot + 24 ≤ 216 ∧ (∀ c, 32 * r.allot ≤ c → c < 32 * 216 → Cells.get r.v c = 0) := by
  simp only [Ready]
  refine ⟨?_, _, _, ?_, ?_, ?_, ?_, ?_, ?_, ?_, rfl, ?_, ?_, ?_, ?_, ?_, ?_, rfl, ?_, ?_, ?_, ?_, ?_, ?_, ?_, ?_, fun _ _ _ => rfl⟩
  all_goals decide +kernel

/-! ### Witnesses: launches, gear sets, records and pools -/

/-- A byte or number placed in a page of the tables. -/
def put (va v n : Nat) (s : State) : State := { s with mem := Cells.store s.mem (Config.farBase + 0x1F0000 + va) v n }
def field (off v n : Nat) (r : List Byte) : List Byte := r.take off ++ toBytes v n ++ r.drop (off + n)

/-- A tuner's grid with a gear set: 4 grains of one element along one dimension, tiles of one, the map at 0x30000. -/
def gearRecord : List Byte :=
  field 0x1D 1 1 (field 0xC0 1 1 (field 0xC4 4 3 (field 0xD0 1 2 (field 0xD8 1 2 (field 0xE8 0x30000 8 loadedRecord)))))
def gear : Gear :=
  { tile := [1, 0, 0, 0], order := 0, place := 0, stTile := [1, 0, 0, 0], stOrder := 0, stPlace := 0, gen := 1, recalls := 0,
    cursors := [(128, 4)], queues := [], held := [], tt := [], handed := [], claims := [] }
def gearGrid (g : Gear) : Grid := { loadedGrid with record := gearRecord, gear := some g }
def geared (g : Gear) : State := scalars [(8, 2), (12, 1)] { st with grids := [gearGrid g] }
def oneTile : Tile := { org := [0, 0, 0, 0], ext := [1, 0, 0, 0], gen := 1, entry := none }
def queuedGear : Gear := { gear with queues := [(0, oneTile)] }

theorem witness_GearInstructions_schn :
    (Ready (.schn 8) (geared gear) ∧ GearSet (geared gear) (gearGrid gear) gear ∧ gear.claims = [] ∧
      (serve 1 ((gearGrid gear).map true) gear (placementSet (gearGrid gear)) 0 (started (geared gear))).2 = .exhausted) ∧
    (Ready (.schn 8) (geared queuedGear) ∧ GearSet (geared queuedGear) (gearGrid queuedGear) queuedGear ∧
      (serve 1 ((gearGrid queuedGear).map true) queuedGear (placementSet (gearGrid queuedGear)) 0
        (started (geared queuedGear))).2 = .tile oneTile 0 0 []) := by
  simp only [Ready, GearSet]; exact ⟨by decide +kernel, by decide +kernel⟩

/-- The map's lines are held in their slices, with the bytes `d k` in line k; memory lists nothing. -/
def mapLeaf : Leaf := { e := 0x22 * 2 ^ 24 + 0x113F, size := 0x10000 }
def mapLine (d : Nat → Memory) (k : Nat) : L2Line :=
  { slice := sliceOf 1 mapLeaf.e (0x30000 + 128 * k), asid := 1, la := 0x600 + k, valid := -1, dirty := 0, data := d k,
    pa := Config.farBase + 0x220000 + 128 * k, leaf := BitVec.ofNat 64 mapLeaf.e, early := false }
def mapped (d : Nat → Memory) : State := { geared gear with mem := [], l2 := (List.range 130).map (mapLine d) }
def theMap : MapRef := (gearGrid gear).map true
def theTile : Tile := groupTile (geared gear) 8
def mapPiece (va : Nat) : Piece :=
  { asid := 1, va := BitVec.ofNat 64 va, pa := Config.farBase + 0x1F0000 + va, n := 1, leaf := mapLeaf, hit := true }

theorem map_line {d : Nat → Memory} {k : Nat} (hk : k < 130) : l2Find (mapped d) 1 (0x600 + k) = some (mapLine d k) := by
  unfold l2Find
  rw [show (mapped d).l2 = (List.range 130).map (mapLine d) from rfl, List.find?_map]
  have h : (List.range 130).find? ((fun x => x.asid == 1 && x.la == 0x600 + k) ∘ mapLine d) = some k := by
    rw [List.find?_range_eq_some]
    refine ⟨by simp [mapLine], by simpa using hk, fun j hj => ?_⟩
    simp [mapLine]; omega
  rw [h]; rfl

theorem map_reached {d : Nat → Memory} {va : Nat} (h : 0x30000 ≤ va ∧ va < 0x34100) :
    mapCell (mapped d) theMap va = .ok (mapPiece va) := by
  have h1 : vaOf (BitVec.ofNat 64 va) = va := by unfold vaOf; rw [BitVec.toNat_ofNat]; omega
  have h2 : notGlobal (BitVec.ofNat 64 va) = none := by
    have : isGlobal (BitVec.ofNat 64 va) = true := by
      unfold isGlobal bit; simp only [BitVec.toNat_ofNat]
      rw [show va % 2 ^ 64 / 2 ^ 56 = 0 by omega, show va % 2 ^ 64 / 2 ^ 55 = 0 by omega]; rfl
    unfold notGlobal; rw [if_pos this]
  have h3 : effAsid 1 va = 1 := by unfold effAsid bit; rw [show va / 2 ^ 55 = 0 by omega]; rfl
  have h4 : l2Find (mapped d) 1 (va / 128) = some (mapLine d (va / 128 - 0x600)) := by
    rw [← map_line (by omega), show 0x600 + (va / 128 - 0x600) = va / 128 by omega]
  have h5 : lineHit (mapped d) 1 .rmw (BitVec.ofNat 64 va) 1 1 = some (mapLeaf, Config.farBase + 0x1F0000 + va, false) := by
    unfold lineHit
    simp only [h1, h3, h4, show (mapLine d (va / 128 - 0x600)).valid = BitVec.allOnes 128 from rfl, BitVec.allOnes_and, beq_self_eq_true]
    have e : (mapLine d (va / 128 - 0x600)).pa + va % 128 = Config.farBase + 0x1F0000 + va := by
      simp only [mapLine, Config.farBase]; omega
    simp only [e, show (decide (Access.rmw = Access.write) || true) = true from rfl]
    rfl
  have h6 : fabricFault (mapped d) mapLeaf.e .rmw (BitVec.ofNat 64 va) = none := by
    unfold fabricFault
    simp only [show (mapped d).cutoff = [] from rfl, show (mapped d).outage = none from rfl, List.contains_nil, Bool.and_false,
      Bool.or_false, Bool.false_eq_true, if_false, ite_self]
  unfold mapCell Machine.translate
  simp only [h2, show theMap.asid = 1 from rfl, h5, h1, h3, show denied mapLeaf.e .rmw theMap.user = none from rfl, Bool.false_eq_true,
    if_false, h6]
  rw [if_neg (by decide), if_neg (by simp [headerHit, show eOBJ mapLeaf.e = false from rfl])]
  rfl

/-- Steps on bytes of the map begin with nothing to write back and nothing to wait for. -/
theorem map_pieces {d : Nat → Memory} : ∀ {vas : List Nat}, (∀ va ∈ vas, 0x30000 ≤ va ∧ va < 0x34100) →
    mapPieces (mapped d) theMap vas = .ok (vas.map mapPiece)
  | [], _ => rfl
  | va :: r, h => by
    unfold mapPieces
    rw [map_reached (h va (by simp)), map_pieces (fun v hv => h v (by simp [hv]))]
    rfl
theorem map_start {d : Nat → Memory} {vas : List Nat} (h : ∀ va ∈ vas, 0x30000 ≤ va ∧ va < 0x34100) :
    mapStart (mapped d) theMap vas = .ok (mapped d) := by
  unfold mapStart
  rw [map_pieces h]
  have k : keepLeaves (mapped d) (.mem 1 (vas.map mapPiece)) = mapped d :=
    keepLeaves_hit _ _ _ (by simp [mapPiece])
  have b : ∀ l : List Piece, l.foldl (fun s q => beforeHome s q.asid q.va) (mapped d) = mapped d := by
    intro l
    induction l with
    | nil => rfl
    | cons p r ih => exact ih
  simp only [k, b, rangeHeld, show (mapped d).copies = [] from rfl, List.any_nil]
  rw [if_neg (by simp)]
  rfl

theorem map_state {d : Nat → Memory} {e : Nat} (he : e < 256) :
    entryState (mapped d) theMap e = Cells.load (overlay [] (d (e / 2)) (-1)) (64 * (e % 2) + 0x36) 1 := by
  unfold entryState mapGet
  rw [show entryVa theMap e + 0x36 = 0x30000 + 64 * e + 0x36 from rfl, map_reached (by omega)]
  have h : l2Find (mapped d) (mapPiece (0x30000 + 64 * e + 0x36)).asid (lineOf (mapPiece (0x30000 + 64 * e + 0x36)).va) =
      some (mapLine d (e / 2)) := by
    have : lineOf (mapPiece (0x30000 + 64 * e + 0x36)).va = 0x600 + e / 2 := by
      unfold lineOf vaOf mapPiece; simp only [BitVec.toNat_ofNat]; omega
    rw [this]; exact map_line (by omega)
  simp only [homeValueOf, h]
  have o : (mapPiece (0x30000 + 64 * e + 0x36)).pa % 128 = 64 * (e % 2) + 0x36 := by
    simp only [mapPiece, Config.farBase]; omega
  rw [o]
  simp only [mapPiece, show isDevLeaf mapLeaf.e = false from rfl, show eC mapLeaf.e = true from rfl, Bool.false_eq_true, if_false, if_true]
  rfl
theorem map_started {d : Nat → Memory} {vas : List Nat} (h : ∀ va ∈ vas, 0x30000 ≤ va ∧ va < 0x34100) :
    mapStart (releaseAt 2 (started (mapped d))) theMap vas = .ok (mapped d) := by
  rw [show releaseAt 2 (started (mapped d)) = mapped d from rfl]
  exact map_start h

/-- The table has no entry in use; entry 0 has been picked up with the tile; every entry is handed over. -/
def emptyMap : Nat → Memory := fun _ => []
def pickedMap : Nat → Memory := fun k => if k = 0 then [(0x10, 2), (0x20, 1), (0x36, 2)] else []
def fullMap : Nat → Memory := fun _ => [(0x36, 1), (0x76, 1)]

theorem none_in {c : Memory} {n : Nat} (h : ∀ k, k < 2 → Cells.load (overlay [] c (-1)) (64 * k + 0x36) 1 ≠ n) {e : Nat} (he : e < 256) :
    (entryState (mapped (fun _ => c)) theMap e == n) = false := by
  rw [map_state he]
  exact beq_eq_false_iff_ne.mpr (h (e % 2) (Nat.mod_lt e (by decide)))

theorem none_picked {c : Memory} (h : ∀ k, k < 2 → Cells.load (overlay [] c (-1)) (64 * k + 0x36) 1 ≠ 2) (t : Tile) :
    pickedEntry (mapped (fun _ => c)) theMap t = none := by
  unfold pickedEntry
  rw [List.find?_eq_none]
  intro e he
  rw [none_in h (List.mem_range.mp he)]
  exact Bool.false_ne_true

theorem table_range : ∀ va ∈ tableAddrs theMap, 0x30000 ≤ va ∧ va < 0x34100 := by
  intro va h
  obtain ⟨e, he, rfl⟩ := List.mem_map.mp h
  have he := List.mem_range.mp he
  rw [show entryVa theMap e = 0x30000 + 64 * e from rfl]
  omega

theorem handOver_ok {gid c e : Nat} {m : MapRef} {t : Tile} {b p : W64} {s : State} (h1 : mapStart s m (tableAddrs m) = .ok s)
    (h2 : freeEntry s m = some e) (h3 : mapStart s m (entryAddrs m e ++ fieldAddrs m (tileGrains m t)) = .ok s) :
    ∃ u, handOver gid m t b p c s = .ok u := by
  unfold handOver
  rw [h1]
  simp only [h2]
  rw [h3]
  exact ⟨_, rfl⟩

theorem handOver_full {gid c : Nat} {m : MapRef} {t : Tile} {b p : W64} {s : State} (h1 : mapStart s m (tableAddrs m) = .ok s)
    (h2 : freeEntry s m = none) : handOver gid m t b p c s = .full := by
  unfold handOver
  rw [h1]
  simp only [h2]

theorem none_free {c : Memory} (h : ∀ k, k < 2 → Cells.load (overlay [] c (-1)) (64 * k + 0x36) 1 ≠ 0) :
    freeEntry (mapped (fun _ => c)) theMap = none := by
  unfold freeEntry
  rw [List.find?_eq_none]
  intro e he
  rw [none_in h (List.mem_range.mp he)]
  exact Bool.false_ne_true

theorem witness_GearInstructions :
    GearSet (geared gear) (gearGrid gear) gear ∧ Ready (.schp 4) (geared gear) ∧ Ready (.schq 0xBF 4) (geared gear) ∧
    (GearSet (mapped emptyMap) (gearGrid gear) gear ∧ Ready (.schq 0x20 4) (mapped emptyMap) ∧
      ∃ u, mapStart (started (mapped emptyMap)) theMap (fieldAddrs theMap (List.range theMap.total)) = .ok u) ∧
    (Ready (.schs 0x0C 4) (geared gear) ∧ isTuner (geared gear) = true) ∧
    (Ready .schc (geared gear) ∧ collected (geared gear) = true ∧
      firstBad (gearChecks (leBytes gearRecord 0xC0 1) (recGrain gearRecord) (gear.stTile.map BitVec.toNat) 0 0) = none) := by
  simp only [Ready, GearSet]
  refine ⟨?_, ?_, ?_, ⟨?_, ?_, mapped emptyMap, ?_⟩, ?_, ?_⟩
  case refine_6 => exact map_started (by decide +kernel)
  all_goals decide +kernel

theorem not_moved {d : Nat → Memory} {n : Nat} (h : fieldOf (mapped d) theMap 2 ≠ 1) :
    (moveGrains theMap 1 n (tileGrains theMap theTile) (mapped d)).1 = mapped d := by
  rw [show tileGrains theMap theTile = [2] by decide +kernel]
  unfold moveGrains
  rw [if_neg h]
  rfl

/-- The group s8 to s15 names the grain 2. -/
theorem witness_GearInstructions_schd :
    (∀ d, d = emptyMap ∨ d = pickedMap → GearSet (mapped d) (gearGrid gear) gear ∧ Ready (.schd 8) (mapped d) ∧
      collected (mapped d) = true ∧ theTile = groupTile (mapped d) 8 ∧
      mapStart (releaseAt 2 (started (mapped d))) theMap (fieldAddrs theMap (tileGrains theMap theTile) ++ tableAddrs theMap) = .ok (mapped d)) ∧
    pickedEntry (moveGrains theMap 1 3 (tileGrains theMap theTile) (mapped emptyMap)).1 theMap theTile = none ∧
    pickedEntry (moveGrains theMap 1 3 (tileGrains theMap theTile) (mapped pickedMap)).1 theMap theTile = some 0 := by
  simp only [Ready, GearSet]
  rw [not_moved (by decide +kernel), not_moved (by decide +kernel)]
  refine ⟨?_, none_picked (c := []) (by decide +kernel) _, by decide +kernel⟩
  have h : ∀ va ∈ fieldAddrs theMap (tileGrains theMap theTile) ++ tableAddrs theMap, 0x30000 ≤ va ∧ va < 0x34100 := by
    rw [List.forall_mem_append]
    exact ⟨by decide +kernel, table_range⟩
  rintro d (rfl | rfl) <;> exact ⟨by decide +kernel, by decide +kernel, by decide +kernel, by decide +kernel, map_started h⟩

theorem witness_GearInstructions_schh :
    let tl : Tile := { theTile with gen := 1 }
    (∀ d, d = emptyMap ∨ d = fullMap ∨ d = pickedMap → GearSet (mapped d) (gearGrid gear) gear ∧ Ready (.schh 8 4 5) (mapped d) ∧
      collected (mapped d) = true ∧
      tl = { groupTile (mapped d) 8 with
        gen := ((gear.held.find? (fun x => sameShape x.2.1 (groupTile (mapped d) 8))).map (fun x => x.2.1.gen)).getD gear.gen } ∧
      mapStart (releaseAt 2 (started (mapped d))) theMap (tableAddrs theMap) = .ok (mapped d)) ∧
    (pickedEntry (mapped emptyMap) theMap tl = none ∧ ∃ v, handOver 1 theMap tl 0 0 0 (mapped emptyMap) = .ok v) ∧
    (pickedEntry (mapped fullMap) theMap tl = none ∧ handOver 1 theMap tl 0 0 0 (mapped fullMap) = .full) ∧
    pickedEntry (mapped pickedMap) theMap tl = some 0 ∧
      mapStart (mapped pickedMap) theMap (fieldAddrs theMap (tileGrains theMap tl)) = .ok (mapped pickedMap) := by
  simp only [Ready, GearSet]
  refine ⟨?_, ⟨?_, ?_⟩, ⟨?_, ?_⟩, ?_, map_start (by decide +kernel)⟩
  · rintro d (rfl | rfl | rfl) <;> exact ⟨by decide +kernel, by decide +kernel, by decide +kernel, by decide +kernel, map_started table_range⟩
  · exact none_picked (c := []) (by decide +kernel) _
  · exact handOver_ok (e := 0) (map_start table_range) (by decide +kernel) (map_start (by decide +kernel))
  · exact none_picked (c := [(0x36, 1), (0x76, 1)]) (by decide +kernel) _
  · exact handOver_full (map_start table_range) (none_free (c := [(0x36, 1), (0x76, 1)]) (by decide +kernel))
  · decide +kernel
/-- 07 R212: an access that reads a poisoned line meets ECC (0x13), and a plain write of it does not. -/
theorem test_ecc :
    let s : State := { State.reset with poison := [0x1000000001] }
    eccFault s 0x113F .read 0x800000000FC 8 0x40 = some { code := 0x13, cause := 0, level := 15, pool := 0, va := 0x40 } ∧
    (eccFault s 0x113F .rmw 0x80000000080 4 0x40).isSome = true ∧ eccFault s 0x113F .write 0x80000000080 4 0x40 = none ∧
    eccFault s 0x113F .read 0x80000000078 8 0x40 = none := by decide

/-- A grid of work graph 9, whose node 0 takes records of two words in groups of 4; two records wait on cluster 0. -/
def node : Node :=
  { recVa := 0, record := loadedRecord, hdr := (0, 0, 0, 0), group := 4, ovfVa := 0, ovfCap := 0, recBytes := 8, timer := 0,
    queue := [{ cluster := 0, since := 0, words := [5, 6] }], ovf := [], ovfNext := 0 }
def graph : Graph := { id := 9, root := 1, nodes := [node], signal := 0, queue := (0, 0), asid := 1, cls := 0 }
/-- Slices hold the lines of a counter at 0x30020, with the count 5, or 0, and of its hold area at 0x30100, which holds one
record of two words or none. -/
def counterLine (count held k : Nat) : Memory :=
  (if k = 0 then [(0x20, BitVec.ofNat 8 count), (0x29, 1), (0x2A, 3), (0x30, 4), (0x34, BitVec.ofNat 8 held)] else [(0, 7), (4, 8)]).filter
    (fun c => c.2 != 0)
def graphed (count held : Nat) : State :=
  let s := addressed 0 0
  scalars [(5, 0x30020), (7, 3), (10, 5)]
    { s with mem := [], l2 := [0, 2].map (mapLine (counterLine count held))
             grids := [{ loadedGrid with graph := some 9 }], graphs := [graph], blk := { s.blk with node := some (9, 0) } }
def counterPieces : List Piece := (List.range 32).map (fun k => mapPiece (0x30020 + k))
def countIs (count held : Nat) : Bool :=
  counterAt (releaseAt 2 (atCounter (graphed count held) counterPieces)) counterPieces ==
    { count := count, node := 0, hold := 0x30100, cap := 4, held := held }

theorem witness_RecordsAndCounters :
    (Ready (.rpush 8 6 0) (graphed 5 0) ∧ (gridOf (graphed 5 0)).bind Grid.graph = some 9 ∧ nodeAt (graphed 5 0) 9 0 = some node ∧
      2 ≤ node.words ∧ groupFault 8 2 (graphed 5 0) = none ∧ groupFault 8 node.words (graphed 5 0) = none ∧
      collected (graphed 5 0) = true ∧ (graphed 5 0).f.exp = none ∧
      node.held 0 + (lanesOf (activeLanesOf (graphed 5 0) &&& ~~~(graphed 5 0).f.done)).length < node.group) ∧
    (Ready (.rpop 8 1 1) (graphed 5 0) ∧ (graphed 5 0).blk.node = some (9, 0) ∧ groupBusy 8 node.words (graphed 5 0) = false ∧
      (takeRecs node ((graphed 5 0).blk.clusters.headD 0) 2).1 ≠ [] ∧
      ∀ r ∈ (takeRecs node ((graphed 5 0).blk.clusters.headD 0) 2).1, r.words.length ≤ node.words) := by
  simp only [Ready]; exact ⟨by decide +kernel, by decide +kernel⟩

theorem witness_RecordsAndCounters_hold : Ready (.rpush 8 0 5) (graphed 5 0) ∧
    CounterBytes (graphed 5 0) (readS (graphed 5 0) 5) counterPieces ∧ countIs 5 0 = true ∧
    someAnd (fun v => someAnd (fun x => decide (x.held (clusterOf (graphed 5 0).w.core) < x.group)) (nodeAt v 9 0))
      (pushedAll (some (readS (graphed 5 0) 5, counterPieces)) 9 0 node 8 [0, 1] (releaseAt 2 (atCounter (graphed 5 0) counterPieces))) = true := by
  simp only [Ready, CounterBytes, InOrder, ok_iff]
  refine ⟨?_, ?_, ?_, ?_⟩ <;> decide +kernel

/-- `dadd` and `ddec` by 3; `ddec` by 5 to 0, which releases the one held record; and `ddec` of a counter that is 0. -/
theorem witness_RecordsAndCounters_counters :
    (∀ i, i = Instr.dadd 5 7 ∨ i = .ddec 5 7 ∨ i = .ddec 5 10 → Ready i (graphed 5 1)) ∧ Ready (.ddec 5 7) (graphed 0 0) ∧
    CounterBytes (graphed 5 1) (readS (graphed 5 1) 5) counterPieces ∧ CounterBytes (graphed 0 0) (readS (graphed 0 0) 5) counterPieces ∧
    collected (graphed 5 1) = true ∧ (readS (graphed 5 1) 7).toNat = 3 ∧ (readS (graphed 5 1) 10).toNat = 5 ∧
    TakesFaults (graphed 0 0) ∧ (counterPieces.take 4).any (headerHit (graphed 5 1)) = false := by
  simp only [Ready, CounterBytes, InOrder, TakesFaults, ok_iff]
  refine ⟨?_, ?_⟩
  · rintro i (rfl | rfl | rfl) <;> decide +kernel
  · decide +kernel
theorem witness_RecordsAndCounters_counts : countIs 5 1 = true ∧ countIs 0 0 = true := by decide +kernel

/-- The release of the held record. -/
def released : Option State :=
  let u := releaseAt 2 (atCounter (graphed 5 1) counterPieces)
  match heldRecords u (counterAt u counterPieces) node with
  | .error _ => none
  | .ok hs =>
    if piecesHeld u hs then none
    else match releaseHeld 9 0 ((List.range 1).map (fun j => bytesWords (((homeBytes (cleanPieces u hs) hs).drop (j * 8)).take 8)))
        (setCounter counterPieces 0x14 0 4 (setCounter counterPieces 0 0 4 (cleanPieces u hs))) with
      | .done v => some v
      | _ => none
theorem witness_RecordsAndCounters_release :
    someAnd (fun v => someAnd (fun x => x.held (clusterOf v.w.core) == 2 && decide (2 < x.group)) (nodeAt v 9 0)) released = true := by
  decide +kernel

/-- A launch record at 0x30100, and none at 0x30200; a handler table at 0x30400 whose entry 1 is 0x10000, and peer 7. -/
def peer : Peer := { n := 7, qpn := 1, port := 2, inbound := true, v := true, asid := 1, inrec := 0, drops := 0 }
def launching : State :=
  let s := scalars [(5, 0x30100), (6, 0x30200), (7, 1), (8, 5), (9, 0x7007F)] (lanes 3 { st with
    grids := [{ loadedGrid with record := field 0xF0 0x30400 8 loadedRecord }]
    mem := pages ++ [(0x20000220102, 1), (0x20000220108, 1), (0x2000022010C, 1), (0x20000220110, 1), (0x20000220114, 32),
                     (0x20000220116, 1), (0x20000220118, 1), (0x2000022011C, 27), (0x2000022040A, 1)] })
  { s with dev := { s.dev with peers := [peer] } }
def request (va : W64) : LaunchReq :=
  { asid := 1, user := true, va := va, depth := 1, parent := some 1, queue := none, cls := 0, root := some false, graph := none, die := 0 }
def acceptsAs (n : Nat) : Accepted → Bool
  | .ok _ gid => gid == n
  | _ => false
/-- What a launch from a state leads to, over the bytes of the record. -/
def acceptBytes (s : State) (q : LaunchReq) (r : List Byte) : Accepted :=
  match firstBad (earlyChecks s r q.depth q.root) with
  | some o => .bad o
  | none => match firstBad (lateChecks r) with
    | some o => .bad o
    | none =>
      let g := newGrid s q r (0, 0, 0, 0)
      let s := fresh (writeDepth { s with grids := s.grids ++ [g] } q)
      let s := match q.parent with
        | some p => updGrid s p (fun x => { x with children := x.children + 1 })
        | none => s
      .ok (push .blockStart (.unit g.gid) s) g.gid
theorem acceptLaunch_bytes {s : State} {q : LaunchReq} {r : List Byte} (h : recordBytes s q.asid q.user q.hub q.va 256 = .ok r)
    (h2 : leBytes r 0x30 8 = 0) (h3 : heldLaunches s q.die < 64) : acceptLaunch s q = acceptBytes s q r := by
  unfold acceptLaunch checkRecord spillHeader acceptBytes
  simp only [h, h2, if_true]
  cases firstBad (earlyChecks s r q.depth q.root) <;> simp only
  cases firstBad (lateChecks r) <;> simp only
  refine (if_neg (by omega)).trans ?_
  cases q.parent <;> rfl
theorem accepts_of {a : Accepted} {n : Nat} (h : acceptsAs n a = true) : ∃ u, a = .ok u n := by
  cases a <;> simp [acceptsAs] at h
  subst h; exact ⟨_, rfl⟩
def aRecord : List Byte := [0, 0, 1, 0, 0, 0, 0, 0, 1, 0, 0, 0, 1, 0, 0, 0, 1, 0, 0, 0, 32, 0, 1, 0, 1, 0, 0, 0, 27] ++ List.replicate 227 0
def noRecord : List Byte := List.replicate 256 0
theorem record_read {s : State} {user hub : Bool} {f : Leaf} {va : Nat} {r : List Byte} (hs : Uncached s)
    (h : walk s 1 0x30000 hub = .ok f) (hd : ∀ u, denied f.e .read u = none) (hm : isDevLeaf f.e = false) (hv : 0x30000 ≤ va ∧ va < 0x3FF00)
    (hr : (List.range 256).map (fun k => BitVec.ofNat 8 (physRead s (leafPa s f ((va + k) % 2 ^ 56)) 1)) = r) :
    recordBytes s 1 user hub (BitVec.ofNat 64 va) 256 = .ok r :=
  (recordBytes_page (v0 := 0x30000) hs h (hd user) hm (by decide) (by decide) 256 va (fun _ => by omega) (fun _ => by omega)).trans
    (congrArg Except.ok hr)

theorem witness_LaunchesAndMessages_launch : Ready (.launch 5) launching ∧ Ready (.launch 6) launching ∧ collected launching = true ∧
    (readS launching 5).toNat % 256 = 0 ∧ isGlobal (readS launching 5) = true ∧ (readS launching 6).toNat % 256 = 0 ∧
    isGlobal (readS launching 6) = true ∧ (∃ gr, gridOf launching = some gr ∧ gr.gid = 1 ∧ recordHeld launching gr.asid (readS launching 5) = false ∧
      recordHeld launching gr.asid (readS launching 6) = false) ∧ TakesFaults launching ∧
    (∃ u, acceptLaunch (releaseAt 2 (started launching)) (request (readS launching 5)) = .ok u 3) ∧
    acceptLaunch (releaseAt 2 (started launching)) (request (readS launching 6)) = .bad 8 := by
  have uncached : Uncached (releaseAt 2 (started launching)) := ⟨rfl, rfl, rfl, rfl, rfl, rfl, rfl⟩
  have w : walk (releaseAt 2 (started launching)) 1 0x30000 = .ok mapLeaf := by rw [ok_iff]; decide +kernel
  have r : recordBytes (releaseAt 2 (started launching)) 1 true false (BitVec.ofNat 64 0x30100) 256 = .ok aRecord :=
    record_read uncached w (by decide) (by decide) (by decide) (by decide +kernel)
  have r' : recordBytes (releaseAt 2 (started launching)) 1 true false (BitVec.ofNat 64 0x30200) 256 = .ok noRecord :=
    record_read uncached w (by decide) (by decide) (by decide) (by decide +kernel)
  have v : readS launching 5 = BitVec.ofNat 64 0x30100 := by decide +kernel
  have v' : readS launching 6 = BitVec.ofNat 64 0x30200 := by decide +kernel
  simp only [Ready, TakesFaults, v, v']
  refine ⟨?_, ?_, ?_, ?_, ?_, ?_, ?_, ⟨_, rfl, rfl, ?_, ?_⟩, ?_, ?_, ?_⟩
  case refine_11 =>
    apply accepts_of
    rw [acceptLaunch_bytes (s := releaseAt 2 (started launching)) (q := request (BitVec.ofNat 64 0x30100)) (r := aRecord) r
      (by decide +kernel) (by decide +kernel)]
    decide +kernel
  case refine_12 =>
    rw [acceptLaunch_bytes (s := releaseAt 2 (started launching)) (q := request (BitVec.ofNat 64 0x30200)) (r := noRecord) r'
      (by decide +kernel) (by decide +kernel)]
    have h : firstBad (earlyChecks (releaseAt 2 (started launching)) noRecord (request (BitVec.ofNat 64 0x30200)).depth
      (request (BitVec.ofNat 64 0x30200)).root) = some 8 := by decide +kernel
    unfold acceptBytes
    rw [h]
  all_goals decide +kernel

theorem witness_LaunchesAndMessages_amsd :
    Ready (.amsd 4 8 7) launching ∧ Ready (.amsd 4 9 7) launching ∧
    ((readS launching 9).toNat / 2 ^ 16 % 2 ^ 16 = 7 ∧ peerAt launching 7 = some peer ∧ peer.v = true ∧ (readS launching 9).toNat / 2 ^ 7 % 2 ^ 9 = 0 ∧
      (readS launching 8).toNat / 2 ^ 16 % 2 ^ 16 = 0 ∧ messageLost launching 5 = none) ∧
    (∃ gr, gridOf launching = some gr ∧ okIs (some 0x10000) (handlerEntry launching gr true 1) = true ∧
      handlerHeld launching gr 1 = false) ∧
    collected launching = true ∧ messageRoom launching (messageQueue launching 0 5) = true ∧
    messageRoom launching (messageQueue launching 7 127) = true := by
  simp only [Ready]
  refine ⟨?_, ?_, ?_, ⟨_, rfl, ?_, ?_⟩, ?_⟩ <;> decide +kernel

theorem witness_TrapsAndHalts : Ready (.trap 7) st ∧ Ready .brk st ∧ Ready .halt (supervisor st) ∧ TakesFaults st := by
  simp only [Ready, TakesFaults]; decide +kernel

/-- A supervisor fragment with pools in the upper half, which has the tables of ASID 1: pool 1 holds two of three frames,
pool 2 none of three and pool 3 three; page 0x70000 is to be mapped from pool 1. -/
def poolTables : Memory :=
  [(0x20000000002, 0x10), (0x20000000005, 2), (0x20000000008, 1)] ++ pages.take 7 ++
  [(0x20000100400, 1), (0x20000100403, 1), (0x20000100404, 1), (0x20000100406, 0x20)] ++ pages.drop 7 ++
  [(0x20000120038, 8), (0x20000120039, 0x50)]
def poolCells : Memory := [(0x20000220041, 0x41), (0x20000220042, 3), (0x20000220046, 0x80), (0x20000220047, 0xFF),
                   (0x20000220048, 3), (0x2000022004C, 2), (0x20000220051, 0x11), (0x20000220081, 0x42),
                   (0x20000220082, 3), (0x20000220086, 0x80), (0x20000220087, 0xFF), (0x20000220088, 3),
                   (0x20000220091, 0x11), (0x200002200C1, 0x43), (0x200002200C2, 3), (0x200002200C6, 0x80),
                   (0x200002200C7, 0xFF), (0x200002200C8, 3), (0x200002200CC, 3), (0x200002200D1, 0x11),
                   (0x20000224104, 0x77)]
def pooled : State :=
  let s := supervisor (scalars [(4, 0x70000), (5, 0x100000020), (6, 0x10000), (7, 1), (8, 2), (9, 3), (10, 0x20000)] st)
  { s with mem := poolTables ++ poolCells, w := { s.w with pool := 0x80000000030000 } }
def desc (n count : Nat) : PoolDesc :=
  { va := BitVec.ofNat 64 (0xFF80000000030000 + 64 * n), stack := BitVec.ofNat 64 (0xFF80000000034000 + 0x100 * n), cap := 3,
    count := count, attrs := 0x1100, low := 0 }

theorem upper_walk : walk pooled 0 (BitVec.ofNat 64 0xFF80000000030000) = .ok mapLeaf := by rw [ok_iff]; decide +kernel
theorem upper_uncached : Uncached pooled := ⟨rfl, rfl, rfl, rfl, rfl, rfl, rfl⟩
theorem upper_read {n va : Nat} {r : List Byte} (hv : 0xFF80000000030000 ≤ va ∧ va + n ≤ 0xFF80000000040000)
    (hr : (List.range n).map (fun k => BitVec.ofNat 8 (physRead pooled (leafPa pooled mapLeaf ((va + k) % 2 ^ 56)) 1)) = r) :
    recordBytes pooled 0 false false (BitVec.ofNat 64 va) n = .ok r := by
  have hd : denied mapLeaf.e .read false = none := rfl
  exact (recordBytes_page upper_uncached upper_walk hd (by decide) (by decide) (by decide) n va (fun _ => by omega) (fun _ => by omega)).trans
    (congrArg Except.ok hr)
def descBytes (n count : Nat) : List Byte :=
  [0, BitVec.ofNat 8 (0x40 + n), 3, 0, 0, 0, 0x80, 0xFF, 3, 0, 0, 0, BitVec.ofNat 8 count, 0, 0, 0, 0, 0x11] ++ List.replicate 46 0
theorem none_held {s : State} (h : s.copies = []) (asid : Nat) (va : W64) (n : Nat) : agentHeld s asid va n = false := by
  simp [agentHeld, rangeHeld, h]
theorem pool_reached {n count : Nat} {k : PoolDesc → Nat} (hn : 0 < n ∧ n < 4)
    (hr : recordBytes pooled 0 false false (BitVec.ofNat 64 (0xFF80000000030000 + 64 * n)) 64 = .ok (descBytes n count))
    (hd : descBad (descBytes n count) = false) (hf : leBytes (descBytes n count) 0 8 = 0xFF80000000034000 + 0x100 * n)
    (hc : leBytes (descBytes n count) 12 4 = count) : PoolReached pooled n k (desc n count) pooled := by
  refine ⟨none_held rfl _ _ _, ?_, none_held rfl _ _ _, rfl⟩
  rw [show drainLine (descVa pooled.w.pool n) (started pooled) = pooled from rfl]
  unfold poolDesc
  rw [show descVa pooled.w.pool n = BitVec.ofNat 64 (0xFF80000000030000 + 64 * n) from rfl,
    show bits pooled.w.pool.toNat 6 50 = 0x2000000000C00 from rfl]
  simp only [show (n = 0) = False from eq_false (by omega), hr, hd, hf, hc]
  rfl
theorem pool_one {k : PoolDesc → Nat} : PoolReached pooled 1 k (desc 1 2) pooled :=
  pool_reached (by decide) (upper_read (by decide) (by decide +kernel)) (by decide) (by decide) (by decide)
theorem pool_two {k : PoolDesc → Nat} : PoolReached pooled 2 k (desc 2 0) pooled :=
  pool_reached (by decide) (upper_read (by decide) (by decide +kernel)) (by decide) (by decide) (by decide)
theorem pool_three {k : PoolDesc → Nat} : PoolReached pooled 3 k (desc 3 3) pooled :=
  pool_reached (by decide) (upper_read (by decide) (by decide +kernel)) (by decide) (by decide) (by decide)

theorem witness_PoolsMappingsAndCaches :
    (Ready (.pmap 12 4 5) pooled ∧ isGlobal (readS pooled 4) = true ∧ okIs (.inl 0x20000120000) (walkTable pooled (asidOf pooled) (readS pooled 4)) = true ∧
      pmapEntry pooled 0x20000120000 (vaOf (readS pooled 4)) = (0x20000120038, false) ∧ eV (physRead pooled 0x20000120038 8) = false ∧
      ePOOL (physRead pooled 0x20000120038 8) ≠ 0 ∧ eTYPE (physRead pooled 0x20000120038 8) = 1 ∧
      (readS pooled 5).toNat / 2 ^ 32 % 64 = 1 ∧ (desc 1 2).attrs / 2 ^ 12 % 4 = 1) ∧
    (Ready (.pmap 12 10 5) pooled ∧ isGlobal (readS pooled 10) = true ∧ okIs (.inl 0x20000120000) (walkTable pooled (asidOf pooled) (readS pooled 10)) = true ∧
      eV (physRead pooled (pmapEntry pooled 0x20000120000 (vaOf (readS pooled 10))).1 8) = true) ∧
    (Ready (.pumap 10 6) pooled ∧ Ready (.tinv 10 6) pooled ∧ (readS pooled 10).toNat % 0x10000 = 0 ∧ (readS pooled 6).toNat % 0x10000 = 0 ∧
      rowsOpen pooled = false) ∧
    (Ready (.pool 12 7) pooled ∧ Ready (.pool 12 8) pooled ∧ (readS pooled 7).toNat % 64 = 1 ∧ (readS pooled 8).toNat % 64 = 2) ∧
    (Ready (.poolPush 7 6) pooled ∧ Ready (.poolPush 9 6) pooled ∧ (readS pooled 9).toNat % 64 = 3 ∧ (desc 3 3).cap ≤ (desc 3 3).count) ∧
    (Ready (.l1wb 1 10 6) pooled ∧ Ready (.l1inv 1 10 6) pooled ∧ Ready (.l1inv 0 0 0) pooled) := by
  simp only [Ready]
  refine ⟨?_, ?_, ?_, ?_, ?_, ?_⟩ <;> decide +kernel

theorem witness_PoolsMappingsAndCaches_frames :
    (∃ u, popFrame false (desc 1 2) pooled = .ok (u, 0x77)) ∧ ∃ u, pushFrame false (desc 1 2) 0x10000 pooled = .ok u := by
  refine ⟨?_, ?_⟩
  · obtain ⟨⟨u, n⟩, h, hn⟩ := ok_of (o := popFrame false (desc 1 2) pooled) (f := fun (a : State × Nat) => a.2 == 0x77) (by decide +kernel)
    exact ⟨u, h.trans (by rw [show n = 0x77 from eq_of_beq hn])⟩
  · obtain ⟨u, h, -⟩ := ok_of (o := pushFrame false (desc 1 2) 0x10000 pooled) (f := fun (_ : State) => true) (by decide +kernel)
    exact ⟨u, h⟩

/-! ### Witnesses: events -/

/-- The state as an event meets it. -/
def asked (a : EvArg) (s : State) : State := { s with arg := a }
def pendOp (u : PendUnit) (l : Lanes) (lands : List Landing) (src : Option Replay) : Pend :=
  { id := 7, flag := 0, perLane := false, sup := false, unit := u, lanes := l, all := l, lands := lands, owes := [],
    own := 0xFFFFFFFF, marks := [], reads := [], losses := 0, src := src, left := 1 }
def waiting (p : Pend) : State := { st with w := { st.w with pend := [p] } }

def landings : List Landing := [.lane 64 5, .lane 65 6, .scalar 4 9, .pred 1 0 true]
theorem witness_ResultsLand :
    (∀ x, x = (Instr.memoryReply, EvArg.lanes 1 0 7 1, PendUnit.memory) ∨ x = (.memoryReply, .lanes 1 0 7 3, .collector) ∨
        x = (.quarterOperationCompletion, .lanes 1 0 7 3, .quarter) ∨ x = (.longLatencyResult, .triple 1 0 7, .long) →
      let s := asked x.2.1 (waiting (pendOp x.2.2 3 landings none))
      (landsLanes s x.1 x.2.2).isSome = true ∧
      (focusWarp s 1 0).w.pend.find? (fun q => q.id == 7) = some (pendOp x.2.2 3 landings none) ∧ (focusWarp s 1 0).w.exps = []) ∧
    walk (asked (.walk 1 0x30000) st) 1 0x30000 = .ok { e := 0x22 * 2 ^ 24 + 0x113F, size := 0x10000 } := by
  simp only [ok_iff]
  refine ⟨?_, by decide +kernel⟩
  rintro x (rfl | rfl | rfl | rfl) <;> decide +kernel

def homeReq (op : HomeOp) : HomeReq := { asid := 1, user := true, va := 0x30008, op := op, ty := 1, val := 5, cmp := 0, reply := none }
def homed (op : HomeOp) : State := asked (.home (homeReq op)) st
def homePiece : Piece := { piece with n := 4 }
theorem witness_ResultsLand_home : ∀ op, op = HomeOp.read ∨ op = .add ∨ op = .cas ∨ op = .inc →
    (homeReq op).reply = none ∧ isGlobal (homeReq op).va = true ∧
    agentPlace (unfocus (homed op)) 1 (homeAccess op) 0x30008 4 false = .ok homePiece ∧ isDevLeaf homePiece.leaf.e = false ∧
    rangeHeld (unfocus (homed op)) homePiece.asid 0x30008 = false ∧ headerHit (unfocus (homed op)) homePiece = false := by
  simp only [ok_iff]
  rintro op (rfl | rfl | rfl | rfl) <;> decide +kernel

def elem (l : Nat) : Elem := { lane := l, grp := BitVec.ofNat 32 (2 ^ l), va := BitVec.ofNat 64 (0x30008 + 4 * l), idx := 0, bound := false, val := 5, sent := true }
def coll (kind : Nat) : Coll :=
  { id := 7, core := 0, blk := 1, wp := 0, instr := .gth 8 2 4, kind := kind, ty := 1, d := 8, elems := [elem 0, elem 1], note := 0,
    own := 0xFFFFFFFF, stopped := false, losses := 0, pc := 0x10008, user := true, mode := 0 }
def collecting (kind : Nat) : State := asked (.unit 7) { waiting (pendOp .collector 3 [] none) with colls := [coll kind] }
def elemPiece (l : Nat) : Place := .mem 1 [{ homePiece with va := BitVec.ofNat 64 (0x30008 + 4 * l), pa := homePiece.pa + 4 * l }]
theorem witness_ResultsLand_collector : ∀ k, k = 0 ∨ k = 1 ∨ k = 2 →
    let s := collecting k
    let u := focusWarp s 1 0
    s.colls.find? (fun c => c.id == 7) = some (coll k) ∧ (coll k).stopped = false ∧ u.w.launched ≠ 0 ∧ behind u (coll k) = false ∧
    (∀ e ∈ (coll k).elems, e.lane < 32) ∧ (∀ y ∈ [(elem 0, elemPiece 0), (elem 1, elemPiece 1)], okIs y.2 (elemPlace u (coll k) y.1) = true ∧ fillHeld u y.2 4 = false) ∧
    [(elem 0, elemPiece 0), (elem 1, elemPiece 1)].map Prod.fst = (coll k).elems := by
  rintro k (rfl | rfl | rfl) <;> decide +kernel

def wordHeld (v : W64) (woken : Bool) : State :=
  asked (.triple 1 0 0) { st with f := { st.f with hold := .word 0x30008 0 v false woken } }
theorem witness_WaitersAndExportsGoOn :
    (∀ v b, v = (0 : W64) ∨ v = 1 → (focus (wordHeld v b) 1 0 0).f.hold = .word 0x30008 0 v false b) ∧
    (let u := focus (asked (.triple 1 0 0) { st with f := { st.f with waited := 48 } }) 1 0 0
     u.f.mask ≠ 0 ∧ u.f.promoted = none ∧ 48 ≤ u.f.waited) ∧
    (focus (asked (.triple 1 0 0) { st with f := { st.f with hold := .yield } }) 1 0 0).f.hold = .yield ∧
    (∀ r, r = 5 ∨ r = 215 → ((focusWarp (asked (.pull 1 0 50 r) exported) 1 0).w.exps.find? (fun y => y.id == 50)).isSome = true) ∧
    someAnd (fun e => e.nwarps == 1 && e.total == 1) ((focusWarp (asked (.pull 1 0 50 0) exported) 1 0).w.exps.find? (fun y => y.id == 50)) = true := by
  refine ⟨?_, by decide +kernel, by decide +kernel, ?_, by decide +kernel⟩
  · rintro v (_ | _) (rfl | rfl) <;> decide +kernel
  · rintro r (rfl | rfl) <;> decide +kernel

/-- One spilled entry below one that is held; the spill area is at 0x30000. -/
def spilt : State :=
  asked (.triple 1 0 0) { st with
    grids := [{ loadedGrid with spillVa := 0x30000, spillE := 4 }]
    f := { st.f with hold := .refill }
    w := { st.w with jst := [{ entry0 with spilled := true }, entry0] } }
def spillPiece : Piece := { piece with va := 0x30000, pa := piece.pa - 8, n := 32 }
theorem witness_WaitersAndExportsGoOn_refill :
    let u := focus spilt 1 0 0
    u.f.hold = .refill ∧ (u.w.jst.takeWhile (fun e => e.spilled)).length = 1 ∧ heldEntries u < 16 ∧
    resolveGlobal u (isUser u) .read (.plain 1) (spillVa u 0) 32 = .ok (.mem 1 [spillPiece]) ∧ fillHeld u (.mem 1 [spillPiece]) 32 = false := by
  simp only [ok_iff]; decide +kernel

/-- A linear copy of 8 bytes within the window, with the window address of its request at 0x100. -/
def copyReq : List Byte :=
  field 0x18 (window + 0x400) 8 (field 0x20 (window + 0x800) 8 (field 0x08 8 4 (field 0x04 1 4 (List.replicate 64 0))))
def requested : State :=
  asked (.unit 0) { waiting (pendOp .other 1 [] none) with
    blk := { st.blk with win := Cells.store [] 0x100 (leBytes copyReq 0 64) 64 }
    kicks := [{ kicked with pend := 7 }] }
theorem witness_EnginesAndWalkersProceed_issue :
    let k := { kicked with pend := 7 }
    let u := focusWarp requested 1 0
    requested.kicks.find? (fun x => x.core == 0) = some k ∧ k.stopped = false ∧ inFlight requested 0 < 64 ∧
    (List.range 64).map (fun j => Cells.get u.blk.win (k.req + j)) = copyReq ∧ fillHeld u (.win k.req) 64 = false ∧
    validate copyReq (slotBytes u) u.blk.winSize k.word = .ok 8 ∧ rangesFull u (newCopy u k copyReq 8) = false := by
  simp only [ok_iff]; decide +kernel

def running (row pos : Nat) : Copy :=
  { id := 9, core := 0, blk := 1, wp := 0, asid := 1, lanes := 1, req := copyReq, slots := [], cpk := 7, pc := 0x10008, user := true,
    gid := 1, lin := 0, row := row, rows := 1, pos := pos, buf := [1, 2, 3, 4, 5, 6, 7, 8], places := [], tagged := [],
    carry := [], idx := [], wrote := [], outs := [], srcLen := 8,
    len := 8, span := 8, done := false, errs := 0, batch := 0, strict := false, stream := false, suspended := false, skip := false,
    queue := none, fault := none, losses := 0 }
def copyingRow (c : Copy) : State := asked (.unit 9) { st with copies := [c] }
theorem witness_EnginesAndWalkersProceed_copy :
    (∀ p, p = 0 ∨ p = 7 → let c := running 0 p
      let u := focusWarp (copyingRow c) 1 0
      let start := vaOf c.dst + c.row * c.pitch
      (copyingRow c).copies.find? (fun x => x.id == c.id) = some c ∧ c.row < c.rows ∧ c.buf ≠ [] ∧ c.pos < c.len ∧ c.fld 0x00 1 ≤ 1 ∧
      isWindow c.dst = true ∧ c.dstSwz = 0 ∧ start + c.len < 2 ^ 55 ∧ c.fld 0x38 8 = 0 ∧
      min (c.len - c.pos) (128 - (start + c.pos) % 128) = 8 - p ∧
      c.outs = [] ∧ start + c.len ≤ u.blk.winSize ∧ rowHeld u c (rowDst c) = false ∧ c.done = false ∧ c.queue = none ∧ c.skip = false) ∧
    ((copyingRow (running 1 0)).copies.find? (fun x => x.id == 9) = some (running 1 0) ∧ (running 1 0).rows ≤ (running 1 0).row) ∧
    (unfocus (copyingRow (running 1 0))).copies.find? (fun x => x.id == 9) = some (running 1 0) := by
  refine ⟨?_, by decide +kernel, by decide +kernel⟩
  rintro p (rfl | rfl) <;> decide +kernel

def faultOf (kind : BitVec 2) : FaultRec :=
  { ent := 0, code := 7, kind := kind, lanes := 6, va := 0x70000, aux := 0, pc := 0x10008, part := .none }
def faulting (kind : BitVec 2) : State := asked (.pair 1 0) { st with w := { st.w with faultq := [faultOf kind] } }
theorem witness_EnginesAndWalkersProceed_fault : ∀ k : BitVec 2,
    let u := focusWarp (faulting k) 1 0
    let lanes := (faultOf k).lanes &&& ~~~u.w.exited
    let v := focusLane { u with w := { u.w with faultq := [] } } (lowLane lanes)
    u.w.faultq = [faultOf k] ∧ u.w.handler = none ∧ u.blk.st = .running ∧ lanes ≠ 0 ∧ deliverable v.f = true ∧ v.f.sup = false ∧
    v.w.tvec ≠ 0 ∧ v.f.exp = none ∧ noRoute (faultOf k) = false := by decide +kernel

/-- A walk for lane 0, which stores at 0x30008 the reference of the local object of one granule at 0x20040. -/
def walkOf (active : Bool) : Walk :=
  { id := 9, blk := 1, wp := 0, cluster := 0, pend := 7, lanes := [(0, 0x30008, 0x20040)], active := active,
    queue := if active then [0x20040] else [], pos := 0, word := 0, flipped := false, waits := [], suspended := false, parked := false, pc := 0x10008,
    mode := 0, user := true }
def walking (active : Bool) : State :=
  asked (.unit 9) { waiting (pendOp .other 1 [] none) with
    mem := pages ++ [(0x20000210040, 1), (0x20000210044, 1), (0x20040010803, 5)]
    walks := [walkOf active] }
def theWalk : State := putWalk (walkOf true) (focusWarp (walking true) 1 0)
def headPiece : Piece :=
  { asid := 1, va := 0x20040, pa := Config.farBase + 0x210040, n := 8, leaf := { e := 0x21 * 2 ^ 24 + 0x117F, size := 0x10000 }, hit := false }
theorem witness_EnginesAndWalkersProceed_walk :
    (∀ a, let u := focusWarp (walking a) 1 0
      (walking a).walks.find? (fun x => x.id == 9) = some (walkOf a) ∧ u.w.launched ≠ 0 ∧ u.blk.st = .running) ∧
    (let u := putWalk (walkOf false) (focusWarp (walking false) 1 0)
     walkerFree u (walkOf false) = true ∧ refHeld u (asidOf u) 0x20040 = false ∧
     Machine.targetOf u (asidOf u) true 0x20040 0x30008 = .ok (.obj 1 0 1) ∧
     (setObjState (asidOf u) true 0x20040 2 u).2 = .done) ∧
    (walkOf true).queue[0]? = some 0x20040 ∧ objHeader theWalk 1 true 0x20040 = .ok (headPiece, 0x100000001) ∧
    (scanWords 1 0x20040 7 1 (walkOf true) (drainObject 1 0x20040 1 theWalk)).2.2 = .done ∧
    (publishAll 1 true (walkOf true).queue.reverse theWalk).2 = .done ∧
    stillWaited theWalk 1 true (walkOf true).waits = .ok false ∧
    finalPlace (walkOf true) theWalk 0x30008 0 = .ok (.mem 1 [piece]) ∧ fillHeld theWalk (.mem 1 [piece]) 8 = false := by
  simp only [ok_iff]
  refine ⟨?_, ?_, ?_, ?_, ?_, ?_, ?_⟩ <;> decide +kernel

/-- Tables of ASID 1 with one leaf of 1 GiB over the first far frames. -/
def gibRoot : Memory := [(0x20000000012, 0x10), (0x20000000015, 0x2), (0x20000000018, 0x1)]
def gibTables : Memory :=
  [(0x20000100000, 0x1), (0x20000100003, 0x1), (0x20000100004, 0x1), (0x20000100006, 0x20), (0x20000101000, 0x1), (0x20000101003, 0x2),
   (0x20000101004, 0x1), (0x20000101006, 0x20), (0x20000102000, 0x3F), (0x20000102001, 0x31)]
/-- Queue 3, whose status area is not mapped, with its ring at 0x40000 and its first packet to be fetched; launch records at 0x30100 to 0x30300 and a node
table at 0x30400. -/
def queue3 : Queue :=
  { id := 3, asid := 1, ring := 0x40000, e := 4, cls := 1, status := 0x90000000000, err := 0x90000000040, capBase := 0, capLen := 2 ^ 47, perm := 0xFF,
    widx := 1, started := 0, done := 0, pkts := [], halted := none, later := [], blocked := false, mapped := true, wakePending := false,
    idleSince := 0, owed := false, errOwed := none }
def records : Memory :=
  [(0x20000030102, 1), (0x20000030108, 1), (0x2000003010C, 1), (0x20000030110, 1), (0x20000030114, 32),
   (0x20000030116, 1), (0x20000030118, 1), (0x2000003011C, 27), (0x20000030202, 1), (0x20000030208, 1),
   (0x2000003020C, 1), (0x20000030210, 1), (0x20000030214, 32), (0x20000030216, 1), (0x20000030218, 1),
   (0x2000003021C, 27), (0x20000030221, 8), (0x20000030302, 1), (0x20000030308, 1), (0x2000003030C, 1),
   (0x20000030310, 1), (0x20000030314, 32), (0x20000030316, 1), (0x20000030318, 1), (0x2000003031C, 27),
   (0x2000003031D, 2), (0x20000030401, 2), (0x20000030402, 3), (0x20000030409, 5), (0x2000003040A, 3),
   (0x20000030414, 8), (0x20000030416, 1)]
/-- A packet: its bytes, and those that are not zero where it lies in the ring. -/
structure Pk where
  b : List Byte
  cells : Memory
  recs : Memory := []
def aLink : Link := { rel := 3, acq := 3, tokens := 5, bound := true, torn := [] }
def polled (p : Pk) : State :=
  asked (.unit 3) { st with
    mem := gibRoot ++ p.recs ++ p.cells ++ gibTables, queues := [queue3], dev := { st.dev with links := [(1, aLink)] } }
def gibLeaf : Leaf := { e := 0x313F, size := 0x40000000 }
def doing (op : Nat) (p : Pk) : Doing := { q := queue3, n := 0, op := op, b := p.b, again := false }
def packetState (p : Pk) : State := unfocus (polled p)

theorem packet_uncached (p : Pk) : Uncached (packetState p) := ⟨rfl, rfl, rfl, rfl, rfl, rfl, rfl⟩
theorem no_waits {s : State} (h : s.copies = []) (q : Queue) (op : Nat) (b : List Byte) : packetWaits s q op b = false := by
  have r : ∀ asid va, recordHeld s asid va = false := fun asid va => by
    unfold recordHeld
    simp only [none_held h, Bool.false_or, Bool.and_false]
    split <;> rfl
  unfold packetWaits
  simp only [none_held h, r, Bool.false_or, Bool.or_false, rowsOpen, h, List.filter_nil, List.length_nil, List.any_nil]
  split; · rfl
  split
  · split <;> simp
  repeat' split
  all_goals simp
theorem can_start {op : Nat} {late : Bool} {p : Pk} (hw : walk (packetState p) 1 (BitVec.ofNat 64 0x40000) = .ok gibLeaf)
    (hb : (List.range 64).map (fun k => BitVec.ofNat 8 (physRead (packetState p) (leafPa (packetState p) gibLeaf ((0x40000 + k) % 2 ^ 56)) 1)) = p.b)
    (ho : leBytes p.b 0 1 = op) (hf : packetFault (packetState p) queue3 op p.b = none) : CanStart (packetState p) 3 op late (doing op p) := by
  have h : agentBytes (packetState p) 1 (BitVec.ofNat 64 0x40000) 64 = .ok p.b :=
    (agentBytes_page (packet_uncached p) hw rfl rfl rfl (by decide) 64 0x40000 (fun _ => by decide) (fun _ => by decide)).trans
      (congrArg Except.ok hb)
  exact ⟨rfl, rfl, rfl, rfl, rfl, Nat.zero_lt_one, rfl, rfl, rfl, ho, none_held rfl _ _ _, h, hf, no_waits rfl _ _ _, Nat.zero_lt_succ 15, fun _ => rfl⟩

def nopB : Pk :=
  { b := [] ++ List.replicate 64 0, cells := [] }
def fenceB : Pk :=
  { b := [8] ++ List.replicate 63 0, cells := [(0x20000040000, 8)] }
def launchB : Pk :=
  { b := [1, 0, 0, 0, 0, 0, 0, 0, 0, 1, 3] ++ List.replicate 53 0
    cells := [(0x20000040000, 1), (0x20000040009, 1), (0x2000004000A, 3)]
    recs := records }
def graphB : Pk :=
  { b := [2, 0, 0, 0, 0, 0, 0, 0, 0, 4, 3, 0, 0, 0, 0, 0, 1, 0, 0, 0, 0, 0, 0, 0, 0, 3, 3] ++ List.replicate 37 0
    cells := [(0x20000040000, 2), (0x20000040009, 4), (0x2000004000A, 3), (0x20000040010, 1), (0x20000040019, 3),
             (0x2000004001A, 3)]
    recs := records }
def copyB : Pk :=
  { b := [3, 0, 0, 0, 0, 0, 0, 0, 0, 1, 3, 0, 0, 0, 0, 0, 0, 0, 6, 0, 0, 0, 0, 0, 0x20] ++ List.replicate 39 0
    cells := [(0x20000040000, 3), (0x20000040009, 1), (0x2000004000A, 3), (0x20000040012, 6), (0x20000040018, 0x20)] }
def setB : Pk :=
  { b := [4, 0, 0, 0, 0, 0, 0, 0, 0x80, 0, 5, 0, 0, 0, 0, 0, 7] ++ List.replicate 47 0
    cells := [(0x20000040000, 4), (0x20000040008, 0x80), (0x2000004000A, 5), (0x20000040010, 7)] }
def addB : Pk :=
  { b := [4, 0, 0, 0, 0, 0, 0, 0, 0x80, 0, 5, 0, 0, 0, 0, 0, 7, 0, 0, 0, 0, 0, 0, 0, 1] ++ List.replicate 39 0
    cells := [(0x20000040000, 4), (0x20000040008, 0x80), (0x2000004000A, 5), (0x20000040010, 7), (0x20000040018, 1)] }
def waitEqB : Pk :=
  { b := [5, 0, 0, 0, 0, 0, 0, 0, 0x80, 0, 5, 0, 0, 0, 0, 0, 1, 0, 0, 0, 0, 0, 0, 0, 0xFF] ++ List.replicate 39 0
    cells := [(0x20000040000, 5), (0x20000040008, 0x80), (0x2000004000A, 5), (0x20000040010, 1), (0x20000040018, 0xFF)] }
def waitGeB : Pk :=
  { b := [5, 0, 0, 0, 0, 0, 0, 0, 0x80, 0, 5, 0, 0, 0, 0, 0, 1, 0, 0, 0, 0, 0, 0, 0, 0xFF, 0, 0, 0, 0, 0, 0, 0, 2] ++ List.replicate 31 0
    cells := [(0x20000040000, 5), (0x20000040008, 0x80), (0x2000004000A, 5), (0x20000040010, 1), (0x20000040018, 0xFF),
             (0x20000040020, 2)] }
def releaseB : Pk :=
  { b := [6, 0, 0, 0, 0, 0, 0, 0, 1, 0, 0, 0, 0, 0, 0, 0x80] ++ List.replicate 48 0
    cells := [(0x20000040000, 6), (0x20000040008, 1), (0x2000004000F, 0x80)] }
def acquireB : Pk :=
  { b := [7, 0, 0, 0, 0, 0, 0, 0, 1, 0, 0, 0, 5] ++ List.replicate 51 0
    cells := [(0x20000040000, 7), (0x20000040008, 1), (0x2000004000C, 5)] }
def moreB : Pk :=
  { b := [7, 0, 0, 0, 0, 0, 0, 0, 1, 0, 0, 0, 6] ++ List.replicate 51 0
    cells := [(0x20000040000, 7), (0x20000040008, 1), (0x2000004000C, 6)] }
def timeB : Pk :=
  { b := [9, 0, 0, 0, 0, 0, 0, 0, 0x80, 0, 5] ++ List.replicate 53 0
    cells := [(0x20000040000, 9), (0x20000040008, 0x80), (0x2000004000A, 5)] }
def invalB : Pk :=
  { b := [0xA, 0, 0, 0, 0, 0, 0, 0, 0, 0, 3, 0, 0, 0, 0, 0, 0, 0, 1] ++ List.replicate 45 0
    cells := [(0x20000040000, 0xA), (0x2000004000A, 3), (0x20000040012, 1)] }

set_option maxRecDepth 8000 in
theorem witness_PacketsStart :
    ∀ x, x = (0, false, nopB) ∨ x = (8, true, fenceB) ∨ x = (1, false, launchB) ∨ x = (2, false, graphB) ∨ x = (3, false, copyB) ∨
      x = (4, true, setB) ∨ x = (4, true, addB) ∨ x = (5, false, waitEqB) ∨ x = (5, false, waitGeB) ∨ x = (6, true, releaseB) ∨
      x = (7, false, acquireB) ∨ x = (7, false, moreB) ∨ x = (9, true, timeB) ∨ x = (10, true, invalB) →
      CanStart (packetState x.2.2) 3 x.1 x.2.1 (doing x.1 x.2.2) := by
  rintro x (rfl | rfl | rfl | rfl | rfl | rfl | rfl | rfl | rfl | rfl | rfl | rfl | rfl | rfl) <;>
    refine can_start (ok_iff.mpr ?_) ?_ ?_ ?_ <;> decide +kernel

theorem witness_PacketsStart_words :
    isGlobal (BitVec.ofNat 64 ((doing 3 copyB).f 0x08 8)) = true ∧ isGlobal (BitVec.ofNat 64 ((doing 3 copyB).f 0x10 8)) = true ∧
    isGlobal (BitVec.ofNat 64 ((doing 10 invalB).f 0x08 8)) = true ∧ (doing 4 setB).f 0x18 1 = 0 ∧ (doing 4 addB).f 0x18 1 = 1 ∧
    (∃ v, agentWrite (startedPacket (doing 4 setB) false (packetState setB)) 1 0x50080 7 8 = .ok v) ∧
    (∃ v, agentRmw (startedPacket (doing 4 addB) false (packetState addB)) 1 0x50080 (· + 7) = .ok v) ∧
    (∀ p, p = waitEqB ∨ p = waitGeB → agentRead (startedPacket (doing 5 p) true (packetState p)) 1 0x50080 8 = .ok 0 ∧
      agentHeld (startedPacket (doing 5 p) true (packetState p)) 1 0x50080 8 = false) ∧
    (∃ v, agentWrite (startedPacket (doing 9 timeB) false (packetState timeB)) 1 0x50080 0 8 = .ok v) ∧
    (lookup ((doing 6 releaseB).f 0x08 2) (packetState releaseB).dev.links = some aLink ∧ aLink.tokens + (doing 6 releaseB).f 0x0C 4 < 2 ^ 32) ∧
    (∀ p, p = acquireB ∨ p = moreB → lookup ((doing 7 p).f 0x08 2) (startedPacket (doing 7 p) true (packetState p)).dev.links = some aLink) := by
  obtain ⟨v, h, -⟩ := ok_of (o := agentWrite (startedPacket (doing 4 setB) false (packetState setB)) 1 0x50080 7 8) (f := fun (_ : State) => true)
    (by decide +kernel)
  obtain ⟨v', h', -⟩ := ok_of (o := agentRmw (startedPacket (doing 4 addB) false (packetState addB)) 1 0x50080 (· + 7))
    (f := fun (_ : State × Nat) => true) (by decide +kernel)
  obtain ⟨t, ht, -⟩ := ok_of (o := agentWrite (startedPacket (doing 9 timeB) false (packetState timeB)) 1 0x50080 0 8) (f := fun (_ : State) => true)
    (by decide +kernel)
  refine ⟨by decide +kernel, by decide +kernel, by decide +kernel, by decide +kernel, by decide +kernel, ⟨v, h⟩, ⟨v', h'⟩,
    ?_, ⟨t, ht⟩, by decide +kernel, ?_⟩
  · simp only [ok_iff]
    rintro p (rfl | rfl) <;> decide +kernel
  · rintro p (rfl | rfl) <;> decide +kernel

theorem checkRecord_bytes {s : State} {q : LaunchReq} {r : List Byte} (h : recordBytes s q.asid q.user q.hub q.va 256 = .ok r)
    (h1 : firstBad (earlyChecks s r q.depth q.root) = none) (h2 : leBytes r 0x30 8 = 0) (h3 : firstBad (lateChecks r) = none) :
    checkRecord s q = .ok (r, 0, 0, 0, 0) := by
  unfold checkRecord spillHeader
  simp only [h, h1, h2, h3, if_true]

theorem frontLaunch_bytes {s : State} {q : LaunchReq} {r : List Byte} {n : Nat} (h : checkRecord s q = .ok (r, 0, 0, 0, 0))
    (hd : ((placementSet (newGrid s q r (0, 0, 0, 0))).map (· / 32)).eraseDups = [0, 1, 2, 3]) (hz : q.die = 0) (hh : heldLaunches s 0 < 64)
    (hp : q.parent = none) (hu : s.uid = n) : ∃ u, frontLaunch s q = .ok u n := by
  have a : ∃ u, acceptLaunch s { q with die := 0 } = .ok u n := by
    have e : ({ q with die := 0 } : LaunchReq) = q := by rw [← hz]
    rw [e]
    unfold acceptLaunch
    simp only [h, hp]
    rw [if_neg (by rw [hz]; omega)]
    exact ⟨_, by rw [← hu]; rfl⟩
  obtain ⟨u, a⟩ := a
  refine ⟨u, ?_⟩
  unfold frontLaunch launchDies
  simp only [h, hd, List.foldl_cons, List.foldl_nil, a]

def rootRecord : List Byte :=
  [0, 0, 1, 0, 0, 0, 0, 0, 1, 0, 0, 0, 1, 0, 0, 0, 1, 0, 0, 0, 32, 0, 1, 0, 1, 0, 0, 0, 27, 2] ++ List.replicate 226 0
def nodeRecord : List Byte :=
  [0, 0, 1, 0, 0, 0, 0, 0, 1, 0, 0, 0, 1, 0, 0, 0, 1, 0, 0, 0, 32, 0, 1, 0, 1, 0, 0, 0, 27, 0, 0, 0, 0, 8] ++ List.replicate 222 0
def nodeTable : List Byte := [0, 2, 3, 0, 0, 0, 0, 0, 0, 5, 3, 0, 0, 0, 0, 0, 0, 0, 0, 0, 8, 0, 1] ++ List.replicate 41 0

/-- The launch packet's record is accepted, and those of the graph packet. -/
theorem packet_walk : walk (packetState launchB) 1 0x30000 = .ok gibLeaf ∧ walk (packetState graphB) 1 0x30000 = .ok gibLeaf := by
  simp only [ok_iff]; decide +kernel
theorem launch_read : recordBytes (packetState launchB) 1 false true (BitVec.ofNat 64 0x30100) 256 = .ok aRecord :=
  record_read (packet_uncached _) packet_walk.1 (by decide) (by decide) (by decide) (by decide +kernel)
theorem node_read : recordBytes (packetState graphB) 1 false true (BitVec.ofNat 64 0x30200) 256 = .ok nodeRecord :=
  record_read (packet_uncached _) packet_walk.2 (by decide) (by decide) (by decide) (by decide +kernel)
theorem table_read : recordBytes (packetState graphB) 1 false true (BitVec.ofNat 64 0x30400) 64 = .ok nodeTable := by
  have hd : denied gibLeaf.e .read false = none := rfl
  exact (recordBytes_page (v0 := 0x30000) (packet_uncached _) packet_walk.2 hd rfl (by decide) (by decide) 64 0x30400 (fun _ => by decide)
    (fun _ => by decide)).trans (congrArg Except.ok (by decide +kernel))

def packetReq (_ : Doing) (va : Nat) (root : Option Bool) (graph : Option Nat) : LaunchReq :=
  { asid := 1, user := false, va := BitVec.ofNat 64 va, depth := 0, parent := none, queue := some (3, 0), cls := 1, root := root, graph := graph,
    die := 0 }

theorem witness_PacketsStart_launch : ∃ v, frontLaunch (packetState launchB) ((doing 1 launchB).request 0x08 false none) = .ok v 3 := by
  have e : (doing 1 launchB).request 0x08 false none = packetReq (doing 1 launchB) 0x30100 (some false) none := by decide +kernel
  rw [e]
  have c : checkRecord (packetState launchB) (packetReq (doing 1 launchB) 0x30100 (some false) none) = .ok (aRecord, 0, 0, 0, 0) :=
    checkRecord_bytes launch_read (by decide +kernel) (by decide +kernel) (by decide +kernel)
  exact frontLaunch_bytes c (by decide +kernel) rfl (by decide +kernel) rfl rfl

def graphState : State := { packetState graphB with uid := 4 }
def rootReq : LaunchReq := packetReq (doing 2 graphB) 0x30300 (some true) (some 3)
theorem graph_read : recordBytes graphState 1 false true (BitVec.ofNat 64 0x30300) 256 = .ok rootRecord :=
  record_read (f := gibLeaf) ⟨rfl, rfl, rfl, rfl, rfl, rfl, rfl⟩ (ok_iff.mpr (by decide +kernel)) (by decide) (by decide) (by decide) (by decide +kernel)
theorem readNode_bytes {s : State} {d : Doing} {b r : List Byte} {h : Nat × Nat × Nat × Nat} {q : LaunchReq}
    (hq : { d.request 0x18 false none with va := BitVec.ofNat 64 (leBytes b 0x00 8), root := none } = q) (hc : checkRecord s q = .ok (r, h))
    (hb : firstBad ((leBytes b 0x00 8 % 256 != 0, 0x00) :: ([(!globalAt (leBytes b 0x08 8) 128, 0x08),
      (leBytes b 0x14 2 < 8 || 64 < leBytes b 0x14 2 || leBytes b 0x14 2 % 8 != 0, 0x14), (leBytes b 0x16 2 == 0, 0x16)]
      ++ (List.range 40).map (fun k => (b.getD (0x18 + k) 0 != 0, 0x18 + k)))) = none)
    (hr : firstBad [(leBytes r 0x14 2 == 0 || 4096 < leBytes r 0x14 2, 0x14), (leBytes r 0x16 2 != 1, 0x16), (leBytes r 0x18 2 != 1, 0x18),
      (leBytes r 0x20 4 < leBytes r 0x14 2 * leBytes b 0x14 2, 0x20)] = none) : ∃ x, readNode s d b = .ok x := by
  subst hq
  unfold readNode
  simp only [hb, hc, hr]
  exact ⟨_, rfl⟩
theorem node_accepted : ∃ x, readNode (packetState graphB) (doing 2 graphB) (nodeTable.take 64) = .ok x :=
  readNode_bytes (q := packetReq (doing 2 graphB) 0x30200 none none) (by decide +kernel)
    (checkRecord_bytes node_read (by decide +kernel) (by decide +kernel) (by decide +kernel)) (by decide +kernel) (by decide +kernel)

theorem readNodes_one {s : State} {d : Doing} {b : List Byte} {x : Node} (h : readNode s d (b.take 64) = .ok x) :
    readNodes s d 1 b = .ok [x] := by simp [readNodes, h]
theorem witness_PacketsStart_nodes :
    BitVec.ofNat 64 ((doing 2 graphB).f 0x08 8) = (0x30400 : W64) ∧ (doing 2 graphB).f 0x10 2 = 1 ∧
    ∃ nodes, readNodes (packetState graphB) (doing 2 graphB) 1 nodeTable = .ok nodes := by
  obtain ⟨x, hx⟩ := node_accepted
  exact ⟨by decide +kernel, by decide +kernel, [x], readNodes_one hx⟩

theorem witness_PacketsStart_graph : (doing 2 graphB).request 0x18 true (some 3) = rootReq ∧ ∃ v, frontLaunch graphState rootReq = .ok v 4 := by
  have c : checkRecord graphState rootReq = .ok (rootRecord, 0, 0, 0, 0) :=
    checkRecord_bytes graph_read (by decide +kernel) (by decide +kernel) (by decide +kernel)
  exact ⟨by decide +kernel, frontLaunch_bytes c (by decide +kernel) rfl (by decide +kernel) rfl rfl⟩

/-- The module with no block at the front. -/
def quiet : State := { st with f := State.reset.f, w := State.reset.w, blk := State.reset.blk, ramp := (60, 0) }
def newGrid1 : Grid := { loadedGrid with next := 0, live := 0 }
def starting : State := asked (.unit 1) { quiet with grids := [newGrid1] }
def endedBlock : Block := { block with warps := [{ warp with exited := 0xFFFFFFFF }] }
def ending : State := asked (.unit 1) { quiet with blocks := [endedBlock] }
def doneGrid : Grid := { loadedGrid with live := 0, record := field 0xF8 0x50080 8 loadedRecord }
def retiring : State := asked (.unit 1) { quiet with grids := [doneGrid] }
def savedBlock : Block := { block with st := .saved, warps := [{ warp with frags := [frag] }] }
def restoring : State := asked (.unit 1) { quiet with blocks := [savedBlock] }
def msg1 : Msg :=
  { src := 1, cls := 1, handler := 1, entry := 0x10000, payload := List.replicate 32 0, s1 := 0, s2 := 0, s3 := 0, peer := 0, cluster := 5,
    wire := [], pend := none, resent := false, back := none }
def messaged : State := asked (.unit 5) { quiet with recvq := [msg1] }
def timing : State := asked (.triple 9 0 0) { quiet with grids := [{ loadedGrid with graph := some 9 }], graphs := [graph] }

theorem witness_BlocksStartAndEnd_start :
    let u := unfocus starting
    let v := passNext newGrid1 u
    gridAt u 1 = some newGrid1 ∧ waitsToStart u newGrid1 = true ∧ v.ready.find? (fun x => x.gid == 1) = some ⟨0, 1, 0⟩ ∧
    givePlace v newGrid1 true (findPlace v (placementSet newGrid1) newGrid1 newGrid1.need) = .at_ [0] [(0, 0)] ∧ u.blocks = [] := by
  refine ⟨?_, ?_, ?_, ?_, ?_⟩ <;> decide +kernel

theorem witness_BlocksStartAndEnd_end :
    (let u := unfocus ending
     u.blocks.find? (fun x => x.uid == 1) = some endedBlock ∧ endedBlock.st ≠ .escalated ∧ blockOver u endedBlock = true ∧
     gridAt u endedBlock.gid = some loadedGrid) ∧
    (let u := activate (unfocus retiring)
     gridAt u 1 = some doneGrid ∧ doneGrid.retired = false ∧ doneGrid.dead = none ∧ gridOver u doneGrid = true ∧
     signalHeld u doneGrid = false ∧ u.blocks = [] ∧
     BitVec.ofNat 64 (doneGrid.fld 0xF8 8) = (0x50080 : W64) ∧ doneGrid.queue = none ∧ doneGrid.graph = none ∧ doneGrid.mapFault = none ∧
     okAnd (fun _ => true) (agentWrite u doneGrid.asid 0x50080 1 8) = true) ∧
    (let u := unfocus (asked (.unit 1) st)
     (u.blocks.find? (fun x => x.uid == 1)).map Block.st = some .running) := by
  exact ⟨by decide +kernel, by decide +kernel, by decide +kernel⟩

theorem witness_BlocksStartAndEnd_restore :
    let u := unfocus restoring
    u.blocks.find? (fun x => x.uid == 1) = some savedBlock ∧ gridAt u savedBlock.gid = some loadedGrid ∧ savedBlock.st = .saved ∧
    wakened u savedBlock = true ∧ (u.blocks.map Block.uid).Nodup ∧
    givePlace u loadedGrid false (findPlace u allClusters loadedGrid (savedNeed savedBlock)) = .at_ [0] [(0, 0)] := by
  refine ⟨?_, ?_, ?_, ?_, ?_, ?_⟩ <;> decide +kernel
theorem witness_BlocksStartAndEnd_leave :
    let u := unfocus (asked (.unit 1) { quiet with blocks := [{ savedBlock with st := .leaving }] })
    u.blocks.find? (fun x => x.uid == 1) = some { savedBlock with st := .leaving } ∧ gridAt u savedBlock.gid = some loadedGrid ∧
    settled u 1 = true := by decide +kernel

theorem witness_BlocksStartAndEnd_groups :
    nodeAt (unfocus timing) 9 0 = some node ∧
    (let u := unfocus messaged
     let v := { u with recvq := dropMsg (fun x => x.cluster == 5) u.recvq }
     u.recvq.find? (fun m => m.cluster == 5) = some msg1 ∧ gridAt v msg1.src = some loadedGrid ∧ loadedGrid.dead = none ∧
     givePlace v loadedGrid true (handlerPlace v loadedGrid 5) = .at_ [5] [(5 * 2, 0)]) := by
  exact ⟨by decide +kernel, by decide +kernel⟩

/-! Commands. -/
theorem refetch_free {s : State} (h : s.copies = []) (q n : Nat) (b : Bool) : refetchWaits s q n b = false := by
  unfold refetchWaits
  cases queueAt s q with
  | none => rfl
  | some x =>
    simp only [Option.any_some, none_held h, no_waits h, Bool.false_or]
    split <;> simp
def owner3 (q : Queue) (a : EvArg) : State := asked a { st with queues := [q] }
theorem witness_CommandsTakeEffect_queues :
    (∀ v, v = (0 : W64) ∨ v = 16 ∨ v = 17 → queueAt (unfocus (owner3 { queue3 with widx := 0 } (.value 3 v))) 3 = some { queue3 with widx := 0 }) ∧
    (let s := owner3 { queue3 with mapped := false } (.unit 3)
     slotsBusy (unfocus s) = false ∧ (queueAt (unfocus s) 3).isSome = true) ∧
    (∀ b, queueAt (unfocus (owner3 { queue3 with halted := some (0, b) } (.unit 3))) 3 = some { queue3 with halted := some (0, b) } ∧
      refetchWaits (unfocus (owner3 { queue3 with halted := some (0, b) } (.unit 3))) 3 0 b = false) := by
  refine ⟨?_, by decide +kernel, ?_⟩
  · rintro v (rfl | rfl | rfl) <;> decide +kernel
  · exact fun b => ⟨by cases b <;> decide +kernel, refetch_free rfl 3 0 b⟩

/-- A creation record of queue 4: a ring of 16 packets at 0x40000, its status area and error record at 0x50000. -/
def creation : List Byte :=
  [0, 0, 4, 0, 0, 0, 0, 0, 4, 1, 4, 0, 1, 0, 0, 0, 0, 0, 5, 0, 0, 0, 0, 0, 0x40, 0, 5, 0, 0, 0, 0, 0] ++ List.replicate 32 0
def escalated : Block :=
  { block with st := .escalated, warps := [{ warp with frags := [frag], escalated := some (faultOf 0) }] }
theorem witness_CommandsTakeEffect_module :
    creationOk (unfocus (asked (.bytes creation) st)) creation = true ∧
    (let u := unfocus (asked (.unit 1) { quiet with blocks := [escalated] })
     u.blocks.find? (fun x => x.uid == 1) = some escalated ∧ escalated.st = .escalated ∧ ∃ w ∈ escalated.warps, w.escalated.isSome = true) ∧
    State.reset.trust.lmsLeaf < 2 ^ 20 := by
  exact ⟨by decide +kernel, by decide +kernel, by decide +kernel⟩

/-- A migration entry for one page from far frame 0x2000 to 0x2001, which the carve-out does not cover. -/
def mig (go : Bool) : Mig :=
  { Mig.empty with old := Config.farBase + 0x20000000, new := Config.farBase + 0x20010000, size := 1, en := true, go := go }
def migrating (go : Bool) : State := asked (.pair 2 3) { st with dev := { st.dev with migs := [(migKey 2 3, mig go)] } }
theorem witness_CommandsTakeEffect_migrations :
    (migAt (migrating false) (migKey 2 3) = mig false ∧ (mig false).bytes ≠ 0 ∧ (mig false).en = true ∧
      migClash (migrating false) (migKey 2 3) (mig false) = false) ∧
    (let u := unfocus (migrating true)
     (migAt u (migKey 2 3)).go = true ∧ granAddr u (mig true).old = none ∧ granAddr u ((mig true).old + 64) = none ∧
     granAddr u (mig true).new = none ∧ granAddr u ((mig true).new + 64) = none) := by
  exact ⟨by decide +kernel, by decide +kernel⟩

/-! The fabric. -/
def reg0 : Region := { key := 7, asid := 1, base := 0x30000, length := 0x1000, perm := 7 }
def remote0 (va : W64) : Remote := { qp := 1, port := 0, key := 7, va := va }
def remoted (a : EvArg) : State := asked a { st with regions := [reg0] }
def remotePiece (va : W64) : Piece := { homePiece with va := va, pa := Config.farBase + 0x1F0000 + va.toNat, n := 8 }
theorem witness_FabricEvents_remote :
    (∀ va, va = (0x30000 : W64) ∨ va = 0x30FF8 → ∀ a k perm, (a, k, perm) = (EvArg.remoteBytes (remote0 va) (List.replicate 8 1), Access.write, 1) ∨
        (a, k, perm) = (.remoteLen (remote0 va) 8, .read, 0) ∨ (a, k, perm) = (.remoteAdd (remote0 va) 3, .rmw, 2) ∨
        (a, k, perm) = (.remoteCas (remote0 va) 0 3, .rmw, 2) →
      RemoteReaches (unfocus (remoted a)) (remote0 va) k perm 8 reg0 [remotePiece va]) := by
  simp only [RemoteReaches, ok_iff, Prod.mk.injEq]
  rintro va (rfl | rfl) a k perm (⟨rfl, rfl, rfl⟩ | ⟨rfl, rfl, rfl⟩ | ⟨rfl, rfl, rfl⟩ | ⟨rfl, rfl, rfl⟩) <;> decide +kernel

def request7 : RegionReq := { key := 7, asid := 1, base := 0x30008, length := 0xFFF8, perm := 1 }
def isOk : Backed → Bool
  | .ok _ => true
  | _ => false
theorem witness_FabricEvents_region :
    let u := unfocus (asked (.region request7) st)
    0 < request7.length ∧ isGlobal request7.base = true ∧ isGlobal (request7.base + BitVec.ofNat 64 (request7.length - 1)) = true ∧
    vaOf request7.base ≤ vaOf (request7.base + BitVec.ofNat 64 (request7.length - 1)) ∧ u.regions.length < 4096 ∧
    (request7.base.toNat % 0x10000 + request7.length + 0xFFFF) / 0x10000 = 1 ∧
    isOk (backPages 1 (request7.base &&& ~~~0xFFFF) 1 u) = true := by decide +kernel

def inPeer : Peer := { n := 7, qpn := 9, port := 2, inbound := true, v := true, asid := 1, inrec := 0, drops := 0 }
def serviceGrid : Grid := { loadedGrid with service := some 7, record := field 0xF0 0x30400 8 loadedRecord }
def sendWords : List Byte := [5, 0, 1, 0] ++ List.replicate 140 0
def sent : State :=
  asked (.send 9 sendWords) { st with
    mem := pages ++ [(0x2000022040A, 1)], grids := [serviceGrid], dev := { st.dev with peers := [inPeer] } }
def outMsg : Msg := { msg1 with peer := 7 }
theorem witness_FabricEvents_messages :
    (let u := unfocus sent
     u.dev.peers.find? (fun p => p.qpn == 9 && p.n != 0 && !peerDown u p.n) = some inPeer ∧ inPeer.inbound = true ∧
     u.grids.find? (fun g => g.service == some inPeer.n && g.dead.isNone && !g.retired) = some serviceGrid ∧
     okIs (some 0x10000) (handlerEntry u serviceGrid true (leBytes sendWords 2 2)) = true ∧ messageRoom u (leBytes sendWords 0 1 % 128) = true) ∧
    (let s := asked (.unit 7) { st with sendq := [outMsg], dev := { st.dev with peers := [inPeer] } }
     (unfocus s).sendq.find? (fun m => m.peer == 7 && !peerDown (unfocus s) 7) = some outMsg) := by
  exact ⟨by decide +kernel, by decide +kernel⟩

def lostPend : Pend := pendOp .memory 3 [] (some { i := .sLd 4 3 16, lanes := 3, pc := 0x10008, h0 := 0xFC003FC0, note := 0, id := 7 })
theorem witness_FabricEvents_losses :
    (let e := (Instr.rdmaRead, EvArg.remoteLen (remote0 0x30000) 8)
     let s := asked (.loss (.remote 1)) { st with agenda := [e] }
     e ∈ s.agenda ∧ (remote0 0x30000).qp = 1 ∧ 1 ∉ s.remoteLost) ∧
    (let u := focusWarp (asked (.loss (.access 1 0 7)) (waiting lostPend)) 1 0
     u.w.pend.find? (fun p => p.id == 7 && p.unit == .memory) = some lostPend ∧ (loadAddr (.sLd 4 3 16) 0 u).isSome = true ∧
     lostPend.losses = 0) := by
  exact ⟨by decide +kernel, by decide +kernel⟩

/-! ### Words: each instruction's encoding, written out from the encoding tables of 09 to 14 -/

def decodes (l : List (Nat × Instr)) : Bool := l.all (fun p => decide (decodeTableWord 32 p.1 = some p.2))

theorem test_decode_arithmetic_1 : decodes
  [(0x00484263, .add 0x48 0x42 0x63), (0x01484263, .sub 0x48 0x42 0x63), (0x02484263, .mul 0x48 0x42 0x63),
   (0x03484263, .mulhi 0x48 0x42 0x63), (0x04484263, .fma 0x48 0x42 0x63), (0x05484263, .fms 0x48 0x42 0x63),
   (0x06484263, .fnma 0x48 0x42 0x63), (0x07484263, .min 0x48 0x42 0x63), (0x08484263, .max 0x48 0x42 0x63),
   (0x09484263, .abd 0x48 0x42 0x63), (0x0A484263, .and 0x48 0x42 0x63), (0x0B484263, .or 0x48 0x42 0x63),
   (0x0C484263, .xor 0x48 0x42 0x63), (0x0D484263, .andn 0x48 0x42 0x63), (0x0E484263, .shl 0x48 0x42 0x63),
   (0x0F484263, .shr 0x48 0x42 0x63), (0x10484263, .rot 0x48 0x42 0x63), (0x11484263, .sel 0x48 0x42 0x63),
   (0x12054263, .ceq 5 0x42 0x63), (0x13054263, .cne 5 0x42 0x63), (0x14054263, .clt 5 0x42 0x63),
   (0x15054263, .cle 5 0x42 0x63), (0x16054263, .cgt 5 0x42 0x63), (0x17054263, .cge 5 0x42 0x63),
   (0x18054263, .cun 5 0x42 0x63), (0x19054263, .ccls 5 0x42 0x63), (0x1A484200, .mov 0x48 0x42),
   (0x1B48427E, .cvt 0x48 0x42 7 1 6), (0x1C484200, .neg 0x48 0x42), (0x1D484200, .abs 0x48 0x42),
   (0x1E484200, .popc 0x48 0x42), (0x1F484200, .clz 0x48 0x42), (0x20484200, .brev 0x48 0x42),
   (0x21484263, .bfe 0x48 0x42 0x63), (0x22484263, .bfi 0x48 0x42 0x63), (0x23484263, .mulw 0x48 0x42 0x63),
   (0x24484263, .dot2 0x48 0x42 0x63), (0x25484263, .dot4 0x48 0x42 0x63), (0x26484263, .addc 0x48 0x42 0x63),
   (0x27484263, .subb 0x48 0x42 0x63)] = true := by decide +kernel
theorem test_decode_arithmetic_2 : decodes
  [(0x28484263, .pack 0x48 0x42 0x63), (0x29484200, .unplo 0x48 0x42), (0x2A484200, .unphi 0x48 0x42),
   (0x2B484263, .clamp 0x48 0x42 0x63), (0x2C484263, .csgn 0x48 0x42 0x63), (0x2D484200, .fract 0x48 0x42),
   (0x2E484200, .rnd 0x48 0x42), (0x2F484263, .scl 0x48 0x42 0x63), (0x30484200, .rcp 0x48 0x42),
   (0x31484200, .rsq 0x48 0x42), (0x32484200, .sqrt 0x48 0x42), (0x33484200, .exp2 0x48 0x42),
   (0x34484200, .log2 0x48 0x42), (0x35484200, .sin 0x48 0x42), (0x36484200, .cos 0x48 0x42),
   (0x37484200, .tanh 0x48 0x42), (0x38484200, .sigm 0x48 0x42), (0x39484263, .div 0x48 0x42 0x63),
   (0x3A484200, .erf 0x48 0x42)] = true := by decide +kernel
theorem test_decode_cross_lane_and_memory_1 : decodes
  [(0x40484263, .shfl 0x48 0x42 0x63), (0x41484263, .shup 0x48 0x42 0x63), (0x42484263, .shdn 0x48 0x42 0x63),
   (0x43484263, .shxr 0x48 0x42 0x63), (0x44050200, .vall 5 2), (0x45050200, .vany 5 2), (0x46480200, .blt 0x48 2),
   (0x47484200, .radd 0x48 0x42), (0x48484200, .rmin 0x48 0x42), (0x49484200, .rmax 0x48 0x42),
   (0x4A484201, .psum 0x48 0x42 1), (0x4B484200, .mtch 0x48 0x42), (0x4C484200, .conf 0x48 0x42),
   (0x4D484200, .bcst 0x48 0x42), (0x50484263, .ld 0x48 0x42 0x63), (0x51484263, .st 0x48 0x42 0x63),
   (0x52484263, .ldq 0x48 0x42 0x63), (0x53484263, .stq 0x48 0x42 0x63), (0x54484263, .ldacq 0x48 0x42 0x63),
   (0x55484263, .strel 0x48 0x42 0x63), (0x56484263, .ldref 0x48 0x42 0x63), (0x57484263, .stref 0x48 0x42 0x63),
   (0x58484263, .pub 0x48 0x42 0x63), (0x59484263, .aadd 0x48 0x42 0x63), (0x5A484263, .amin 0x48 0x42 0x63),
   (0x5B484263, .amax 0x48 0x42 0x63), (0x5C484263, .aand 0x48 0x42 0x63), (0x5D484263, .aor 0x48 0x42 0x63),
   (0x5E484263, .axor 0x48 0x42 0x63), (0x5F484263, .axch 0x48 0x42 0x63), (0x60484263, .acas 0x48 0x42 0x63),
   (0x61484263, .ainc 0x48 0x42 0x63), (0x62004842, .gred 0x48 0x42), (0x63004842, .gmin 0x48 0x42),
   (0x64004842, .gmax 0x48 0x42), (0x654842EE, .gth 0x48 0x42 7), (0x664842EE, .sct 0x48 0x42 7),
   (0x674842EE, .scad 0x48 0x42 7), (0x684842EE, .gthh 0x48 0x42 7), (0x69004842, .pref 0x48 0x42)] = true := by decide +kernel
theorem test_decode_cross_lane_and_memory_2 : decodes
  [(0x6A484263, .ohdr 0x48 0x42 0x63), (0x70484200, .accrd 0x48 0x42), (0x71484200, .accwr 0x48 0x42),
   (0x72484200, .rkrd 0x48 0x42), (0x73484263, .tw 0x48 0x42 0x63), (0x74484263, .twi 0x48 0x42 0x63)] = true := by decide +kernel
theorem test_decode_immediate : decodes
  [(0x81210AA5, .addi 0x48 0x42 0x2A5), (0x85210AA5, .andi 0x48 0x42 0x2A5), (0x89210AA5, .ori 0x48 0x42 0x2A5),
   (0x8D210AA5, .xori 0x48 0x42 0x2A5), (0x91210AA5, .shli 0x48 0x42 0x2A5), (0x95210AA5, .shri 0x48 0x42 0x2A5),
   (0x98150AA5, .ceqi 5 0x42 0x2A5), (0x9C150AA5, .clti 5 0x42 0x2A5), (0xA0150AA5, .cgti 5 0x42 0x2A5),
   (0xA5210AA5, .ldi 0x48 0x42 0x2A5), (0xA9210AA5, .sti 0x48 0x42 0x2A5), (0xAD210AA5, .muli 0x48 0x42 0x2A5),
   (0xB1210AA5, .mini 0x48 0x42 0x2A5), (0xB5210AA5, .maxi 0x48 0x42 0x2A5)] = true := by decide +kernel
theorem test_decode_scalar_and_predicate_1 : decodes
  [(0xC015AB30, .sAdd 0x15 0x2A 0x33), (0xC055AB30, .sSub 0x15 0x2A 0x33), (0xC095AB30, .sMul 0x15 0x2A 0x33),
   (0xC0D5AB30, .sMulh 0x15 0x2A 0x33), (0xC115AB30, .sAnd 0x15 0x2A 0x33), (0xC155AB30, .sOr 0x15 0x2A 0x33),
   (0xC195AB30, .sXor 0x15 0x2A 0x33), (0xC1D5AB30, .sShl 0x15 0x2A 0x33), (0xC215AB30, .sShr 0x15 0x2A 0x33),
   (0xC255AB30, .sSar 0x15 0x2A 0x33), (0xC295AB30, .sMin 0x15 0x2A 0x33), (0xC2D5AB30, .sMax 0x15 0x2A 0x33),
   (0xC315AB30, .sMinu 0x15 0x2A 0x33), (0xC355AB30, .sMaxu 0x15 0x2A 0x33), (0xC395A800, .sMov 0x15 0x2A),
   (0xC3D5AB30, .sCeq 0x15 0x2A 0x33), (0xC415AB30, .sClt 0x15 0x2A 0x33), (0xC455AB30, .sCltu 0x15 0x2A 0x33),
   (0xC495AAA5, .sAddi 0x15 0x2A 0x2A5), (0xC4D5AAA5, .sAndi 0x15 0x2A 0x2A5), (0xC515AAA5, .sOri 0x15 0x2A 0x2A5),
   (0xC555AAA5, .sXori 0x15 0x2A 0x2A5), (0xC595AAA5, .sShli 0x15 0x2A 0x2A5), (0xC5D5AAA5, .sShri 0x15 0x2A 0x2A5),
   (0xC615AAA5, .sMuli 0x15 0x2A 0x2A5), (0xC655AAA5, .sLd 0x15 0x2A 0x2A5), (0xC695AAA5, .sLd32 0x15 0x2A 0x2A5),
   (0xC6D5AAA5, .sSt 0x15 0x2A 0x2A5), (0xC715AAA5, .sSt32 0x15 0x2A 0x2A5), (0xC755AAA5, .sLdacq 0x15 0x2A 0x2A5),
   (0xC795AAA5, .sStrel 0x15 0x2A 0x2A5), (0xC7D5AB31, .sAadd 0x15 0x2A 0x33 1), (0xC815AB31, .sAcas 0x15 0x2A 0x33 1),
   (0xC8554207, .sRdl 0x15 0x42 7), (0xC8950105, .sSrd 0x15 0x105), (0xC8C05505, .sSwr 0x105 0x15),
   (0xC9050870, .pAnd 5 2 7), (0xC9450870, .pOr 5 2 7), (0xC9850870, .pXor 5 2 7), (0xC9C50870, .pAndn 5 2 7)] = true := by decide +kernel
theorem test_decode_scalar_and_predicate_2 : decodes
  [(0xCA050800, .pNot 5 2), (0xCA45A800, .pMov 5 0x2A), (0xCA950800, .pGet 0x15 2), (0xCAD50800, .pPop 0x15 2),
   (0xCB150800, .pFfs 0x15 2), (0xCB400010, .part 0x10), (0xCB8056A5, .acb 0x15 0x2A5), (0xCBC00012, .msf 1 2),
   (0xCC15A800, .sPopc 0x15 0x2A), (0xCC55A800, .sClz 0x15 0x2A)] = true := by decide +kernel
theorem test_decode_control : decodes
  [(0xD009A5C3, .bra 0x9A5C3), (0xD159A5C3, .brd 5 0x9A5C3), (0xD259A5C3, .brdx 5 0x9A5C3),
   (0xD359A5C3, .bany 5 0x9A5C3), (0xD459A5C3, .ball 5 0x9A5C3), (0xD559A5C3, .bnon 5 0x9A5C3),
   (0xD609A5C3, .mark 0x9A5C3), (0xD909A5C3, .call 0x9A5C3), (0xDB500000, .jr 5), (0xDC59A5C3, .loop 5 0x9A5C3),
   (0xDE0002A5, .wait 0x2A5), (0xDF59A5C3, .sbr 5 0x9A5C3), (0xD7000000, .join), (0xD8000000, .regang),
   (0xDA000000, .ret), (0xDD000000, .exit)] = true := by decide +kernel
theorem test_decode_clusters_1 : decodes
  [(0xE120A5C3, .liV 0x48 0xA5C3), (0xE520A5C3, .luiV 0x48 0xA5C3), (0xE959A5C3, .liS 0x15 0x9A5C3),
   (0xEEC02900, .mode 0x2C02900), (0xF0052E38, .mm 5 2 7 3 1), (0xF0152F09, .mmsp 5 2 7 0x84 1),
   (0xF0252F09, .mmg 5 2 7 0x84 1), (0xF0352E30, .mmrk 5 2 7 3), (0xF0452F08, .spcmp 5 2 7 0x84),
   (0xF0550020, .accclr 5 2), (0xF0654020, .accdcl 0x15 2), (0xF0654028, .accdclU 0x15 2), (0xF0750470, .accst 5 2 7),
   (0xF0850470, .accld 5 2 7), (0xF09A8470, .rkbnd 5 0x42 7), (0xF0A54020, .rkmrg 0x15 2), (0xF0B54020, .rkst 0x15 2),
   (0xF0B56020, .rkstM 0x15 2), (0xF0CA0002, .zset 5 2), (0xF0DAB802, .zlog 5 2 7 2), (0xF0EA8000, .ztst 5 2),
   (0xF105AB38, .hset 5 0x2A 0x33 1), (0xF115AB00, .hadj 5 0x2A 3), (0xF4054002, .cpk 0x15 2),
   (0xF41D4000, .cpcl 1 0x2A), (0xF42D502A, .cpwt 1 0x2A 1 0 0x2A), (0xF4356A00, .arin 0x15 0x2A),
   (0xF4356A01, .arinSet 0x15 0x2A), (0xF4454000, .arwt 0x15), (0xF455E600, .bar 5 1 0x33), (0xF465E600, .bara 5 1 0x33),
   (0xF4750000, .barw 5), (0xF4860000, .schn 0x18), (0xF4960000, .schd 0x18), (0xF4A54000, .schp 0x15),
   (0xF4B48A80, .schs 0x48 0x2A), (0xF4D62ACC, .schh 0x18 0x2A 0x33), (0xF4E48A80, .schq 0x48 0x2A),
   (0xF4F48A80, .rpush 0x48 0x2A 0), (0xF5048500, .rpop 0x48 2 1)] = true := by decide +kernel
theorem test_decode_clusters_2 : decodes
  [(0xF5156A00, .dadd 0x15 0x2A), (0xF5256A00, .ddec 0x15 0x2A), (0xF5354000, .launch 0x15),
   (0xF5448AB3, .amsd 0x48 0x2A 0x33), (0xF5556A80, .bwt 0x15 0x2A 2), (0xF5656A00, .bwk 0x15 0x2A),
   (0xF5754400, .rdon 0x15 2), (0xF5854000, .racc 0x15), (0xF8060000, .fence 1 2), (0xF810A5C3, .trap 0xA5C3),
   (0xF8556ACC, .pmap 0x15 0x2A 0x33), (0xF8656A00, .pumap 0x15 0x2A), (0xF8756A00, .tinv 0x15 0x2A),
   (0xF8856A00, .pool 0x15 0x2A), (0xF88015AA, .poolPush 0x15 0x2A), (0xF8AD5980, .l1wb 1 0x2A 0x33),
   (0xF8BD5980, .l1inv 1 0x2A 0x33), (0xF0F00000, .spfen), (0xF4C00000, .schc), (0xF5900000, .yld), (0xF8200000, .tret),
   (0xF8300000, .brk), (0xF8400000, .nop), (0xF8900000, .halt)] = true := by decide +kernel

/-- The words of the spec's worked examples (98). -/
theorem test_decode_examples : decodes
  [(0xC4861BFF, .sAddi 6 6 0x3FF), (0xC0051600, .sAdd 5 5 32), (0xC7480C10, .sLdacq 8 3 16), (0xC7890C00, .sStrel 9 3 0),
   (0xC8440C05, .sRdl 4 12 5), (0xC8840020, .sSrd 4 0x20), (0xC8C01413, .sSwr 0x13 5), (0xC9010830, .pAnd 1 2 3),
   (0xCB400008, .part 8), (0xDE000009, .wait 9), (0xDA000000, .ret), (0xDD000000, .exit), (0x26040203, .addc 4 2 3),
   (0x19020581, .ccls 2 5 0x81), (0xF4428000, .arwt 10), (0xF4328B00, .arin 10 11), (0x58080205, .pub 8 2 5)] = true := by decide +kernel

/-- Words of no instruction are refused. -/
theorem test_decode_refuses :
    ([0x3B000000, 0x4D000001, 0x7F000000, 0xBC000000, 0xFFFFFFFF].map (decodeTableWord 32)).all (·.isNone) = true := by decide +kernel

/-- One ill-formed instruction for each check, refused by the check and by the decoder. -/
def illFormed : List (Instr × Nat) :=
  [(.add 224 2 3, 0x00E00203), (.ld 8 3 4, 0x50080304), (.ldref 9 2 4, 0x56090204), (.ldq 6 2 4, 0x52060204), (.ldq 8 10 4, 0x52080A04),
   (.ldq 8 2 9, 0x52080209), (.accrd 4 2, 0x70040200), (.accrd 208 2, 0x70D00200), (.accrd 8 9, 0x70080900), (.gth 8 8 1, 0x650808E2),
   (.sSrd 4 0x00E, 0xC884000E), (.sSwr 0x010 5, 0xC8C01410), (.part 3, 0xCB400003), (.mode 0x2C02901, 0xEEC02901)]
theorem test_ill_formed : illFormed.all (fun p => !p.1.wellFormed && (decodeTableWord 32 p.2).isNone) = true := by decide +kernel
theorem test_ill_formed_fields :
    [Instr.msf 2 2, .msf 0 8, .mmsp 0 0 0 2 0, .spcmp 0 0 0 2, .zlog 0 0 0 3, .cpcl 0 1, .cpwt 0 1 0 0 0, .cpwt 1 1 1 2 0, .cpwt 1 1 0 0 3,
     .bar 0 0 1, .bara 0 0 1, .schn 9, .schd 9, .schh 9 0 0, .rpush 224 0 0, .rpush 8 1 1, .rpop 224 0 0, .amsd 224 0 0, .bwt 0 0 3,
     .l1wb 0 1 0, .l1inv 0 0 1, .sRdl 4 224 5, .rkbnd 0 3 0].all (fun i => !i.wellFormed) = true := by decide +kernel

/-! ### Single results, worked out by hand -/

def after (i : Instr) (s : State) (f : State → Bool) : Bool := nextAnd f (exec i s)

theorem test_sAdd_wraps : after (.sAdd 5 6 7) (scalars [(6, 0xFFFFFFFFFFFFFFFF), (7, 2)] st) (fun t => readS t 5 == 1) = true := by decide +kernel
theorem test_sAdd_zero_register : after (.sAdd 0 6 7) (scalars [(6, 3), (7, 2)] st) (fun t => readS t 0 == 0) = true := by decide +kernel
theorem test_sSar_keeps_sign : after (.sSar 5 6 7) (scalars [(6, 0x8000000000000000), (7, 63)] st) (fun t => readS t 5 == 0xFFFFFFFFFFFFFFFF) = true := by
  decide +kernel
theorem test_sAddi_signed : after (.sAddi 5 6 0x3FF) (scalars [(6, 0)] st) (fun t => readS t 5 == 0xFFFFFFFFFFFFFFFF) = true := by decide +kernel
theorem test_brev : after (.brev 6 8) (addressed 0 0) (fun t => fileLane t (regKey 6 0) == 0xA0000000) = true := by decide +kernel
theorem test_clz : after (.clz 6 8) (addressed 0 0) (fun t => fileLane t (regKey 6 1) == 29) = true := by decide +kernel
theorem test_pAndn : after (.pAndn 3 1 2) (preds [(1, 0xF0), (2, 0x30)] st) (fun t => filePred t 3 6 && !filePred t 3 5) = true := by decide +kernel
theorem test_trap_notice : after (.trap 7) st (fun t => t.w.trapcode.toNat % 256 == 0x14 && t.w.trapaux == 7 && t.w.trappc == 0x10010 &&
    t.f.pc == 0x20000 && t.f.sup) = true := by decide +kernel
theorem test_part_sets_width : after (.part 8) st (fun t => t.w.part == 8) = true := by decide +kernel
theorem test_acb_last_tile : after (.acb 5 0x1FE) (scalars [(5, 1)] st) (fun t => t.w.acb == 0x1FF) = true := by decide +kernel
theorem test_exit_ends_lanes : after .exit st (fun t => t.w.exited == 0xFFFFFFFF) = true := by decide +kernel
theorem test_store_load : after (.st 8 2 4) (addressed window 4)
    (fun t => Cells.load t.blk.win 0 4 == 5 && Cells.load t.blk.win 4 4 == 6) = true := by decide +kernel

end Sys2Proof.Tests
end

/-!
SUPPORT. Lane accesses that meet no fault: what `laneAccess` comes to where every active lane's access reaches a place, and
the bytes that the loads and stores of lanes in the block window read and leave.
-/
namespace Sys2Proof.Machine

/-! ### Bytes of the window -/

/-- Every byte after a store: one of the number stored inside its range, the old one elsewhere. -/
theorem Cells.get_store_eq_ite (c : Memory) (k v n j : Nat) :
    Cells.get (Cells.store c k v n) j =
      if k ≤ j ∧ j < k + n then BitVec.ofNat 8 (v / 256 ^ (j - k)) else Cells.get c j := by
  split_ifs with h
  · obtain ⟨i, rfl⟩ := Nat.exists_eq_add_of_le h.1
    rw [Cells.get_store c k v n i (by omega), Nat.add_sub_cancel_left]
  · exact Cells.get_store_of_not_mem c k v n j (by omega)

/-- The window after stores of `n` bytes of `v l` at `off l` by the lanes of a list, in its order. -/
def winStores (off v : Nat → Nat) (n : Nat) (win : Memory) (ls : List Nat) : Memory :=
  ls.foldl (fun c l => Cells.store c (off l) (v l) n) win

/-- Every byte of the window holds what the last lane that covers it stored. -/
theorem get_winStores (off v : Nat → Nat) (n : Nat) (win : Memory) (ls : List Nat) (o : Nat) :
    Cells.get (winStores off v n win ls) o =
      match ls.reverse.find? (fun l => decide (off l ≤ o ∧ o < off l + n)) with
      | some l => BitVec.ofNat 8 (v l / 256 ^ (o - off l))
      | none => Cells.get win o := by
  induction ls generalizing win with
  | nil => rfl
  | cons l r ih =>
    have step : winStores off v n win (l :: r) = winStores off v n (Cells.store win (off l) (v l) n) r := rfl
    rw [step, ih, List.reverse_cons, List.find?_append]
    cases hlast : r.reverse.find? (fun l => decide (off l ≤ o ∧ o < off l + n)) with
    | some j => rfl
    | none =>
      by_cases hl : off l ≤ o ∧ o < off l + n <;> simp [Cells.get_store_eq_ite, hl]

/-! ### Groups of lanes -/

theorem foldl_or_getLsbD (gs : List Lanes) (m : Lanes) (l : Nat) :
    (gs.foldl (· ||| ·) m).getLsbD l = (m.getLsbD l || gs.any (·.getLsbD l)) := by
  induction gs generalizing m with
  | nil => simp
  | cons g r ih => rw [List.foldl_cons, ih, List.any_cons, BitVec.getLsbD_or, Bool.or_assoc]

/-- Every lane of an access is in the group of its line, so the groups together are its lanes. -/
theorem foldl_or_lineGroups (as : List (Nat × W64)) :
    (lineGroups as).foldl (· ||| ·) 0 = maskOf (as.map Prod.fst) := by
  refine lanes_ext _ _ fun l hl => ?_
  rw [foldl_or_getLsbD, Bool.eq_iff_iff]
  simp only [lineGroups, List.any_map, List.any_eq_true, Function.comp_apply, List.mem_eraseDups, List.mem_map,
    List.mem_filter, List.contains_iff_mem, maskOf_getLsbD, hl, decide_true, Bool.true_and, Bool.or_eq_true]
  constructor
  · rintro (h | ⟨_, -, x, ⟨hx, -⟩, rfl⟩)
    · simp at h
    · exact ⟨x, hx, rfl⟩
  · rintro ⟨x, hx, rfl⟩
    exact .inr ⟨_, ⟨x, hx, rfl⟩, x, ⟨hx, beq_self_eq_true _⟩, rfl⟩

/-- The lanes whose guard passes are the claims' active lanes, where nothing is reissued. -/
theorem actSet_eq_activeLanesOf {s : State} (h : s.f.replay = none) : actSet s = Claims.activeLanesOf s := by
  simp only [actSet, partMask, h]
  rfl

/-! ### Starting a memory operation and retiring -/

/-- The replies of an operation's groups are due after everything else. -/
theorem foldl_push_memoryReply (id : Nat) (gs : List Lanes) (s : State) :
    gs.foldl (fun s g => push .memoryReply (.lanes s.blk.uid s.w.idx id g) s) s =
      { s with agenda := s.agenda ++ gs.map (fun g => (.memoryReply, .lanes s.blk.uid s.w.idx id g)) } := by
  induction gs generalizing s with
  | nil => simp
  | cons g r ih => rw [List.foldl_cons, ih]; simp [push]

/-- The record of a memory instruction's operation in the lanes `all`, which keeps what a reissue and its note need. -/
def memoryPend (i : Instr) (s : State) (flag : Nat) (whole : Option Lanes) (all : Lanes) (lands : List Landing)
    (reads : List (Nat × Nat × Nat)) : Pend :=
  { newPend s flag whole .memory all lands with
    src := some (replayOf i (BitVec.ofNat 2 (noteAt s.f s.f.pc)) all s.uid s), reads := reads
    marks := noteKeys i (currentNote s) s }

/-- An operation with a lane to reply for is outstanding from now on, and its replies are due. -/
theorem startMemory_retiring {groups : List Lanes} {all : Lanes} (hall : groups.foldl (· ||| ·) 0 = all) (hne : all ≠ 0)
    (i : Instr) (s : State) (flag : Nat) (whole : Option Lanes) (lands : List Landing) (reads : List (Nat × Nat × Nat)) :
    startMemory i s flag whole groups lands reads true =
      { s with
        uid := s.uid + 1, w := { s.w with pend := s.w.pend ++ [memoryPend i s flag whole all lands reads] }
        agenda := s.agenda ++ groups.map (fun g => (.memoryReply, .lanes s.blk.uid s.w.idx s.uid g)) } := by
  subst hall
  simp only [startMemory, if_neg hne, foldl_push_memoryReply]
  rfl

/-- A memory instruction of some lane that is no reissue retires: only its fragment moves. -/
theorem retireMem_eq (i : Instr) {m : Lanes} {s : State} (hm : m ≠ 0) (hr : s.f.replay = none) :
    retireMem i m s = { s with
      f := { s.f with pc := nextPc s.f, inClause := !lastWord s.f, hold := .free, done := 0, count := 0
                      latch := (latchNote i (noteAt s.f s.f.pc) s).f.latch } } := by
  rw [retireMem, if_neg hm, currentNote_eq s hr, goOn_eq (latchNote i _ s) hr]
  rfl

/-- A memory instruction that starts an operation and retires moves its fragment and adds the operation, with its replies. -/
theorem retireMem_startMemory {groups : List Lanes} {all : Lanes} (hall : groups.foldl (· ||| ·) 0 = all) (hne : all ≠ 0)
    {s : State} (hr : s.f.replay = none) (i : Instr) (flag : Nat) (whole : Option Lanes) (lands : List Landing)
    (reads : List (Nat × Nat × Nat)) :
    retireMem i all (startMemory i s flag whole groups lands reads true) =
      { s with
        f := { s.f with pc := nextPc s.f, inClause := !lastWord s.f, hold := .free, done := 0, count := 0
                        latch := (latchNote i (noteAt s.f s.f.pc) s).f.latch }
        uid := s.uid + 1, w := { s.w with pend := s.w.pend ++ [memoryPend i s flag whole all lands reads] }
        agenda := s.agenda ++ groups.map (fun g => (.memoryReply, .lanes s.blk.uid s.w.idx s.uid g)) } := by
  rw [startMemory_retiring hall hne, retireMem_eq i hne]
  · rfl
  · exact hr

/-! ### A lane access that meets no fault -/

/-- The active lanes with the addresses of their accesses. -/
def lanesAt (s : State) (addr : Nat → W64) : List (Nat × W64) := (lanesOf (actSet s)).map (fun l => (l, addr l))

theorem map_fst_lanesAt (s : State) (addr : Nat → W64) : (lanesAt s addr).map Prod.fst = lanesOf (actSet s) := by
  simp [lanesAt, Function.comp_def]

/-- The replies of a lane access are together for all its lanes. -/
theorem foldl_or_replyGroups (p : LaneMem) (s : State) (addr : Nat → W64) :
    (replyGroups p (lanesAt s addr)).foldl (· ||| ·) 0 = actSet s := by
  unfold replyGroups
  split
  · rw [List.foldl_cons, List.foldl_nil, map_fst_lanesAt, maskOf_lanesOf]; exact BitVec.zero_or
  · rw [foldl_or_lineGroups, map_fst_lanesAt, maskOf_lanesOf]

/-- The accesses of the active lanes are aligned, reach the places `ps` in ascending lane order, and wait for nothing. -/
structure Reached (s : State) (p : LaneMem) (addr : Nat → W64) (ps : List (Nat × Place)) : Prop where
  lanes : ps.map Prod.fst = lanesOf (actSet s)
  aligned : ∀ x ∈ ps, (addr x.1).toNat % p.n = 0
  place : ∀ x ∈ ps, laneResolve s p (addr x.1) x.1 = .ok x.2
  filled : ∀ x ∈ ps, fillHeld s x.2 p.n = false
  wake : p.store = true → ∀ x ∈ ps, wakeHeld s x.2 p.n = false
  coll : collHeld s (lanesAt s addr) p.n = false
  order : orderHeld s (lanesAt s addr) p.n = false

/-- Where no lane faults, every lane is performed. -/
theorem goodLanes_of_ok (p : LaneMem) {ps : List (Nat × Place)} (h : ∀ x ∈ ps, x.1 < 32) :
    goodLanes p [] (ps.map (fun x => (x.1, .ok x.2))) = ps := by
  induction ps with
  | nil => rfl
  | cons x r ih =>
    have hx := h x (by simp)
    have hr := ih (fun y hy => h y (by simp [hy]))
    simp only [goodLanes, List.map_cons, List.filterMap_cons] at hr ⊢
    rw [if_neg (by omega), hr]

/-- Nor is there any fault to collect. -/
theorem filterMap_ok_eq_nil {α : Type} {f : Nat × Except MFault Place → Option α} (hf : ∀ l q, f (l, .ok q) = none)
    (ps : List (Nat × Place)) : (ps.map (fun x => (x.1, .ok x.2))).filterMap f = [] := by
  rw [List.filterMap_map, List.filterMap_eq_nil_iff]
  exact fun x _ => hf x.1 x.2

/-- A lane access that meets no fault performs its lanes in order, starts their operation and retires. -/
theorem laneAccess_of_reached {s : State} {p : LaneMem} {addr : Nat → W64} {ps : List (Nat × Place)}
    (h : Reached s p addr ps) (i : Instr) (perform : State → Nat → Place → State × List Landing) (after : State → State) :
    laneAccess i p p.n addr perform after s =
      retireMem i (actSet s) (startMemory i (after (performLanes perform ps s).1) (laneFlag s p (actSet s)).1
        (laneFlag s p (actSet s)).2 (replyGroups p (lanesAt s addr)) (performLanes perform ps s).2
        (readsOf p (lanesAt s addr)) true) := by
  have hat : lanesAt s addr = ps.map (fun x => (x.1, addr x.1)) := by
    rw [lanesAt, ← h.lanes, List.map_map]; rfl
  have hcrooked : (lanesAt s addr).filter (fun x => x.2.toNat % p.n != 0) = [] := by
    rw [hat, List.filter_map, List.map_eq_nil_iff, List.filter_eq_nil_iff]
    exact fun x hx => by simp [h.aligned x hx]
  have hplaces : (lanesAt s addr).map (fun x => (x.1, laneResolve s p x.2 x.1)) = ps.map (fun x => (x.1, .ok x.2)) := by
    rw [hat, List.map_map]
    exact List.map_congr_left fun x hx => by rw [Function.comp_apply, h.place x hx]
  have hgood : goodLanes p [] (ps.map (fun x => (x.1, .ok x.2))) = ps :=
    goodLanes_of_ok p fun x hx => lt_of_mem_lanesOf (m := actSet s) (h.lanes ▸ List.mem_map_of_mem hx)
  have hfill : ps.any (fun x => fillHeld s x.2 p.n) = false := by simpa using h.filled
  have hwake : (p.store && ps.any (fun x => wakeHeld s x.2 p.n)) = false := by
    cases hs : p.store
    · rfl
    · simpa using h.wake hs
  have hdone : (lanesAt s addr).filter (fun x => ps.any (fun g => g.1 == x.1)) = lanesAt s addr := by
    rw [hat, List.filter_eq_self]
    intro a ha
    obtain ⟨x, hx, rfl⟩ := List.mem_map.mp ha
    exact List.any_eq_true.mpr ⟨x, hx, beq_self_eq_true _⟩
  have hlanes : (lanesOf (actSet s)).map (fun l => (l, addr l)) = lanesAt s addr := rfl
  unfold laneAccess
  simp only [hlanes, hcrooked, hplaces]
  rw [filterMap_ok_eq_nil (fun _ _ => rfl)]
  simp only [hgood, hfill, hwake, h.coll, h.order, hdone]
  rfl

/-- Where its performed accesses leave `u` and the landings `lands`, nothing else happens but that the operation is added,
with its replies, and the fragment goes on. -/
theorem laneAccess_completes {s u : State} {p : LaneMem} {addr : Nat → W64} {ps : List (Nat × Place)}
    {perform : State → Nat → Place → State × List Landing} {lands : List Landing} (h : Reached s p addr ps)
    (hne : actSet s ≠ 0) (hperf : performLanes perform ps s = (u, lands)) (after : State → State)
    (hr : (after u).f.replay = none) (i : Instr) :
    laneAccess i p p.n addr perform after s =
      { after u with
        f := { (after u).f with
          pc := nextPc (after u).f, inClause := !lastWord (after u).f, hold := .free, done := 0, count := 0
          latch := (latchNote i (noteAt (after u).f (after u).f.pc) (after u)).f.latch }
        uid := (after u).uid + 1
        w := { (after u).w with
          pend := (after u).w.pend ++ [memoryPend i (after u) (laneFlag s p (actSet s)).1 (laneFlag s p (actSet s)).2
            (actSet s) lands (readsOf p (lanesAt s addr))] }
        agenda := (after u).agenda ++ (replyGroups p (lanesAt s addr)).map (fun g =>
          (.memoryReply, .lanes (after u).blk.uid (after u).w.idx (after u).uid g)) } := by
  rw [laneAccess_of_reached h, hperf, retireMem_startMemory (foldl_or_replyGroups p s addr) hne hr]

/-! ### Lane accesses in the block window -/

/-- The places of lanes in the block window, at their offsets. -/
def winPlaces (off : Nat → Nat) (ls : List Nat) : List (Nat × Place) := ls.map (fun l => (l, .win (off l)))

theorem map_fst_winPlaces (off : Nat → Nat) (ls : List Nat) : (winPlaces off ls).map Prod.fst = ls := by
  simp [winPlaces, Function.comp_def]

/-- A generic address in the block window leads to its byte there (01 R10). -/
theorem resolve_window {s : State} {g : W64} {off n : Nat} (hg : g.toNat = 0xFE * 2 ^ 56 + off) (ho : off < 2 ^ 56)
    (hn : off + n ≤ s.blk.winSize) (user : Bool) (k : Access) (at' : At) (l : Nat) :
    resolve s user k at' g n l = .ok (.win off) := by
  have hw : isWindow g = true := by
    rw [isWindow, hg, beq_iff_eq]; omega
  have hoff : g.toNat % 2 ^ 56 = off := by omega
  simp only [resolve, hw, hoff, hn, if_true]

/-- The window holds no header word of an object, so the checks of every lane access pass there. -/
theorem laneResolve_window {s : State} {p : LaneMem} {g : W64} {off : Nat} (hp : p.globalOnly = false)
    (hg : g.toNat = 0xFE * 2 ^ 56 + off) (ho : off < 2 ^ 56) (hn : off + p.n ≤ s.blk.winSize) (l : Nat) :
    laneResolve s p g l = .ok (.win off) := by
  simp [laneResolve, hp, resolve_window hg ho hn, checkHeader]

/-- The loads of lanes in the window change nothing and give what stands there. -/
theorem performLanes_load_window (t r n : Nat) (d : BitVec 8) (s : State) (off : Nat → Nat) (ls : List Nat) :
    performLanes (loadLane t r d n) (winPlaces off ls) s =
      (s, ls.flatMap (fun l => laneWords r d.toNat l (loadExt t (Cells.load s.blk.win (off l) n)))) := by
  induction ls with
  | nil => rfl
  | cons l ls ih =>
    simp only [winPlaces, List.map_cons, List.flatMap_cons, performLanes, loadLane, loadAt, keepLeaves] at ih ⊢
    rw [ih]

/-- The stores of lanes in the window change its bytes only. -/
theorem performLanes_store_window (v : Nat → Nat) (n : Nat) (s : State) (off : Nat → Nat) (ls : List Nat) :
    performLanes (storeLane (fun _ l => v l) n) (winPlaces off ls) s =
      ({ s with blk := { s.blk with win := winStores off v n s.blk.win ls } }, []) := by
  induction ls generalizing s with
  | nil => rfl
  | cons l ls ih =>
    simp only [winPlaces, List.map_cons, performLanes, storeLane, storeThrough, storeAt, keepLeaves] at ih ⊢
    rw [ih]
    rfl

/-- The active lanes' accesses lie in the block window at the offsets `off`, aligned, where no copy still owes bytes. -/
def InWindow (s : State) (p : LaneMem) (addr : Nat → W64) (off : Nat → Nat) : Prop :=
  ∀ l, (actSet s).getLsbD l = true → (addr l).toNat = 0xFE * 2 ^ 56 + off l ∧ off l < 2 ^ 56 ∧ off l % p.n = 0 ∧
    off l + p.n ≤ s.blk.winSize ∧ fillHeld s (.win (off l)) p.n = false

/-- Accesses in the window reach it: the window's base is aligned for every size of element. -/
theorem reached_window {s : State} {p : LaneMem} {addr : Nat → W64} {off : Nat → Nat} (hp : p.globalOnly = false)
    (hn : p.n ∣ 2 ^ 56) (h : InWindow s p addr off) (hc : collHeld s (lanesAt s addr) p.n = false)
    (ho : orderHeld s (lanesAt s addr) p.n = false) : Reached s p addr (winPlaces off (lanesOf (actSet s))) := by
  refine {
    lanes := map_fst_winPlaces off _
    aligned := ?_, place := ?_, filled := ?_, wake := fun _ => ?_
    coll := hc
    order := ho }
  all_goals
    intro x hx
    obtain ⟨l, hl, rfl⟩ := List.mem_map.mp hx
    obtain ⟨hg, hlt, halign, hsize, hfill⟩ := h l ((mem_lanesOf _ _).mp hl)
  · rw [hg]
    exact Nat.mod_eq_zero_of_dvd (Nat.dvd_add (hn.mul_left _) (Nat.dvd_of_mod_eq_zero halign))
  · exact laneResolve_window hp hg hlt hsize l
  · exact hfill
  · rfl

/-- Elements have 1, 2, 4 or 8 bytes (12 R329), so the window's base is a multiple of the size. -/
theorem memBytes_dvd (t : Nat) : memBytes t ∣ 2 ^ 56 := by
  unfold memBytes
  split_ifs <;> decide

/-- A lane access in the window that leaves the bytes `win` there and gives the landings `lands`: beside the window only the
fragment has moved and the operation been added, with its replies. -/
theorem laneAccess_window {s : State} {p : LaneMem} {addr : Nat → W64} {off : Nat → Nat}
    {perform : State → Nat → Place → State × List Landing} {win : Memory} {lands : List Landing}
    (hne : actSet s ≠ 0) (hr : s.f.replay = none) (hreach : Reached s p addr (winPlaces off (lanesOf (actSet s))))
    (hperf : performLanes perform (winPlaces off (lanesOf (actSet s))) s =
      ({ s with blk := { s.blk with win := win } }, lands)) (i : Instr) :
    ∃ latch agenda q, laneAccess i p p.n addr perform id s =
        { s with
          f := { s.f with pc := nextPc s.f, inClause := !lastWord s.f, hold := .free, done := 0, count := 0, latch := latch }
          blk := { s.blk with win := win }, uid := s.uid + 1, w := { s.w with pend := s.w.pend ++ [q] }, agenda := agenda } ∧
      q.lanes = actSet s ∧ q.lands = lands ∧ q.flag = BitVec.ofNat 4 (laneFlag s p (actSet s)).1 :=
  ⟨_, _, _, laneAccess_completes hreach hne hperf id hr i, rfl, rfl, rfl⟩

end Sys2Proof.Machine

namespace Sys2Proof.Proofs
open Sys2Proof.Machine hiding Ready
open Sys2Proof.Claims

/-- What the statement asks of accesses in the window is what they need to reach it once the instruction has issued. -/
theorem reached_of_inOrder {s : State} {m : LaneForm} {off : Nat → Nat} (hr : s.f.replay = none)
    (hp : m.acc.globalOnly = false) (hn : m.acc.n ∣ 2 ^ 56) (hwin : InWindow s m.acc m.addr off)
    (hord : InOrder s (m.accesses s) m.acc.n) :
    Reached (unheld s) m.acc m.addr (winPlaces off (lanesOf (actSet (unheld s)))) := by
  have hat : m.accesses s = lanesAt s m.addr := by rw [LaneForm.accesses, lanesAt, actSet_eq_activeLanesOf hr]
  rw [hat] at hord
  obtain ⟨hcoll, horder⟩ := hord
  exact reached_window hp hn hwin hcoll horder

theorem replay_of_ready {i : Instr} {s : State} (h : Ready i s) : s.f.replay = none :=
  let ⟨_, _, _, _, hr⟩ := h
  hr

/-- An instruction that is ready has its own effect. -/
theorem issue_of_ready {i : Instr} {s : State} (h : Ready i s) (k : State → State) :
    issue i k s = .next (k (unheld s)) :=
  let ⟨hdec, hstall, hret, hpull, _⟩ := h
  issue_ready hdec hstall hret hpull

theorem exec_ld_ready {d a b : BitVec 8} {s : State} (h : Ready (.ld d a b) s) :
    exec (.ld d a b) s = .next (loadOp (.ld d a b) d (genAddr (unheld s) a b) (unheld s)) := by
  have harm : exec (.ld d a b) s = execLd d a b s := rfl
  rw [harm, execLd, issue_of_ready h]

theorem exec_st_ready {d a b : BitVec 8} {s : State} (h : Ready (.st d a b) s) :
    exec (.st d a b) s = .next (storeOp (.st d a b) d (genAddr (unheld s) a b) (unheld s)) := by
  have harm : exec (.st d a b) s = execSt d a b s := rfl
  rw [harm, execSt, issue_of_ready h]

/-- Settles O24: in the window the lanes' accesses are reads and writes of its bytes alone, made in ascending lane order, so
the last lane of those that cover a byte gives it. -/
theorem windowLoadsAndStores : Obligations.WindowLoadsAndStores := by
  unfold Obligations.WindowLoadsAndStores
  rintro i s m off hform hready ⟨d, a, b, hi⟩ hwin hord hne
  have hr := replay_of_ready hready
  rw [← actSet_eq_activeLanesOf hr] at hwin hne ⊢
  rcases hi with rfl | rfl <;> cases hform
  case inl =>
    obtain ⟨latch, agenda, q, hnext, hlanes, hlands, hflag⟩ := laneAccess_window (s := unheld s) hne hr
      (reached_of_inOrder hr rfl (memBytes_dvd _) hwin hord)
      (performLanes_load_window (modeType s) (opWidth s) (memBytes (modeType s)) d _ off _) (.ld d a b)
    refine ⟨_, q, (exec_ld_ready hready).trans (congrArg _ hnext), rfl, rfl, hlanes, rfl, rfl, rfl, rfl, rfl, rfl, ?_, ?_⟩
    · rintro _ _ _ ⟨⟩
      exact ⟨rfl, hflag, hlands⟩
    · rintro _ _ _ ⟨⟩
  case inr =>
    obtain ⟨latch, agenda, q, hnext, hlanes, hlands, hflag⟩ := laneAccess_window (s := unheld s) hne hr
      (reached_of_inOrder hr rfl (memBytes_dvd _) hwin hord)
      (performLanes_store_window (srcN s (opWidth s) d.toNat) (memBytes (modeType s)) _ off _) (.st d a b)
    refine ⟨_, q, (exec_st_ready hready).trans (congrArg _ hnext), rfl, rfl, hlanes, rfl, rfl, rfl, rfl, rfl, rfl, ?_, ?_⟩
    · rintro _ _ _ ⟨⟩
    · rintro _ _ _ ⟨⟩
      exact ⟨hlands, hflag, fun o => get_winStores off _ _ s.blk.win _ o⟩

end Sys2Proof.Proofs

/-!
SUPPORT. Events of the fabric: what a remote access that reaches plain memory does, and each event's effect under the
conditions of its clause.
-/
namespace Sys2Proof.Machine

/-! ### Remote accesses and losses of the fabric (16 R424 to R426) -/

theorem mem_addOnce (n x : Nat) (l : List Nat) : x ∈ addOnce n l ↔ x = n ∨ x ∈ l := by
  unfold addOnce
  split
  · rename_i h
    have hn : n ∈ l := by simpa using h
    exact ⟨.inr, fun hx => hx.elim (fun e => e ▸ hn) id⟩
  · simp

/-- A remote access whose region covers and permits it and whose lines are plain memory that no copy owes bytes of performs
its action at the homes. -/
theorem remote_reaches {s : State} {r : Remote} {k : Access} {perm n : Nat} {g : Region} {ps : List Piece}
    (h : Claims.RemoteReaches (unfocus s) r k perm n g ps) (i : Instr) (v : Nat) (act : List Piece → State → State) :
    remote i r k perm n v act s = remoteDone r.qp (act ps (unfocus s)) := by
  obtain ⟨hport, hreg, hlo, hhi, hperm, hps, hmem, halign, hhdr, hheld⟩ := h
  have hregion : regionFor (unfocus s) r k perm n = .ok g := by
    simp [regionFor, hreg, Nat.not_lt.mpr hlo, Nat.not_lt.mpr hhi, hperm]
  have hdev : ps.filter (fun q => isDevLeaf q.leaf.e) = [] := by simpa [List.filter_eq_nil_iff] using hmem
  have hodd : (k == .rmw && r.va.toNat % 8 != 0) = false := by
    cases k <;> simp [halign]
  have hclean : (k != .read && ps.any (headerHit (unfocus s))) = false := by
    by_cases hk : k = .read <;> simp_all
  unfold remote
  simp only [List.contains_iff_mem, hport, if_false, hregion, hps, hdev, hheld, hodd, hclean]
  rfl

/-- The message that an inbound SEND carries to the service grid of its peer's entry (16 R423). -/
def inboundMessage (p : Peer) (g : Grid) (entry : W64) (b : List Byte) : Msg :=
  { src := g.gid, cls := leBytes b 1 1, handler := leBytes b 2 2, entry := entry,
    payload := (List.range 32).map (fun l => BitVec.ofNat 32 (leBytes b (16 + 4 * l) 4)),
    s1 := BitVec.ofNat 64 (leBytes b 4 1 % 128 + 2 ^ 16 * p.n), s2 := BitVec.ofNat 64 (leBytes b 8 4),
    s3 := BitVec.ofNat 64 (leBytes b 6 2), peer := 0, cluster := leBytes b 0 1 % 128, wire := [], pend := none,
    resent := false, back := none }

end Sys2Proof.Machine

namespace Sys2Proof.Proofs
open Sys2Proof.Machine hiding Ready
open Sys2Proof.Claims

theorem onlyMemory_of_homeStep {s t : State} (h : HomeStep s t) : OnlyMemory s t := by
  unfold OnlyMemory
  rw [h.frame]

theorem exec_regionRegistration_backed {s v : State} {r : RegionReq} (harg : s.arg = .region r) (hpos : 0 < r.length)
    (hlen : r.length ≤ 2 ^ 55) (hbase : isGlobal r.base = true)
    (hlast : isGlobal (r.base + BitVec.ofNat 64 (r.length - 1)) = true)
    (hle : vaOf r.base ≤ vaOf (r.base + BitVec.ofNat 64 (r.length - 1)))
    (hroom : (unfocus s).regions.length < 4096 ∨ ∃ x ∈ (unfocus s).regions, x.key = r.key)
    (hback : backPages r.asid (r.base &&& ~~~0xFFFF) ((r.base.toNat % 0x10000 + r.length + 0xFFFF) / 0x10000) (unfocus s) =
      .ok v) :
    exec .regionRegistration s = .next { v with regions :=
      { key := r.key, asid := r.asid, base := r.base, length := r.length, perm := r.perm } :: v.regions.filter (fun y => y.key != r.key) } := by
  have hfull : (decide (4096 ≤ (unfocus s).regions.length) && (unfocus s).regions.all (fun x => x.key != r.key)) = false := by
    rcases hroom with h | ⟨x, hx, hk⟩
    · simp [h]
    · have : (unfocus s).regions.all (fun x => x.key != r.key) = false := by
        simpa using ⟨x, hx, hk⟩
      simp [this]
  have harm : exec .regionRegistration s = execRegionRegistration s := rfl
  have hne : r.length ≠ 0 := by omega
  rw [harm, execRegionRegistration, harg]
  simp only
  rw [if_neg (by simp only [hne, Nat.not_lt.mpr hlen, hbase, hlast, Nat.not_lt.mpr hle, hfull]; decide)]
  simp only [hback]

/-- The answer and the accesses that stay lost once a remote access has changed memory and lines only. -/
theorem exec_rdmaWrite_reaches {s : State} {r : Remote} {b : List Byte} {g : Region} {ps : List Piece}
    (harg : s.arg = .remoteBytes r b) (h : RemoteReaches (unfocus s) r .write 1 b.length g ps) :
    exec .rdmaWrite s = .next (let v := writePieces ps b (unfocus s)
      { v with answers := .ack r.qp :: (unfocus s).answers, remoteLost := v.remoteLost.filter (· != r.qp) }) := by
  have harm : exec .rdmaWrite s = execRdmaWrite s := rfl
  rw [harm, execRdmaWrite, harg]
  simp only [remote_reaches h]
  rfl

theorem exec_rdmaRead_reaches {s v : State} {r : Remote} {n : Nat} {g : Region} {ps : List Piece} {b : List Byte}
    (harg : s.arg = .remoteLen r n) (h : RemoteReaches (unfocus s) r .read 0 n g ps)
    (hread : readPieces (unfocus s) ps = (v, b)) :
    OnlyMemory (unfocus s) v ∧
      exec .rdmaRead s = .next { v with answers := .data r.qp b :: (unfocus s).answers
                                        remoteLost := (unfocus s).remoteLost.filter (· != r.qp) } := by
  have hv : HomeStep (unfocus s) v := by simpa [hread] using readPieces_home (unfocus s) ps
  have harm : exec .rdmaRead s = execRdmaRead s := rfl
  refine ⟨onlyMemory_of_homeStep hv, ?_⟩
  rw [harm, execRdmaRead, harg]
  simp only [remote_reaches h, hread, remoteDone]
  rw [hv.frame]

theorem remoteAtomic_reaches {s x : State} {r : Remote} {g : Region} {ps : List Piece} {old : List Byte}
    (h : RemoteReaches (unfocus s) r .rmw 2 8 g ps) (hread : readPieces (unfocus s) ps = (x, old)) (i : Instr) (f : Nat → Nat) :
    remoteAtomic i r f s = (let v := writePieces ps (toBytes (f (leBytes old 0 8) % 2 ^ 64) 8) x
      { v with answers := .data r.qp old :: (unfocus s).answers, remoteLost := v.remoteLost.filter (· != r.qp) }) := by
  have hx : HomeStep (unfocus s) x := by simpa [hread] using readPieces_home (unfocus s) ps
  have ha : x.answers = (unfocus s).answers := by rw [hx.frame]
  unfold remoteAtomic
  simp only [remote_reaches h, hread, remoteDone, ha]

theorem exec_rdmaSend_received {s : State} {qpn : BitVec 24} {b : List Byte} {p : Peer} {g : Grid} {entry : W64}
    (harg : s.arg = .send qpn b)
    (hpeer : (unfocus s).dev.peers.find? (fun p => p.qpn == qpn && p.n != 0 && !peerDown (unfocus s) p.n) = some p)
    (hin : p.inbound = true)
    (hgrid : (unfocus s).grids.find? (fun g => g.service == some p.n && g.dead.isNone && !g.retired) = some g)
    (hentry : handlerEntry (unfocus s) g true (leBytes b 2 2) = .ok (some entry))
    (hroom : messageRoom (unfocus s) (leBytes b 0 1 % 128) = true) :
    ∃ t m, exec .rdmaSend s = .next t ∧ m.src = g.gid ∧ m.entry = entry ∧ m.cluster = leBytes b 0 1 % 128 ∧
      m.payload = (List.range 32).map (fun l => BitVec.ofNat 32 (leBytes b (16 + 4 * l) 4)) ∧
      t = { unfocus s with
        recvq := (unfocus s).recvq ++ [m], answers := .ack p.qpn.toNat :: (unfocus s).answers
        agenda := (unfocus s).agenda ++ [(.activeMessageHandlerStart, .unit m.cluster)] } := by
  have harm : exec .rdmaSend s = execRdmaSend s := rfl
  rw [harm, execRdmaSend, harg]
  simp only [hpeer, receiveSend, hgrid, hin, hentry, hroom, Bool.not_true, Bool.false_eq_true, if_false]
  exact ⟨_, inboundMessage p g entry b, rfl, rfl, rfl, rfl, rfl, rfl⟩

theorem exec_sendAcknowledgement_sent {s : State} {n : Nat} {m : Msg} (harg : s.arg = .unit n)
    (hm : (unfocus s).sendq.find? (fun m => m.peer == n && !peerDown (unfocus s) n) = some m) :
    exec .sendAcknowledgement s =
      .next (messageDone m { unfocus s with sendq := dropMsg (fun x => x.peer == n) (unfocus s).sendq }) := by
  have harm : exec .sendAcknowledgement s = execSendAcknowledgement s := rfl
  rw [harm, execSendAcknowledgement, harg]
  simp only [hm]

theorem exec_drain_outage {s : State} {a b lost : Nat} {dead : Bool} (harg : s.arg = .outage a b lost dead) :
    ∃ t, exec .drain s = .next t ∧ t = { s with outage := if lost = 0 then none else some (a, b, lost), cutoff := t.cutoff } ∧
      ∀ d, d ∈ t.cutoff ↔ d ∈ s.cutoff ∨ (dead = true ∧ d = a) := by
  have harm : exec .drain s = execDrain s := rfl
  rw [harm, execDrain, harg]
  refine ⟨_, rfl, rfl, fun d => ?_⟩
  cases dead
  · simp
  · simp [mem_addOnce, or_comm]

theorem exec_portDown_unit {s : State} {n : Nat} (harg : s.arg = .unit n) :
    ∃ t, exec .portDown s = .next t ∧ t = { s with qpErrors := t.qpErrors } ∧ ∀ p, p ∈ t.qpErrors ↔ p = n ∨ p ∈ s.qpErrors := by
  have harm : exec .portDown s = execPortDown s := rfl
  rw [harm, execPortDown, harg]
  exact ⟨_, rfl, rfl, fun p => mem_addOnce n p s.qpErrors⟩

theorem exec_ecnMarking_unit {s : State} {n : Nat} (harg : s.arg = .unit n) :
    ∃ t, exec .ecnMarking s = .next t ∧ t = { s with ecn := t.ecn } ∧ ∀ p, p ∈ t.ecn ↔ p = n ∨ p ∈ s.ecn := by
  have harm : exec .ecnMarking s = execEcnMarking s := rfl
  rw [harm, execEcnMarking, harg]
  exact ⟨_, rfl, rfl, fun p => mem_addOnce n p s.ecn⟩

theorem exec_priorityFlowControl_entry {s : State} {port prio : Nat} {b : Bool} (harg : s.arg = .entry port prio b) :
    ∃ t, exec .priorityFlowControl s = .next t ∧ t = { s with paused := t.paused } ∧
      ∀ x, x ∈ t.paused ↔ if x = (port, prio) then b = true else x ∈ s.paused := by
  have harm : exec .priorityFlowControl s = execPriorityFlowControl s := rfl
  rw [harm, execPriorityFlowControl, harg]
  refine ⟨_, rfl, rfl, fun x => ?_⟩
  by_cases hx : x = (port, prio) <;> cases b <;> simp [hx]

/-- A first loss of the oldest remote access of a queue pair is noted. -/
theorem loseRemote_first {s : State} {qp : Nat} {e : Instr × EvArg} (he : e ∈ s.agenda)
    (hr : ∃ r, r.qp = qp ∧ ((∃ b, e.2 = .remoteBytes r b) ∨ (∃ n, e.2 = .remoteLen r n) ∨ (∃ v, e.2 = .remoteAdd r v) ∨
      ∃ c v, e.2 = .remoteCas r c v)) (hlost : qp ∉ s.remoteLost) :
    loseRemote qp s = { s with remoteLost := qp :: s.remoteLost } := by
  obtain ⟨i, a⟩ := e
  obtain ⟨r, rfl, ha⟩ := hr
  unfold loseRemote
  rw [if_neg, if_pos (by simpa using hlost)]
  rw [Bool.not_eq_true, Bool.not_eq_false', List.any_eq_true]
  refine ⟨_, he, ?_⟩
  rcases ha with ⟨_, rfl⟩ | ⟨_, rfl⟩ | ⟨_, rfl⟩ | ⟨_, _, rfl⟩ <;> exact beq_self_eq_true _

theorem exec_lossNotice_remote {s : State} {qp : Nat} (harg : s.arg = .loss (.remote qp)) :
    exec .lossNotice s = .next (loseRemote qp s) := by
  have harm : exec .lossNotice s = execLossNotice s := rfl
  rw [harm, execLossNotice, harg]

/-- A first loss of a lane read is counted in its operation. -/
theorem exec_lossNotice_access {s : State} {b w id : Nat} {p : Pend} {r : Replay} (harg : s.arg = .loss (.access b w id))
    (hp : (focusWarp s b w).w.pend.find? (fun p => p.id == id && p.unit == .memory) = some p) (hsrc : p.src = some r)
    (haddr : (loadAddr r.i 0 (focusWarp s b w)).isSome = true) (hfirst : p.losses = 0) :
    exec .lossNotice s = .next { focusWarp s b w with
      w := { (focusWarp s b w).w with
        pend := (focusWarp s b w).w.pend.map (fun q => if q.id = p.id then { q with losses := 1 } else q) } } := by
  have harm : exec .lossNotice s = execLossNotice s := rfl
  rw [harm, execLossNotice, harg]
  simp only [hp, hsrc, haddr, if_true, loseRead, hfirst, updPend, beq_iff_eq]

/-- Settles O60, event by event: each clause is what its event does where the clause's conditions hold. -/
theorem fabricEvents : Obligations.FabricEvents := by
  unfold Obligations.FabricEvents
  refine ⟨?region, ?write, ?read, ?atomic, ?send, fun _ => rfl, ?acknowledged, ?drain, ?port, ?pause, ?remoteLoss, ?readLoss⟩
  case region => exact fun _ _ _ harg hpos hlen hbase hlast hle hroom hback =>
    exec_regionRegistration_backed harg hpos hlen hbase hlast hle hroom hback
  case write => exact fun _ _ _ _ _ harg h => exec_rdmaWrite_reaches harg h
  case read => exact fun _ _ _ _ _ harg h _ _ hread => exec_rdmaRead_reaches harg h hread
  case atomic =>
    intro s r e g ps f hop u h x old hread
    have hx : HomeStep u x := by simpa [hread] using readPieces_home u ps
    refine ⟨onlyMemory_of_homeStep hx, ?_⟩
    rcases hop with ⟨v, rfl, harg, rfl⟩ | ⟨c, v, rfl, harg, rfl⟩
    case inl =>
      have harm : exec .fetchAndAdd s = execFetchAndAdd s := rfl
      rw [harm, execFetchAndAdd, harg]
      exact congrArg _ (remoteAtomic_reaches h hread _ _)
    case inr =>
      have harm : exec .compareAndSwap s = execCompareAndSwap s := rfl
      have hmod : ∀ y, (if y = c.toNat then v.toNat else y) % 2 ^ 64 = if y = c.toNat then v.toNat else y % 2 ^ 64 := by
        intro y
        split
        · exact Nat.mod_eq_of_lt v.isLt
        · rfl
      rw [harm, execCompareAndSwap, harg]
      simp only [remoteAtomic_reaches h hread, hmod]
      rfl
  case send => exact fun _ _ _ _ _ _ harg hpeer hin hgrid hentry hroom =>
    exec_rdmaSend_received harg hpeer hin hgrid hentry hroom
  case acknowledged => exact fun _ _ _ harg hm => exec_sendAcknowledgement_sent harg hm
  case drain => exact fun _ _ _ _ _ harg => exec_drain_outage harg
  case port => exact fun _ _ harg => ⟨exec_portDown_unit harg, exec_ecnMarking_unit harg⟩
  case pause => exact fun _ _ _ _ harg => exec_priorityFlowControl_entry harg
  case remoteLoss => exact fun _ _ _ harg he hr hlost =>
    (exec_lossNotice_remote harg).trans (congrArg _ (loseRemote_first he hr hlost))
  case readLoss => exact fun _ _ _ _ _ _ harg hp hsrc haddr hfirst =>
    exec_lossNotice_access harg hp hsrc haddr hfirst

end Sys2Proof.Proofs

/-!
SUPPORT. Commands to the module: what a queue keeps through status writes and halts, numbers in bytes, the copy of a
migrating line, and each command's effect under the conditions of its clause.
-/
namespace Sys2Proof.Machine

/-! ### Queues (15 R405, R408, R411) -/

/-- What the writes and halts of a queue leave of it: its identifier, its wake register and counts, its slot, and a halt once
it is there. -/
structure Queue.Kept (x y : Queue) : Prop where
  widx : y.widx = x.widx
  started : y.started = x.started
  done : y.done = x.done
  mapped : y.mapped = x.mapped
  wakePending : y.wakePending = x.wakePending
  halted : x.halted.isSome = true → y.halted.isSome = true

theorem Queue.Kept.refl (x : Queue) : x.Kept x := ⟨rfl, rfl, rfl, rfl, rfl, fun h => h⟩

theorem Queue.Kept.trans {x y z : Queue} (h : x.Kept y) (k : y.Kept z) : x.Kept z :=
  ⟨k.widx.trans h.widx, k.started.trans h.started, k.done.trans h.done, k.mapped.trans h.mapped,
    k.wakePending.trans h.wakePending, fun hx => k.halted (h.halted hx)⟩

/-- Every queue is still there and kept. -/
structure QueuesKept (s t : State) : Prop where
  kept : ∀ q x, queueAt s q = some x → ∃ y, queueAt t q = some y ∧ x.Kept y

theorem QueuesKept.of_queues_eq {s t : State} (h : t.queues = s.queues) : QueuesKept s t :=
  ⟨fun _ x hx => ⟨x, by rwa [queueAt, h], .refl x⟩⟩

theorem QueuesKept.trans {s t u : State} (h : QueuesKept s t) (k : QueuesKept t u) : QueuesKept s u :=
  ⟨fun q x hx =>
    let ⟨y, hy, hxy⟩ := h.kept q x hx
    let ⟨z, hz, hyz⟩ := k.kept q y hy
    ⟨z, hz, hxy.trans hyz⟩⟩

/-- The queue of an identifier after a change of that queue or of another. -/
theorem queueAt_updQueue (s : State) (q p : Nat) (u : Queue → Queue) (hu : ∀ x, (u x).id = x.id) :
    queueAt (updQueue q u s) p = (queueAt s p).map (fun x => if p = q then u x else x) := by
  have hid : ∀ x : Queue, (if x.id == q then u x else x).id = x.id := fun x => by split <;> simp [hu]
  unfold queueAt updQueue
  simp only [List.find?_map, Function.comp_def, hid]
  cases hx : s.queues.find? (fun x => x.id == p) with
  | none => rfl
  | some x =>
    have hp : x.id = p := by simpa using List.find?_some hx
    simp [hp]

theorem updQueue_kept {q : Nat} {u : Queue → Queue} (s : State) (hid : ∀ x, (u x).id = x.id) (hu : ∀ x : Queue, x.Kept (u x)) :
    QueuesKept s (updQueue q u s) := by
  refine ⟨fun p x hx => ?_⟩
  rw [queueAt_updQueue s q p u hid, hx]
  refine ⟨_, rfl, ?_⟩
  split
  · exact hu x
  · exact .refl x

theorem queueAt_id {s : State} {q : Nat} {x : Queue} (h : queueAt s q = some x) : x.id = q := by
  simpa using List.find?_some h

/-- A queue's writes to memory leave the queues themselves alone. -/
theorem queueWrite_queues {x : Queue} {va : W64} {b : List Byte} {s t : State} (h : queueWrite x va b s = .ok t) :
    t.queues = s.queues := by
  induction b generalizing va s with
  | nil => cases h; rfl
  | cons c r ih =>
    unfold queueWrite at h
    cases hw : agentWrite s x.asid va c.toNat 1 with
    | error m => rw [hw] at h; cases h
    | ok v =>
      rw [hw] at h
      rw [ih h, (agentWrite_place hw).frame]

theorem writeStatus_kept (q : Nat) (s : State) : QueuesKept s (writeStatus q s) := by
  unfold writeStatus
  split
  · exact .of_queues_eq rfl
  · split
    · exact updQueue_kept s (fun _ => rfl) (fun x => ⟨rfl, rfl, rfl, rfl, rfl, fun h => h⟩)
    · split
      · rename_i hw
        exact .of_queues_eq (queueWrite_queues hw)
      · exact updQueue_kept s (fun _ => rfl) (fun x => ⟨rfl, rfl, rfl, rfl, rfl, fun _ => rfl⟩)

/-- A halt sets its queue's halting packet, and what follows, the error record and the status, keeps every queue. -/
theorem haltQueue_kept_after {s : State} {q : Nat} {x : Queue} (hx : queueAt s q = some x) (halting : Nat × Bool)
    (n code off cause tag gid : Nat) :
    ∃ e, QueuesKept (updQueue q (fun x => { x with halted := some halting, errOwed := e }) s)
      (haltQueue q halting n code off cause tag gid s) := by
  unfold haltQueue
  rw [hx]
  refine ⟨if x.errOwed.isSome || agentHeld s x.asid x.err 32 then some (errorBytes n code off cause tag (timeNow s) gid) else none,
    .trans ?_ (writeStatus_kept ..)⟩
  split
  · exact .of_queues_eq rfl
  · split
    · rename_i hw
      exact .of_queues_eq (queueWrite_queues hw)
    · exact .of_queues_eq rfl

theorem haltQueue_kept (q : Nat) (halting : Nat × Bool) (n code off cause tag gid : Nat) (s : State) :
    QueuesKept s (haltQueue q halting n code off cause tag gid s) := by
  cases hx : queueAt s q with
  | none => exact .of_queues_eq (by rw [haltQueue, hx])
  | some x =>
    obtain ⟨e, h⟩ := haltQueue_kept_after hx halting n code off cause tag gid
    refine .trans ?_ h
    exact updQueue_kept s (fun _ => rfl) (fun x => ⟨rfl, rfl, rfl, rfl, rfl, fun _ => rfl⟩)

theorem haltQueue_halts {s : State} {q : Nat} {x : Queue} (hx : queueAt s q = some x) (halting : Nat × Bool)
    (n code off cause tag gid : Nat) :
    ∃ y, queueAt (haltQueue q halting n code off cause tag gid s) q = some y ∧ y.widx = x.widx ∧ y.halted.isSome = true := by
  obtain ⟨e, h⟩ := haltQueue_kept_after hx halting n code off cause tag gid
  have hset := queueAt_updQueue s q q (fun x => { x with halted := some halting, errOwed := e }) (fun _ => rfl)
  rw [hx, Option.map_some, if_pos rfl] at hset
  obtain ⟨y, hy, hkept⟩ := h.kept q _ hset
  exact ⟨y, hy, hkept.widx, hkept.halted rfl⟩

theorem poll_kept (q : Nat) (s : State) : QueuesKept s (poll q s) := by
  unfold poll
  split
  · exact .of_queues_eq rfl
  · split
    · exact .of_queues_eq rfl
    · split
      · exact .of_queues_eq rfl
      · split
        · exact haltQueue_kept ..
        · split
          · exact .of_queues_eq rfl
          · exact haltQueue_kept ..

theorem wantMap_widx {s : State} {q : Nat} {x : Queue} (hx : queueAt s q = some x) :
    ∃ y, queueAt (wantMap q s) q = some y ∧ y.widx = x.widx ∧ y.started = x.started ∧ y.done = x.done := by
  unfold wantMap
  simp only [hx]
  split
  · exact ⟨x, hx, rfl, rfl, rfl⟩
  · have hu := queueAt_updQueue s q q (fun x => { x with wakePending := true }) (fun _ => rfl)
    rw [hx, Option.map_some, if_pos rfl] at hu
    exact ⟨_, hu, rfl, rfl, rfl⟩

theorem freeSlot_keeps_queueAt {s : State} {q : Nat} {x : Queue} (hx : queueAt s q = some x) :
    ∃ y, queueAt (freeSlot s) q = some y := by
  unfold freeSlot
  split
  · exact ⟨x, hx⟩
  · dsimp only
    split
    · rw [queueAt_updQueue s _ q (fun x => { x with mapped := false }) (fun _ => rfl), hx]
      exact ⟨_, rfl⟩
    · exact ⟨x, hx⟩

/-! ### Numbers in bytes -/

theorem leBytes_lt (b : List Byte) (off n : Nat) : leBytes b off n < 256 ^ n := by
  induction n generalizing off with
  | zero => simp [leBytes]
  | succ n ih =>
    have h := ih (off + 1)
    have hb := (b.getD off 0).isLt
    simp only [leBytes, Nat.pow_succ]
    omega

@[simp] theorem length_toBytes (v n : Nat) : (toBytes v n).length = n := by
  induction n generalizing v with
  | zero => rfl
  | succ n ih => simp [toBytes, ih]

/-- A number's bytes, found behind others, give the number back. -/
theorem leBytes_append_toBytes (a : List Byte) (v n : Nat) (r : List Byte) :
    leBytes (a ++ (toBytes v n ++ r)) a.length n = v % 256 ^ n := by
  induction n generalizing a v with
  | zero => simp [leBytes, Nat.mod_one]
  | succ n ih =>
    have h := ih (a ++ [BitVec.ofNat 8 v]) (v / 256)
    rw [List.append_assoc, List.length_append, List.length_singleton] at h
    simp only [leBytes, toBytes, List.cons_append]
    rw [List.singleton_append] at h
    rw [h, Nat.pow_succ, Nat.mul_comm (256 ^ n), Nat.mod_mul]
    simp

/-! ### Migration (01 R40, R41) -/

theorem migAt_putMig (k : Nat) (m : Mig) (s : State) : migAt (putMig k m s) k = m := by
  simp [migAt, putMig, lookup_keep]

/-- A byte of what is loaded. -/
theorem ofNat_load_div (c : Memory) (a n i : Nat) (h : i < n) :
    BitVec.ofNat 8 (Cells.load c a n / 256 ^ i) = Cells.get c (a + i) := by
  induction n generalizing a i with
  | zero => omega
  | succ n ih =>
    have hb := (Cells.get c a).isLt
    cases i with
    | zero =>
      apply BitVec.eq_of_toNat_eq
      simp only [Cells.load, Nat.pow_zero, Nat.div_one, BitVec.toNat_ofNat, Nat.add_zero]
      omega
    | succ i =>
      have hdiv : Cells.load c a (n + 1) / 256 = Cells.load c (a + 1) n := by
        simp only [Cells.load]; omega
      rw [Nat.pow_succ, Nat.mul_comm, ← Nat.div_div_eq_div_mul, hdiv, ih (a + 1) i (by omega)]
      congr 1
      omega

/-- The bytes stored over a range are those loaded from another. -/
theorem get_store_load (c : Memory) (a b n k : Nat) :
    Cells.get (Cells.store c b (Cells.load c a n) n) k = if b ≤ k ∧ k < b + n then Cells.get c (a + (k - b)) else Cells.get c k := by
  rw [Cells.get_store_eq_ite]
  split_ifs with h
  · exact ofNat_load_div c a n (k - b) (by omega)
  · rfl

theorem setGran_of_none {s : State} {pa : Nat} (h : granAddr s pa = none) (v : Nat) : setGran s pa v = s := by
  simp [setGran, h]

/-- Outside of object memory, copying a line moves its bytes alone. -/
theorem copyLine_mem {s : State} {m : Mig} {n : Nat} (h0 : granAddr s (m.new + 128 * n) = none)
    (h1 : granAddr s (m.new + 128 * n + 64) = none) :
    copyLine m n s =
      { s with mem := Cells.store s.mem (m.new + 128 * n) (Cells.load s.mem (m.old + 128 * n) 128) 128 } := by
  have h (mem : Memory) (pa v : Nat) (hpa : granAddr s pa = none) : setGran { s with mem := mem } pa v = { s with mem := mem } := by
    have hg : granAddr { s with mem := mem } pa = none := hpa
    exact setGran_of_none hg v
  exact (congrArg (fun t => setGran t _ _) (h _ _ _ h0)).trans (h _ _ _ h1)

theorem mem_copyPoison (m : Mig) (n : Nat) (s : State) (l : Nat) :
    l ∈ (copyPoison m n s).poison ↔
      if l = m.new / 128 + n then m.old / 128 + n ∈ s.poison else l ∈ s.poison := by
  unfold copyPoison
  by_cases hl : l = m.new / 128 + n <;> by_cases hp : m.old / 128 + n ∈ s.poison <;> simp [hl, hp]

end Sys2Proof.Machine

namespace Sys2Proof.Proofs
open Sys2Proof.Machine hiding Ready
open Sys2Proof.Claims

/-! ### Queues, packets and links (15 R405, R406, R411, R413, R415) -/

theorem exec_wakeRegisterWrite_value {s : State} {q : Nat} {v : W64} {x : Queue} (harg : s.arg = .value q v)
    (hx : queueAt (unfocus s) q = some x) :
    exec .wakeRegisterWrite s = .next (
      if v.toNat ≤ x.widx.toNat then unfocus s
      else if x.started + 2 ^ x.e < v.toNat then
        (if x.halted.isSome then unfocus s
         else haltQueue q (x.started, false) (x.started + 2 ^ x.e) 0x41 0 0 0 0 (unfocus s))
      else
        let u := updQueue q (fun x => { x with widx := v }) (unfocus s)
        if x.mapped then poll q (writeStatus q u) else wantMap q u) := by
  have harm : exec .wakeRegisterWrite s = execWakeRegisterWrite s := rfl
  rw [harm, execWakeRegisterWrite, harg]
  simp only [hx]

theorem wakeRegisterWrite_takes {s : State} {q : Nat} {v : W64} {x : Queue} (harg : s.arg = .value q v)
    (hx : queueAt (unfocus s) q = some x) (hnew : x.widx.toNat < v.toNat) (hring : v.toNat ≤ x.started + 2 ^ x.e) :
    ∃ t y, exec .wakeRegisterWrite s = .next t ∧ queueAt t q = some y ∧ y.widx = v ∧ y.started = x.started ∧
      y.done = x.done := by
  have hu := queueAt_updQueue (unfocus s) q q (fun x => { x with widx := v }) (fun _ => rfl)
  rw [hx, Option.map_some, if_pos rfl] at hu
  rw [exec_wakeRegisterWrite_value harg hx, if_neg (by omega), if_neg (by omega)]
  dsimp only
  split
  · obtain ⟨y, hy, h⟩ := ((writeStatus_kept ..).trans (poll_kept ..)).kept q _ hu
    exact ⟨_, y, rfl, hy, h.widx, h.started, h.done⟩
  · obtain ⟨y, hy, hwidx, hstarted, hdone⟩ := wantMap_widx hu
    exact ⟨_, y, rfl, hy, hwidx, hstarted, hdone⟩

theorem wakeRegisterWrite_halts {s : State} {q : Nat} {v : W64} {x : Queue} (harg : s.arg = .value q v)
    (hx : queueAt (unfocus s) q = some x) (hnew : x.widx.toNat < v.toNat) (hring : x.started + 2 ^ x.e < v.toNat) :
    ∃ t y, exec .wakeRegisterWrite s = .next t ∧ queueAt t q = some y ∧ y.widx = x.widx ∧ y.halted.isSome = true := by
  rw [exec_wakeRegisterWrite_value harg hx, if_neg (by omega), if_pos hring]
  split
  · exact ⟨_, x, rfl, hx, rfl, by assumption⟩
  · obtain ⟨y, hy⟩ := haltQueue_halts hx (x.started, false) (x.started + 2 ^ x.e) 0x41 0 0 0 0
    exact ⟨_, y, rfl, hy⟩

theorem exec_queueCreation_ok {s : State} {b : List Byte} (harg : s.arg = .bytes b) (hok : creationOk (unfocus s) b = true) :
    ∃ t q, exec .queueCreation s = .next t ∧
      t = { unfocus s with queues := (unfocus s).queues ++ [q], dev := { (unfocus s).dev with open_ := false } } ∧
      q.id = leBytes b 0x0A 2 ∧ q.ring.toNat = leBytes b 0x00 8 ∧ q.e = leBytes b 0x08 1 ∧ q.cls = leBytes b 0x09 1 ∧
      q.asid = leBytes b 0x0C 2 ∧ q.widx = 0 ∧ q.started = 0 ∧ q.done = 0 ∧ q.pkts = [] ∧ q.halted = none ∧
      q.blocked = false := by
  have harm : exec .queueCreation s = execQueueCreation s := rfl
  rw [harm, execQueueCreation, harg]
  simp only [hok, Bool.not_true, Bool.false_eq_true, if_false]
  refine ⟨_, _, rfl, rfl, rfl, ?_, rfl, rfl, rfl, rfl, rfl, rfl, rfl, rfl, rfl⟩
  exact BitVec.toNat_ofNat .. |>.trans (Nat.mod_eq_of_lt (leBytes_lt b 0 8))

/-- What a queue that takes a slot does then keeps every queue. -/
theorem exec_queueRemap_maps {s : State} {q : Nat} {x : Queue} (harg : s.arg = .unit q) (hfree : slotsBusy (unfocus s) = false)
    (hx : queueAt (unfocus s) q = some x) :
    ∃ t y, exec .queueRemap s = .next t ∧ queueAt t q = some y ∧ y.mapped = true ∧ y.wakePending = false := by
  have harm : exec .queueRemap s = execQueueRemap s := rfl
  obtain ⟨z, hz⟩ := freeSlot_keeps_queueAt hx
  have hu := queueAt_updQueue (freeSlot (unfocus s)) q q (fun x => { x with mapped := true, wakePending := false }) (fun _ => rfl)
  rw [hz, Option.map_some, if_pos rfl] at hu
  have hpush (c : Bool) (i : Instr) (u : State) : QueuesKept u (if c then push i (.unit q) u else u) := by
    split <;> exact .of_queues_eq rfl
  obtain ⟨y, hy, h⟩ := ((((hpush _ .waitmemPacket _).trans (hpush _ .acquirePacket _)).trans (writeStatus_kept q _)).trans
    (poll_kept q _)).kept q _ hu
  rw [harm, execQueueRemap, harg]
  simp only [hfree, Bool.false_eq_true, if_false]
  exact ⟨_, y, rfl, hy, h.mapped, h.wakePending⟩

theorem exec_refetch_halted {s : State} {q n : Nat} {began : Bool} {x : Queue} (harg : s.arg = .unit q)
    (hx : queueAt (unfocus s) q = some x) (hh : x.halted = some (n, began)) (hw : refetchWaits (unfocus s) q n began = false) :
    exec .refetch s = .next (
      let v := updQueue q (fun x => { x with halted := none }) (unfocus s)
      restart q (if began then performAgain q n (((x.pkts.find? (fun p => p.n == n)).map Pkt.op).getD 0) v else v)) := by
  have harm : exec .refetch s = execRefetch s := rfl
  have hu := queueAt_updQueue (unfocus s) q q (fun x => { x with halted := none }) (fun _ => rfl)
  rw [hx, Option.map_some, if_pos rfl] at hu
  rw [harm, execRefetch, harg]
  simp only [hx, Option.bind_some, hh, hw, hu]
  rfl

theorem exec_skip_halted {s : State} {q n : Nat} {began : Bool} {x : Queue} (harg : s.arg = .unit q)
    (hx : queueAt (unfocus s) q = some x) (hh : x.halted = some (n, began)) :
    exec .skip s = .next (
      let v := updQueue q (fun x => { x with halted := none }) (unfocus s)
      restart q (completePacket q n (if began then v else startPacket q n 0 [] false v))) := by
  have harm : exec .skip s = execSkip s := rfl
  rw [harm, execSkip, harg]
  simp only [hx, Option.bind_some, hh]

theorem exec_linkBinding_bound {s : State} {n : Nat} {rel acq : BitVec 16} {bound : Bool} (harg : s.arg = .link n rel acq bound)
    (hn : n < 256) :
    ∃ t l, exec .linkBinding s = .next t ∧ t = { s with dev := { s.dev with links := t.dev.links } } ∧
      lookup n t.dev.links = some l ∧ l.rel = rel ∧ l.acq = acq ∧ l.bound = bound ∧ l.tokens = 0 ∧
      ∀ k, k ≠ n → lookup k t.dev.links = lookup k s.dev.links := by
  have harm : exec .linkBinding s = .next (bindLink n rel acq bound s) := by
    have : exec .linkBinding s = execLinkBinding s := rfl
    rw [this, execLinkBinding, harg]
    exact congrArg _ (if_neg (by omega))
  refine ⟨_, _, harm, rfl, (lookup_keep ..).trans (if_pos rfl), rfl, rfl, rfl, rfl, fun k hk => ?_⟩
  exact (lookup_keep ..).trans (if_neg hk)

/-! ### Blocks and device registers (15 R414, 02 R46, 01 R18) -/

theorem exec_debugResume_escalated {s : State} {uid : Nat} {b : Block} (harg : s.arg = .unit uid)
    (hb : (unfocus s).blocks.find? (fun x => x.uid == uid) = some b) (hst : b.st = .escalated)
    (hw : ∃ w ∈ b.warps, w.escalated.isSome = true) :
    exec .debugResume s = .next (
      let v := unfocus (b.warps.foldl (fun s w => resumeWarp uid w.idx s) (unfocus s))
      { updBlock uid (fun x => { x with st := .saved }) v with agenda := v.agenda ++ [(.blockRestore, .unit uid)] }) := by
  have harm : exec .debugResume s = execDebugResume s := rfl
  have hall : b.warps.all (fun w => w.escalated.isNone) = false := by
    obtain ⟨w, hw, hsome⟩ := hw
    rw [List.all_eq_false]
    exact ⟨w, hw, by cases h : w.escalated <;> simp_all⟩
  rw [harm, execDebugResume, harg]
  simp only [hb, hst, hall]
  rfl

theorem exec_accumulatorQuotaDivision {s : State} {a b c : Nat} (harg : s.arg = .quotas a b c) :
    exec .accumulatorQuotaDivision s = .next (if a + b + c ≤ 1536 then { s with quotas := (a, b, c) } else s) := by
  have harm : exec .accumulatorQuotaDivision s = execAccumulatorQuotaDivision s := rfl
  rw [harm, execAccumulatorQuotaDivision, harg]

theorem writeDevice_memCfg {s : State} {off : Nat} (hoff : off = 0x700000 ∨ off = 0x700008) (v : W64) :
    writeDevice off v s = { s with dev := writeMemCfg off v s.dev } := by
  rcases hoff with rfl | rfl <;> rfl

theorem writeMemCfg_asidbase (v : W64) (d : DevRegs) :
    writeMemCfg 0x700000 v d =
      { d with asidbase := if d.open_ then BitVec.ofNat 64 (v.toNat / 2 ^ 20 % 2 ^ 28 * 2 ^ 20) else d.asidbase } := by
  unfold writeMemCfg
  by_cases h : d.open_ = true
  · rw [if_neg (by simp [h]), if_pos rfl, if_pos h]
    rfl
  · rw [if_pos (by simpa using h), if_neg h]

theorem writeMemCfg_nearsplit (v : W64) (d : DevRegs) :
    writeMemCfg 0x700008 v d =
      { d with nearsplit := if d.open_ = true ∧ v.toNat % 128 ≤ 72 then v.toNat % 128 else d.nearsplit } := by
  unfold writeMemCfg
  by_cases h : d.open_ = true
  · rw [if_neg (by simp [h]), if_neg (by decide), if_pos rfl]
    split
    · rename_i hv
      rw [if_pos ⟨h, hv⟩]
    · rename_i hv
      rw [if_neg (fun hc => hv hc.2)]
  · rw [if_pos (by simpa using h), if_neg (fun hc => h hc.1)]

theorem exec_deviceRegisterWrite_value {s : State} {off : Nat} {v : W64} (harg : s.arg = .value off v) :
    exec .deviceRegisterWrite s = .next (writeDevice off v (unfocus s)) := by
  have harm : exec .deviceRegisterWrite s = execDeviceRegisterWrite s := rfl
  rw [harm, execDeviceRegisterWrite, harg]

/-! ### Migration (01 R40, R41) -/

theorem exec_migctlGo_starts {s : State} {c e : Nat} (harg : s.arg = .pair c e) (hsize : (migAt s (migKey c e)).bytes ≠ 0)
    (hen : (migAt s (migKey c e)).en = true) (hgo : (migAt s (migKey c e)).go = false)
    (hclash : migClash s (migKey c e) (migAt s (migKey c e)) = false) :
    ∃ t, exec .migctlGo s = .next t ∧ migAt t (migKey c e) = { migAt s (migKey c e) with go := true, ptr := 0 } ∧
      t = { s with dev := { s.dev with migs := t.dev.migs }, agenda := s.agenda ++ [(.migrationLineCopy, .pair c e)] } := by
  have harm : exec .migctlGo s = .next (startMig c e s) := by
    have : exec .migctlGo s = execMigctlGo s := rfl
    rw [this, execMigctlGo, harg]
  rw [harm, startMig, if_neg (by simp [hsize, hen, hgo, hclash])]
  exact ⟨_, rfl, migAt_putMig .., rfl⟩

theorem exec_migctlEn_entry {s : State} {c e : Nat} {b : Bool} (harg : s.arg = .entry c e b) :
    ∃ t, exec .migctlEn s = .next t ∧ migAt t (migKey c e) = { migAt s (migKey c e) with en := b } ∧
      t = { s with dev := { s.dev with migs := t.dev.migs } } := by
  have harm : exec .migctlEn s = .next (setEn (migKey c e) b s) := by
    have : exec .migctlEn s = execMigctlEn s := rfl
    rw [this, execMigctlEn, harg]
  exact ⟨_, harm, migAt_putMig .., rfl⟩

theorem exec_migctlDoneClear_pair {s : State} {c e : Nat} (harg : s.arg = .pair c e) :
    ∃ t, exec .migctlDoneClear s = .next t ∧ migAt t (migKey c e) = { migAt s (migKey c e) with done := false } ∧
      t = { s with dev := { s.dev with migs := t.dev.migs } } := by
  have harm : exec .migctlDoneClear s = .next (clearDone (migKey c e) s) := by
    have : exec .migctlDoneClear s = execMigctlDoneClear s := rfl
    rw [this, execMigctlDoneClear, harg]
  exact ⟨_, harm, migAt_putMig .., rfl⟩

/-- The state that a going migration's copy of its line leaves before its entry moves on. -/
def lineCopied (m : Mig) (s : State) : State := copyPoison m m.ptr (copyLine m m.ptr s)

theorem lineCopied_frame (m : Mig) (s : State) :
    lineCopied m s = { s with mem := (lineCopied m s).mem, poison := (lineCopied m s).poison } := by
  have h := (copyLine_home m m.ptr s).frame
  have hl (a : State) : copyLine m m.ptr s = a → a.l1 = s.l1 ∧ a.l2 = s.l2 := by
    rintro rfl
    unfold copyLine setGran
    dsimp only
    split <;> split <;> exact ⟨rfl, rfl⟩
  obtain ⟨h1, h2⟩ := hl _ rfl
  rw [h1, h2] at h
  unfold lineCopied copyPoison
  rw [h]

theorem mem_lineCopied_poison (m : Mig) (s : State) (l : Nat) :
    l ∈ (lineCopied m s).poison ↔ if l = m.new / 128 + m.ptr then m.old / 128 + m.ptr ∈ s.poison else l ∈ s.poison := by
  have hp : (copyLine m m.ptr s).poison = s.poison := by rw [(copyLine_home m m.ptr s).frame]
  rw [lineCopied, mem_copyPoison, hp]

/-- Outside of object memory the line's bytes stand in the new frame. -/
theorem get_lineCopied_mem {m : Mig} {s : State} (h0 : granAddr s (m.new + 128 * m.ptr) = none)
    (h1 : granAddr s (m.new + 128 * m.ptr + 64) = none) (k : Nat) :
    Cells.get (lineCopied m s).mem k =
      if m.new + 128 * m.ptr ≤ k ∧ k < m.new + 128 * m.ptr + 128 then
        Cells.get s.mem (m.old + 128 * m.ptr + (k - (m.new + 128 * m.ptr)))
      else Cells.get s.mem k := by
  have hm : (lineCopied m s).mem = (copyLine m m.ptr s).mem := rfl
  rw [hm, copyLine_mem h0 h1, get_store_load]

/-- The entry of a migration after its line: one line further, and done behind the last. -/
def linePassed (m : Mig) : Mig :=
  { m with ptr := m.ptr + 1, go := !decide (m.bytes ≤ 128 * (m.ptr + 1)), done := m.done || decide (m.bytes ≤ 128 * (m.ptr + 1)) }

theorem exec_migrationLineCopy_going {s : State} {c e : Nat} (harg : s.arg = .pair c e)
    (hgo : (migAt (unfocus s) (migKey c e)).go = true) :
    ∃ agenda, exec .migrationLineCopy s = .next
      { putMig (migKey c e) (linePassed (migAt (unfocus s) (migKey c e))) (lineCopied (migAt (unfocus s) (migKey c e)) (unfocus s)) with
        agenda := agenda } := by
  have harm : exec .migrationLineCopy s = execMigrationLineCopy s := rfl
  rw [harm, execMigrationLineCopy, harg]
  dsimp only
  generalize migAt (unfocus s) (migKey c e) = m at hgo
  by_cases hlast : m.bytes ≤ 128 * (m.ptr + 1)
  · have hnext : linePassed m = { m with ptr := m.ptr + 1, go := false, done := true } := by simp [linePassed, hlast]
    simp only [hgo, hlast, hnext]
    exact ⟨_, rfl⟩
  · have hnext : linePassed m = { m with ptr := m.ptr + 1 } := by simp [linePassed, hlast, hgo]
    simp only [hgo, hlast, hnext]
    exact ⟨_, rfl⟩

/-! ### Firmware, starts and power (19 R437 to R445) -/

theorem exec_firmwareImageWrite_recovery {s : State} {i : FwImage} (harg : s.arg = .image i) (hready : s.trust.ready = true)
    (hrec : s.trust.recovery = true) :
    exec .firmwareImageWrite s = .next (
      if Config.ecdsaVerifies (Config.sha384 i.bytes) i.ecdsa = true ∧ Config.lmsVerifies (Config.sha384 i.bytes) i.lms = true then
        { s with trust := { s.trust with image := i, coldNext := true } }
      else s) := by
  have harm : exec .firmwareImageWrite s = execFirmwareImageWrite s := rfl
  rw [harm, execFirmwareImageWrite]
  simp only [harg, hready, hrec, verifies, Bool.true_and, Bool.and_eq_true]

/-- The fields of a report's signed part: the nonce, the measurement and, behind 4 bytes of flags, the leaf index. -/
theorem reportBody_fields (t : Trust) {nonce : List Byte} (hn : nonce.length = 32) (leaf : Nat) (r : List Byte) :
    (reportBody t nonce leaf ++ r).take 32 = nonce ∧
      ((reportBody t nonce leaf ++ r).drop 32).take 48 = toBytes t.measured.toNat 48 ∧
      leBytes (reportBody t nonce leaf ++ r) 0x54 4 = leaf % 2 ^ 32 := by
  have hnonce : (nonce ++ List.replicate 32 0).take 32 = nonce := by rw [List.take_append_of_le_length (by omega), List.take_of_length_le (by omega)]
  unfold reportBody
  rw [hnonce]
  refine ⟨?_, ?_, ?_⟩
  · simp only [List.append_assoc]
    rw [List.take_append_of_le_length (by omega), List.take_of_length_le (by omega)]
  · simp only [List.append_assoc]
    rw [List.drop_append_of_le_length (by omega), List.drop_of_length_le (by omega), List.nil_append,
      List.take_append_of_le_length (by simp), List.take_of_length_le (by simp)]
  · have h := leBytes_append_toBytes (nonce ++ toBytes t.measured.toNat 48 ++ toBytes (if t.recovery then 1 else 0) 1
      ++ toBytes (if t.warm then 1 else 0) 1 ++ toBytes 0 2) leaf 4 r
    simp only [List.length_append, length_toBytes, hn] at h
    rw [show (0x54 : Nat) = 32 + 48 + 1 + 1 + 2 from rfl, show (2 ^ 32 : Nat) = 256 ^ 4 from rfl]
    simpa only [List.append_assoc] using h

theorem exec_attestationRequest_report {s : State} {nonce : List Byte} (harg : s.arg = .bytes nonce)
    (hleaf : s.trust.lmsLeaf < 2 ^ 20) (hn : nonce.length = 32) :
    ∃ t r, exec .attestationRequest s = .next t ∧ r.take 32 = nonce ∧
      (r.drop 32).take 48 = toBytes s.trust.measured.toNat 48 ∧ leBytes r 0x54 4 = s.trust.lmsLeaf ∧
      t = { s with trust := { s.trust with lmsLeaf := s.trust.lmsLeaf + 1, reports := r :: s.trust.reports } } := by
  have harm : exec .attestationRequest s = execAttestationRequest s := rfl
  have hlt : ¬ lmsLeaves ≤ s.trust.lmsLeaf := by unfold lmsLeaves; omega
  have hf := reportBody_fields s.trust hn s.trust.lmsLeaf
    (toBytes (Config.ecdsaSign s.trust.lmsKey (reportBody s.trust nonce s.trust.lmsLeaf)).toNat 96
      ++ toBytes (Config.lmsSign s.trust.lmsKey s.trust.lmsLeaf (reportBody s.trust nonce s.trust.lmsLeaf)).toNat 2828)
  rw [Nat.mod_eq_of_lt (by omega), ← List.append_assoc] at hf
  obtain ⟨hnonce, hmeasured, hindex⟩ := hf
  refine ⟨_, _, ?_, hnonce, hmeasured, hindex, rfl⟩
  rw [harm, execAttestationRequest]
  simp only [harg, hlt, if_false]

/-- Secure boot measures an image and may cache its digest. -/
theorem secureBoot_measures (warm : Bool) (i : FwImage) (t : Trust) :
    ∃ cached passed, secureBoot warm i t = ({ t with measured := Config.sha384 i.bytes, cached := cached }, passed) := by
  unfold secureBoot
  dsimp only
  split
  · exact ⟨_, _, rfl⟩
  · split <;> exact ⟨_, _, rfl⟩

/-- What a start does to what a start takes away and to the counters of starts. -/
theorem startWith_effect (warm : Bool) (s : State) :
    ∃ t, startWith warm s = blank t s ∧ (6 ≤ s.trust.failed → t.held = true ∧ t.ready = false) ∧
      (s.trust.failed < 6 → t.starts = s.trust.starts + 1 ∧ t.recovery = decide (3 ≤ s.trust.failed) ∧ t.powered = true ∧
        t.failed = if t.ready then 0 else s.trust.failed + 1) := by
  unfold startWith
  dsimp only
  split
  · exact ⟨_, rfl, fun _ => ⟨rfl, rfl⟩, fun h => by omega⟩
  · rename_i hlt
    split
    · exact ⟨_, rfl, fun h => absurd h hlt, fun _ => ⟨rfl, rfl, rfl, rfl⟩⟩
    · generalize hboot : secureBoot _ _ _ = boot
      obtain ⟨cached, passed, h⟩ := hboot ▸ secureBoot_measures _ _ _
      subst h
      refine ⟨_, rfl, fun h => absurd h hlt, fun _ => ?_⟩
      cases passed <;> exact ⟨rfl, rfl, rfl, rfl⟩

/-- Settles O59, command by command. -/
theorem commandsTakeEffect : Obligations.CommandsTakeEffect := by
  unfold Obligations.CommandsTakeEffect
  refine ⟨?wake, fun _ _ harg hok => exec_queueCreation_ok harg hok, ?slots, fun _ _ _ _ _ harg hn => exec_linkBinding_bound harg hn,
    fun _ _ _ harg hb hst hw => exec_debugResume_escalated harg hb hst hw,
    fun _ _ _ _ harg => exec_accumulatorQuotaDivision harg, ?registers, ?entries, ?line,
    fun _ _ harg hready hrec => exec_firmwareImageWrite_recovery harg hready hrec,
    fun _ _ harg hleaf hn => exec_attestationRequest_report harg hleaf hn, fun _ => rfl, ?sensors, ?shutdown, ?loss, ?start⟩
  case wake =>
    intro s q v x harg u hx
    refine ⟨fun hle => ?_, fun hnew hring => wakeRegisterWrite_takes harg hx hnew hring,
      fun hnew hring => wakeRegisterWrite_halts harg hx hnew hring⟩
    rw [exec_wakeRegisterWrite_value harg hx, if_pos hle]
  case slots =>
    intro s q harg u
    refine ⟨fun hfree ⟨x, hx⟩ => exec_queueRemap_maps harg hfree hx, fun x n began hx hh => ⟨fun hw => ?_, ?_⟩⟩
    · exact exec_refetch_halted harg hx hh hw
    · exact exec_skip_halted harg hx hh
  case registers =>
    intro s off v harg u
    refine ⟨_, exec_deviceRegisterWrite_value harg, ?_, ?_, ?_⟩
    · rintro rfl
      rfl
    · rintro rfl
      rw [writeDevice_memCfg (.inl rfl), writeMemCfg_asidbase]
      exact ⟨rfl, rfl⟩
    · rintro rfl
      rw [writeDevice_memCfg (.inr rfl), writeMemCfg_nearsplit]
      exact ⟨rfl, rfl⟩
  case entries =>
    intro s c e m
    exact ⟨fun harg hsize hen hgo hclash => exec_migctlGo_starts harg hsize hen hgo hclash,
      fun b harg => exec_migctlEn_entry harg, fun harg => exec_migctlDoneClear_pair harg⟩
  case line =>
    intro s c e harg
    dsimp only
    intro hgo
    obtain ⟨agenda, ht⟩ := exec_migrationLineCopy_going harg hgo
    generalize migAt (unfocus s) (migKey c e) = m at ht
    have hb : (m.new + 128 * m.ptr) / 128 = m.new / 128 + m.ptr := by omega
    have ha : (m.old + 128 * m.ptr) / 128 = m.old / 128 + m.ptr := by omega
    refine ⟨_, ht, ?_, fun l => ?_, migAt_putMig .., fun _ _ h0 h1 k => ?_⟩
    · unfold putMig
      rw [lineCopied_frame]
    · rw [hb, ha]
      exact mem_lineCopied_poison m (unfocus s) l
    · dsimp only [putMig]
      rw [get_lineCopied_mem h0 h1 k]
  case sensors =>
    intro s n harg
    refine ⟨?_, ?_, ?_⟩
    · have harm : exec .throttling s = execThrottling s := rfl
      rw [harm, execThrottling]
      simp only [harg]
    · have harm : exec .lmsKeyProvisioning s = execLmsKeyProvisioning s := rfl
      rw [harm, execLmsKeyProvisioning]
      simp only [harg]
    · have harm : exec .doubledRefresh s = execDoubledRefresh s := rfl
      rw [harm, execDoubledRefresh]
      simp only [harg]
      exact ⟨_, rfl, rfl, fun d => mem_addOnce n d s.trust.refresh⟩
  case shutdown => exact fun s => ⟨_, rfl, rfl, rfl, rfl, rfl, rfl, rfl⟩
  case loss =>
    intro s
    refine ⟨_, rfl, rfl, rfl, rfl, rfl, rfl, ?_⟩
    dsimp only [blank]
    split <;> omega
  case start =>
    intro s n warm harg
    have harm : exec .start s = .next (startWith warm s) := by
      have : exec .start s = execStart s := rfl
      rw [this, execStart, harg]
    obtain ⟨t, ht, hheld, hruns⟩ := startWith_effect warm s
    rw [ht] at harm
    refine ⟨_, harm, rfl, rfl, rfl, rfl, fun h => ?_, fun h => ?_⟩
    · obtain ⟨hh, hr⟩ := hheld h
      exact ⟨hh, by simp [running, blank, hr]⟩
    · obtain ⟨hstarts, hrec, hpow, hfailed⟩ := hruns h
      exact ⟨hstarts, hrec, by simpa [running, blank, hpow] using hfailed⟩

end Sys2Proof.Proofs

/-!
SUPPORT. Waiters and exports: the registers that exports hold and give back, a waited word read again, and the events
by which fragments go on.
-/
namespace Sys2Proof.Machine

/-! ### Registers of exports (05 R160, R161) -/

/-- A narrow warp takes an old value where it holds none. -/
theorem lookup_holdOld {α : Type} (k n : Nat) (old : α) (h : List (Nat × α)) (j : Nat) :
    lookup j (holdOld k old [n] h) = if j = viewKey n k then some ((lookup j h).getD old) else lookup j h := by
  have hstep : holdOld k old [n] h = if (lookup (viewKey n k) h).isSome then h else keep (viewKey n k) old h := rfl
  rw [hstep]
  by_cases hj : j = viewKey n k
  · subst hj
    cases hl : lookup (viewKey n k) h with
    | none => simp [lookup_keep]
    | some v => simp [hl]
  · rw [if_neg hj]
    split
    · rfl
    · rw [lookup_keep, if_neg hj]

/-- The lanes of a register, one after the other, take their old values where none is held. -/
theorem lookup_foldl_holdOld {α : Type} (r n : Nat) (old : Nat → α) (ls : List Nat) (h : List (Nat × α)) (j : Nat) :
    lookup j (ls.foldl (fun h l => holdOld (regKey r l) (old (regKey r l)) [n] h) h) =
      match ls.find? (fun l => j == viewKey n (regKey r l)) with
      | some l => some ((lookup j h).getD (old (regKey r l)))
      | none => lookup j h := by
  induction ls generalizing h with
  | nil => rfl
  | cons l ls ih =>
    rw [List.foldl_cons, ih, lookup_holdOld, List.find?_cons]
    by_cases hj : j = viewKey n (regKey r l)
    · rw [if_pos hj, beq_iff_eq.mpr hj]
      cases hf : ls.find? (fun l => j == viewKey n (regKey r l)) with
      | none => rfl
      | some l' => rfl
    · rw [if_neg hj, beq_eq_false_iff_ne.mpr hj]

/-- A lane of the list is held from then on, with the value that was held or the old one. -/
theorem lookup_foldl_holdOld_mem {α : Type} {r n l : Nat} {ls : List Nat} (hl : l ∈ ls) (old : Nat → α) (h : List (Nat × α)) :
    lookup (viewKey n (regKey r l)) (ls.foldl (fun h l => holdOld (regKey r l) (old (regKey r l)) [n] h) h) =
      some ((lookup (viewKey n (regKey r l)) h).getD (old (regKey r l))) := by
  rw [lookup_foldl_holdOld]
  cases hf : ls.find? (fun m => viewKey n (regKey r l) == viewKey n (regKey r m)) with
  | none => exact absurd (beq_self_eq_true _) (List.find?_eq_none.mp hf l hl)
  | some m =>
    have hm : regKey r l = regKey r m := by simpa using List.find?_some hf
    rw [hm]

theorem lookup_foldl_holdOld_of_ne {α : Type} {r n j : Nat} {ls : List Nat} (hj : ∀ l ∈ ls, j ≠ viewKey n (regKey r l))
    (old : Nat → α) (h : List (Nat × α)) :
    lookup j (ls.foldl (fun h l => holdOld (regKey r l) (old (regKey r l)) [n] h) h) = lookup j h := by
  rw [lookup_foldl_holdOld, List.find?_eq_none.mpr (fun l hl => by simpa using hj l hl)]

/-- Values written over cells, each under its own key. -/
theorem get_foldl_set {w : Nat} (f : Nat → BitVec w) (ks : List Nat) (c : List (Nat × BitVec w)) (j : Nat) :
    Cells.get (ks.foldl (fun c k => Cells.set c k (f k)) c) j = if j ∈ ks then f j else Cells.get c j := by
  induction ks generalizing c with
  | nil => simp
  | cons k r ih =>
    rw [List.foldl_cons, ih, Cells.get_set]
    by_cases hk : k = j
    · subst hk; simp
    · simp [hk, Ne.symm hk]

theorem find?_range_of_unique {n i : Nat} (p : Nat → Bool) (hi : i < n) (hp : p i = true) (h : ∀ j, j < n → j ≠ i → p j = false) :
    (List.range n).find? p = some i := by
  cases hf : (List.range n).find? p with
  | none => exact absurd hp (List.find?_eq_none.mp hf i (List.mem_range.mpr hi))
  | some j =>
    have hj := List.mem_range.mp (List.mem_of_find?_eq_some hf)
    by_contra hne
    have := h j hj (fun e => hne (by rw [e]))
    rw [List.find?_some hf] at this
    cases this

/-- What a returning narrow warp pushes back: its dirty values in the lanes that have not exited. -/
theorem pushBack_v {s : State} {e : Export} {nw : Nat} (hnw : nw < e.total)
    (hown : ∀ k ∈ e.dirty, k % 32 ∈ e.warpLanes nw ∧ ∀ n, n < e.total → n ≠ nw → k % 32 ∉ e.warpLanes n) (k : Nat) :
    Cells.get (pushBack s e).w.v k =
      if k ∈ e.dirty ∧ s.w.exited.getLsbD (k % 32) = false then (lookup (viewKey nw k) e.held).getD 0 else Cells.get s.w.v k := by
  unfold pushBack
  dsimp only
  rw [get_foldl_set]
  simp only [List.mem_filter, Bool.not_eq_true']
  split
  · rename_i hk
    obtain ⟨hmine, hother⟩ := hown k hk.1
    rw [find?_range_of_unique _ hnw (by simpa using hmine) (fun n hn hne => by simpa using hother n hn hne)]
    rfl
  · rfl

theorem getElem?_updLevel (l : List JEntry) (n : Nat) (u : JEntry → JEntry) (k : Nat) :
    (updLevel l n u)[k]? = (l[k]?).map (fun y => if k = n then u y else y) := by
  rw [updLevel, List.getElem?_modify]
  cases l[k]? with
  | none => rfl
  | some y => simp [eq_comm]

/-- The dirty values and predicates of the lanes of one narrow warp. -/
def ofWarp (e : Export) (nw : Nat) : Export :=
  { e with dirty := e.dirty.filter (fun k => (e.warpLanes nw).contains (k % 32))
           pdirty := e.pdirty.filter (fun k => (e.warpLanes nw).contains (k % 32)) }

/-- The exports once a narrow warp of one of them has returned. -/
def expsReturned (e : Export) (x nw : Nat) (exps : List Export) : List Export :=
  if e.nwarps ≤ 1 then exps.filter (fun y => y.id != x)
  else exps.map (fun y => if y.id == x then { y with
    nwarps := y.nwarps - 1
    map := y.map.map (fun l => if (e.warpLanes nw).contains l then 32 else l)
    dirty := y.dirty.filter (fun k => !(e.warpLanes nw).contains (k % 32))
    pdirty := y.pdirty.filter (fun k => !(e.warpLanes nw).contains (k % 32)) } else y)

theorem returnExport_eq {s : State} {x nw : Nat} {e : Export} (he : s.w.exps.find? (fun y => y.id == x) = some e) :
    returnExport x nw s = { s with w := { s.w with
      v := (pushBack s (ofWarp e nw)).w.v
      p := (pushBack s (ofWarp e nw)).w.p
      frags := s.w.frags.map (fun f => if f.exp == some x && f.nw == nw then { f with exp := none, nw := 0 } else f)
      jst := updLevel s.w.jst e.level.toNat (fun j => { j with counter := j.counter - 1 })
      exps := expsReturned e x nw s.w.exps } } := by
  unfold returnExport expsReturned
  rw [he]
  dsimp only
  split <;> rfl

/-- What returns has one narrow warp less, and goes with its last one. -/
theorem expsReturned_nwarps {e : Export} {x nw : Nat} {exps : List Export} (he : exps.find? (fun y => y.id == x) = some e) :
    ((expsReturned e x nw exps).find? (fun y => y.id == x)).map Export.nwarps =
      if e.nwarps ≤ 1 then none else some (e.nwarps - 1) := by
  have hid : (e.id == x) = true := by simpa using List.find?_some he
  unfold expsReturned
  split
  · simp [List.find?_eq_none]
  · rw [find_map_id _ _ (fun y => by split <;> rfl), he, Option.map_some, Option.map_some, if_pos hid]

end Sys2Proof.Machine

namespace Sys2Proof.Proofs
open Sys2Proof.Machine hiding Ready
open Sys2Proof.Claims

theorem exec_waitWordReread_word {s : State} {b w e : Nat} {va v : W64} {cond : BitVec 2} {woken : Bool}
    (harg : s.arg = .triple b w e) (hhold : (focus s b w e).f.hold = .word va cond v false woken) :
    exec .waitWordReread s = .next (
      let u := focus s b w e
      if (wordValue u u.blk (asidOf u) va).all (fun x => condHolds cond x v.toNat) then
        { u with f := { u.f with hold := .word va cond v false true } }
      else { u with agenda := u.agenda ++ [(.waitWordReread, .triple u.blk.uid u.w.idx u.f.ent)] }) := by
  have harm : exec .waitWordReread s = execWaitWordReread s := rfl
  rw [harm, execWaitWordReread, harg]
  simp only [rereadWord, hhold]
  cases wordValue (focus s b w e) (focus s b w e).blk (asidOf (focus s b w e)) va <;> rfl

theorem exec_issuePromotion_waited {s : State} {b w e : Nat} (harg : s.arg = .triple b w e) (hmask : (focus s b w e).f.mask ≠ 0)
    (hfirst : (focus s b w e).f.promoted = none) (hwait : 48 ≤ (focus s b w e).f.waited) :
    exec .issuePromotion s = .next (
      let u := focus s b w e
      { u with f := { u.f with promoted := some u.promos }, promos := u.promos + 1 }) := by
  have harm : exec .issuePromotion s = execIssuePromotion s := rfl
  rw [harm, execIssuePromotion, harg]
  have hm : ((focus s b w e).f.mask != 0) = true := bne_iff_ne.mpr hmask
  dsimp only
  rw [if_pos (by simp only [hm, hfirst, hwait]; rfl)]

theorem exec_yieldExpiry_held {s : State} {b w e : Nat} (harg : s.arg = .triple b w e)
    (hhold : (focus s b w e).f.hold = .yield) :
    exec .yieldExpiry s = .next (
      let u := focus s b w e
      { u with f := { u.f with hold := .free } }) := by
  have harm : exec .yieldExpiry s = execYieldExpiry s := rfl
  rw [harm, execYieldExpiry, harg]
  simp only [hhold, if_true]

/-- The refill of the highest spilled entry of the fragment's warp, once nothing keeps it from being read. -/
theorem refillEntry_reads {u x : State} {q : Place} {v : Nat} (hhold : u.f.hold = .refill) (hn : spilledEntries u ≠ 0)
    (hroom : heldEntries u < 16)
    (hq : resolveGlobal u (isUser u) .read (.plain 1) (spillVa u (spilledEntries u - 1)) 32 = .ok q)
    (hfill : fillHeld u q 32 = false) (hload : loadAt u q 32 = (x, v)) :
    refillEntry u = { keepLeaves x q with
      f := { u.f with hold := .free }
      w := { u.w with jst := updLevel u.w.jst (spilledEntries u - 1) (fun e => e.refilled v) } } := by
  have hx : HomeStep u x := by simpa [hload] using loadAt_home u q 32
  have hf : x.f = u.f := by rw [hx.frame]
  have hw : x.w = u.w := by rw [hx.frame]
  have hgo : (u.f.hold != .refill || spilledEntries u = 0) = false := by simp [hhold, hn]
  unfold refillEntry
  simp only [hgo, Nat.not_le.mpr hroom, hq, hfill, hload, hf, hw]
  rfl

theorem exec_joinStackRefill_reads {s u x : State} {b w e : Nat} {q : Place} {v : Nat} (harg : s.arg = .triple b w e)
    (hu : focus s b w e = u) (hhold : u.f.hold = .refill) (hn : spilledEntries u ≠ 0) (hroom : heldEntries u < 16)
    (hq : resolveGlobal u (isUser u) .read (.plain 1) (spillVa u (spilledEntries u - 1)) 32 = .ok q)
    (hfill : fillHeld u q 32 = false) (hload : loadAt u q 32 = (x, v)) :
    OnlyMemory u x ∧ ∃ t, exec .joinStackRefill s = .next t ∧
      t = { keepLeaves x q with f := { u.f with hold := .free }, w := { u.w with jst := t.w.jst } } ∧
      ∀ k, t.w.jst[k]? = (u.w.jst[k]?).map (fun y => if k = spilledEntries u - 1 then y.refilled v else y) := by
  have hx : HomeStep u x := by simpa [hload] using loadAt_home u q 32
  have harm : exec .joinStackRefill s = .next (refillEntry u) := by
    have : exec .joinStackRefill s = execJoinStackRefill s := rfl
    rw [this, execJoinStackRefill, harg]
    subst hu
    rfl
  rw [refillEntry_reads hhold hn hroom hq hfill hload] at harm
  exact ⟨onlyMemory_of_homeStep hx, _, harm, rfl, getElem?_updLevel u.w.jst (spilledEntries u - 1) (fun y => y.refilled v)⟩

theorem exec_registerPull_pulls {s : State} {b w x r : Nat} {e : Export} (harg : s.arg = .pull b w x r)
    (he : (focusWarp s b w).w.exps.find? (fun y => y.id == x) = some e) :
    let u := focusWarp s b w
    let key := fun (l : Nat) => viewKey (r / 256) (regKey (r % 256) l)
    ∃ t e', exec .registerPull s = .next t ∧ t = { u with w := { u.w with exps := t.w.exps } } ∧
      t.w.exps.find? (fun y => y.id == x) = some e' ∧ r ∈ e'.pulled ∧
      (∀ l ∈ e.warpLanes (r / 256),
        lookup (key l) e'.held = some ((lookup (key l) e.held).getD (Cells.get u.w.v (regKey (r % 256) l)))) ∧
      ∀ k, (∀ l ∈ e.warpLanes (r / 256), k ≠ key l) → lookup k e'.held = lookup k e.held := by
  have harm : exec .registerPull s = .next (pullRegister x r (focusWarp s b w)) := by
    have : exec .registerPull s = execRegisterPull s := rfl
    rw [this, execRegisterPull, harg]
  have hid : (e.id == x) = true := by simpa using List.find?_some he
  refine ⟨_, { e with
      pulled := addOnce r e.pulled
      held := (e.warpLanes (r / 256)).foldl (fun h l =>
        holdOld (regKey (r % 256) l) (Cells.get (focusWarp s b w).w.v (regKey (r % 256) l)) [r / 256] h) e.held },
    harm, rfl, ?_, (mem_addOnce r r e.pulled).mpr (.inl rfl),
    fun l hl => lookup_foldl_holdOld_mem hl (Cells.get (focusWarp s b w).w.v) e.held,
    fun k hk => lookup_foldl_holdOld_of_ne hk (Cells.get (focusWarp s b w).w.v) e.held⟩
  refine (find_map_id _ _ (fun e => ?_) x).trans ?_
  · split <;> rfl
  · rw [he, Option.map_some, if_pos hid]

theorem exec_exportReturn_returns {s : State} {b w x nw : Nat} {e : Export} (harg : s.arg = .pull b w x nw)
    (he : (focusWarp s b w).w.exps.find? (fun y => y.id == x) = some e) (hnw : nw < e.total)
    (hother : ∀ n, n < e.total → n ≠ nw → ∀ l ∈ e.warpLanes nw, l < 32 → l ∉ e.warpLanes n) :
    let u := focusWarp s b w
    let back := fun (k : Nat) => (e.warpLanes nw).contains (k % 32) && !u.w.exited.getLsbD (k % 32)
    ∃ t, exec .exportReturn s = .next t ∧
      t = { u with w := { u.w with v := t.w.v, p := t.w.p, frags := t.w.frags, jst := t.w.jst, exps := t.w.exps } } ∧
      t.w.frags = u.w.frags.map (fun f => if f.exp = some x ∧ f.nw = nw then { f with exp := none, nw := 0 } else f) ∧
      (∀ k, t.w.jst[k]? = (u.w.jst[k]?).map (fun y => if k = e.level.toNat then { y with counter := y.counter - 1 } else y)) ∧
      (∀ k, Cells.get t.w.v k = if k ∈ e.dirty ∧ back k = true then (lookup (viewKey nw k) e.held).getD 0 else Cells.get u.w.v k) ∧
      (t.w.exps.find? (fun y => y.id == x)).map Export.nwarps = (if e.nwarps ≤ 1 then none else some (e.nwarps - 1)) := by
  have hown : ∀ k ∈ (ofWarp e nw).dirty, k % 32 ∈ e.warpLanes nw ∧ ∀ n, n < e.total → n ≠ nw → k % 32 ∉ e.warpLanes n := by
    intro k hk
    have hmine : k % 32 ∈ e.warpLanes nw := by simpa using (List.mem_filter.mp hk).2
    exact ⟨hmine, fun n hn hne => hother n hn hne _ hmine (Nat.mod_lt _ (by decide))⟩
  have harm : exec .exportReturn s = .next (returnExport x nw (focusWarp s b w)) := by
    have : exec .exportReturn s = execExportReturn s := rfl
    rw [this, execExportReturn, harg]
  revert he harm
  generalize focusWarp s b w = u
  intro he harm
  rw [returnExport_eq he] at harm
  refine ⟨_, harm, rfl, ?_, getElem?_updLevel u.w.jst e.level.toNat (fun j => { j with counter := j.counter - 1 }), ?_,
    expsReturned_nwarps he⟩
  · exact List.map_congr_left fun f _ => by simp
  · intro k
    refine (pushBack_v (e := ofWarp e nw) hnw hown k).trans ?_
    simp [ofWarp, and_assoc]

theorem exec_poolRefill_unit {s : State} {n : Nat} (harg : s.arg = .unit n) :
    exec .poolRefill s = .next (if Config.refillFrames (unfocus s).tick n = [] ∨ refillHeld n (unfocus s) = true
      then { unfocus s with agenda := (unfocus s).agenda ++ [(.poolRefill, .unit n)] }
      else refill n (Config.refillFrames (unfocus s).tick n) { unfocus s with poolReqs := (unfocus s).poolReqs.filter (· != n) }) := by
  have harm : exec .poolRefill s = execPoolRefill s := rfl
  rw [harm, execPoolRefill, harg]
  simp only [Bool.or_eq_true, List.isEmpty_iff]
  rfl

/-- Settles O55, event by event. -/
theorem waitersAndExportsGoOn : Obligations.WaitersAndExportsGoOn := by
  unfold Obligations.WaitersAndExportsGoOn
  refine ⟨fun _ _ _ _ _ _ _ _ harg hhold => exec_waitWordReread_word harg hhold, fun s b w e harg => ⟨?_, ?_, ?_⟩,
    fun _ _ _ _ _ _ harg he => exec_registerPull_pulls harg he,
    fun _ _ _ _ _ _ harg he hnw hother => exec_exportReturn_returns harg he hnw hother, fun _ _ harg => exec_poolRefill_unit harg⟩
  · exact fun hmask hfirst hwait => exec_issuePromotion_waited harg hmask hfirst hwait
  · exact fun hhold => exec_yieldExpiry_held harg hhold
  · exact fun q x v hhold hn hroom hq hfill hload => exec_joinStackRefill_reads harg rfl hhold hn hroom hq hfill hload

end Sys2Proof.Proofs

/-!
SUPPORT. Instructions with scalar operands alone, the steps of a range invalidation, and operations on a frame pool.
-/
namespace Sys2Proof.Machine

/-! ### Instructions with scalar operands alone -/

/-- An instruction without vector sources marks no register last-read. -/
theorem noteKeys_of_scalar {i : Instr} {s : State} (ha : (operands s i).va = []) (hb : (operands s i).vb = []) (n : Nat) :
    noteKeys i n s = [] := by
  simp [noteKeys, markedRegs, ha, hb, regsOf]

/-- An instruction without vector sources changes nothing but its fragment when it retires. -/
theorem retire_of_scalar {i : Instr} {s : State} (hr : s.f.replay = none) (ha : (operands s i).va = [])
    (hb : (operands s i).vb = []) : retire i s = { s with f := (retire i s).f } := by
  have hk := noteKeys_of_scalar ha hb (noteAt s.f s.f.pc)
  rw [retire_eq i s hr, applyNotes, hk]
  rfl

/-- A scalar that an instruction writes has no result in flight when it issues. -/
theorem inflightS_of_not_stalls {i : Instr} {s : State} {n : Nat} (hs : stalls i s = false) (hn : n ∈ (operands s i).sw)
    (h0 : n ≠ 0) : inflightS s n = none := by
  by_contra hf
  have hw : (operands s i).sw.any (fun n => n != 0 && (inflightS s n).isSome) = true :=
    List.any_eq_true.mpr ⟨n, hn, by simp [h0, Option.isSome_iff_ne_none.mpr hf]⟩
  simp [stalls, hw] at hs

/-! ### The steps of `tinv` (01 R31) -/

theorem l2Write_l1 (s : State) (x : L2Line) (m : BitVec 128) : (l2Write s x m).l1 = s.l1 :=
  List.foldlRecOn (motive := fun (t : State) => t.l1 = s.l1) _ _ rfl fun _ h _ _ => h

theorem foldl_l2Write_l1 (l : List L2Line) (s : State) : (l.foldl (fun s x => l2Write s x x.dirty) s).l1 = s.l1 :=
  List.foldlRecOn (motive := fun (t : State) => t.l1 = s.l1) _ _ rfl fun t h x _ => (l2Write_l1 t x x.dirty).trans h

/-- The state in which the lines of a range have been written back and dropped from the L1s, and written back in L2. -/
def writtenBack (asid v n : Nat) (s : State) : State :=
  let r := fun (a la : Nat) => inRange asid v n a la
  let u := writeBackHalf s (fun x => r x.asid x.la) false
  let u := { u with l1 := u.l1.filter (fun x => !r x.asid x.la) }
  (u.l2.filter (fun x => r x.asid x.la)).foldl (fun s x => l2Write s x x.dirty) u

theorem writtenBack_home (asid v n : Nat) (s : State) : HomeStep s (writtenBack asid v n s) :=
  ((writeBackHalf_home ..).trans (.lines _ _ _)).trans (HomeStep.foldl (fun s x => l2Write_home s x x.dirty) _ _)

theorem dropLines_eq (asid v n : Nat) (s : State) :
    dropLines asid v n s = { writtenBack asid v n s with
      l2 := (writtenBack asid v n s).l2.filter (fun x => !inRange asid v n x.asid x.la)
      icache := (writtenBack asid v n s).icache.filter (fun x => !inRange asid v n x.asid x.la) } := rfl

theorem clearLeaves_home (asid v n : Nat) (s : State) : HomeStep s (clearLeaves asid v n s) :=
  HomeStep.foldl (fun s _ => physWrite_home s ..) _ s

/-- No line of the range stays in an L1. -/
theorem inRange_of_mem_writtenBack_l1 {asid v n : Nat} {s : State} {x : L1Line} (hx : x ∈ (writtenBack asid v n s).l1) :
    inRange asid v n x.asid x.la = false := by
  have hl1 := foldl_l2Write_l1
  unfold writtenBack at hx
  rw [hl1] at hx
  simpa using (List.mem_filter.mp hx).2

/-! ### Pools (01 R37, R38) -/

theorem drainLine_home (va : W64) (s : State) : HomeStep s (drainLine va s) :=
  (beforeHome_home ..).trans (dropCopy_home ..)

theorem poolWrite_home {hub : Bool} {va : W64} {v : Nat} {s t : State} (h : poolWrite hub va v s = .ok t) : HomeStep s t := by
  unfold poolWrite at h
  split at h
  · cases h
  · split at h
    · cases h
    · split at h
      · cases h
      · cases h
        exact homeWrite_home ..

theorem popFrame_home {hub : Bool} {d : PoolDesc} {s t : State} {frame : Nat} (h : popFrame hub d s = .ok (t, frame)) :
    HomeStep s t := by
  unfold popFrame at h
  split at h
  · cases h
  · split at h
    · cases h
    · rename_i hw
      cases h
      exact poolWrite_home hw

theorem pushFrame_home {hub : Bool} {d : PoolDesc} {s t : State} {frame : Nat} (h : pushFrame hub d frame s = .ok t) :
    HomeStep s t := by
  unfold pushFrame at h
  split at h
  · cases h
  · rename_i hw
    exact (poolWrite_home hw).trans (poolWrite_home h)

end Sys2Proof.Machine

namespace Sys2Proof.Proofs
open Sys2Proof.Machine hiding Ready
open Sys2Proof.Claims

/-! ### What an instruction with scalar operands leaves -/

/-- What retires from a state in which the fragment is as at its start stands past its instruction. -/
theorem past_retire {i : Instr} {s u : State} (h : Ready i s) (hf : u.f = (started s).f) : Past s (retire i u) := by
  have hr : u.f.replay = none := by rw [hf]; exact replay_of_ready h
  unfold Past
  rw [retire_f i u hr, hf]
  rfl

theorem onlyPosition_retire {i : Instr} {s u : State} (h : Ready i s) (hf : u.f = (started s).f)
    (ha : (operands u i).va = []) (hb : (operands u i).vb = []) : OnlyPosition u (retire i u) :=
  retire_of_scalar (by rw [hf]; exact replay_of_ready h) ha hb

/-- One scalar is written; s0 reads 0. -/
theorem scalarsWritten_one {s t : State} {n : Nat} {v : W64} (hw : t.w = (writeS s n v).w) (ht : t.tick = s.tick)
    (hfree : n ≠ 0 → inflightS s n = none) : ScalarsWritten n [v] s t := by
  have hpend : t.w.pend = s.w.pend := by rw [hw, writeS_frame]
  have hin (m : Nat) : inflightS t m = inflightS s m := by rw [inflightS, hpend]; rfl
  intro m
  by_cases hm : m = 0
  · simp [readS, hm]
  by_cases hn : m = n
  · subst hn
    simp [readS, hin, hfree hm, hm, hw, writeS, Cells.get_set]
  · have hget : Cells.get t.w.s m = Cells.get s.w.s m := by
      rw [hw, writeS]
      split
      · rfl
      · exact (Cells.get_set ..).trans (if_neg (Ne.symm hn))
    have hread : readS t m = readS s m := by simp only [readS, hin, hget, ht]
    rw [hread, if_neg hm]
    split
    · have : ([v] : List W64)[m - n]? = none := by simp; omega
      rw [this]
      rfl
    · rfl

/-- An instruction that writes one scalar, from a state whose fragment and warp are as at its start. -/
theorem retire_writes {i : Instr} {s u : State} {n : Nat} (v : W64) (h : Ready i s) (hf : u.f = (started s).f) (hw : u.w = s.w)
    (ht : u.tick = s.tick) (hn : n ∈ (operands s i).sw) (ha : ∀ s, (operands s i).va = []) (hb : ∀ s, (operands s i).vb = []) :
    Past s (retire i (writeS u n v)) ∧ ScalarsWritten n [v] s (retire i (writeS u n v)) ∧
      OnlyScalars u (retire i (writeS u n v)) := by
  have hframe := writeS_frame u n v
  have hf' : (writeS u n v).f = (started s).f := by rw [hframe]; exact hf
  have hpos : OnlyPosition (writeS u n v) (retire i (writeS u n v)) := onlyPosition_retire h hf' (ha _) (hb _)
  have hpast := past_retire h hf'
  obtain ⟨_, hstall, _, _, _⟩ := h
  refine ⟨hpast, scalarsWritten_one ?_ ?_ (inflightS_of_not_stalls hstall hn), ?_⟩
  · rw [hpos]
    show (writeS u n v).w = (writeS s n v).w
    unfold writeS
    split
    · exact hw
    · rw [hw]
  · rw [hpos, hframe]
    exact ht
  · unfold OnlyScalars
    rw [hpos, hframe]

theorem poolOp_reached {s u : State} {n : Nat} {at' : PoolDesc → Nat} {d : PoolDesc} (h : PoolReached s n at' d u) (i : Instr)
    (k : PoolDesc → State → State) : poolOp i n at' k (unheld s) = k d u := by
  obtain ⟨hdesc, hd, hplace, rfl⟩ := h
  unfold poolOp
  have h1 : agentHeld (unheld s) 0 (descVa (unheld s).w.pool n) 64 = false := hdesc
  have h2 : agentHeld (unheld s) 0 (d.slot (at' d)) 4 = false := hplace
  have h3 : poolDesc (drainLine (descVa (unheld s).w.pool n) (unheld s)) false (unheld s).w.pool n = .ok d := hd
  dsimp only
  rw [if_neg (by simpa using h1), h3]
  dsimp only
  rw [if_neg (by simpa using h2)]
  rfl

theorem poolReached_home {s u : State} {n : Nat} {at' : PoolDesc → Nat} {d : PoolDesc} (h : PoolReached s n at' d u) :
    HomeStep (started s) u := by
  obtain ⟨_, _, _, rfl⟩ := h
  exact (drainLine_home ..).trans (drainLine_home ..)

/-! ### The instructions -/

theorem exec_pmap_table {sd sa sb : BitVec 6} {s : State} {table : Nat} (h : Ready (.pmap sd sa sb) s)
    (hg : isGlobal (readS s sa.toNat) = true) (htable : walkTable s (asidOf s) (readS s sa.toNat) = .ok (.inl table)) :
    exec (.pmap sd sa sb) s = .next (mapOver (.pmap sd sa sb) sd (readS s sa.toNat) table
      (bits (readS s sb.toNat).toNat 32 6) ((readS s sb.toNat).toNat % 2 ^ 32) (unheld s)) := by
  have harm : exec (.pmap sd sa sb) s = execPmap sd sa sb s := rfl
  have hg' : isGlobal (readS (unheld s) sa.toNat) = true := hg
  have ht' : walkTable (unheld s) (asidOf (unheld s)) (readS (unheld s) sa.toNat) = .ok (.inl table) := htable
  rw [harm, execPmap, issue_of_ready h]
  dsimp only
  rw [if_neg (by simp [hg']), ht']
  rfl

theorem exec_pmap_mapped {sd sa sb : BitVec 6} {s : State} {table : Nat} (h : Ready (.pmap sd sa sb) s)
    (hg : isGlobal (readS s sa.toNat) = true) (htable : walkTable s (asidOf s) (readS s sa.toNat) = .ok (.inl table))
    (hv : eV (physRead s (pmapEntry s table (vaOf (readS s sa.toNat))).1 8) = true) :
    ∃ t, exec (.pmap sd sa sb) s = .next t ∧ Past s t ∧ OnlyScalars s t ∧ ScalarsWritten sd.toNat [0] s t := by
  obtain ⟨hpast, hscal, honly⟩ := retire_writes (u := unheld s) 0 h rfl rfl rfl (List.mem_singleton_self _) (fun _ => rfl)
    (fun _ => rfl)
  refine ⟨_, (exec_pmap_table h hg htable).trans ?_, hpast, honly, hscal⟩
  have hv' : eV (physRead (unheld s) (pmapEntry (unheld s) table (vaOf (readS s sa.toNat))).1 8) = true := hv
  unfold mapOver
  dsimp only
  rw [if_pos hv']

theorem exec_pmap_maps {sd sa sb : BitVec 6} {s u : State} {table : Nat} {d : PoolDesc} (h : Ready (.pmap sd sa sb) s)
    (hg : isGlobal (readS s sa.toNat) = true) (htable : walkTable s (asidOf s) (readS s sa.toNat) = .ok (.inl table))
    {e : Nat × Bool} (he : pmapEntry s table (vaOf (readS s sa.toNat)) = e) {v : Nat} (hentry : physRead s e.1 8 = v)
    {b : Nat} (hb : (readS s sb.toNat).toNat = b) (hv : eV v = false) (hp : ePOOL v ≠ 0)
    (hty : eTYPE v = if e.2 then 2 else 1) (hu : PoolReached s (b / 2 ^ 32 % 64) (fun _ => 0) d u)
    (hattrs : d.attrs / 2 ^ 12 % 4 = if e.2 then 2 else 1) (hframe : e.2 = true → b % 32 = 0) :
    ∃ t, exec (.pmap sd sa sb) s = .next t ∧ Past s t ∧ ScalarsWritten sd.toNat [1] s t ∧
      OnlyScalars (physWrite u e.1 (pmapLeaf v d.attrs (b % 2 ^ 32)) 8) t := by
  have hhome := poolReached_home hu
  obtain ⟨hpast, hscal, honly⟩ := retire_writes (u := physWrite u e.1 (pmapLeaf v d.attrs (b % 2 ^ 32)) 8) 1 h
    (by rw [physWrite, hhome.frame]) (by rw [physWrite, hhome.frame]; rfl) (by rw [physWrite, hhome.frame]; rfl)
    (List.mem_singleton_self _) (fun _ => rfl) (fun _ => rfl)
  refine ⟨_, (exec_pmap_table h hg htable).trans ?_, hpast, hscal, honly⟩
  have he' : pmapEntry (unheld s) table (vaOf (readS s sa.toNat)) = e := he
  have hentry' : physRead (unheld s) e.1 8 = v := hentry
  have hbits : bits d.attrs 12 2 = if e.2 then 2 else 1 := hattrs
  have hmod : e.2 = true → b % 2 ^ 32 % 32 = 0 := fun h2 => by have := hframe h2; omega
  unfold mapOver
  rw [he', hb]
  dsimp only
  rw [hentry', if_neg (by simp [hv]), if_neg (by simp [hp, hty]), poolOp_reached (n := bits b 32 6) hu]
  rw [if_neg]
  simpa [hbits] using hmod

/-- The bytes of a line that a range operation keeps lie outside the range. -/
theorem outside_of_not_inRange {a v n a' la : Nat} (h : inRange a v n a' la = false) :
    Outside a v n a' (128 * la) (128 * la + 128) := by
  rintro rfl
  simp [inRange] at h
  omega

/-- The bytes of a page that a range operation keeps lie outside the range. -/
theorem outside_of_untouched {a v n a' i size : Nat}
    (h : (a' == a && decide (i * size < v + n) && decide (v < i * size + size)) = false) :
    Outside a v n a' (i * size) (i * size + size) := by
  rintro rfl
  simp at h
  omega

/-- The steps of `tinv` over a range, from a state with the caches and the translations of `s`. -/
theorem invalidate_drops (a v n : Nat) {s u : State} (h : HomeStep s u) :
    let t := invalidate a v n u
    t = { s with mem := t.mem, l1 := t.l1, l2 := t.l2, icache := t.icache, tlb := t.tlb, wcache := t.wcache, homes := t.homes } ∧
    (∀ x ∈ t.l1, Outside a v n x.asid (128 * x.la) (128 * x.la + 128)) ∧
    (∀ x ∈ t.l2, Outside a v n x.asid (128 * x.la) (128 * x.la + 128)) ∧
    (∀ x ∈ t.icache, x ∈ s.icache ∧ Outside a v n x.asid (128 * x.la) (128 * x.la + 128)) ∧
    (∀ x ∈ t.tlb, x ∈ s.tlb ∧ Outside a v n x.asid (x.page * x.size) (x.page * x.size + x.size)) ∧
    (∀ x ∈ t.homes, x ∈ s.homes ∧ Outside a v n x.asid (x.page * 0x10000) (x.page * 0x10000 + 0x10000)) ∧
    ∀ x ∈ t.wcache, x ∈ s.wcache ∧
      Outside a v n x.asid (x.index * 2 ^ levelShift x.level) ((x.index + 1) * 2 ^ levelShift x.level) := by
  have hw : HomeStep s (writtenBack a v n u) := h.trans (writtenBack_home ..)
  have hl1 := fun (x : L1Line) => inRange_of_mem_writtenBack_l1 (asid := a) (v := v) (n := n) (s := u) (x := x)
  have hframe := hw.frame
  intro t
  have ht : t = dropLeaves a v n { writtenBack a v n u with
      l2 := (writtenBack a v n u).l2.filter (fun x => !inRange a v n x.asid x.la)
      icache := (writtenBack a v n u).icache.filter (fun x => !inRange a v n x.asid x.la) } := rfl
  clear_value t
  revert hl1 hframe ht
  generalize writtenBack a v n u = w
  intro hl1 hframe ht
  rw [dropLeaves] at ht
  subst ht
  dsimp only
  rw [hframe]
  refine ⟨rfl, fun x hx => ?_, fun x hx => ?_, fun x hx => ?_, fun x hx => ?_, fun x hx => ?_, fun x hx => ?_⟩
  · exact outside_of_not_inRange (hl1 x hx)
  · exact outside_of_not_inRange (by simpa using (List.mem_filter.mp hx).2)
  · obtain ⟨hmem, hout⟩ := List.mem_filter.mp hx
    exact ⟨hmem, outside_of_not_inRange (by simpa using hout)⟩
  · obtain ⟨hmem, hout⟩ := List.mem_filter.mp hx
    exact ⟨hmem, outside_of_untouched (Bool.not_eq_true' _ ▸ hout)⟩
  · obtain ⟨hmem, hout⟩ := List.mem_filter.mp hx
    exact ⟨hmem, outside_of_untouched (Bool.not_eq_true' _ ▸ hout)⟩
  · obtain ⟨hmem, hout⟩ := List.mem_filter.mp hx
    refine ⟨hmem, ?_⟩
    rw [Nat.succ_mul]
    exact outside_of_untouched (Bool.not_eq_true' _ ▸ hout)

/-- `tinv` and `pumap`, by what they do to the range first: `pumap` clears its leaves, `tinv` nothing. -/
theorem exec_range {sa sb : BitVec 6} {s : State} {unmap : Bool} {i : Instr}
    (hi : (if unmap then Instr.pumap sa sb else Instr.tinv sa sb) = i) :
    exec i s = issue i (rangeOp i sa sb (fun a v n s => invalidate a v n (if unmap then clearLeaves a v n s else s))) s := by
  subst hi
  cases unmap <;> rfl

theorem operands_range {sa sb : BitVec 6} {unmap : Bool} {i : Instr}
    (hi : (if unmap then Instr.pumap sa sb else Instr.tinv sa sb) = i) (s : State) :
    (operands s i).va = [] ∧ (operands s i).vb = [] := by
  subst hi
  cases unmap <;> exact ⟨rfl, rfl⟩

theorem exec_range_invalidates {s : State} {sa sb : BitVec 6} {unmap : Bool} {i : Instr} {g : W64} {n a : Nat}
    (hi : (if unmap then Instr.pumap sa sb else Instr.tinv sa sb) = i) (hga : readS s sa.toNat = g)
    (hna : (readS s sb.toNat).toNat = n) (haa : effAsid (asidOf s) (vaOf g) = a) (h : Ready i s)
    (hg : g.toNat % 0x10000 = 0) (hn : n % 0x10000 = 0) (hglobal : isGlobal g = true) (hrows : rowsOpen s = false) :
    ∃ t, exec i s = .next t ∧ Past s t ∧ (n = 0 → OnlyPosition s t) ∧
      t = { s with
        f := t.f, mem := t.mem, l1 := t.l1, l2 := t.l2, icache := t.icache, tlb := t.tlb, wcache := t.wcache, homes := t.homes } ∧
      (n ≠ 0 → ∀ u, u = dropLines a (vaOf g) n (if unmap then clearLeaves a (vaOf g) n (started s) else started s) →
        t.mem = u.mem ∧ t.l2 = u.l2 ∧
        (∀ x ∈ t.l1, Outside a (vaOf g) n x.asid (128 * x.la) (128 * x.la + 128)) ∧
        (∀ x ∈ t.l2, Outside a (vaOf g) n x.asid (128 * x.la) (128 * x.la + 128)) ∧
        (∀ x ∈ t.icache, x ∈ s.icache ∧ Outside a (vaOf g) n x.asid (128 * x.la) (128 * x.la + 128)) ∧
        (∀ x ∈ t.tlb, x ∈ s.tlb ∧ Outside a (vaOf g) n x.asid (x.page * x.size) (x.page * x.size + x.size)) ∧
        (∀ x ∈ t.homes, x ∈ s.homes ∧ Outside a (vaOf g) n x.asid (x.page * 0x10000) (x.page * 0x10000 + 0x10000)) ∧
        ∀ x ∈ t.wcache, x ∈ s.wcache ∧
          Outside a (vaOf g) n x.asid (x.index * 2 ^ levelShift x.level) ((x.index + 1) * 2 ^ levelShift x.level)) := by
  have hops := operands_range hi
  have hga' : readS (unheld s) sa.toNat = g := hga
  have hna' : (readS (unheld s) sb.toNat).toNat = n := hna
  have hrows' : rowsOpen (unheld s) = false := hrows
  have haa' : effAsid (asidOf (unheld s)) (vaOf g) = a := haa
  rw [exec_range hi, issue_of_ready h, rangeOp, hga', hna', haa']
  rw [if_neg (by simp [hg]), if_neg (by simp [hn])]
  by_cases h0 : n = 0
  · have hpos : OnlyPosition s (retire i (unheld s)) := onlyPosition_retire (u := unheld s) h rfl (hops _).1 (hops _).2
    rw [if_pos h0]
    exact ⟨_, rfl, past_retire h rfl, fun _ => hpos, by rw [hpos], fun hne => absurd h0 hne⟩
  · rw [if_neg h0, if_neg (by simp [hglobal]), if_neg (by simp [hrows'])]
    have hstart : HomeStep (unheld s) (if unmap then clearLeaves a (vaOf g) n (unheld s) else unheld s) :=
      .ite (clearLeaves_home ..) (.refl _)
    obtain ⟨hframe, hl1, hl2, hic, htlb, hhomes, hwc⟩ := invalidate_drops a (vaOf g) n hstart
    have hf := congrArg State.f hframe
    have hpos := onlyPosition_retire h hf (hops _).1 (hops _).2
    refine ⟨_, rfl, past_retire h hf, fun h => absurd h h0, ?_, fun _ u hu => ?_⟩
    · rw [hpos, hframe]
      rfl
    · rw [hpos]
      subst hu
      exact ⟨rfl, rfl, hl1, hl2, hic, htlb, hhomes, hwc⟩

theorem askRefill_frame (key : Nat) (s : State) :
    askRefill key s = { s with poolReqs := (askRefill key s).poolReqs, agenda := (askRefill key s).agenda } := by
  unfold askRefill
  split <;> rfl

theorem exec_pool_reached {s u : State} {sd sa : BitVec 6} {d : PoolDesc} {n key : Nat} (hn : (readS s sa.toNat).toNat % 64 = n)
    (hkey : poolKey s.w.pool n = key) (h : Ready (.pool sd sa) s) (hu : PoolReached s n (fun d => d.count - 1) d u) :
    (d.count = 0 → exec (.pool sd sa) s = .next (sleepAt (.frames key) (askRefill key u))) ∧
    ∀ v frame, d.count ≠ 0 → popFrame false d u = .ok (v, frame) → exec (.pool sd sa) s = .next (retire (.pool sd sa)
      (writeS (if d.count - 1 < d.low then askRefill key v else v) sd.toNat (BitVec.ofNat 64 frame))) := by
  have harm : exec (.pool sd sa) s = execPool sd sa s := rfl
  have hn' : (readS (unheld s) sa.toNat).toNat % 64 = n := hn
  have hkey' : poolKey (unheld s).w.pool n = key := hkey
  rw [harm, execPool, issue_of_ready h]
  dsimp only
  rw [hn', hkey', poolOp_reached hu]
  refine ⟨fun h0 => by rw [if_pos h0], fun v frame h0 hpop => ?_⟩
  rw [if_neg h0, hpop]

theorem exec_poolPush_reached {s u : State} {sa sb : BitVec 6} {d : PoolDesc} {n : Nat} (hn : (readS s sa.toNat).toNat % 64 = n)
    {frame : BitVec 32} (hframe : (readS s sb.toNat).setWidth 32 = frame) (h : Ready (.poolPush sa sb) s)
    (hu : PoolReached s n PoolDesc.count d u) :
    (d.cap ≤ d.count → exec (.poolPush sa sb) s =
      .next (retire (.poolPush sa sb) { u with poolBack := (n, frame) :: u.poolBack })) ∧
    ∀ v, d.count < d.cap → pushFrame false d frame.toNat u = .ok v →
      exec (.poolPush sa sb) s = .next (retire (.poolPush sa sb) v) := by
  have harm : exec (.poolPush sa sb) s = execPoolPush sa sb s := rfl
  have hn' : (readS (unheld s) sa.toNat).toNat % 64 = n := hn
  have hframe' : (readS (unheld s) sb.toNat).setWidth 32 = frame := hframe
  rw [harm, execPoolPush, issue_of_ready h]
  dsimp only
  rw [hn', hframe', poolOp_reached hu]
  refine ⟨fun hfull => by rw [if_pos hfull], fun v hroom hpush => ?_⟩
  rw [if_neg (Nat.not_le.mpr hroom), hpush]

theorem exec_l1wb_ready {s : State} {rng : BitVec 1} {sa sb : BitVec 6} (h : Ready (.l1wb rng sa sb) s) :
    exec (.l1wb rng sa sb) s = .next (retire (.l1wb rng sa sb) (writeBackHalf (started s) (maintained s rng sa sb) false)) := by
  have harm : exec (.l1wb rng sa sb) s = execL1wb rng sa sb s := rfl
  rw [harm, execL1wb, issue_of_ready h]
  rfl

theorem exec_l1inv_ready {s : State} {rng : BitVec 1} {sa sb : BitVec 6} (h : Ready (.l1inv rng sa sb) s) :
    exec (.l1inv rng sa sb) s = .next (retire (.l1inv rng sa sb)
      (dropClean (writeBackHalf (started s) (maintained s rng sa sb) false) (maintained s rng sa sb))) := by
  have harm : exec (.l1inv rng sa sb) s = execL1inv rng sa sb s := rfl
  rw [harm, execL1inv, issue_of_ready h]
  rfl

/-- Settles O53, instruction by instruction. -/
theorem poolsMappingsAndCaches : Obligations.PoolsMappingsAndCaches := by
  unfold Obligations.PoolsMappingsAndCaches
  refine ⟨?_, ?_, ?_, ?_, ?_⟩
  · intro s sd sa sb table g b e v h hg htable
    refine ⟨fun hv => exec_pmap_mapped h hg htable hv, fun d u hv hp hty hu hattrs hframe => ?_⟩
    exact ⟨onlyMemory_of_homeStep (poolReached_home hu), exec_pmap_maps h hg htable rfl rfl rfl hv hp hty hu hattrs hframe⟩
  · intro s sa sb unmap g n a i h hg hn hglobal hrows
    exact exec_range_invalidates rfl rfl rfl rfl h hg hn hglobal hrows
  · intro s u sd sa d n key h hu
    have hhome := poolReached_home hu
    obtain ⟨hempty, hpops⟩ := exec_pool_reached (n := n) (key := key) rfl rfl h hu
    refine ⟨onlyMemory_of_homeStep hhome, fun h0 => ⟨_, hempty h0, rfl⟩, fun v frame h0 hpop => ?_⟩
    have hv := hhome.trans (popFrame_home hpop)
    have hx : (if d.count - 1 < d.low then askRefill key v else v).f = (started s).f ∧
        (if d.count - 1 < d.low then askRefill key v else v).w = s.w ∧
        (if d.count - 1 < d.low then askRefill key v else v).tick = s.tick := by
      split
      · rw [askRefill_frame, hv.frame]
        exact ⟨rfl, rfl, rfl⟩
      · rw [hv.frame]
        exact ⟨rfl, rfl, rfl⟩
    obtain ⟨hf, hw, ht⟩ := hx
    exact ⟨_, hpops v frame h0 hpop,
      retire_writes _ h hf hw ht (List.mem_singleton_self _) (fun _ => rfl) (fun _ => rfl)⟩
  · intro s u sa sb d n frame h hu
    have hhome := poolReached_home hu
    obtain ⟨hfull, hpushes⟩ := exec_poolPush_reached (n := n) (frame := frame) rfl rfl h hu
    refine ⟨onlyMemory_of_homeStep hhome, fun hc => ?_, fun v hroom hpush => ?_⟩
    · have hback : u.poolBack = s.poolBack := by rw [hhome.frame]; rfl
      have hf : u.f = (started s).f := by rw [hhome.frame]
      refine ⟨_, hfull hc, past_retire h hf, ?_⟩
      rw [← hback]
      exact onlyPosition_retire (u := { u with poolBack := (n, frame) :: u.poolBack }) h hf rfl rfl
    · have hf : v.f = (started s).f := by rw [(hhome.trans (pushFrame_home hpush)).frame]
      exact ⟨_, hpushes v hroom hpush, past_retire h hf, onlyPosition_retire h hf rfl rfl⟩
  · intro s u rng sa sb inv i m h hu
    have hhome : HomeStep (started s) u := hu ▸ writeBackHalf_home ..
    have hf : u.f = (started s).f := by rw [hhome.frame]
    refine ⟨onlyMemory_of_homeStep hhome, ?_⟩
    cases inv with
    | false =>
      have harm : exec i s = .next (retire i u) := hu ▸ exec_l1wb_ready h
      exact ⟨_, harm, past_retire h hf, fun _ => onlyPosition_retire h hf rfl rfl, nofun⟩
    | true =>
      have harm : exec i s = .next (retire i (dropClean u m)) := hu ▸ exec_l1inv_ready h
      exact ⟨_, harm, past_retire (u := dropClean u m) h hf, nofun,
        fun _ => onlyPosition_retire (u := dropClean u m) h hf rfl rfl⟩

end Sys2Proof.Proofs

/-!
SUPPORT. Landings: what the completion of an operation's parts writes and keeps; home requests on plain memory; the groups
that leave a collector and the commit of an operation whose elements all pass.
-/
namespace Sys2Proof.Machine

/-! ### Landings in place -/

/-- What a landing brings to a register lane, a scalar, and a predicate bit. -/
def Landing.laneAt (k : Nat) : Landing → Option W32
  | .lane k' v => if k' = k then some v else none
  | _ => none
def Landing.scalarAt (n : Nat) : Landing → Option W64
  | .scalar m v => if m = n then some v else none
  | _ => none
def Landing.predAt (p i : Nat) : Landing → Option Bool
  | .pred q j b => if q = p ∧ j = i then some b else none
  | _ => none

/-- The newest value that landings bring. -/
def newest {α : Type} (f : Landing → Option α) (l : List Landing) : Option α := l.foldl (fun a x => (f x).or a) none

theorem newest_concat {α : Type} (f : Landing → Option α) (l : List Landing) (x : Landing) :
    newest f (l ++ [x]) = (f x).or (newest f l) := by
  simp [newest]

/-- The landings of a kind that a filter keeps whole bring what they all bring. -/
theorem newest_filter_of_keeps {α : Type} {f : Landing → Option α} {c : Landing → Bool} (l : List Landing)
    (h : ∀ x, f x ≠ none → c x = true) : newest f (l.filter c) = newest f l := by
  induction l using List.reverseRecOn with
  | nil => rfl
  | append_singleton l x ih =>
    rw [List.filter_append, newest_concat]
    cases hc : c x with
    | true => rw [List.filter_singleton, hc, Bool.cond_true, newest_concat, ih]
    | false =>
      have hx : f x = none := by
        by_contra hf
        rw [h x hf] at hc
        cases hc
      rw [List.filter_singleton, hc, Bool.cond_false, List.append_nil, ih, hx, Option.none_or]

/-- Landings that all pass a register by leave it. -/
theorem newest_eq_none {α : Type} {f : Landing → Option α} {l : List Landing} (h : ∀ x ∈ l, f x = none) : newest f l = none := by
  induction l using List.reverseRecOn with
  | nil => rfl
  | append_singleton l x ih =>
    rw [newest_concat, h x (by simp), ih fun y hy => h y (by simp [hy])]
    rfl

/-- Where a warp has no exports, landings leave it so, and leave its exited lanes. -/
theorem land_exps {own : Lanes} {s : State} (x : Landing) (h : s.w.exps = []) :
    (land own s x).w.exps = [] ∧ (land own s x).w.exited = s.w.exited := by
  refine ⟨?_, by rw [land_frame own s x]⟩
  unfold land
  split
  · split
    · exact h
    · simp [putLane, unmark, h]
  · unfold writeS
    split <;> exact h
  · split
    · exact h
    · simp [putBit, h]

/-- What one landing does to a part `g` of the warp, the newest of a list of landings does. -/
theorem foldl_land_newest {α : Type} {own : Lanes} {f : Landing → Option α} {g : State → α} {s : State} {l : List Landing}
    (hexps : s.w.exps = [])
    (h : ∀ x ∈ l, ∀ t : State, t.w.exps = [] → t.w.exited = s.w.exited → g (land own t x) = (f x).getD (g t)) :
    g (l.foldl (land own) s) = (newest f l).getD (g s) ∧ (l.foldl (land own) s).w.exps = [] ∧
      (l.foldl (land own) s).w.exited = s.w.exited := by
  induction l using List.reverseRecOn with
  | nil => exact ⟨rfl, hexps, rfl⟩
  | append_singleton l x ih =>
    obtain ⟨hg, hexp, hexited⟩ := ih fun y hy => h y (by simp [hy])
    obtain ⟨hexp', hexited'⟩ := land_exps (own := own) x hexp
    rw [List.foldl_concat, newest_concat]
    refine ⟨?_, hexp', hexited'.trans hexited⟩
    rw [h x (by simp) _ hexp hexited, hg]
    cases f x <;> rfl

theorem get_land_v {own : Lanes} {s : State} (k : Nat) (x : Landing) (hexps : s.w.exps = []) :
    Cells.get (land own s x).w.v k =
      (if s.w.exited.getLsbD (k % 32) then none else x.laneAt k).getD (Cells.get s.w.v k) := by
  cases x with
  | lane k' v =>
    by_cases hk : k' = k
    · subst hk
      cases hx : s.w.exited.getLsbD (k' % 32) <;>
        simp [land, Landing.laneAt, hx, putLane, unmark, hexps, Cells.get_set]
    · have hput : Cells.get (land own s (.lane k' v)).w.v k = Cells.get s.w.v k := by
        unfold land
        dsimp only
        split
        · rfl
        · simp [putLane, unmark, hexps, Cells.get_set, hk]
      rw [hput]
      simp [Landing.laneAt, hk]
  | scalar n v => simp [land, Landing.laneAt, writeS]; split <;> rfl
  | pred p l b =>
    simp only [land, Landing.laneAt, ite_self, Option.getD_none]
    split
    · rfl
    · simp [putBit, hexps]

theorem get_land_s {own : Lanes} {s : State} {n : Nat} (hn : n ≠ 0) (x : Landing) (hexps : s.w.exps = []) :
    Cells.get (land own s x).w.s n = (x.scalarAt n).getD (Cells.get s.w.s n) := by
  cases x with
  | lane k v =>
    simp only [land, Landing.scalarAt, Option.getD_none]
    split
    · rfl
    · simp [putLane, unmark, hexps]
  | scalar m v =>
    by_cases hm : m = n
    · subst hm
      simp [land, Landing.scalarAt, writeS, hn, Cells.get_set]
    · simp only [land, Landing.scalarAt, writeS, hm, if_false, Option.getD_none]
      split
      · rfl
      · simp [Cells.get_set, hm]
  | pred p l b =>
    simp only [land, Landing.scalarAt, Option.getD_none]
    split
    · rfl
    · simp [putBit, hexps]

theorem get_land_s_zero {own : Lanes} {s : State} (x : Landing) (hexps : s.w.exps = []) :
    Cells.get (land own s x).w.s 0 = Cells.get s.w.s 0 := by
  cases x with
  | lane k v =>
    simp only [land]
    split
    · rfl
    · simp [putLane, unmark, hexps]
  | scalar m v =>
    simp only [land, writeS]
    split
    · rfl
    · rename_i hm
      exact (Cells.get_set ..).trans (if_neg hm)
  | pred p l b =>
    simp only [land]
    split
    · rfl
    · simp [putBit, hexps]

theorem get_land_p {own : Lanes} {s : State} {q i : Nat} (x : Landing) (hexps : s.w.exps = [])
    (hx : ∀ p l b, x = .pred p l b → l < 32) :
    (Cells.get (land own s x).w.p q).getLsbD i =
      (if q = 0 ∨ s.w.exited.getLsbD i then none else x.predAt q i).getD ((Cells.get s.w.p q).getLsbD i) := by
  cases x with
  | lane k v =>
    simp only [land, Landing.predAt, ite_self, Option.getD_none]
    split
    · rfl
    · simp [putLane, unmark, hexps]
  | scalar n v => simp [land, Landing.predAt, writeS]; split <;> rfl
  | pred p l b =>
    have hl := hx p l b rfl
    by_cases hout : p = 0 ∨ s.w.exited.getLsbD l = true
    · have hsame : land own s (.pred p l b) = s := by simp only [land]; rw [if_pos (by simpa using hout)]
      rw [hsame]
      by_cases hpl : p = q ∧ l = i
      · obtain ⟨rfl, rfl⟩ := hpl
        rw [if_pos hout]
        rfl
      · simp [Landing.predAt, hpl]
    · have hput : (land own s (.pred p l b)).w.p = Cells.set s.w.p p (setBit (Cells.get s.w.p p) l b) := by
        simp only [land]
        rw [if_neg (by simpa using hout)]
        simp [putBit, hexps]
      rw [hput, Cells.get_set]
      by_cases hp : p = q
      · subst hp
        rw [if_pos rfl, setBit_getLsbD _ _ _ _ hl]
        by_cases hi : i = l
        · subst hi
          rw [if_neg hout]
          simp [Landing.predAt]
        · simp [Landing.predAt, hi, Ne.symm hi]
      · simp [Landing.predAt, hp]

/-- Landings take marks away and set none. -/
theorem mem_lastRead_of_foldl_land {own : Lanes} {k : Nat} (l : List Landing) {s : State} (hexps : s.w.exps = [])
    (hk : k ∈ (l.foldl (land own) s).w.lastRead) : k ∈ s.w.lastRead := by
  induction l using List.reverseRecOn generalizing s with
  | nil => exact hk
  | append_singleton l x ih =>
    rw [List.foldl_concat] at hk
    have hexp := (foldl_land_newest (own := own) (l := l) (f := fun _ => (none : Option Unit)) (g := fun _ => ()) hexps
      (fun _ _ _ _ _ => rfl)).2.1
    refine ih hexps ?_
    revert hk
    generalize l.foldl (land own) s = t at hexp
    cases x with
    | lane k' v =>
      simp only [land]
      split
      · exact id
      · simp [putLane, unmark, hexp]
        exact fun h _ => h
    | scalar n v =>
      simp only [land, writeS]
      split <;> exact id
    | pred p i b =>
      simp only [land]
      split
      · exact id
      · simp [putBit, hexp]

/-- Marking adds the keys. -/
theorem mem_markRead (ks : List Nat) (s : State) (k : Nat) : k ∈ (markRead ks s).w.lastRead ↔ k ∈ s.w.lastRead ∨ k ∈ ks := by
  unfold markRead
  dsimp only
  generalize s.w.lastRead = l
  induction ks generalizing l with
  | nil => simp
  | cons x ks ih =>
    rw [List.foldl_cons, ih, mem_addOnce, List.mem_cons]
    tauto

/-- The landings that the completion of an operation's parts in the lanes `m` brings. -/
def landsNow (p : Pend) (m : Lanes) : List Landing :=
  p.lands.filter (fun x => match x.lane? with
    | some l => m.getLsbD l
    | none => p.lanes &&& ~~~m == 0)

/-- What stays in flight of an operation whose parts in the lanes `m` complete. -/
def landsLater (p : Pend) (m : Lanes) : List Landing :=
  p.lands.filter (fun x => match x.lane? with
    | some l => !m.getLsbD l
    | none => p.lanes &&& ~~~m != 0)

/-- The last parts of an operation complete: what is to land there lands, its note takes effect, and it ends. -/
theorem completeLanes_last {s : State} {id : Nat} {m : Lanes} {p : Pend} (h : s.w.pend.find? (fun q => q.id == id) = some p)
    (hrest : p.lanes &&& ~~~m = 0) :
    completeLanes s id m = markRead p.marks { (landsNow p m).foldl (land p.own) s with
      w := { ((landsNow p m).foldl (land p.own) s).w with
        pend := ((landsNow p m).foldl (land p.own) s).w.pend.filter (fun q => q.id != id) } } := by
  unfold completeLanes
  rw [h]
  dsimp only
  rw [if_pos hrest]
  rfl

/-- Some parts of an operation complete, others stay. -/
theorem completeLanes_some {s : State} {id : Nat} {m : Lanes} {p : Pend} (h : s.w.pend.find? (fun q => q.id == id) = some p)
    (hrest : p.lanes &&& ~~~m ≠ 0) :
    completeLanes s id m = updPend ((landsNow p m).foldl (land p.own) s) id (fun q => { q with
      lanes := p.lanes &&& ~~~m, lands := landsLater p m, owes := q.owes.filter (fun k => !m.getLsbD (k % 32))
      reads := q.reads.filter (fun r => !m.getLsbD r.1) }) := by
  unfold completeLanes
  rw [h]
  dsimp only
  rw [if_neg hrest]
  rfl

theorem completeLanes_lands {s : State} {id : Nat} {m : Lanes} {p : Pend} (h : s.w.pend.find? (fun q => q.id == id) = some p) :
    (completeLanes s id m).w.v = ((landsNow p m).foldl (land p.own) s).w.v ∧
    (completeLanes s id m).w.s = ((landsNow p m).foldl (land p.own) s).w.s ∧
    (completeLanes s id m).w.p = ((landsNow p m).foldl (land p.own) s).w.p ∧
    (completeLanes s id m).w.exps = ((landsNow p m).foldl (land p.own) s).w.exps := by
  by_cases hrest : p.lanes &&& ~~~m = 0
  · rw [completeLanes_last h hrest]
    exact ⟨rfl, rfl, rfl, rfl⟩
  · rw [completeLanes_some h hrest]
    exact ⟨rfl, rfl, rfl, rfl⟩

/-- Of what lands, a register lane's newest value is the operation's own, in the completed lanes. -/
theorem newest_landsNow_laneAt (p : Pend) (m : Lanes) (k : Nat) :
    newest (Landing.laneAt k) (landsNow p m) =
      if m.getLsbD (k % 32) = true then newest (Landing.laneAt k) p.lands else none := by
  have hlane (x : Landing) (hx : x.laneAt k ≠ none) : ∃ v, x = .lane k v := by
    cases x with
    | lane k' v => by_cases hk : k' = k <;> simp_all [Landing.laneAt]
    | scalar n v => exact absurd rfl hx
    | pred q l b => exact absurd rfl hx
  split
  · rename_i hm
    refine newest_filter_of_keeps p.lands fun x hx => ?_
    obtain ⟨v, rfl⟩ := hlane x hx
    exact hm
  · rename_i hm
    refine newest_eq_none fun x hx => ?_
    by_contra hne
    obtain ⟨v, rfl⟩ := hlane x hne
    exact hm (List.mem_filter.mp hx).2

/-- Scalars land with the last part. -/
theorem newest_landsNow_scalarAt (p : Pend) (m : Lanes) (n : Nat) :
    newest (Landing.scalarAt n) (landsNow p m) =
      if p.lanes &&& ~~~m = 0 then newest (Landing.scalarAt n) p.lands else none := by
  have hscal (x : Landing) (hx : x.scalarAt n ≠ none) : ∃ v, x = .scalar n v := by
    cases x with
    | lane k v => exact absurd rfl hx
    | scalar n' v => by_cases hn : n' = n <;> simp_all [Landing.scalarAt]
    | pred q l b => exact absurd rfl hx
  split
  · rename_i hrest
    refine newest_filter_of_keeps p.lands fun x hx => ?_
    obtain ⟨v, rfl⟩ := hscal x hx
    exact beq_iff_eq.mpr hrest
  · rename_i hrest
    refine newest_eq_none fun x hx => ?_
    by_contra hne
    obtain ⟨v, rfl⟩ := hscal x hne
    exact hrest (beq_iff_eq.mp (List.mem_filter.mp hx).2)

theorem newest_landsNow_predAt (p : Pend) (m : Lanes) (q l : Nat) :
    newest (Landing.predAt q l) (landsNow p m) = if m.getLsbD l = true then newest (Landing.predAt q l) p.lands else none := by
  have hpred (x : Landing) (hx : x.predAt q l ≠ none) : ∃ b, x = .pred q l b := by
    cases x with
    | lane k v => exact absurd rfl hx
    | scalar n v => exact absurd rfl hx
    | pred q' l' b => by_cases hq : q' = q ∧ l' = l <;> simp_all [Landing.predAt]
  split
  · rename_i hm
    refine newest_filter_of_keeps p.lands fun x hx => ?_
    obtain ⟨b, rfl⟩ := hpred x hx
    exact hm
  · rename_i hm
    refine newest_eq_none fun x hx => ?_
    by_contra hne
    obtain ⟨b, rfl⟩ := hpred x hne
    exact hm (List.mem_filter.mp hx).2

/-! ### Translations and homes -/

/-- An entry put into a TLB stands there. -/
theorem mem_tlbPut (l : List TlbEntry) (x : TlbEntry) : x ∈ tlbPut l x := by
  unfold tlbPut
  dsimp only
  split
  · exact List.mem_cons_self
  · split
    · split <;> exact List.mem_cons_self
    · exact List.mem_cons_self

theorem load_lt (c : Memory) (k n : Nat) : Cells.load c k n < 256 ^ n := by
  induction n generalizing k with
  | zero => simp [Cells.load]
  | succ n ih =>
    have hb : (Cells.get c k).toNat < 256 := (Cells.get c k).isLt
    have := ih (k + 1)
    rw [Cells.load, Nat.pow_succ]
    omega

/-- A home reads no more than a piece's bytes. -/
theorem homeRead_lt {s : State} {lvl : Nat} {p : Piece} (hdev : isDevLeaf p.leaf.e = false) :
    (homeRead s lvl p).2 < 256 ^ p.n := by
  unfold homeRead
  rw [if_neg (by simp [hdev])]
  split
  · exact load_lt ..
  · exact load_lt ..

/-- A translated piece has the bytes that were asked for. -/
theorem translate_n {s : State} {asid : Nat} {user : Bool} {k : Access} {va : W64} {n lvl : Nat} {hub : Bool} {p : Piece}
    (h : translate s asid user k va n lvl hub = .ok p) : p.n = n := by
  unfold translate at h
  dsimp only at h
  repeat' split at h
  all_goals cases h
  all_goals rfl

theorem agentPlace_n {s : State} {asid : Nat} {k : Access} {va : W64} {n : Nat} {hub : Bool} {p : Piece}
    (h : agentPlace s asid k va n hub = .ok p) : p.n = n := by
  unfold agentPlace at h
  split at h
  · cases h
  · exact translate_n h

theorem atomAdd_u32 (a b : Nat) : atomAdd 1 a b % 2 ^ 32 = (a + b) % 2 ^ 32 := by
  simp [atomAdd, Num.arith2, Num.map2, Num.width, Num.extend, Num.fmtOf, Num.signed, Num.ofInt, Num.toInt, Num.home]
  omega

theorem minMax_u32 (larger : Bool) {a b : Nat} (ha : a < 2 ^ 32) (hb : b < 2 ^ 32) :
    Num.minMax 1 false larger a b % 2 ^ 32 = if larger then max a b else min a b := by
  simp [Num.minMax, Num.map2, Num.width, Num.extend, Num.fmtOf, Num.signed, Num.toInt]
  split <;> split <;> omega

/-- The new value of a home operation that is not an addition or a comparison by size, on the bytes of its type. -/
theorem homeValue_mod {r : HomeReq} {old n v : Nat} (hn : memBytes r.ty.toNat = n) (hv : r.val.toNat % 256 ^ n = v)
    (hold : old < 256 ^ n) :
    (r.op = .write ∨ r.op = .exch → homeValue r old % 256 ^ n = v) ∧
    (r.op = .and → homeValue r old % 256 ^ n = old &&& v) ∧ (r.op = .or → homeValue r old % 256 ^ n = old ||| v) ∧
    (r.op = .xor → homeValue r old % 256 ^ n = old ^^^ v) ∧
    (r.op = .inc → homeValue r old % 256 ^ n = if v ≤ old then 0 else old + 1) ∧
    (r.op = .cas → homeValue r old % 256 ^ n = if old = r.cmp.toNat % 256 ^ n then v else old) := by
  have hpow : 256 ^ n = 2 ^ (8 * n) := by rw [Nat.pow_mul]
  have hlt : v < 256 ^ n := hv ▸ Nat.mod_lt _ (by positivity)
  have hbits {x : Nat} (hx : x < 2 ^ (8 * n)) : x % 256 ^ n = x := Nat.mod_eq_of_lt (hpow ▸ hx)
  have hold2 := hpow ▸ hold
  have hlt2 := hpow ▸ hlt
  refine ⟨?_, fun hop => ?_, fun hop => ?_, fun hop => ?_, fun hop => ?_, fun hop => ?_⟩
  · rintro (hop | hop) <;> simp only [homeValue, hop, hn, hv] <;> exact Nat.mod_eq_of_lt hlt
  · simp only [homeValue, hop, hn, hv]
    exact hbits (Nat.and_lt_two_pow _ hlt2)
  · simp only [homeValue, hop, hn, hv]
    exact hbits (Nat.or_lt_two_pow hold2 hlt2)
  · simp only [homeValue, hop, hn, hv]
    exact hbits (Nat.xor_lt_two_pow hold2 hlt2)
  · simp only [homeValue, hop, hn, hv]
    split
    · exact Nat.zero_mod _
    · exact Nat.mod_eq_of_lt (by omega)
  · simp only [homeValue, hop, hn, hv]
    split
    · exact Nat.mod_eq_of_lt hlt
    · exact Nat.mod_eq_of_lt hold

/-- Addition and comparison by size on unsigned words. -/
theorem homeValue_u32 {r : HomeReq} {old n v : Nat} (hn : memBytes r.ty.toNat = n) (hv : r.val.toNat % 256 ^ n = v)
    (hold : old < 256 ^ n) (hty : r.ty = 1) :
    (r.op = .add → homeValue r old % 256 ^ n = (old + v) % 2 ^ 32) ∧ (r.op = .min → homeValue r old % 256 ^ n = min old v) ∧
    (r.op = .max → homeValue r old % 256 ^ n = max old v) := by
  have hone : r.ty.toNat = 1 := by rw [hty]; rfl
  obtain rfl : n = 4 := by rw [← hn, hone]; rfl
  have hv1 : r.val.toNat % 256 ^ memBytes 1 = v := hv
  have hlt : v < 2 ^ 32 := hv ▸ Nat.mod_lt _ (by decide)
  refine ⟨fun hop => ?_, fun hop => ?_, fun hop => ?_⟩
  · simp only [homeValue, hop, hone, hv1]
    exact atomAdd_u32 old v
  · simp only [homeValue, hop, hone, hv1]
    exact minMax_u32 false hold hlt
  · simp only [homeValue, hop, hone, hv1]
    exact minMax_u32 true hold hlt

/-! ### The collector (02 R64 to R66) -/

/-- The elements of an operation of a core's collector that are in these groups have left. -/
def markSent (core : Nat) (keys : List (Nat × Nat)) (c : Coll) : Coll :=
  if c.core == core then
    { c with elems := c.elems.map (fun e => if keys.contains (e.line, c.kind) then { e with sent := true } else e) }
  else c

/-- Only the collector's operations and commits on the agenda have changed: the operations by `f`. -/
structure Sent (f : Coll → Coll) (s t : State) : Prop where
  frame : t = { s with colls := t.colls, agenda := t.agenda }
  colls : t.colls = s.colls.map f
  agenda : ∃ l, t.agenda = s.agenda ++ l ∧ ∀ e ∈ l, e.1 = .collectorCommit

theorem Sent.refl {f : Coll → Coll} (hf : ∀ c, f c = c) (s : State) : Sent f s s where
  frame := rfl
  colls := by rw [show f = id from funext hf, List.map_id]
  agenda := ⟨[], by simp, by simp⟩

theorem Sent.trans {f g : Coll → Coll} {s t u : State} (h : Sent f s t) (k : Sent g t u) : Sent (g ∘ f) s u := by
  obtain ⟨l, hl, hcommit⟩ := h.agenda
  obtain ⟨l', hl', hcommit'⟩ := k.agenda
  refine ⟨k.frame.trans (by rw [h.frame]), ?_, l ++ l', ?_, fun e he => (List.mem_append.mp he).elim (hcommit e) (hcommit' e)⟩
  · rw [k.colls, h.colls, List.map_map]
  · rw [hl', hl, List.append_assoc]

/-- Groups that leave mark their elements and put commits on the agenda. -/
theorem sendKeys_sent (core : Nat) (keys : List (Nat × Nat)) (s : State) : Sent (markSent core keys) s (sendKeys core keys s) := by
  have hpush (cs : List Coll) (u : State) : cs.foldl (fun s c => push .collectorCommit (.unit c.id) s) u =
      { u with agenda := u.agenda ++ cs.map (fun c => (.collectorCommit, .unit c.id)) } := by
    induction cs generalizing u with
    | nil => simp
    | cons c cs ih => rw [List.foldl_cons, ih]; simp [push]
  unfold sendKeys
  dsimp only
  rw [hpush]
  refine ⟨rfl, rfl, _, rfl, fun e he => ?_⟩
  obtain ⟨c, _, rfl⟩ := List.mem_map.mp he
  rfl

/-- What the groups of several operations mark, one operation's groups after the other's. -/
def markAll (cs : List Coll) (c : Coll) : Coll := cs.foldl (fun c x => markSent x.core x.groups c) c

theorem sendGroups_sent (p : Coll → Bool) (s : State) : Sent (markAll (s.colls.filter p)) s (sendGroups p s) := by
  unfold sendGroups
  generalize s.colls.filter p = cs
  induction cs generalizing s with
  | nil => exact .refl (fun _ => rfl) s
  | cons c cs ih =>
    rw [List.foldl_cons]
    exact (sendKeys_sent c.core c.groups s).trans (ih _)

/-- An operation's fields other than its elements stay. -/
theorem markSent_fields (core : Nat) (keys : List (Nat × Nat)) (c : Coll) :
    (markSent core keys c).core = c.core ∧ (markSent core keys c).id = c.id ∧ (markSent core keys c).kind = c.kind := by
  unfold markSent
  split <;> exact ⟨rfl, rfl, rfl⟩

/-- Every element that has not left is in one of these groups. -/
def Coll.within (c : Coll) (keys : List (Nat × Nat)) : Prop := ∀ e ∈ c.elems, e.sent = true ∨ (e.line, c.kind) ∈ keys

theorem within_markSent {c : Coll} {keys : List (Nat × Nat)} (h : c.within keys) (core : Nat) (ks : List (Nat × Nat)) :
    (markSent core ks c).within keys := by
  unfold markSent
  split
  · rintro e he
    obtain ⟨e', he', rfl⟩ := List.mem_map.mp he
    split
    · exact .inl rfl
    · exact h e' he'
  · exact h

/-- The groups of an operation hold every element of it that has not left. -/
theorem within_groups (c : Coll) : c.within c.groups := by
  intro e he
  cases hs : e.sent with
  | true => exact .inl rfl
  | false =>
    refine .inr (List.mem_eraseDups.mpr (List.mem_map.mpr ⟨e, List.mem_filter.mpr ⟨he, by simp [hs]⟩, rfl⟩))

/-- Where an operation's own groups leave, all its elements have left. -/
theorem markSent_within {c : Coll} {keys : List (Nat × Nat)} (h : c.within keys) : (markSent c.core keys c).within [] := by
  unfold markSent
  rw [if_pos (by simp)]
  rintro e he
  obtain ⟨e', he', rfl⟩ := List.mem_map.mp he
  split
  · exact .inl rfl
  · rename_i hk
    exact .inl ((h e' he').resolve_right (by simpa using hk))

/-- Once its groups have left, and whatever else leaves, all elements of an operation have left. -/
theorem markAll_within {cs : List Coll} {c c₀ : Coll} (h₀ : c₀ ∈ cs) (hcore : c.core = c₀.core) (h : c.within c₀.groups) :
    (markAll cs c).within [] := by
  unfold markAll
  induction cs generalizing c with
  | nil => cases h₀
  | cons x cs ih =>
    have hkeep (d : Coll) (hd : d.within []) : (cs.foldl (fun c x => markSent x.core x.groups c) d).within [] :=
      List.foldlRecOn (motive := fun (c : Coll) => c.within []) _ _ hd fun c hc y _ => within_markSent hc y.core y.groups
    rw [List.foldl_cons]
    rcases List.mem_cons.mp h₀ with rfl | h₀
    · exact hkeep _ (hcore ▸ markSent_within h)
    · exact ih h₀ ((markSent_fields ..).1.trans hcore) (within_markSent h x.core x.groups)

/-- Marking elements as sent changes nothing else of an operation. -/
theorem markSent_unsent (core : Nat) (keys : List (Nat × Nat)) (c : Coll) :
    Claims.unsent (markSent core keys c) = Claims.unsent c := by
  unfold markSent Claims.unsent
  split
  · simp only [List.map_map]
    congr 1
    refine List.map_congr_left fun e _ => ?_
    dsimp only [Function.comp_apply]
    split <;> rfl
  · rfl

theorem markAll_fields (cs : List Coll) (c : Coll) :
    (markAll cs c).id = c.id ∧ Claims.unsent (markAll cs c) = Claims.unsent c :=
  List.foldlRecOn (motive := fun (d : Coll) => d.id = c.id ∧ Claims.unsent d = Claims.unsent c) _ _ ⟨rfl, rfl⟩
    fun d h x _ => ⟨(markSent_fields x.core x.groups d).2.1.trans h.1, (markSent_unsent x.core x.groups d).trans h.2⟩

/-- Does a landing stay in flight while parts of its operation do, when the lanes `m` complete? -/
def Landing.stays (m : Lanes) : Landing → Bool
  | .lane k _ => !m.getLsbD (k % 32)
  | .scalar _ _ => true
  | .pred _ l _ => !m.getLsbD l

theorem landsLater_eq {p : Pend} {m : Lanes} (hrest : p.lanes &&& ~~~m ≠ 0) :
    landsLater p m = p.lands.filter (Landing.stays m) := by
  refine List.filter_congr fun x _ => ?_
  cases x with
  | lane k v => rfl
  | scalar n v => exact bne_iff_ne.mpr hrest
  | pred q l b => rfl

/-! ### What a completed part leaves in the registers -/

theorem get_completeLanes_v {s : State} {id : Nat} {m : Lanes} {p : Pend} (hp : s.w.pend.find? (fun q => q.id == id) = some p)
    (hexps : s.w.exps = []) (k : Nat) :
    Cells.get (completeLanes s id m).w.v k =
      if m.getLsbD (k % 32) = true ∧ s.w.exited.getLsbD (k % 32) = false
      then (newest (Landing.laneAt k) p.lands).getD (Cells.get s.w.v k) else Cells.get s.w.v k := by
  rw [(completeLanes_lands hp).1]
  refine (foldl_land_newest (g := fun t => Cells.get t.w.v k)
    (f := fun x => if s.w.exited.getLsbD (k % 32) then none else x.laneAt k) hexps
    (fun x _ t ht he => he ▸ get_land_v k x ht)).1.trans ?_
  cases hx : s.w.exited.getLsbD (k % 32) with
  | true =>
    refine (congrArg (Option.getD · _) (newest_eq_none fun _ _ => rfl)).trans ?_
    simp
  | false =>
    refine (congrArg (Option.getD · _) (newest_landsNow_laneAt p m k)).trans ?_
    split <;> simp_all

theorem get_completeLanes_s {s : State} {id : Nat} {m : Lanes} {p : Pend} (hp : s.w.pend.find? (fun q => q.id == id) = some p)
    (hexps : s.w.exps = []) (n : Nat) :
    Cells.get (completeLanes s id m).w.s n = if p.lanes &&& ~~~m = 0 ∧ n ≠ 0
      then (newest (Landing.scalarAt n) p.lands).getD (Cells.get s.w.s n) else Cells.get s.w.s n := by
  rw [(completeLanes_lands hp).2.1]
  by_cases hn : n = 0
  · subst hn
    refine (foldl_land_newest (g := fun t => Cells.get t.w.s 0) (f := fun _ => none) hexps
      (fun x _ t ht _ => ?_)).1.trans ?_
    · exact get_land_s_zero x ht
    · rw [newest_eq_none (fun _ _ => rfl)]
      simp
  · refine (foldl_land_newest (g := fun t => Cells.get t.w.s n) (f := Landing.scalarAt n) hexps
      (fun x _ t ht _ => get_land_s hn x ht)).1.trans ?_
    rw [newest_landsNow_scalarAt]
    split <;> simp_all

theorem get_completeLanes_p {s : State} {id : Nat} {m : Lanes} {p : Pend} (hp : s.w.pend.find? (fun q => q.id == id) = some p)
    (hexps : s.w.exps = []) (q l : Nat) :
    (Cells.get (completeLanes s id m).w.p q).getLsbD l =
      if q ≠ 0 ∧ m.getLsbD l = true ∧ s.w.exited.getLsbD l = false
      then (newest (Landing.predAt q l) p.lands).getD ((Cells.get s.w.p q).getLsbD l) else (Cells.get s.w.p q).getLsbD l := by
  have hlane (x : Landing) (hx : x ∈ landsNow p m) (r i : Nat) (b : Bool) (h : x = .pred r i b) : i < 32 := by
    subst h
    have hm : m.getLsbD i = true := (List.mem_filter.mp hx).2
    exact BitVec.lt_of_getLsbD hm
  rw [(completeLanes_lands hp).2.2.1]
  refine (foldl_land_newest (g := fun t => (Cells.get t.w.p q).getLsbD l)
    (f := fun x => if q = 0 ∨ s.w.exited.getLsbD l then none else x.predAt q l) hexps
    (fun x hx t ht he => he ▸ get_land_p x ht (hlane x hx))).1.trans ?_
  by_cases hout : q = 0 ∨ s.w.exited.getLsbD l = true
  · simp only [if_pos hout]
    rw [newest_eq_none (fun _ _ => rfl), if_neg fun ⟨hq, _, he⟩ => hout.elim hq (by simp [he])]
    rfl
  · simp only [if_neg hout]
    rw [newest_landsNow_predAt]
    split <;> simp_all

end Sys2Proof.Machine

namespace Sys2Proof.Proofs
open Sys2Proof.Machine hiding Ready
open Sys2Proof.Claims

theorem landedLane_eq (l : List Landing) (k : Nat) : landedLane l k = newest (Landing.laneAt k) l := by
  unfold landedLane newest
  congr 1
  funext a x
  cases x with
  | lane k' v => by_cases hk : k' = k <;> simp [Landing.laneAt, hk]
  | scalar n v => rfl
  | pred p i b => rfl

theorem landedScalar_eq (l : List Landing) (n : Nat) : landedScalar l n = newest (Landing.scalarAt n) l := by
  unfold landedScalar newest
  congr 1
  funext a x
  cases x with
  | lane k v => rfl
  | scalar m v => by_cases hm : m = n <;> simp [Landing.scalarAt, hm]
  | pred p i b => rfl

theorem landedPred_eq (l : List Landing) (p i : Nat) : landedPred l p i = newest (Landing.predAt p i) l := by
  unfold landedPred newest
  congr 1
  funext a x
  cases x with
  | lane k v => rfl
  | scalar n v => rfl
  | pred q j b => by_cases hq : q = p ∧ j = i <;> simp [Landing.predAt, hq]

/-- An event that lands parts of an operation completes them. -/
theorem exec_lands {s : State} {e : Instr} {b w id : Nat} {m : Lanes} {p : Pend}
    (h : landsLanes s e p.unit = some (b, w, id, m))
    (hp : (focusWarp s b w).w.pend.find? (fun q => q.id == id) = some p) :
    exec e s = .next (completeLanes (focusWarp s b w) id m) := by
  have hmem := List.mem_of_find?_eq_some hp
  have hid : p.id = id := by simpa using List.find?_some hp
  have hland (us : List PendUnit) (hu : us.contains p.unit = true) :
      partsLand b w id m us s = completeLanes (focusWarp s b w) id m := by
    unfold partsLand
    dsimp only
    rw [if_pos]
    exact List.any_eq_true.mpr ⟨p, hmem, by simpa [hid] using hu⟩
  unfold landsLanes at h
  split at h
  · rename_i harg
    split at h
    · rename_i hu
      cases h
      have harm : exec .memoryReply s = execMemoryReply s := rfl
      rw [harm, execMemoryReply, harg]
      exact congrArg _ (hland _ (by simpa using hu))
    · cases h
  · rename_i harg
    split at h
    · rename_i hu
      cases h
      have harm : exec .quarterOperationCompletion s = execQuarterOperationCompletion s := rfl
      rw [harm, execQuarterOperationCompletion, harg]
      exact congrArg _ (hland _ (by simpa using hu))
    · cases h
  · rename_i harg
    split at h
    · rename_i hu
      cases h
      have harm : exec .longLatencyResult s = execLongLatencyResult s := rfl
      rw [harm, execLongLatencyResult, harg]
      exact congrArg _ (hland _ (by simpa using hu))
    · cases h
  · cases h

/-- What an event that lands parts of an operation of a warp with no exports leaves. -/
theorem exec_lands_registers {s u : State} {e : Instr} {b w id : Nat} {m : Lanes} {p : Pend}
    (h : landsLanes s e p.unit = some (b, w, id, m)) (hu : focusWarp s b w = u)
    (hp : u.w.pend.find? (fun q => q.id == id) = some p) (hexps : u.w.exps = []) :
    ∃ t, exec e s = .next t ∧
      t = { u with w := { u.w with v := t.w.v, s := t.w.s, p := t.w.p, lastRead := t.w.lastRead, pend := t.w.pend } } ∧
      t.w.pend = (if p.lanes &&& ~~~m = 0 then u.w.pend.filter (fun q => q.id != id)
        else u.w.pend.map (fun q => if q.id == id then
          { q with lanes := p.lanes &&& ~~~m, lands := landsLater p m
                   owes := q.owes.filter (fun k => !m.getLsbD (k % 32)), reads := q.reads.filter (fun r => !m.getLsbD r.1) }
          else q)) ∧
      (∀ k, k ∈ t.w.lastRead → k ∈ u.w.lastRead ∨ (p.lanes &&& ~~~m = 0 ∧ k ∈ p.marks)) ∧
      (p.lanes &&& ~~~m = 0 → ∀ k ∈ p.marks, k ∈ t.w.lastRead) ∧
      (∀ k, Cells.get t.w.v k = if m.getLsbD (k % 32) = true ∧ u.w.exited.getLsbD (k % 32) = false
        then (landedLane p.lands k).getD (Cells.get u.w.v k) else Cells.get u.w.v k) ∧
      (∀ n, Cells.get t.w.s n = if p.lanes &&& ~~~m = 0 ∧ n ≠ 0
        then (landedScalar p.lands n).getD (Cells.get u.w.s n) else Cells.get u.w.s n) ∧
      ∀ q l, l < 32 → (Cells.get t.w.p q).getLsbD l =
        if q ≠ 0 ∧ m.getLsbD l = true ∧ u.w.exited.getLsbD l = false
        then (landedPred p.lands q l).getD ((Cells.get u.w.p q).getLsbD l) else (Cells.get u.w.p q).getLsbD l := by
  subst hu
  have harm := exec_lands h hp
  revert hp hexps harm
  generalize focusWarp s b w = u
  intro hp hexps harm
  have hframe := completeLanes_frame u id m
  have hnone : (completeLanes u id m).w.exps = u.w.exps := by
    rw [(completeLanes_lands hp).2.2.2, (foldl_land_newest (f := fun _ => (none : Option Unit)) (g := fun _ => ()) hexps
      (fun _ _ _ _ _ => rfl)).2.1, hexps]
  have hmarks (k : Nat) (hk : k ∈ ((landsNow p m).foldl (land p.own) u).w.lastRead) : k ∈ u.w.lastRead :=
    mem_lastRead_of_foldl_land _ hexps hk
  have hpend : ((landsNow p m).foldl (land p.own) u).w.pend = u.w.pend := by rw [foldl_land_frame p.own (landsNow p m) u]
  simp only [landedLane_eq, landedScalar_eq, landedPred_eq]
  refine ⟨_, harm, ?_, ?_, ?_, ?_, get_completeLanes_v hp hexps, get_completeLanes_s hp hexps,
    fun q l _ => get_completeLanes_p hp hexps q l⟩
  · dsimp only at hframe
    rw [hnone] at hframe
    exact hframe
  · split
    · rename_i hrest
      rw [completeLanes_last hp hrest, ← hpend]
      rfl
    · rename_i hrest
      rw [completeLanes_some hp hrest, ← hpend]
      rfl
  · intro k hk
    by_cases hrest : p.lanes &&& ~~~m = 0
    · rw [completeLanes_last hp hrest] at hk
      exact ((mem_markRead _ _ k).mp hk).imp (hmarks k) (⟨hrest, ·⟩)
    · rw [completeLanes_some hp hrest] at hk
      exact .inl (hmarks k hk)
  · intro hrest k hk
    rw [completeLanes_last hp hrest]
    exact (mem_markRead _ _ k).mpr (.inr hk)

/-! ### Walks and homes -/

theorem exec_translationWalk_keeps {s : State} {asid : Nat} {va : W64} {l : Leaf} (harg : s.arg = .walk asid va)
    (hw : walk s asid va = .ok l) :
    ∃ t, exec .translationWalk s = .next t ∧ t = { s with tlb := t.tlb, wcache := t.wcache } ∧
      ∃ x ∈ t.tlb, x.asid = effAsid asid (vaOf va) ∧ x.size = l.size ∧ x.page = vaOf va / l.size ∧
        x.leaf = BitVec.ofNat 64 l.e := by
  have harm : exec .translationWalk s = .next (tlbKeep s asid va l) := by
    have : exec .translationWalk s = execTranslationWalk s := rfl
    rw [this, execTranslationWalk, harg]
    dsimp only
    rw [hw]
  exact ⟨_, harm, rfl, _, mem_tlbPut .., rfl, rfl, rfl, rfl⟩

theorem tlbKeep_frame (s : State) (asid : Nat) (va : W64) (l : Leaf) (hub : Bool) :
    tlbKeep s asid va l hub = { s with tlb := (tlbKeep s asid va l hub).tlb, wcache := (tlbKeep s asid va l hub).wcache } := rfl

/-- Keeping translations and then a step of memory leave everything else. -/
theorem onlyMemory_keepTlb_read {u h : State} {p : Piece} {old : Nat}
    (hread : homeRead (keepTlb u (.mem 1 [p])) 1 p = (h, old)) : OnlyMemory u h := by
  have hstep : HomeStep (keepTlb u (.mem 1 [p])) h := by
    have := homeRead_home (keepTlb u (.mem 1 [p])) 1 p
    rwa [hread] at this
  have hkeep : keepTlb u (.mem 1 [p]) = { u with
      tlb := (keepTlb u (.mem 1 [p])).tlb, wcache := (keepTlb u (.mem 1 [p])).wcache } := by
    unfold keepTlb
    dsimp only
    cases hhit : p.hit <;> simp [hhit, tlbKeep]
  unfold OnlyMemory
  rw [hstep.frame, hkeep]

/-- The plain memory that a home request names: it is performed there. -/
theorem atHome_memory {r : HomeReq} {u h : State} {p : Piece} {old : Nat} (hreply : r.reply = none)
    (hplace : agentPlace u r.asid (homeAccess r.op) r.va (memBytes r.ty.toNat) false = .ok p) (hdev : isDevLeaf p.leaf.e = false)
    (hheld : rangeHeld u p.asid r.va = false) (hheader : r.op ≠ .read → headerHit u p = false)
    (hread : homeRead (keepTlb u (.mem 1 [p])) 1 p = (h, old)) :
    atHome r u = if r.op = .read then h else homeWrite h 1 p (homeValue r old % 256 ^ memBytes r.ty.toNat) := by
  have hnoheader : (r.op != .read && headerHit u p) = false := by
    by_cases hop : r.op = .read
    · simp [hop]
    · simp [hheader hop]
  unfold atHome
  dsimp only
  rw [hplace]
  dsimp only
  rw [hheld, hdev, hnoheader, hread]
  simp [homeAnswer, hreply]

theorem exec_homeSliceRequest_memory {s u h : State} {r : HomeReq} {p : Piece} {n v old : Nat} (harg : s.arg = .home r)
    (hu : unfocus s = u) (hn : memBytes r.ty.toNat = n) (hv : r.val.toNat % 256 ^ n = v) (hreply : r.reply = none)
    (hplace : agentPlace u r.asid (homeAccess r.op) r.va n false = .ok p) (hdev : isDevLeaf p.leaf.e = false)
    (hheld : rangeHeld u p.asid r.va = false) (hheader : r.op ≠ .read → headerHit u p = false)
    (hread : homeRead (keepTlb u (.mem 1 [p])) 1 p = (h, old)) :
    OnlyMemory u h ∧
      (r.op = .read → exec .homeSliceRequest s = .next h) ∧
      (r.op ≠ .read → ∃ new, exec .homeSliceRequest s = .next (homeWrite h 1 p new) ∧
        (r.op = .write ∨ r.op = .exch → new = v) ∧ (r.op = .and → new = old &&& v) ∧ (r.op = .or → new = old ||| v) ∧
        (r.op = .xor → new = old ^^^ v) ∧ (r.op = .inc → new = if v ≤ old then 0 else old + 1) ∧
        (r.op = .cas → new = if old = r.cmp.toNat % 256 ^ n then v else old) ∧
        (r.op = .add → r.ty = 1 → new = (old + v) % 2 ^ 32) ∧ (r.op = .min → r.ty = 1 → new = min old v) ∧
        (r.op = .max → r.ty = 1 → new = max old v)) := by
  have harm : exec .homeSliceRequest s = .next (atHome r u) := by
    have : exec .homeSliceRequest s = execHomeSliceRequest s := rfl
    rw [this, execHomeSliceRequest, harg, ← hu]
  have hold : old < 256 ^ n := by
    have := homeRead_lt (s := keepTlb u (.mem 1 [p])) (lvl := 1) hdev
    rwa [hread, agentPlace_n hplace] at this
  rw [harm, atHome_memory hreply (hn ▸ hplace) hdev hheld hheader hread, hn]
  refine ⟨onlyMemory_keepTlb_read hread, fun hop => by rw [if_pos hop], fun hop => ⟨_, by rw [if_neg hop], ?_⟩⟩
  obtain ⟨hwrite, hand, hor, hxor, hinc, hcas⟩ := homeValue_mod hn hv hold
  exact ⟨hwrite, hand, hor, hxor, hinc, hcas, fun hop hty => (homeValue_u32 hn hv hold hty).1 hop,
    fun hop hty => (homeValue_u32 hn hv hold hty).2.1 hop, fun hop hty => (homeValue_u32 hn hv hold hty).2.2 hop⟩

/-! ### The collector -/

theorem exec_mergeWindowExpiry_sends {s : State} {id : Nat} (harg : s.arg = .unit id) :
    ∃ t, exec .mergeWindowExpiry s = .next t ∧ OnlyCollector s t ∧ ∀ c ∈ t.colls, c.id = id → ∀ e ∈ c.elems, e.sent = true := by
  have hsent := sendGroups_sent (fun c => c.id == id) s
  have harm : exec .mergeWindowExpiry s = .next (sendGroups (fun c => c.id == id) s) := by
    have : exec .mergeWindowExpiry s = execMergeWindowExpiry s := rfl
    rw [this, execMergeWindowExpiry, harg]
  refine ⟨_, harm, ⟨hsent.frame, ?_, hsent.agenda⟩, fun c hc hid e he => ?_⟩
  · rw [hsent.colls, List.map_map]
    exact List.map_congr_left fun c _ => (markAll_fields _ c).2
  · rw [hsent.colls] at hc
    obtain ⟨c₀, hc₀, rfl⟩ := List.mem_map.mp hc
    have hid₀ : c₀.id = id := (markAll_fields _ c₀).1.symm.trans hid
    have hin : c₀ ∈ s.colls.filter (fun c => c.id == id) := List.mem_filter.mpr ⟨hc₀, by simpa using hid₀⟩
    exact (markAll_within hin rfl (within_groups c₀) e he).resolve_right (by simp)

theorem onlyMemory_refl (s : State) : OnlyMemory s s := rfl

theorem onlyMemory_trans {s t u : State} (h : OnlyMemory s t) (k : OnlyMemory t u) : OnlyMemory s u := by
  unfold OnlyMemory at *
  rw [k, h]

theorem onlyMemory_of_placeStep {s t : State} (h : PlaceStep s t) : OnlyMemory s t := by
  unfold OnlyMemory
  rw [h.frame]

theorem learnHome_onlyMemory (s : State) (q : Piece) : OnlyMemory s (learnHome s q) := by
  unfold learnHome
  split
  · exact onlyMemory_refl s
  · rfl

/-- What an access learns is kept in the TLBs, the walk caches and the cores' buffers. -/
theorem keepLeaves_onlyMemory (s : State) (p : Place) : OnlyMemory s (keepLeaves s p) := by
  cases p with
  | win o => exact onlyMemory_refl s
  | dev o => exact onlyMemory_refl s
  | mem lvl ps =>
    have htlb : OnlyMemory s (keepTlb s (.mem lvl ps)) :=
      List.foldlRecOn (motive := fun t => OnlyMemory s t) _ _ (onlyMemory_refl s) fun t h q _ =>
        onlyMemory_trans h (tlbKeep_frame t (asidOf t) q.va q.leaf false)
    exact List.foldlRecOn (motive := fun t => OnlyMemory s t) _ _ htlb fun t h q _ =>
      onlyMemory_trans h (learnHome_onlyMemory t q)

theorem commitElem_onlyMemory (c : Coll) (e : Elem) (p : Place) (s : State) : OnlyMemory s (commitElem c e p s).1 := by
  unfold commitElem
  dsimp only
  split
  · exact onlyMemory_trans (keepLeaves_onlyMemory s p) (onlyMemory_of_homeStep (loadAt_home ..))
  · split
    · dsimp only
      exact onlyMemory_trans (keepLeaves_onlyMemory s _) (onlyMemory_of_placeStep (storeThrough_place ..))
    · exact onlyMemory_trans (keepLeaves_onlyMemory s p) (onlyMemory_of_placeStep (rmwAt_place ..))

theorem commitElems_onlyMemory (c : Coll) (l : List (Elem × Place)) (s : State) : OnlyMemory s (commitElems c l s).1 := by
  induction l generalizing s with
  | nil => exact onlyMemory_refl s
  | cons y l ih => exact onlyMemory_trans (commitElem_onlyMemory c y.1 y.2 s) (ih _)

/-- The replies of committed elements, one for each line. -/
def lineReplies (c : Coll) (es : List Elem) : List (Instr × EvArg) :=
  ((es.map Elem.line).eraseDups).map fun la =>
    (.memoryReply, .lanes c.blk c.wp c.id ((es.filter (fun e => e.line == la)).foldl (fun (n : Lanes) e => n ||| e.grp) 0))

theorem lineReplies_fst (c : Coll) (es : List Elem) :
    (lineReplies c es).map Prod.fst = List.replicate ((es.map Elem.line).eraseDups).length .memoryReply := by
  rw [lineReplies, List.map_map]
  exact List.map_const' ..

/-- Results of committed elements are in flight, one reply due for each line. -/
theorem replies_eq (c : Coll) (es : List Elem) (lands : List Landing) (s : State) :
    replies c es lands s = { s with
      agenda := s.agenda ++ lineReplies c es
      w := { s.w with pend := s.w.pend.map (fun p => if p.id = c.id then { p with lands := p.lands ++ lands } else p) } } := by
  have hpush (g : Nat → Lanes) (ls : List Nat) (u : State) :
      ls.foldl (fun s la => push .memoryReply (.lanes c.blk c.wp c.id (g la)) s) u =
        { u with agenda := u.agenda ++ ls.map (fun la => (.memoryReply, .lanes c.blk c.wp c.id (g la))) } := by
    induction ls generalizing u with
    | nil => simp
    | cons la ls ih => rw [List.foldl_cons, ih]; simp [push]
  refine (hpush _ _ _).trans ?_
  simp only [updPend, beq_iff_eq]
  rfl

/-- Elements whose places are all found are committed together. -/
theorem commitColl_all {c : Coll} {u : State} {ps : List (Elem × Place)} (hbehind : behind u c = false)
    (hps : ps.map Prod.fst = c.elems) (hplaces : ∀ y ∈ ps, elemPlace u c y.1 = .ok y.2) (hlanes : ∀ e ∈ c.elems, e.lane < 32)
    (hheld : ∀ y ∈ ps, fillHeld u y.2 (memBytes c.ty.toNat) = false) :
    commitColl c u = retireColl c (replies c ((if c.kind = 2 then combineElems c.ty.toNat ps else ps).map Prod.fst)
      (commitElems c (if c.kind = 2 then combineElems c.ty.toNat ps else ps) u).2
      (commitElems c (if c.kind = 2 then combineElems c.ty.toNat ps else ps) u).1) := by
  have hrs : c.elems.map (fun e => (e, elemPlace u c e)) = ps.map (fun y => (y.1, Except.ok y.2)) := by
    rw [← hps, List.map_map]
    exact List.map_congr_left fun y hy => by simp [hplaces y hy]
  have hlane (y : Elem × Place) (hy : y ∈ ps) : y.1.lane < 32 := hlanes _ (hps ▸ List.mem_map_of_mem hy)
  unfold commitColl
  rw [hrs]
  have hnone : ps.filterMap (fun _ => (none : Option (Elem × MFault))) = [] := by simp
  have hgood : ps.filterMap (fun x => if x.1.lane < 32 then some (x.1, x.2) else none) = ps := by
    refine (List.filterMap_congr fun y hy => ?_).trans List.filterMap_some
    rw [if_pos (hlane y hy)]
  have hfree : ps.any (fun x => fillHeld u x.2 (memBytes c.ty.toNat)) = false := by simpa using hheld
  simp only [List.filterMap_map, Function.comp_def, hnone, List.filter_nil, List.map_nil, List.headD_nil, hgood, hbehind, hfree]
  rfl

theorem retireColl_replies {x : State} {c : Coll} {lands : List Landing} (es : List Elem) :
    ∃ t, retireColl c (replies c es lands x) = t ∧ t = { x with
        colls := x.colls.filter (fun k => k.id != c.id), agenda := t.agenda
        w := { x.w with lastRead := t.w.lastRead,
                        pend := x.w.pend.map (fun p => if p.id = c.id then { p with lands := p.lands ++ lands } else p) } } ∧
      t.agenda.map Prod.fst = x.agenda.map Prod.fst ++ List.replicate ((es.map Elem.line).eraseDups).length .memoryReply := by
  refine ⟨_, rfl, ?_, ?_⟩
  · rw [replies_eq]
    rfl
  · rw [replies_eq, ← lineReplies_fst c es, ← List.map_append]
    rfl

theorem exec_collectorCommit_commits {s x u : State} {c : Coll} {ps qs : List (Elem × Place)} {lands : List Landing}
    (harg : s.arg = .unit c.id) (hc : s.colls.find? (fun k => k.id == c.id) = some c) (hrun : c.stopped = false)
    (hu : focusWarp s c.blk c.wp = u) (hlaunched : u.w.launched ≠ 0) (hbehind : behind u c = false)
    (hps : ps.map Prod.fst = c.elems) (hplaces : ∀ y ∈ ps, elemPlace u c y.1 = .ok y.2) (hlanes : ∀ e ∈ c.elems, e.lane < 32)
    (hheld : ∀ y ∈ ps, fillHeld u y.2 (memBytes c.ty.toNat) = false)
    (hqs : (if c.kind = 2 then combineElems c.ty.toNat ps else ps) = qs) (hcommit : commitElems c qs u = (x, lands)) :
    exec .collectorCommit s = .next (retireColl c (replies c (qs.map Prod.fst) lands x)) := by
  have harm : exec .collectorCommit s = execCollectorCommit s := rfl
  rw [harm, execCollectorCommit, harg]
  dsimp only
  rw [hc]
  dsimp only
  rw [hrun, hu, if_neg (by simp), if_neg hlaunched, commitColl_all hbehind hps hplaces hlanes hheld, hqs, hcommit]

/-- Settles O54, event by event. -/
theorem resultsLand : Obligations.ResultsLand := by
  unfold Obligations.ResultsLand
  refine ⟨fun s e b w id m p h => fun hp hexps => ?_, fun s asid va l harg hw => exec_translationWalk_keeps harg hw, ?_,
    fun s id harg => exec_mergeWindowExpiry_sends harg, ?_⟩
  · obtain ⟨t, harm, hframe, hpend, hmarks⟩ := exec_lands_registers h rfl hp hexps
    refine ⟨t, harm, hframe, hpend.trans ?_, hmarks⟩
    split
    · rfl
    · rename_i hrest
      rw [landsLater_eq hrest]
      rfl
  · intro s r p harg hreply _ u n v hplace hdev hheld hheader h old hread
    exact exec_homeSliceRequest_memory harg rfl rfl rfl hreply hplace hdev hheld hheader hread
  · intro s x c ps lands harg hc hrun u hlaunched hbehind hps hplaces hlanes hheld hcommit
    have hx : OnlyMemory u x := by
      have := commitElems_onlyMemory c (if c.kind = 2 then combineElems c.ty.toNat ps else ps) u
      rwa [hcommit] at this
    obtain ⟨t, ht, hframe, hagenda⟩ := retireColl_replies (x := x) (c := c) (lands := lands)
      ((if c.kind = 2 then combineElems c.ty.toNat ps else ps).map Prod.fst)
    exact ⟨hx, t, _, (exec_collectorCommit_commits harg hc hrun rfl hlaunched hbehind hps hplaces hlanes hheld rfl hcommit).trans
      (congrArg _ ht), rfl, hframe, hagenda⟩

end Sys2Proof.Proofs

/-!
SUPPORT. Lane accesses of which some lanes fault: every lane memory instruction as the access of its form, the lanes that are
performed, and the delivery of the fault for the part that waits.
-/
namespace Sys2Proof.Machine

/-! ### What the fragment's hold does not touch -/

theorem privPieces_unheld (s : State) (user : Bool) (k : Access) (lvl l : Nat) (g : W64) (ps : List (Nat × Nat)) :
    privPieces (unheld s) user k lvl l g ps = privPieces s user k lvl l g ps := by
  induction ps with
  | nil => rfl
  | cons p r ih =>
    unfold privPieces
    rw [ih]
    rfl

theorem resolve_unheld (s : State) (user : Bool) (k : Access) (at' : At) (g : W64) (n l : Nat) :
    resolve (unheld s) user k at' g n l = resolve s user k at' g n l := by
  unfold resolve
  dsimp only
  rw [privPieces_unheld]
  rfl

theorem laneResolve_unheld (s : State) (p : LaneMem) (g : W64) (l : Nat) : laneResolve (unheld s) p g l = laneResolve s p g l := by
  unfold laneResolve resolveGlobal
  rw [resolve_unheld, resolve_unheld]
  rfl

theorem placesOf_unheld (s : State) (p : LaneMem) (as : List (Nat × W64)) : placesOf (unheld s) p as = placesOf s p as := by
  unfold placesOf
  simp only [laneResolve_unheld]

/-! ### Lane accesses of which some lanes fault (07 R212, R213) -/

/-- The lanes whose accesses fault, with their faults. -/
def faultsAt (s : State) (p : LaneMem) (addr : Nat → W64) (ls : List Nat) : List (Nat × MFault) :=
  ls.filterMap (fun l => match laneResolve s p (addr l) l with
    | .ok _ => none
    | .error e => some (l, e))

/-- The lanes whose accesses are performed where lane `low` is the lowest that faults, with their places. -/
def placesBelow (s : State) (p : LaneMem) (addr : Nat → W64) (low : Nat) (ls : List Nat) : List (Nat × Place) :=
  ls.filterMap (fun l => match laneResolve s p (addr l) l with
    | .ok q => if p.partialCommit && decide (low < l) then none else some (l, q)
    | .error _ => none)

/-- What collects the faults of the lanes' accesses. -/
theorem filterMap_resolved {f : Nat × Except MFault Place → Option (Nat × MFault)} (hok : ∀ l q, f (l, .ok q) = none)
    (herr : ∀ l e, f (l, .error e) = some (l, e)) {s : State} {p : LaneMem} {addr : Nat → W64} {ls : List Nat} :
    (ls.map (fun l => (l, laneResolve s p (addr l) l))).filterMap f = faultsAt s p addr ls := by
  rw [List.filterMap_map, faultsAt]
  refine List.filterMap_congr fun l _ => ?_
  rw [Function.comp_apply]
  cases laneResolve s p (addr l) l with
  | ok q => exact hok l q
  | error e => exact herr l e

/-- PAGE and PROT: the codes of a translation's faults (01 R34). -/
def IsTranslationCode (c : Nat) : Prop := c = 0x06 ∨ c = 0x07

theorem goodLanes_of_faults {s : State} {p : LaneMem} {addr : Nat → W64} {x : Nat × MFault} {rest : List (Nat × MFault)}
    (hcode : IsTranslationCode x.2.code) (ls : List Nat) (hls : ∀ l ∈ ls, l < 32) :
    goodLanes p (x :: rest) (ls.map (fun l => (l, laneResolve s p (addr l) l))) = placesBelow s p addr x.1 ls := by
  have hcut : cutsOff x.2.code = true := by rcases hcode with h | h <;> rw [h] <;> rfl
  unfold goodLanes placesBelow
  rw [List.filterMap_map]
  refine List.filterMap_congr fun l hl => ?_
  have h32 := hls l hl
  dsimp only [Function.comp_apply]
  simp only [hcut, Bool.and_true]
  cases laneResolve s p (addr l) l with
  | error e => rfl
  | ok q =>
    cases p.partialCommit with
    | true => simp
    | false => simp; omega

/-- Faults of translation are delivered together. -/
theorem sameCode_of_translation {x : Nat × MFault} {rest : List (Nat × MFault)}
    (h : ∀ y ∈ x :: rest, IsTranslationCode y.2.code) : sameCode (x :: rest) = maskOf ((x :: rest).map Prod.fst) := by
  unfold sameCode
  dsimp only
  rw [List.filter_eq_self.mpr]
  intro y hy
  rcases h y hy with hy' | hy' <;> rcases h x (by simp) with hx | hx <;> simp [hx, hy']

/-- The active lanes' accesses are aligned and wait for nothing; `bad` are those that fault, of which lane `x.1` is the
lowest, and `good` those that are performed. -/
structure Parted (s : State) (p : LaneMem) (addr : Nat → W64) (good : List (Nat × Place)) (x : Nat × MFault)
    (rest : List (Nat × MFault)) : Prop where
  aligned : ∀ l ∈ lanesOf (actSet s), (addr l).toNat % p.n = 0
  faults : faultsAt s p addr (lanesOf (actSet s)) = x :: rest
  places : placesBelow s p addr x.1 (lanesOf (actSet s)) = good
  codes : ∀ y ∈ x :: rest, IsTranslationCode y.2.code
  filled : ∀ y ∈ good, fillHeld s y.2 p.n = false
  wake : p.store = true → ∀ y ∈ good, wakeHeld s y.2 p.n = false
  coll : collHeld s (lanesAt s addr) p.n = false
  order : orderHeld s (lanesAt s addr) p.n = false

/-- The accesses that are performed start an operation of their own; the rest of the instruction faults. -/
theorem laneAccess_of_parted {s : State} {p : LaneMem} {addr : Nat → W64} {good : List (Nat × Place)} {x : Nat × MFault}
    {rest : List (Nat × MFault)} (h : Parted s p addr good x rest) (i : Instr)
    (perform : State → Nat → Place → State × List Landing) (after : State → State) :
    ∃ groups reads, laneAccess i p p.n addr perform after s =
      laneFault i p (actSet s) (x :: rest) (startMemory i (after (performLanes perform good s).1)
        (laneFlag s p (actSet s)).1 (laneFlag s p (actSet s)).2 groups (performLanes perform good s).2 reads false) := by
  have hlanes : (lanesOf (actSet s)).map (fun l => (l, addr l)) = lanesAt s addr := rfl
  have hcrooked : (lanesAt s addr).filter (fun y => y.2.toNat % p.n != 0) = [] := by
    rw [lanesAt, List.filter_map, List.map_eq_nil_iff, List.filter_eq_nil_iff]
    exact fun l hl => by simp [h.aligned l hl]
  have hrs : (lanesAt s addr).map (fun y => (y.1, laneResolve s p y.2 y.1)) =
      (lanesOf (actSet s)).map (fun l => (l, laneResolve s p (addr l) l)) := by
    rw [lanesAt, List.map_map]
    rfl
  have hgood : goodLanes p (x :: rest) ((lanesOf (actSet s)).map (fun l => (l, laneResolve s p (addr l) l))) = good :=
    (goodLanes_of_faults (h.codes x (by simp)) _ fun l hl => lt_of_mem_lanesOf hl).trans h.places
  have hfill : good.any (fun y => fillHeld s y.2 p.n) = false := by simpa using h.filled
  have hwake : (p.store && good.any (fun y => wakeHeld s y.2 p.n)) = false := by
    cases hs : p.store
    · rfl
    · simpa using h.wake hs
  unfold laneAccess
  simp only [hlanes, hcrooked, hrs]
  rw [filterMap_resolved (fun _ _ => rfl) (fun _ _ => rfl), h.faults]
  simp only [hgood, hfill, hwake, h.coll, h.order]
  exact ⟨_, _, rfl⟩

/-- Starting a memory operation changes the warp's operations and what is due. -/
theorem startMemory_frame (i : Instr) (s : State) (flag : Nat) (whole : Option Lanes) (groups : List Lanes)
    (lands : List Landing) (reads : List (Nat × Nat × Nat)) (retires : Bool) :
    let t := startMemory i s flag whole groups lands reads retires
    t = { s with uid := t.uid, agenda := t.agenda, w := { s.w with pend := t.w.pend } } := by
  dsimp only
  unfold startMemory
  dsimp only
  split
  · rfl
  · rw [foldl_push_memoryReply]
    rfl

/-- A fault of translation in part of an instruction, as delivery leaves it: the handler runs in the faulting lanes, and the
hidden state holds what is to be reissued for the lanes `pending` under an operation of its own. -/
structure PartFaulted (i : Instr) (kind : BitVec 2) (pending bad : Lanes) (code : Nat) (va : W64) (s t : State) : Prop where
  frame : t = { s with f := t.f, w := t.w, uid := t.uid }
  hidden : ∃ h r, t.w.handler = some h ∧ h.pc = nextPc s.f ∧ h.mask = s.f.mask ∧ h.kind = kind ∧ h.part = .instr r ∧ r.i = i ∧
    r.pc = s.f.pc ∧ r.lanes = pending ∧ ∃ p ∈ t.w.pend, p.id = r.id ∧ p.lanes = r.lanes
  fragment : t.f.mask = bad &&& s.f.mask ∧ t.f.sup = true ∧ t.f.pc = s.w.tvec ∧ t.f.mode = 0
  trap : t.w.trapmask = bad.setWidth 64 ∧ t.w.trappc = s.f.pc ∧ t.w.trapva = va ∧
    t.w.trapcode = BitVec.ofNat 64 (kind.toNat * 256 + code)
  registers : t.w.v = s.w.v ∧ t.w.s = s.w.s ∧ t.w.p = s.w.p

/-- A fault record of translation names no route that is lost, and skips nothing. -/
theorem trapcodeOf_translation {fr : FaultRec} {code : Nat} (hcode : IsTranslationCode code) (hfr : fr.code = BitVec.ofNat 8 code)
    {r : Replay} (hpart : fr.part = .instr r) :
    fr.code.toNat ≠ 0x12 ∧ noRoute fr = false ∧ trapcodeOf fr = BitVec.ofNat 64 (fr.kind.toNat * 256 + code) := by
  rcases hcode with rfl | rfl <;> simp [hfr, hpart, noRoute, trapcodeOf, defaultSkip]

/-- A fragment that has moved past its instruction and holds an operation `p` for the part `r` takes the fault of it. -/
theorem raise_partFaulted {fr : FaultRec} {s : State} {r : Replay} {p : Pend} {code : Nat} (hcode : IsTranslationCode code)
    (hfr : fr.code = BitVec.ofNat 8 code) (hpart : fr.part = .instr r) (hkind : fr.kind ≠ 0 ∧ fr.kind ≠ 3)
    (hfrpc : fr.pc = s.f.pc) (hpc : r.pc = s.f.pc) (hid : p.id = r.id) (hlanes : p.lanes = r.lanes) (hexp : s.f.exp = none)
    (hsup : s.f.sup = false) (htvec : s.w.tvec ≠ 0) (hhandler : s.w.handler = none) (hqueue : s.w.faultq = []) :
    PartFaulted r.i fr.kind r.lanes fr.lanes code fr.va s (raise fr { s with
      f := { s.f with pc := nextPc s.f, inClause := !lastWord s.f, hold := .free, done := 0, count := 0 }
      w := { s.w with pend := s.w.pend ++ [p] }, uid := s.uid + 1 }) := by
  obtain ⟨hne, hroute, htrap⟩ := trapcodeOf_translation hcode hfr hpart
  generalize hu : ({ s with
      f := { s.f with pc := nextPc s.f, inClause := !lastWord s.f, hold := .free, done := 0, count := 0 }
      w := { s.w with pend := s.w.pend ++ [p] }, uid := s.uid + 1 } : State) = u
  have husup : u.f.sup = false := by rw [← hu]; exact hsup
  have hutvec : u.w.tvec ≠ 0 := by rw [← hu]; exact htvec
  have huexp : u.f.exp = none := by rw [← hu]; exact hexp
  have hplace : repatriateFront u = u := by rw [repatriateFront, huexp]
  have hparts : ¬((fr.kind = 0 || fr.kind = 3) = true) := by simpa using hkind
  obtain ⟨hframe, hf, hw, h, hh, hmask, -, hhpc, -, -, -, -, -, -, -, -, -, hhkind, hhpart, -⟩ :=
    deliver_runs (fr := fr) husup hutvec hroute
  rw [raise_delivers hne husup (by rw [← hu]; exact hhandler) (by rw [← hu]; exact hqueue)]
  rw [hplace] at hframe hf hw hmask hhpc
  rw [if_neg hparts] at hf
  generalize deliver fr u = t at hframe hf hw hh
  subst hu
  refine ⟨?_, ⟨h, r, hh, hhpc, hmask, hhkind, hhpart.trans hpart, rfl, hpc, rfl, p, ?_, hid, hlanes⟩, ?_, ?_, ?_⟩
  · rw [hframe]
  · rw [hw]
    simp
  · rw [hf]
    exact ⟨rfl, rfl, rfl, rfl⟩
  · rw [hw]
    exact ⟨rfl, hfrpc, rfl, htrap⟩
  · rw [hw]
    exact ⟨rfl, rfl, rfl⟩

/-- A fragment that reissues nothing takes the fault of part of an instruction: the part holds the flag under an operation. -/
theorem faultPart_delivers {i : Instr} {kind : BitVec 2} {pending bad : Lanes} {code : Nat} {va aux : W64} {n : Nat}
    {whole : Option Lanes} {s : State} (hcode : IsTranslationCode code) (hkind : kind ≠ 0 ∧ kind ≠ 3)
    (hr : s.f.replay = none) (hexp : s.f.exp = none) (hsup : s.f.sup = false) (htvec : s.w.tvec ≠ 0)
    (hhandler : s.w.handler = none) (hqueue : s.w.faultq = []) :
    PartFaulted i kind pending bad code va s (faultPart i kind pending bad code va aux (some (n, whole)) s) := by
  obtain ⟨p, hid, hlanes, -, -, -, -, hadd⟩ := addPend_frame s n whole .other pending [] 0
    (if (operands s i).fa then (regsOf (operands s i).vw).flatMap (fun r => (lanesOf pending).map (regKey r)) else [])
  obtain ⟨r, hrdef⟩ : ∃ r, r = replayOf i (BitVec.ofNat 2 (noteAt s.f s.f.pc)) pending s.uid s := ⟨_, rfl⟩
  have hpart : r.i = i ∧ r.lanes = pending ∧ r.pc = s.f.pc ∧ r.id = s.uid := by
    rw [hrdef, replayOf, hr]
    exact ⟨rfl, rfl, rfl, rfl⟩
  obtain ⟨rfl, rfl, hpc, hrid⟩ := hpart
  unfold faultPart
  rw [hr]
  dsimp only
  rw [hadd, ← hrdef, hpc]
  exact raise_partFaulted (r := r) (p := p) (fr := ⟨s.f.ent, BitVec.ofNat 8 code, kind, bad, va, aux, s.f.pc, .instr r⟩) hcode rfl
    rfl hkind rfl hpc (hid.trans hrid.symm) hlanes hexp hsup htvec hhandler hqueue

/-- The fault of a lane access whose lowest faulting lane is `x.1`: partial commit or replay in place. -/
theorem laneFault_of_translation {i : Instr} {p : LaneMem} {act : Lanes} {x : Nat × MFault} {rest : List (Nat × MFault)}
    (hcodes : ∀ y ∈ x :: rest, IsTranslationCode y.2.code) (s : State) :
    laneFault i p act (x :: rest) s = faultPart i (if p.partialCommit then 2 else 1)
      (if p.partialCommit then act &&& mkLanes (fun l => decide (x.1 ≤ l)) else maskOf ((x :: rest).map Prod.fst))
      (maskOf ((x :: rest).map Prod.fst)) x.2.code x.2.va (laneAux p.kind (if p.partialCommit then x.1 else 0) 0 x.2)
      (some (laneFlag s p act)) s := by
  have hx : cutsOff x.2.code = true ∧ partialKind x.2.code = 2 := by
    rcases hcodes x (by simp) with h | h <;> rw [h] <;> exact ⟨rfl, rfl⟩
  have hsame := sameCode_of_translation hcodes
  unfold laneFault
  simp only [hx, hsame, Bool.and_true]

end Sys2Proof.Machine

namespace Sys2Proof.Proofs
open Sys2Proof.Machine hiding Ready
open Sys2Proof.Claims

/-- The active lanes are those whose guard passes, where nothing is reissued. -/
theorem actSet_unheld {s : State} (hr : s.f.replay = none) : actSet (unheld s) = activeLanesOf s :=
  actSet_eq_activeLanesOf (s := s) hr

/-- A lane memory instruction that nothing keeps from it is the lane access of its form. -/
theorem exec_laneForm {i : Instr} {s : State} {m : LaneForm} (hm : laneForm s i = some m) (h : Ready i s)
    (hd : ReleaseDue i s) :
    exec i s = .next (laneAccess i m.acc m.acc.n m.addr m.one m.after (unheld s)) := by
  have hact := actSet_unheld (replay_of_ready h)
  unfold laneForm at hm
  dsimp only at hm
  split at hm
  case h_1 d a b =>
    cases hm
    exact exec_ld_ready h
  case h_2 d a k =>
    cases hm
    have harm : exec (.ldi d a k) s = execLdi d a k s := rfl
    rw [harm, execLdi, issue_of_ready h]
    rfl
  case h_3 d a b =>
    cases hm
    have harm : exec (.ldq d a b) s = execLdq d a b s := rfl
    rw [harm, execLdq, issue_of_ready h]
    rfl
  case h_4 d a b =>
    cases hm
    have harm : exec (.ldacq d a b) s = execLdacq d a b s := rfl
    rw [harm, execLdacq, issue_of_ready h]
    dsimp only
    rw [hact, placesOf_unheld]
    rfl
  case h_5 d a b =>
    cases hm
    have harm : exec (.ldref d a b) s = execLdref d a b s := rfl
    rw [harm, execLdref, issue_of_ready h]
    rfl
  case h_6 d a b =>
    cases hm
    exact exec_st_ready h
  case h_7 d a k =>
    cases hm
    have harm : exec (.sti d a k) s = execSti d a k s := rfl
    rw [harm, execSti, issue_of_ready h]
    rfl
  case h_8 d a b =>
    cases hm
    have harm : exec (.stq d a b) s = execStq d a b s := rfl
    rw [harm, execStq, issue_of_ready h]
    rfl
  case h_9 d a b =>
    cases hm
    have harm : exec (.strel d a b) s = execStrel d a b s := rfl
    have hdone : collected (unheld s) = true := hd (.inl ⟨d, a, b, rfl⟩)
    rw [harm, execStrel, issue_of_ready h, afterWork, if_pos hdone]
    dsimp only
    rw [hact, placesOf_unheld]
    rfl
  case h_22 => cases hm
  all_goals
    cases hm
    show issue _ _ s = _
    rw [issue_of_ready h]
    rfl

/-! ### Accesses change memory alone -/

/-- Each lane's access of a form, and what follows the last, change memory alone. -/
structure MemoryForm (m : LaneForm) : Prop where
  one : ∀ u l q, OnlyMemory u (m.one u l q).1
  after : ∀ u, OnlyMemory u (m.after u)

theorem loadForm_memory (s : State) (d : BitVec 8) (r n : Nat) (at' : At) (quad : Bool) (addr : Nat → W64)
    {after : State → State} (hafter : ∀ u, HomeStep u (after u)) : MemoryForm (loadForm s d r n at' quad addr after) :=
  ⟨fun u _ q => onlyMemory_of_homeStep (loadAt_home u q n), fun u => onlyMemory_of_homeStep (hafter u)⟩

theorem storeForm_memory (n : Nat) (at' : At) (quad : Bool) (addr : Nat → W64) (v : Nat → Nat) {first : State → State}
    (hfirst : ∀ u, HomeStep u (first u)) : MemoryForm (storeForm n at' quad addr v first) :=
  ⟨fun u l q => onlyMemory_trans (onlyMemory_of_homeStep (hfirst u)) (onlyMemory_of_placeStep (storeThrough_place _ q (v l) n)),
    onlyMemory_refl⟩

theorem atomicForm_memory (s : State) (a d : BitVec 8) (ret : Bool) (f : Nat → Nat → Nat) : MemoryForm (atomicForm s a d ret f) :=
  ⟨fun u l q => onlyMemory_of_placeStep (rmwAt_place u q _ (f l)), onlyMemory_refl⟩

theorem laneForm_memory {s : State} {i : Instr} {m : LaneForm} (hm : laneForm s i = some m) : MemoryForm m := by
  unfold laneForm at hm
  dsimp only at hm
  split at hm
  case h_1 => cases hm; exact loadForm_memory _ _ _ _ _ _ _ .refl
  case h_2 => cases hm; exact loadForm_memory _ _ _ _ _ _ _ .refl
  case h_3 => cases hm; exact loadForm_memory _ _ _ _ _ _ _ .refl
  case h_4 => cases hm; exact loadForm_memory _ _ _ _ _ _ _ (acquireAt_home _)
  case h_5 => cases hm; exact ⟨fun u _ q => onlyMemory_of_homeStep (loadAt_home u q 8), onlyMemory_refl⟩
  case h_6 => cases hm; exact storeForm_memory _ _ _ _ _ .refl
  case h_7 => cases hm; exact storeForm_memory _ _ _ _ _ .refl
  case h_8 => cases hm; exact storeForm_memory _ _ _ _ _ .refl
  case h_9 => cases hm; exact storeForm_memory _ _ _ _ _ (releaseAt_home _)
  case h_22 => cases hm
  all_goals
    cases hm
    exact atomicForm_memory ..

theorem performLanes_onlyMemory {m : LaneForm} (h : MemoryForm m) (ps : List (Nat × Place)) (s : State) :
    OnlyMemory s (performLanes m.one ps s).1 := by
  induction ps generalizing s with
  | nil => exact onlyMemory_refl s
  | cons y r ih =>
    exact onlyMemory_trans (onlyMemory_trans (h.one s y.1 y.2) (keepLeaves_onlyMemory _ y.2)) (ih _)

/-! ### The fault -/

/-- The claim's lanes, places and faults part the access of the form. -/
theorem parted_of_accesses {s : State} {m : LaneForm} {good : List (Nat × Place)} {x : Nat × MFault}
    {rest : List (Nat × MFault)} (hr : s.f.replay = none)
    (haligned : ∀ l ∈ lanesOf (activeLanesOf s), (m.addr l).toNat % m.acc.n = 0)
    (hbad : x :: rest = faultsAt s m.acc m.addr (lanesOf (activeLanesOf s)))
    (hgood : good = placesBelow s m.acc m.addr x.1 (lanesOf (activeLanesOf s)))
    (hcodes : ∀ y ∈ x :: rest, IsTranslationCode y.2.code)
    (hheld : ∀ y ∈ good, fillHeld s y.2 m.acc.n = false ∧ (m.acc.store = true → wakeHeld s y.2 m.acc.n = false))
    (hord : InOrder s (m.accesses s) m.acc.n) : Parted (unheld s) m.acc m.addr good x rest := by
  have hact := actSet_unheld hr
  have hat : lanesAt (unheld s) m.addr = m.accesses s := by rw [lanesAt, hact]; rfl
  obtain ⟨hcoll, horder⟩ := hord
  refine ⟨hact ▸ haligned, ?_, ?_, hcodes, fun y hy => (hheld y hy).1, fun hs y hy => (hheld y hy).2 hs, ?_, ?_⟩
  · rw [hact, hbad]
    unfold faultsAt
    simp only [laneResolve_unheld]
  · rw [hact, hgood]
    unfold placesBelow
    simp only [laneResolve_unheld]
  · rw [hat]
    exact hcoll
  · rw [hat]
    exact horder

/-- A lane memory instruction of which some lanes meet a fault of translation. -/
theorem exec_laneForm_faults {i : Instr} {s : State} {m : LaneForm} {good : List (Nat × Place)} {x : Nat × MFault}
    {rest : List (Nat × MFault)} (hm : laneForm s i = some m) (h : Ready i s) (hd : ReleaseDue i s) (ht : TakesFaults s)
    (hexp : s.f.exp = none) (hp : Parted (unheld s) m.acc m.addr good x rest) :
    ∃ v t, OnlyMemory (started s) (m.after (performLanes m.one good (started s)).1) ∧
      v = { m.after (performLanes m.one good (started s)).1 with
        uid := v.uid, agenda := v.agenda, w := { (m.after (performLanes m.one good (started s)).1).w with pend := v.w.pend } } ∧
      exec i s = .next t ∧ PartFaulted i (if m.acc.partialCommit then 2 else 1)
        (if m.acc.partialCommit then activeLanesOf s &&& mkLanes (fun l => decide (x.1 ≤ l))
          else maskOf ((x :: rest).map Prod.fst)) (maskOf ((x :: rest).map Prod.fst)) x.2.code x.2.va v t := by
  have hr := replay_of_ready h
  have hform := laneForm_memory hm
  obtain ⟨hsup, htvec, hhandler, hqueue⟩ := ht
  obtain ⟨groups, reads, hacc⟩ := laneAccess_of_parted hp i m.one m.after
  have harm := exec_laneForm hm h hd
  rw [hacc, laneFault_of_translation hp.codes, actSet_unheld hr] at harm
  have hmem : OnlyMemory (unheld s) (m.after (performLanes m.one good (unheld s)).1) :=
    onlyMemory_trans (performLanes_onlyMemory hform good _) (hform.after _)
  have hframe := startMemory_frame i (m.after (performLanes m.one good (unheld s)).1)
    (laneFlag (unheld s) m.acc (activeLanesOf s)).1 (laneFlag (unheld s) m.acc (activeLanesOf s)).2 groups
    (performLanes m.one good (unheld s)).2 reads false
  generalize startMemory i _ _ _ groups _ reads false = v at hframe harm
  have hv : v.f = (started s).f ∧ v.w = { s.w with pend := v.w.pend } := by
    rw [hframe, hmem]
    exact ⟨rfl, rfl⟩
  obtain ⟨hf, hw⟩ := hv
  have hkind : (if m.acc.partialCommit = true then (2 : BitVec 2) else 1) ≠ 0 ∧
      (if m.acc.partialCommit = true then (2 : BitVec 2) else 1) ≠ 3 := by split <;> decide
  refine ⟨v, _, hmem, hframe, harm, faultPart_delivers (hp.codes x (by simp)) hkind ?_ ?_ ?_ ?_ ?_ ?_⟩
  · rw [hf]; exact hr
  · rw [hf]; exact hexp
  · rw [hf]; exact hsup
  · rw [hw]; exact htvec
  · rw [hw]; exact hhandler
  · rw [hw]; exact hqueue

/-- Settles O23: the lane access is parted in the lanes that are performed and those whose fault is delivered. -/
theorem faultingLanesWait : Obligations.FaultingLanesWait := by
  unfold Obligations.FaultingLanesWait
  intro i s m good bad x hm h ht hexp hhead haligned hbad hgood hcodes hheld hord hd kind u
  obtain ⟨rest, rfl⟩ : ∃ rest, bad = x :: rest := by
    cases bad with
    | nil => cases hhead
    | cons y rest => cases hhead; exact ⟨rest, rfl⟩
  have hp := parted_of_accesses (replay_of_ready h) haligned hbad hgood hcodes hheld hord
  obtain ⟨v, t, hmem, hframe, harm, hfault⟩ := exec_laneForm_faults hm h hd ht hexp hp
  obtain ⟨hd, r, hhd, hhpc, hhmask, hhkind, hhpart, hri, hrpc, hrl, hpend⟩ := hfault.hidden
  obtain ⟨hmask, hsup, hpc, hmode⟩ := hfault.fragment
  obtain ⟨htmask, htpc, htva, htcode⟩ := hfault.trap
  obtain ⟨hv, hs, hpr⟩ := hfault.registers
  have hvf : v.f = (started s).f := by rw [hframe, hmem]
  have hvw : v.w = { s.w with pend := v.w.pend } := by rw [hframe, hmem]; rfl
  have hkind : (if m.acc.partialCommit = true then (2 : BitVec 2) else 1).toNat = kind := by
    show _ = if m.acc.partialCommit = true then 2 else 1
    split <;> rfl
  rw [hvf] at hhpc hhmask hrpc hmask htpc
  rw [hvw] at hpc hv hs hpr
  rw [hkind] at htcode
  refine ⟨t, hd, r, harm, ?_, ?_, ?_, ?_, hhd, hhpc, hhmask, hhkind ▸ hkind, hhpart, hri, hrpc, hrl, hmask, hsup, hpc, hmode,
    htmask, htpc, htva, htcode, hpend, hv, hs, hpr⟩
  all_goals rw [hfault.frame, hframe]

end Sys2Proof.Proofs

/-!
SUPPORT. Lines at their home: which bytes of memory, which L1 lines and which L2 lines a write-back, a read or a write at the
home of one line can change, and what a read after it finds.
-/
namespace Sys2Proof.Machine

/-! ### Bytes of a line -/

@[simp] theorem byteMask_getLsbD (o n j : Nat) :
    (byteMask o n).getLsbD j = (decide (j < 128) && decide (o ≤ j ∧ j < o + n)) := by
  rw [byteMask, BitVec.getLsbD_ofNat, Nat.testBit_mul_two_pow, Nat.testBit_two_pow_sub_one]
  by_cases hj : j < 128 <;> by_cases ho : o ≤ j <;> simp [hj, ho]
  omega

theorem byteMask_getLsbD_add {o n i : Nat} (h : o + n ≤ 128) (hi : i < n) : (byteMask o n).getLsbD (o + i) = true := by
  rw [byteMask_getLsbD]
  simp [hi, show o + i < 128 by omega]

/-- A held range of a line is one of whose bytes every one is valid. -/
theorem holds_iff (valid : BitVec 128) {o n : Nat} (h : o + n ≤ 128) :
    holds valid o n = true ↔ ∀ j, o ≤ j → j < o + n → valid.getLsbD j = true := by
  rw [holds, beq_iff_eq]
  constructor
  · intro he j hlo hhi
    have hj := congrArg (fun m => m.getLsbD j) he
    simpa [show j < 128 by omega, hlo, hhi] using hj
  · intro hv
    refine BitVec.eq_of_getLsbD_eq fun j hj => ?_
    rw [BitVec.getLsbD_and, byteMask_getLsbD]
    by_cases hr : o ≤ j ∧ j < o + n
    · simp [hv j hr.1 hr.2]
    · simp [hr]

theorem holds_or_byteMask (valid : BitVec 128) (o n : Nat) : holds (valid ||| byteMask o n) o n = true := by
  rw [holds, beq_iff_eq]
  refine BitVec.eq_of_getLsbD_eq fun j _ => ?_
  simp only [BitVec.getLsbD_and, BitVec.getLsbD_or]
  cases (byteMask o n).getLsbD j <;> simp

theorem mem_offsOf (m : BitVec 128) (o : Nat) : o ∈ offsOf m ↔ m.getLsbD o = true := by
  simp only [offsOf, List.mem_filter, List.mem_range, and_iff_right_iff_imp]
  exact fun h => BitVec.lt_of_getLsbD h

theorem offsOf_zero : offsOf 0 = [] :=
  List.eq_nil_iff_forall_not_mem.mpr fun o => by rw [mem_offsOf]; simp

/-- A byte of the 128 behind a line is the byte of memory at its place. -/
theorem get_memLine (s : State) (pa j : Nat) :
    Cells.get (memLine s pa) j = if j < 128 then Cells.get s.mem (redirect s pa + j) else 0 := by
  unfold memLine
  dsimp only
  generalize redirect s pa = b
  induction s.mem with
  | nil => simp
  | cons c r ih =>
    obtain ⟨k, v⟩ := c
    rw [List.filter_cons]
    by_cases hk : b ≤ k ∧ k < b + 128
    · obtain ⟨i, rfl⟩ := Nat.exists_eq_add_of_le hk.1
      have hi : i < 128 := by omega
      rw [if_pos (by simp [hi]), List.map_cons, Nat.add_sub_cancel_left, Cells.get_cons, ih, Cells.get_cons]
      by_cases hj : i = j
      · subst hj
        rw [if_pos rfl, if_pos hi, if_pos rfl]
      · rw [if_neg hj, if_neg (show ¬b + i = b + j by omega)]
    · rw [if_neg (by simpa using hk), ih, Cells.get_cons]
      by_cases hj : j < 128
      · rw [if_pos hj, if_pos hj, if_neg (by omega)]
      · rw [if_neg hj, if_neg hj]

/-- A load in a line sees what a load in memory sees at its place. -/
theorem load_offset {c d : Memory} {k j n : Nat} (h : ∀ i, i < n → Cells.get c (k + i) = Cells.get d (j + i)) :
    Cells.load c k n = Cells.load d j n := by
  induction n generalizing k j with
  | zero => rfl
  | succ n ih =>
    have h0 := h 0 (by omega)
    rw [Nat.add_zero, Nat.add_zero] at h0
    rw [Cells.load, Cells.load, h0, ih fun i hi => ?_]
    rw [Nat.add_assoc, Nat.add_assoc, Nat.add_comm 1 i]
    exact h (i + 1) (by omega)

/-! ### What the home of one line can change -/

/-- Where accesses are performed is not for steps at the home to change. -/
theorem HomeStep.redirect_eq {s t : State} (h : HomeStep s t) (pa : Nat) : redirect t pa = redirect s pa := by
  rw [h.frame]
  rfl

theorem HomeStep.halfOf_eq {s t : State} (h : HomeStep s t) (la : Nat) : halfOf t la = halfOf s la := by
  rw [h.frame]
  rfl

theorem not_sameKey {a b c d : Nat} : (!(a == c && b == d)) = true ↔ ¬(a = c ∧ b = d) := by
  rw [Bool.not_eq_true', ← Bool.not_eq_true, Bool.and_eq_true, beq_iff_eq, beq_iff_eq]


/-- A dirty byte of an L2 line other than the line `la` of `asid`. -/
def DirtyElsewhere (asid la : Nat) (s : State) (a : Nat) : Prop :=
  ∃ x ∈ s.l2, ¬(x.asid = asid ∧ x.la = la) ∧ ∃ o, x.dirty.getLsbD o = true ∧ a = redirect s (x.pa + o)

/-- A step at the home of one line: L2 lines other than that line stay or are replaced, and of memory the bytes `A` and
dirty bytes of replaced lines can change. -/
structure LineStep (asid la : Nat) (A : Nat → Prop) (s t : State) : Prop where
  frame : t = { s with mem := t.mem, l1 := t.l1, l2 := t.l2 }
  others : ∀ x ∈ t.l2, ¬(x.asid = asid ∧ x.la = la) → x ∈ s.l2
  bytes : ∀ a, ¬A a → ¬DirtyElsewhere asid la s a → Cells.get t.mem a = Cells.get s.mem a

namespace LineStep
variable {asid la : Nat} {A : Nat → Prop} {s t u : State}

theorem redirect_eq (h : LineStep asid la A s t) (pa : Nat) : redirect t pa = redirect s pa := by
  rw [h.frame]; rfl

theorem granAddr_eq (h : LineStep asid la A s t) (pa : Nat) : granAddr t pa = granAddr s pa := by
  rw [h.frame]; rfl

theorem halfOf_eq (h : LineStep asid la A s t) (l : Nat) : halfOf t l = halfOf s l := by
  rw [h.frame]; rfl

theorem dirtyElsewhere (h : LineStep asid la A s t) {a : Nat} (hd : DirtyElsewhere asid la t a) :
    DirtyElsewhere asid la s a := by
  obtain ⟨x, hx, hne, o, ho, rfl⟩ := hd
  exact ⟨x, h.others x hx hne, hne, o, ho, h.redirect_eq _⟩

theorem refl (s : State) : LineStep asid la A s s := ⟨rfl, fun _ h _ => h, fun _ _ _ => rfl⟩

theorem trans (h : LineStep asid la A s t) (k : LineStep asid la A t u) : LineStep asid la A s u where
  frame := k.frame.trans (by rw [h.frame])
  others x hx hne := h.others x (k.others x hx hne) hne
  bytes a ha hd := (k.bytes a ha fun hk => hd (h.dirtyElsewhere hk)).trans (h.bytes a ha hd)

theorem ite {c : Prop} [Decidable c] (h : LineStep asid la A s t) (k : LineStep asid la A s u) :
    LineStep asid la A s (if c then t else u) := by
  split
  · exact h
  · exact k

/-- What a replaced line held dirty counts as one of the bytes that may change. -/
theorem absorb (h : LineStep asid la (fun a => A a ∨ DirtyElsewhere asid la s a) s t) : LineStep asid la A s t :=
  ⟨h.frame, h.others, fun a ha hd => h.bytes a (not_or.mpr ⟨ha, hd⟩) hd⟩

/-- Steps at one home one after the other, each of which may assume that it starts behind such a step. -/
theorem foldl {α : Type} {f : State → α → State} {l : List α}
    (hf : ∀ x ∈ l, ∀ t, LineStep asid la A s t → LineStep asid la A t (f t x)) : LineStep asid la A s (l.foldl f s) := by
  suffices ∀ (r : List α), (∀ x ∈ r, x ∈ l) → ∀ t, LineStep asid la A s t → LineStep asid la A s (r.foldl f t) from
    this l (fun _ h => h) s (refl s)
  intro r
  induction r with
  | nil => exact fun _ _ h => h
  | cons x r ih =>
    intro hr t ht
    exact ih (fun y hy => hr y (by simp [hy])) _ (ht.trans (hf x (hr x (by simp)) t ht))

/-- Writing bytes of memory. -/
theorem of_store (s : State) (k v n : Nat) (h : ∀ a, k ≤ a → a < k + n → A a) :
    LineStep asid la A s { s with mem := Cells.store s.mem k v n } where
  frame := rfl
  others _ hx _ := hx
  bytes a ha _ := Cells.get_store_of_not_mem _ _ _ _ _ (by
    by_contra hc
    exact ha (h a (by omega) (by omega)))

/-- Changing L1 lines. -/
theorem of_l1 (s : State) (l1 : List L1Line) : LineStep asid la A s { s with l1 := l1 } :=
  ⟨rfl, fun _ h _ => h, fun _ _ _ => rfl⟩

/-- Changing L2 lines other than by adding one elsewhere. -/
theorem of_lines (s : State) (l2 : List L2Line) (h : ∀ x ∈ l2, ¬(x.asid = asid ∧ x.la = la) → x ∈ s.l2) :
    LineStep asid la A s { s with l2 := l2 } := ⟨rfl, h, fun _ _ _ => rfl⟩

end LineStep

section
variable {asid la : Nat} {A : Nat → Prop}

theorem physWrite_line (s : State) (pa v n : Nat) (h : ∀ a, redirect s pa ≤ a → a < redirect s pa + n → A a) :
    LineStep asid la A s (physWrite s pa v n) := .of_store s _ v n h

theorem setGran_line (s : State) (pa v : Nat) (h : ∀ c a, granAddr s pa = some c → c ≤ a → a < c + 2 → A a) :
    LineStep asid la A s (setGran s pa v) := by
  unfold setGran
  split
  · next c hc => exact .of_store s c v 2 (fun a => h c a hc)
  · exact .refl s

/-- Changing the tag of a word changes its carve-out entry only (04 R124). -/
theorem setTag_line (s : State) (pa : Nat) (b : Bool) (h : ∀ c a, granAddr s pa = some c → c ≤ a → a < c + 2 → A a) :
    LineStep asid la A s (setTag s pa b) := .ite (.refl s) (setGran_line s pa _ h)

/-- Writing bytes of an L2 line back. -/
theorem l2Write_line (s : State) (x : L2Line) (m : BitVec 128)
    (h : ∀ o, m.getLsbD o = true → A (redirect s (x.pa + o))) : LineStep asid la A s (l2Write s x m) :=
  .foldl fun o ho t ht => physWrite_line t _ _ _ fun a hlo hhi => by
    rw [ht.redirect_eq] at hlo hhi
    obtain rfl : a = redirect s (x.pa + o) := by omega
    exact h o ((mem_offsOf m o).mp ho)

theorem l2Write_l2 (s : State) (x : L2Line) (m : BitVec 128) : (l2Write s x m).l2 = s.l2 :=
  List.foldlRecOn (motive := fun t : State => t.l2 = s.l2) (offsOf m) _ rfl fun _ h _ _ => h

theorem mem_of_l2Victim {l : List L2Line} {v : L2Line} (h : l2Victim l = some v) : v ∈ l := by
  unfold l2Victim at h
  split at h
  · next v' hv =>
    cases h
    exact (List.mem_filter.mp (List.mem_of_getLast? hv)).1
  · exact List.mem_of_getLast? h

/-- The lines of L2 with `x` as the most recently used, before a full set has made room for it. -/
def l2In (s : State) (x : L2Line) : State :=
  { s with l2 := x :: s.l2.filter (fun y => !(y.asid == x.asid && y.la == x.la)) }

theorem mem_l2In {s : State} {x y : L2Line} :
    y ∈ (l2In s x).l2 ↔ y = x ∨ y ∈ s.l2 ∧ ¬(y.asid = x.asid ∧ y.la = x.la) := by
  simp only [l2In, List.mem_cons, List.mem_filter, not_sameKey]

/-- Putting a line in replaces no line, or another one, whose dirty bytes are written back first (02 R58). -/
theorem l2Put_cases (s : State) (x : L2Line) :
    l2Put s x = l2In s x ∨ ∃ v ∈ s.l2, ¬(v.asid = x.asid ∧ v.la = x.la) ∧
      l2Put s x = l2Drop (l2Write (l2In s x) v v.dirty) v.asid v.la := by
  unfold l2Put
  dsimp only
  split
  · exact .inl rfl
  · split
    · exact .inl rfl
    · split
      · next v hv =>
        have hmem := List.mem_filter.mp (List.mem_filter.mp (mem_of_l2Victim hv)).1
        exact .inr ⟨v, hmem.1, not_sameKey.mp hmem.2, rfl⟩
      · exact .inl rfl

theorem l2In_line {s : State} {x : L2Line} (hx : x.asid = asid ∧ x.la = la) : LineStep asid la A s (l2In s x) :=
  .of_lines s _ fun y hy hne => by
    rcases mem_l2In.mp hy with rfl | ⟨hy, -⟩
    · exact absurd hx hne
    · exact hy

/-- Putting a line in changes memory at most by what a replaced line elsewhere held dirty. -/
theorem l2Put_line {s : State} {x : L2Line} (hx : x.asid = asid ∧ x.la = la) : LineStep asid la A s (l2Put s x) := by
  obtain ⟨rfl, rfl⟩ := hx
  rcases l2Put_cases s x with h | ⟨v, hv, hne, h⟩ <;> rw [h]
  · exact l2In_line ⟨rfl, rfl⟩
  · refine LineStep.absorb (((l2In_line ⟨rfl, rfl⟩).trans (l2Write_line _ v v.dirty fun o ho => ?_)).trans ?_)
    · exact .inr ⟨v, hv, hne, o, ho, rfl⟩
    · exact .of_lines _ _ fun y hy _ => (List.mem_filter.mp hy).1

theorem l2Find_l2Put (s : State) (x : L2Line) : l2Find (l2Put s x) x.asid x.la = some x := by
  have hin : l2Find (l2In s x) x.asid x.la = some x := by simp [l2Find, l2In]
  rcases l2Put_cases s x with h | ⟨v, hv, hne, h⟩ <;> rw [h]
  · exact hin
  · have hl2 : (l2Drop (l2Write (l2In s x) v v.dirty) v.asid v.la).l2 =
        (l2In s x).l2.filter (fun y => !(y.asid == v.asid && y.la == v.la)) := by
      rw [← l2Write_l2 (l2In s x) v v.dirty]; rfl
    have hxv : (!(x.asid == v.asid && x.la == v.la)) = true :=
      not_sameKey.mpr fun h => hne ⟨h.1.symm, h.2.symm⟩
    rw [l2Find, hl2, l2In, List.filter_cons, if_pos hxv]
    simp

theorem l2Find_key {s : State} {asid la : Nat} {x : L2Line} (h : l2Find s asid la = some x) :
    x ∈ s.l2 ∧ x.asid = asid ∧ x.la = la := by
  have hp := List.find?_some h
  simp only [Bool.and_eq_true, beq_iff_eq] at hp
  exact ⟨List.mem_of_find?_eq_some h, hp⟩

theorem l2Open_key (s : State) (p : Piece) : (l2Open s p).asid = p.asid ∧ (l2Open s p).la = lineOf p.va := by
  unfold l2Open
  cases h : l2Find s p.asid (lineOf p.va) with
  | none => exact ⟨rfl, rfl⟩
  | some x => exact (l2Find_key h).2

/-- Writing back a piece's dirty bytes at the home. -/
theorem l2Clean_line {s : State} {p : Piece} (hp : p.asid = asid ∧ lineOf p.va = la)
    (h : ∀ x o, x ∈ s.l2 → x.dirty.getLsbD o = true → A (redirect s (x.pa + o))) :
    LineStep asid la A s (l2Clean s p) := by
  unfold l2Clean
  split
  · exact .refl s
  · next x hx =>
    obtain ⟨hmem, hkey⟩ := l2Find_key hx
    refine (l2Write_line s x _ fun o ho => h x o hmem ?_).trans (.of_lines _ _ fun y hy hne => ?_)
    · rw [BitVec.getLsbD_and, Bool.and_eq_true] at ho
      exact ho.1
    · obtain ⟨z, hz, rfl⟩ := List.mem_map.mp hy
      by_cases hzx : (z.asid == x.asid && z.la == x.la) = true
      · rw [if_pos hzx] at hne
        simp only [Bool.and_eq_true, beq_iff_eq] at hzx
        exact absurd ⟨hzx.1.trans (hkey.1.trans hp.1), hzx.2.trans (hkey.2.trans hp.2)⟩ hne
      · rw [if_neg hzx]
        exact hz

/-- A read at the home changes memory at most by what L2 lines held dirty. -/
theorem homeRead_line {s : State} {lvl : Nat} {p : Piece} (hp : p.asid = asid ∧ lineOf p.va = la)
    (h : ∀ x o, x ∈ s.l2 → x.dirty.getLsbD o = true → A (redirect s (x.pa + o))) :
    LineStep asid la A s (homeRead s lvl p).1 := by
  have hkey := l2Open_key s p
  rw [hp.1, hp.2] at hkey
  unfold homeRead
  split
  · exact .refl s
  · split
    · exact l2Clean_line hp h
    · refine l2Put_line ?_
      split <;> exact hkey

/-- Clearing the tags of the words that a piece meets. -/
theorem clearTags_line {s : State} {p : Piece}
    (h : eOBJ p.leaf.e = true → ∀ a, Claims.InCarveOut s p.pa p.n a → A a) : LineStep asid la A s (clearTags s p) := by
  unfold clearTags
  split
  · next hobj =>
    refine .foldl fun k hk t ht => setTag_line t _ _ fun c a hc hlo hhi => h hobj a ⟨k, c, List.mem_range.mp hk, ?_, hlo, hhi⟩
    rw [← ht.granAddr_eq]
    exact hc
  · exact .refl s

/-- A write at the home changes the piece's bytes, the carve-out entries of its words on an object page, and what a replaced
line elsewhere held dirty. -/
theorem homeWrite_line {s : State} {lvl : Nat} {p : Piece} {v : Nat} (hp : p.asid = asid ∧ lineOf p.va = la)
    (hb : ∀ a, redirect s p.pa ≤ a → a < redirect s p.pa + p.n → A a)
    (ht : eOBJ p.leaf.e = true → ∀ a, Claims.InCarveOut s p.pa p.n a → A a) :
    LineStep asid la A s (homeWrite s lvl p v) := by
  have hc := clearTags_line (asid := asid) (la := la) ht
  have hkey := l2Open_key (clearTags s p) p
  rw [hp.1, hp.2] at hkey
  unfold homeWrite
  dsimp only
  split
  · refine (hc.trans (physWrite_line _ p.pa v p.n (by rwa [hc.redirect_eq]))).trans (.of_lines _ _ fun y hy hne => ?_)
    obtain ⟨z, hz, rfl⟩ := List.mem_map.mp hy
    by_cases hzp : (z.asid == p.asid && z.la == lineOf p.va) = true
    · rw [if_pos hzp] at hne
      simp only [Bool.and_eq_true, beq_iff_eq] at hzp
      exact absurd ⟨hzp.1.trans hp.1, hzp.2.trans hp.2⟩ hne
    · rw [if_neg hzp]
      exact hz
  · exact hc.trans (l2Put_line hkey)


/-! ### L1 lines at their home -/

theorem vaOf_genOf (v : Nat) : vaOf (genOf v) = v % 2 ^ 56 := by
  unfold vaOf genOf
  split <;> rw [BitVec.toNat_ofNat] <;> omega

theorem lineOf_lt (va : W64) : lineOf va < 2 ^ 49 := by
  unfold lineOf vaOf
  omega

/-- Every byte of an L1 line has the line's home. -/
theorem piece_key {x : L1Line} {o n : Nat} (ho : o < 128) (hx : x.la < 2 ^ 49) :
    (x.piece o n).asid = x.asid ∧ lineOf (x.piece o n).va = x.la := by
  refine ⟨rfl, ?_⟩
  show lineOf (genOf (128 * x.la + o)) = x.la
  rw [lineOf, vaOf_genOf]
  omega

/-- The bytes of memory that writing byte `o` of an L1 line to its home may change: its own, and on an object page the
carve-out entry of its word. -/
def WriteBackTouches (s : State) (x : L1Line) (o a : Nat) : Prop :=
  a = redirect s (x.pa + o) ∨ (eOBJ x.leaf.toNat = true ∧ (Claims.InCarveOut s (x.pa + o) 1 a ∨
    ∃ c, granAddr s (x.pa + o / 8 * 8) = some c ∧ c ≤ a ∧ a < c + 2))

theorem WriteBackTouches.of_line {s t : State} {x : L1Line} {o a : Nat} (h : LineStep asid la A s t)
    (hw : WriteBackTouches t x o a) : WriteBackTouches s x o a := by
  unfold WriteBackTouches Claims.InCarveOut at *
  simpa only [h.redirect_eq, h.granAddr_eq] using hw

/-- A word of which a byte is written back: that byte. -/
theorem exists_byte_of_word {m : BitVec 128} {k : Nat} (h : (m &&& byteMask (8 * k) 8 != 0) = true) :
    ∃ o, m.getLsbD o = true ∧ o / 8 * 8 = 8 * k := by
  by_contra hc
  push Not at hc
  have hz : m &&& byteMask (8 * k) 8 = 0 := by
    refine BitVec.eq_of_getLsbD_eq fun j hj => ?_
    rw [BitVec.getLsbD_and, byteMask_getLsbD]
    by_cases hk : 8 * k ≤ j ∧ j < 8 * k + 8
    · have hm := hc j
      cases hmj : m.getLsbD j with
      | false => simp
      | true => exact absurd (by omega) (hm hmj)
    · simp [hk]
  rw [hz] at h
  exact absurd h (by decide)

/-- Writing bytes of an L1 line to its home. -/
theorem l1Write_line {s : State} {x : L1Line} {m : BitVec 128} (hx : x.asid = asid ∧ x.la = la) (hla : la < 2 ^ 49)
    (h : ∀ o a, m.getLsbD o = true → WriteBackTouches s x o a → A a) : LineStep asid la A s (l1Write s x m) := by
  have hbytes : LineStep asid la A s
      ((offsOf m).foldl (fun s o => homeWrite s 1 (x.piece o 1) (Cells.get x.data o).toNat) s) := by
    refine .foldl fun o ho t ht => ?_
    have hom := (mem_offsOf m o).mp ho
    have hkey := piece_key (x := x) (n := 1) (BitVec.lt_of_getLsbD hom) (hx.2 ▸ hla)
    rw [hx.1, hx.2] at hkey
    refine homeWrite_line hkey (fun a hlo hhi => h o a hom (.of_line ht (.inl ?_)))
      fun hobj a hin => h o a hom (.of_line ht (.inr ⟨hobj, .inl hin⟩))
    have hlo' : redirect t (x.pa + o) ≤ a := hlo
    have hhi' : a < redirect t (x.pa + o) + 1 := hhi
    omega
  unfold l1Write
  dsimp only
  split
  · exact hbytes
  · next hc =>
    have hobj : eOBJ x.leaf.toNat = true := by
      by_contra hn
      exact hc (by simp [hn])
    refine hbytes.trans (.foldl fun k _ t ht => ?_)
    split
    · next hk =>
      simp only [Bool.and_eq_true] at hk
      obtain ⟨o, hom, hok⟩ := exists_byte_of_word hk.2
      exact setTag_line t _ true fun c a hc hlo hhi =>
        h o a hom (.of_line (hbytes.trans ht) (.inr ⟨hobj, .inr ⟨c, hok ▸ hc, hlo, hhi⟩⟩))
    · exact .refl t

/-! ### The L1 lines after a step at the home -/

theorem setTag_frame (s : State) (pa : Nat) (b : Bool) : setTag s pa b = { s with mem := (setTag s pa b).mem } := by
  have hgran (v : Nat) : setGran s pa v = { s with mem := (setGran s pa v).mem } := by
    unfold setGran
    split <;> rfl
  unfold setTag
  dsimp only
  generalize (if b = true then _ else _ : Nat) = v
  split
  · rfl
  · exact hgran v

theorem clearTags_frame (s : State) (p : Piece) : clearTags s p = { s with mem := (clearTags s p).mem } := by
  unfold clearTags
  split
  · refine List.foldlRecOn (motive := fun t : State => t = { s with mem := t.mem }) _ _ rfl fun t h k _ => ?_
    rw [setTag_frame, h]
  · rfl

theorem l2Put_l1 (s : State) (x : L2Line) : (l2Put s x).l1 = s.l1 := by
  rcases l2Put_cases s x with h | ⟨v, -, -, h⟩ <;> rw [h]
  · rfl
  · exact l2Write_l1 (l2In s x) v v.dirty

theorem homeWrite_l1 (s : State) (lvl : Nat) (p : Piece) (v : Nat) : (homeWrite s lvl p v).l1 = s.l1 := by
  unfold homeWrite
  dsimp only
  split
  · rw [clearTags_frame s p]; rfl
  · rw [l2Put_l1, clearTags_frame s p]

theorem l1Write_l1 (s : State) (x : L1Line) (m : BitVec 128) : (l1Write s x m).l1 = s.l1 := by
  have hbytes : ((offsOf m).foldl (fun s o => homeWrite s 1 (x.piece o 1) (Cells.get x.data o).toNat) s).l1 = s.l1 :=
    List.foldlRecOn (motive := fun t : State => t.l1 = s.l1) _ _ rfl fun _ h _ _ => (homeWrite_l1 ..).trans h
  unfold l1Write
  dsimp only
  split
  · exact hbytes
  · refine List.foldlRecOn (motive := fun t : State => t.l1 = s.l1) _ _ hbytes fun t h k _ => ?_
    split
    · rw [setTag_frame]; exact h
    · exact h

theorem homeRead_l1 (s : State) (lvl : Nat) (p : Piece) : (homeRead s lvl p).1.l1 = s.l1 := by
  unfold homeRead l2Clean
  split
  · rfl
  · split
    · split
      · rfl
      · exact l2Write_l1 ..
    · exact l2Put_l1 ..

/-! ### Finding an L1 line -/

theorem l1Find_of_l1_eq {s t : State} (h : t.l1 = s.l1) (half asid la : Nat) : l1Find t half asid la = l1Find s half asid la := by
  rw [l1Find, h]
  rfl

theorem sameLine_iff {x : L1Line} {half asid la : Nat} :
    (x.half == half && x.asid == asid && x.la == la) = true ↔ x.half = half ∧ x.asid = asid ∧ x.la = la := by
  simp only [Bool.and_eq_true, beq_iff_eq, and_assoc]

theorem l1Find_key {s : State} {half asid la : Nat} {x : L1Line} (h : l1Find s half asid la = some x) :
    x ∈ s.l1 ∧ x.half = half ∧ x.asid = asid ∧ x.la = la := by
  exact ⟨List.mem_of_find?_eq_some h, sameLine_iff.mp
    (List.find?_some (p := fun x : L1Line => x.half == half && x.asid == asid && x.la == la) h)⟩

/-- Replacing a line by one of its key leaves the other lines where they are. -/
theorem l1Find_l1Keep (s : State) (x : L1Line) (half asid la : Nat) :
    l1Find (l1Keep s x) half asid la =
      if half = x.half ∧ asid = x.asid ∧ la = x.la then (l1Find s half asid la).map (fun _ => x) else l1Find s half asid la := by
  have hmap : l1Find (l1Keep s x) half asid la = (l1Find s half asid la).map
      (fun y => if y.half == x.half && y.asid == x.asid && y.la == x.la then x else y) := by
    unfold l1Find l1Keep
    rw [List.find?_map]
    congr 2
    funext y
    rw [Function.comp_apply]
    split
    · next hy =>
      obtain ⟨hh, ha, hl⟩ := sameLine_iff.mp hy
      rw [hh, ha, hl]
    · rfl
  rw [hmap]
  cases hf : l1Find s half asid la with
  | none => simp
  | some y =>
    obtain ⟨-, rfl, rfl, rfl⟩ := l1Find_key hf
    simp only [Option.map_some, sameLine_iff]
    split <;> rfl

theorem l1Find_l1Drop (s : State) (h a l half asid la : Nat) :
    l1Find (l1Drop s h a l) half asid la = if half = h ∧ asid = a ∧ la = l then none else l1Find s half asid la := by
  unfold l1Find l1Drop
  rw [List.find?_filter]
  split
  · next hk =>
    obtain ⟨rfl, rfl, rfl⟩ := hk
    exact List.find?_eq_none.mpr fun x _ hd => by
      obtain ⟨hne, heq⟩ := of_decide_eq_true hd
      rw [heq] at hne
      exact Bool.noConfusion hne
  · next hk =>
    congr 1
    funext x
    rw [Bool.eq_iff_iff, decide_eq_true_iff, Bool.not_eq_true', ← Bool.not_eq_true, sameLine_iff, sameLine_iff]
    refine and_iff_right_of_imp fun hx hd => hk ?_
    obtain ⟨rfl, rfl, rfl⟩ := hx
    exact hd

/-- The lines of L1 with `x` as the most recently used, before a full set has made room for it. -/
def l1In (s : State) (x : L1Line) : State :=
  { s with l1 := x :: s.l1.filter (fun y => !(y.half == x.half && y.asid == x.asid && y.la == x.la)) }

theorem l1Find_l1In (s : State) (x : L1Line) (half asid la : Nat) :
    l1Find (l1In s x) half asid la = if half = x.half ∧ asid = x.asid ∧ la = x.la then some x else l1Find s half asid la := by
  have hrest := l1Find_l1Drop s x.half x.asid x.la half asid la
  unfold l1Find l1Drop at hrest
  unfold l1Find l1In
  rw [List.find?_cons, hrest]
  split
  · next hk =>
    rw [sameLine_iff] at hk
    rw [if_pos ⟨hk.1.symm, hk.2.1.symm, hk.2.2.symm⟩]
  · next hk =>
    rw [← Bool.not_eq_true, sameLine_iff] at hk
    have hk' : ¬(half = x.half ∧ asid = x.asid ∧ la = x.la) := fun h => hk ⟨h.1.symm, h.2.1.symm, h.2.2.symm⟩
    rw [if_neg hk', if_neg hk']

/-- Putting a line in replaces no line, or another one, whose dirty bytes are written back first; in a half with fewer lines
than a set holds, none is replaced (02 R55). -/
theorem l1Put_cases (s : State) (x : L1Line) :
    l1Put s x = l1In s x ∨ 16 ≤ s.l1.length ∧ ∃ v : L1Line, ¬(v.half = x.half ∧ v.asid = x.asid ∧ v.la = x.la) ∧
      l1Put s x = l1Drop (l1Write (l1In s x) v v.dirty) v.half v.asid v.la := by
  unfold l1Put
  dsimp only
  split
  · exact .inl rfl
  · next hlen =>
    split
    · next v hv =>
      split
      · exact .inl rfl
      · have hmem := List.mem_filter.mp (List.mem_filter.mp (List.mem_of_getLast? hv)).1
        refine .inr ⟨?_, v, ?_, rfl⟩
        · exact (Nat.not_lt.mp hlen).trans (List.length_filter_le _ _)
        · have h := hmem.2
          rwa [Bool.not_eq_true', ← Bool.not_eq_true, sameLine_iff] at h
    · exact .inl rfl

/-- The half holds the line that was put in. -/
theorem l1Find_l1Put_same (s : State) (x : L1Line) : l1Find (l1Put s x) x.half x.asid x.la = some x := by
  have hin : l1Find (l1In s x) x.half x.asid x.la = some x := by rw [l1Find_l1In, if_pos ⟨rfl, rfl, rfl⟩]
  rcases l1Put_cases s x with h | ⟨-, v, hne, h⟩ <;> rw [h]
  · exact hin
  · rw [l1Find_l1Drop, if_neg (fun hk => hne ⟨hk.1.symm, hk.2.1.symm, hk.2.2.symm⟩), l1Find_of_l1_eq (l1Write_l1 ..), hin]

/-- Another line stays as it is, or has been replaced. -/
theorem l1Find_l1Put_other {s : State} {x : L1Line} {half asid la : Nat}
    (hk : ¬(half = x.half ∧ asid = x.asid ∧ la = x.la)) :
    l1Find (l1Put s x) half asid la = l1Find s half asid la ∨
      16 ≤ s.l1.length ∧ l1Find (l1Put s x) half asid la = none := by
  have hin : l1Find (l1In s x) half asid la = l1Find s half asid la := by rw [l1Find_l1In, if_neg hk]
  rcases l1Put_cases s x with h | ⟨hlen, v, -, h⟩ <;> rw [h]
  · exact .inl hin
  · rw [l1Find_l1Drop, l1Find_of_l1_eq (l1Write_l1 ..), hin]
    split
    · exact .inr ⟨hlen, rfl⟩
    · exact .inl rfl

/-- With no line replaced nothing else changes. -/
theorem l1Put_of_lt {s : State} (h : s.l1.length < 16) (x : L1Line) : l1Put s x = l1In s x := by
  rcases l1Put_cases s x with hp | ⟨hlen, -⟩
  · exact hp
  · omega

theorem l1Open_key (s : State) (p : Piece) :
    (l1Open s p).half = halfOf s (lineOf p.va) ∧ (l1Open s p).asid = p.asid ∧ (l1Open s p).la = lineOf p.va := by
  unfold l1Open
  dsimp only
  cases h : l1Find s (halfOf s (lineOf p.va)) p.asid (lineOf p.va) with
  | none => exact ⟨rfl, rfl, rfl⟩
  | some x => exact (l1Find_key h).2

/-! ### Before an access at the home (03 R87) -/

theorem writeBack_whole (s : State) (x : L1Line) :
    writeBack s x false = l1Keep (l1Write s x x.dirty) { x with dirty := 0 } := by
  have hleft : (offsOf x.dirty).filter (fun o => false && eOBJ x.leaf.toNat && granState (gran s (x.pa + o)) == 1) = [] := by
    simp
  unfold writeBack
  simp only [hleft, List.foldl_nil]
  rw [BitVec.ofNat_eq_ofNat, BitVec.not_zero, BitVec.and_allOnes]

/-- Before an access at the home the issuing half's line is as it was, without dirty bytes. -/
theorem beforeHome_cases (s : State) (asid : Nat) (va : W64) :
    (beforeHome s asid va = s ∧ ∀ x, l1Find s (halfOf s (lineOf va)) asid (lineOf va) = some x → x.dirty = 0) ∨
      ∃ x, l1Find s (halfOf s (lineOf va)) asid (lineOf va) = some x ∧
        beforeHome s asid va = l1Keep (l1Write s x x.dirty) { x with dirty := 0 } := by
  unfold beforeHome
  dsimp only
  split
  · next x hx =>
    split
    · next hd =>
      refine .inl ⟨rfl, fun y hy => ?_⟩
      rw [hx] at hy
      cases hy
      exact hd
    · exact .inr ⟨x, hx, writeBack_whole s x⟩
  · next hx =>
    exact .inl ⟨rfl, fun y hy => by rw [hx] at hy; cases hy⟩

theorem beforeHome_of_clean {s : State} {asid : Nat} {va : W64}
    (h : ∀ x, l1Find s (halfOf s (lineOf va)) asid (lineOf va) = some x → x.dirty = 0) : beforeHome s asid va = s := by
  unfold beforeHome
  dsimp only
  split
  · next x hx => rw [if_pos (h x hx)]
  · rfl

theorem l1Find_beforeHome (s : State) (asid : Nat) (va : W64) (half a l : Nat) :
    l1Find (beforeHome s asid va) half a l =
      if half = halfOf s (lineOf va) ∧ a = asid ∧ l = lineOf va then
        (l1Find s half a l).map (fun x => { x with dirty := 0 }) else l1Find s half a l := by
  rcases beforeHome_cases s asid va with ⟨h, hclean⟩ | ⟨x, hx, h⟩ <;> rw [h]
  · split
    · next hk =>
      obtain ⟨rfl, rfl, rfl⟩ := hk
      cases hf : l1Find s (halfOf s (lineOf va)) a (lineOf va) with
      | none => rfl
      | some x =>
        have hd := hclean x hf
        rw [Option.map_some, ← hd]
    · rfl
  · obtain ⟨-, hh, ha, hl⟩ := l1Find_key hx
    rw [l1Find_l1Keep, l1Find_of_l1_eq (l1Write_l1 ..)]
    refine ite_congr (by rw [hh, ha, hl]) (fun hk => ?_) fun _ => rfl
    obtain ⟨rfl, rfl, rfl⟩ := hk
    rw [hx]
    rfl

theorem beforeHome_line {s : State} {va : W64} (hla : lineOf va = la)
    (h : ∀ x o a, l1Find s (halfOf s la) asid la = some x → x.dirty.getLsbD o = true → WriteBackTouches s x o a → A a) :
    LineStep asid la A s (beforeHome s asid va) := by
  subst hla
  rcases beforeHome_cases s asid va with ⟨hb, -⟩ | ⟨x, hx, hb⟩ <;> rw [hb]
  · exact .refl s
  · obtain ⟨-, -, ha, hl⟩ := l1Find_key hx
    exact (l1Write_line ⟨ha, hl⟩ (lineOf_lt va) fun o a => h x o a hx).trans (.of_l1 ..)

theorem updateCopy_line (s : State) (p : Piece) (v : Nat) : LineStep asid la A s (updateCopy s p v) := by
  unfold updateCopy
  dsimp only
  split
  · exact .refl s
  · exact .of_l1 ..

/-- Updating the issuing half's copy leaves other lines alone. -/
theorem l1Find_updateCopy_other {s : State} {p : Piece} {half asid la : Nat}
    (hk : ¬(half = halfOf s (lineOf p.va) ∧ asid = p.asid ∧ la = lineOf p.va)) (v : Nat) :
    l1Find (updateCopy s p v) half asid la = l1Find s half asid la := by
  unfold updateCopy
  dsimp only
  split
  · rfl
  · next x hx =>
    obtain ⟨-, hh, ha, hl⟩ := l1Find_key hx
    rw [l1Find_l1Keep, if_neg (by rwa [hh, ha, hl])]

/-- The copy of stored bytes is no dirtier than before. -/
theorem l1Find_updateCopy_clean {s : State} {p : Piece}
    (h : ∀ x, l1Find s (halfOf s (lineOf p.va)) p.asid (lineOf p.va) = some x → x.dirty = 0) (v : Nat) :
    ∀ x, l1Find (updateCopy s p v) (halfOf s (lineOf p.va)) p.asid (lineOf p.va) = some x → x.dirty = 0 := by
  unfold updateCopy
  dsimp only
  split
  · exact h
  · next x hx =>
    obtain ⟨-, hh, ha, hl⟩ := l1Find_key hx
    intro y hy
    rw [l1Find_l1Keep, if_pos (by rw [hh, ha, hl]; exact ⟨rfl, rfl, rfl⟩), hx] at hy
    cases hy
    exact h x hx

/-! ### What reads at the home find -/

/-- With its bytes in one line that is mapped as a whole, memory behind an L2 line of a piece is that behind the piece. -/
theorem get_memLine_piece {s : State} {p : Piece} (hp : Claims.InLine s p) {i : Nat} (hi : i < p.n) :
    Cells.get (memLine s (p.pa / 128 * 128)) (p.pa % 128 + i) = Cells.get s.mem (redirect s p.pa + i) := by
  obtain ⟨-, hn, hlin, -⟩ := hp
  have hpa := hlin (p.pa % 128) (by omega)
  rw [Nat.div_add_mod'] at hpa
  rw [get_memLine, if_pos (by omega), hpa, Nat.add_assoc]

/-- A read in the slice gives the line's value there. -/
theorem homeRead_slice {s : State} {lvl : Nat} {p : Piece} (hp : Claims.InLine s p) (hc : atController lvl p = false) :
    (homeRead s lvl p).2 = homeValueOf s p := by
  have hcache : eC p.leaf.e = true := by
    simp only [atController, Bool.or_eq_false_iff, Bool.not_eq_false'] at hc
    exact hc.2
  obtain ⟨hdev, hn, -, -⟩ := id hp
  unfold homeRead homeValueOf l2Open
  simp only [hdev, hc, hcache, if_true, Bool.false_eq_true, if_false]
  cases hf : l2Find s p.asid (lineOf p.va) with
  | none =>
    rw [Option.getD_none, physRead]
    split
    · next hh =>
      have hzero : p.n = 0 := by
        by_contra hne
        have := (holds_iff _ hn).mp hh (p.pa % 128) le_rfl (by omega)
        simp at this
      rw [hzero]
      rfl
    · exact load_offset fun i hi => by
        rw [l2Filled, get_overlay, if_neg (by simp)]
        exact get_memLine_piece hp hi
  | some x =>
    rw [Option.getD_some]
    dsimp only
    split
    · next hh =>
      refine Cells.load_congr _ _ _ _ fun j hlo hhi => ?_
      rw [get_overlay, if_pos ((holds_iff _ hn).mp hh j hlo hhi)]
    · rfl

/-- Bytes of a line that is mapped as a whole, after some of an L2 line's bytes are written back. -/
theorem get_l2Write {s : State} {x : L2Line} (hlin : ∀ o, o < 128 → redirect s (x.pa + o) = redirect s x.pa + o)
    (m : BitVec 128) (j : Nat) :
    Cells.get (l2Write s x m).mem (redirect s x.pa + j) =
      if m.getLsbD j = true then Cells.get x.data j else Cells.get s.mem (redirect s x.pa + j) := by
  suffices ∀ (r : List Nat) (t : State), (∀ o ∈ r, o < 128) → t.dev = s.dev →
      Cells.get (r.foldl (fun s o => physWrite s (x.pa + o) (Cells.get x.data o).toNat 1) t).mem (redirect s x.pa + j) =
        if j ∈ r then Cells.get x.data j else Cells.get t.mem (redirect s x.pa + j) by
    have h := this (offsOf m) s (fun o ho => BitVec.lt_of_getLsbD ((mem_offsOf m o).mp ho)) rfl
    simpa only [l2Write, mem_offsOf] using h
  intro r
  induction r with
  | nil => exact fun _ _ _ => rfl
  | cons o r ih =>
    intro t ho hdev
    have hred : redirect t (x.pa + o) = redirect s x.pa + o := by
      rw [← hlin o (ho o (by simp)), redirect, redirect, hdev]
    rw [List.foldl_cons, ih (physWrite t _ _ 1) (fun o h => ho o (by simp [h])) hdev, physWrite_mem, hred, Cells.get_store_eq_ite]
    by_cases hr : j ∈ r
    · simp [hr]
    · by_cases hjo : j = o
      · subst hjo
        simp [hr]
      · have hne : ¬(redirect s x.pa + o ≤ redirect s x.pa + j ∧ redirect s x.pa + j < redirect s x.pa + o + 1) := by omega
        simp only [List.mem_cons, hr, hjo, or_self, if_false, if_neg hne]

theorem l2Clean_of_some {s : State} {p : Piece} {x : L2Line} (hf : l2Find s p.asid (lineOf p.va) = some x) :
    (l2Clean s p).mem = (l2Write s x (x.dirty &&& byteMask (p.pa % 128) p.n)).mem := by
  unfold l2Clean
  rw [hf]

/-- A read of an uncached page at the controller gives the line's value there: its dirty bytes are written back first. -/
theorem homeRead_uncached {s : State} {lvl : Nat} {p : Piece} (hp : Claims.InLine s p) (hc : eC p.leaf.e = false) :
    (homeRead s lvl p).2 = homeValueOf s p := by
  obtain ⟨hdev, hn, hlin, hx⟩ := id hp
  have hctl : atController lvl p = true := by simp [atController, hc]
  unfold homeRead homeValueOf
  simp only [hdev, hctl, hc, if_true, Bool.false_eq_true, if_false]
  cases hf : l2Find s p.asid (lineOf p.va) with
  | none => simp [l2Clean, hf]
  | some x =>
    have hpa := hx x hf
    have hlin' : ∀ o, o < 128 → redirect s (x.pa + o) = redirect s x.pa + o := hpa ▸ hlin
    have hred : redirect s p.pa = redirect s x.pa + p.pa % 128 := by
      rw [hpa, ← hlin (p.pa % 128) (by omega), Nat.div_add_mod']
    refine load_offset fun i hi => ?_
    rw [(l2Clean_home s p).redirect_eq, hred, Nat.add_assoc, l2Clean_of_some hf, get_l2Write hlin', BitVec.getLsbD_and,
      byteMask_getLsbD_add hn hi, Bool.and_true, get_overlay, get_memLine, if_pos (show p.pa % 128 + i < 128 by omega)]

/-! ### What writes at the home leave -/

theorem l2Find_map {s t : State} {f : L2Line → L2Line} (hf : ∀ y, (f y).asid = y.asid ∧ (f y).la = y.la)
    (h : t.l2 = s.l2.map f) (asid la : Nat) : l2Find t asid la = (l2Find s asid la).map f := by
  unfold l2Find
  rw [h, List.find?_map]
  congr 2
  funext y
  rw [Function.comp_apply, (hf y).1, (hf y).2]

/-- Behind a write at the controller memory holds the value. -/
theorem physRead_homeWrite {s : State} {lvl : Nat} {p : Piece} (hc : atController lvl p = true) (v : Nat) :
    physRead (homeWrite s lvl p v) p.pa p.n = v % 256 ^ p.n := by
  rw [physRead, (homeWrite_home s lvl p v).redirect_eq]
  unfold homeWrite
  simp only [hc, if_true, physWrite_mem, (clearTags_home s p).redirect_eq]
  exact Cells.load_store ..

/-- Behind a write at the controller the slice's copy is where it was, and holds no byte of the write dirty. -/
theorem l2Find_homeWrite_controller {s : State} {lvl : Nat} {p : Piece} (hc : atController lvl p = true) (v : Nat) {x : L2Line}
    (hx : l2Find (homeWrite s lvl p v) p.asid (lineOf p.va) = some x) :
    x.dirty &&& byteMask (p.pa % 128) p.n = 0 ∧ ∃ y, l2Find s p.asid (lineOf p.va) = some y ∧ x.pa = y.pa := by
  have hl2 : (clearTags s p).l2 = s.l2 := by rw [clearTags_frame]
  unfold homeWrite at hx
  simp only [hc, if_true] at hx
  rw [l2Find_map (s := s) (fun y => ?_) (by rw [← hl2]; rfl)] at hx
  · obtain ⟨y, hy, rfl⟩ := Option.map_eq_some_iff.mp hx
    obtain ⟨-, ha, hl⟩ := l2Find_key hy
    rw [if_pos (by rw [ha, hl]; simp)]
    refine ⟨?_, y, hy, rfl⟩
    rw [BitVec.and_assoc, BitVec.not_and_self]
    exact BitVec.and_zero
  · split
    · exact ⟨rfl, rfl⟩
    · exact ⟨rfl, rfl⟩

/-- Behind a write in the slice its line holds the value. -/
theorem l2Find_homeWrite_slice {s : State} {lvl : Nat} {p : Piece} (hc : atController lvl p = false) (v : Nat) :
    ∃ x, l2Find (homeWrite s lvl p v) p.asid (lineOf p.va) = some x ∧
      Cells.load x.data (p.pa % 128) p.n = v % 256 ^ p.n ∧ holds x.valid (p.pa % 128) p.n = true := by
  have hkey := l2Open_key (clearTags s p) p
  unfold homeWrite
  simp only [hc, Bool.false_eq_true, if_false]
  have hfind := fun x : L2Line => l2Find_l2Put (clearTags s p) x
  rw [← hkey.1, ← hkey.2]
  exact ⟨_, hfind { l2Open (clearTags s p) p with
      data := _, valid := (l2Open (clearTags s p) p).valid ||| byteMask (p.pa % 128) p.n, dirty := _, early := _ },
    Cells.load_store .., holds_or_byteMask ..⟩

/-- With no byte of it held dirty in the slice, a read at the controller gives memory's bytes. -/
theorem homeRead_controller {s : State} {lvl : Nat} {p : Piece} (hdev : isDevLeaf p.leaf.e = false)
    (hc : atController lvl p = true)
    (h : ∀ x, l2Find s p.asid (lineOf p.va) = some x → x.dirty &&& byteMask (p.pa % 128) p.n = 0) :
    (homeRead s lvl p).2 = physRead s p.pa p.n := by
  unfold homeRead
  simp only [hdev, hc, if_true, Bool.false_eq_true, if_false, physRead, (l2Clean_home s p).redirect_eq]
  cases hf : l2Find s p.asid (lineOf p.va) with
  | none => simp [l2Clean, hf]
  | some x => rw [l2Clean_of_some hf, h x hf, l2Write, offsOf_zero, List.foldl_nil]

/-- What the slice's line holds is read there. -/
theorem homeRead_held {s : State} {lvl : Nat} {p : Piece} {x : L2Line} (hdev : isDevLeaf p.leaf.e = false)
    (hc : atController lvl p = false) (hx : l2Find s p.asid (lineOf p.va) = some x)
    (hv : holds x.valid (p.pa % 128) p.n = true) : (homeRead s lvl p).2 = Cells.load x.data (p.pa % 128) p.n := by
  unfold homeRead l2Open
  simp only [hdev, hc, Bool.false_eq_true, if_false, hx, Option.getD_some, hv, if_true]

/-- What was written at the home is read there (02 R57, R58), whatever the halves hold. -/
theorem homeRead_homeWrite {s : State} {lvl : Nat} {p : Piece} (hdev : isDevLeaf p.leaf.e = false) (v : Nat) (l1 : List L1Line) :
    (homeRead { homeWrite s lvl p v with l1 := l1 } lvl p).2 = v % 256 ^ p.n := by
  cases hc : atController lvl p with
  | true =>
    exact (homeRead_controller (s := { homeWrite s lvl p v with l1 := l1 }) hdev hc fun x hx =>
      (l2Find_homeWrite_controller hc v hx).1).trans (physRead_homeWrite (s := s) hc v)
  | false =>
    obtain ⟨x, hx, hload, hv⟩ := l2Find_homeWrite_slice (s := s) hc v
    exact (homeRead_held (s := { homeWrite s lvl p v with l1 := l1 }) hdev hc hx hv).trans hload

theorem updateCopy_frame (s : State) (p : Piece) (v : Nat) : updateCopy s p v = { s with l1 := (updateCopy s p v).l1 } := by
  unfold updateCopy
  dsimp only
  split <;> rfl

/-- Behind a store at the home the issuing half holds no dirty byte of the line (03 R87). -/
theorem l1Find_homeStore_clean (s : State) (lvl : Nat) (p : Piece) (v : Nat) :
    ∀ x, l1Find (homeStore s lvl p v) (halfOf s (lineOf p.va)) p.asid (lineOf p.va) = some x → x.dirty = 0 := by
  have hhalf : halfOf (homeWrite (beforeHome s p.asid p.va) lvl p v) (lineOf p.va) = halfOf s (lineOf p.va) :=
    ((beforeHome_home ..).trans (homeWrite_home ..)).halfOf_eq _
  rw [← hhalf]
  refine l1Find_updateCopy_clean (fun x hx => ?_) v
  rw [hhalf, l1Find_of_l1_eq (homeWrite_l1 ..), l1Find_beforeHome, if_pos ⟨rfl, rfl, rfl⟩] at hx
  obtain ⟨y, -, rfl⟩ := Option.map_eq_some_iff.mp hx
  rfl

/-- What was stored at the home is loaded from there. -/
theorem homeLoad_homeStore {s : State} {lvl : Nat} {p : Piece} (hdev : isDevLeaf p.leaf.e = false) (v : Nat) :
    (homeLoad (homeStore s lvl p v) lvl p).2 = v % 256 ^ p.n := by
  rw [homeLoad, beforeHome_of_clean, homeStore, updateCopy_frame, homeRead_homeWrite hdev]
  rw [(homeStore_home ..).halfOf_eq]
  exact l1Find_homeStore_clean s lvl p v

/-! ### Values at the home -/

/-- The piece still lies in one line, whose copy in the slice is where it was. -/
theorem inLine_of_home {s t : State} {p : Piece} (hp : Claims.InLine s p) (h : HomeStep s t)
    (hx : ∀ x, l2Find t p.asid (lineOf p.va) = some x → ∃ y, l2Find s p.asid (lineOf p.va) = some y ∧ x.pa = y.pa) :
    Claims.InLine t p := by
  obtain ⟨hdev, hn, hlin, hpa⟩ := hp
  refine ⟨hdev, hn, fun o ho => ?_, fun x hxt => ?_⟩
  · rw [h.redirect_eq, h.redirect_eq, hlin o ho]
  · obtain ⟨y, hy, hxy⟩ := hx x hxt
    rw [hxy, hpa y hy]

/-- Writing back leaves a slice's lines where they are. -/
theorem l2Find_l2Clean {s : State} {p : Piece} {asid la : Nat} {x : L2Line} (hx : l2Find (l2Clean s p) asid la = some x) :
    ∃ y, l2Find s asid la = some y ∧ x.pa = y.pa := by
  unfold l2Clean at hx
  split at hx
  · exact ⟨x, hx, rfl⟩
  · next z hz =>
    rw [l2Find_map (s := s) (fun y => ?_) (by rw [← l2Write_l2 s z])] at hx
    · obtain ⟨y, hy, rfl⟩ := Option.map_eq_some_iff.mp hx
      refine ⟨y, hy, ?_⟩
      split <;> rfl
    · split
      · exact ⟨rfl, rfl⟩
      · exact ⟨rfl, rfl⟩

/-- A write at the home leaves its value there (02 R57, R58). -/
theorem homeValueOf_homeWrite {s : State} {p : Piece} (hp : Claims.InLine s p) (v : Nat) :
    homeValueOf (homeWrite s 1 p v) p = v % 256 ^ p.n := by
  obtain ⟨hdev, hn, -, -⟩ := id hp
  unfold homeValueOf
  simp only [hdev, Bool.false_eq_true, if_false]
  cases hcache : eC p.leaf.e with
  | false =>
    have hc : atController 1 p = true := by simp [atController, hcache]
    have hp' : Claims.InLine (homeWrite s 1 p v) p :=
      inLine_of_home hp (homeWrite_home ..) fun x hx => (l2Find_homeWrite_controller hc v hx).2
    obtain ⟨-, -, -, hpa⟩ := id hp'
    cases hf : l2Find (homeWrite s 1 p v) p.asid (lineOf p.va) with
    | none => exact physRead_homeWrite hc v
    | some x =>
      have hclean := (l2Find_homeWrite_controller hc v hf).1
      refine (load_offset fun i hi => ?_).trans (physRead_homeWrite (s := s) hc v)
      have hd := congrArg (fun m => m.getLsbD (p.pa % 128 + i)) hclean
      rw [BitVec.getLsbD_and, byteMask_getLsbD_add hn hi, Bool.and_true] at hd
      rw [get_overlay, if_neg Bool.false_ne_true, hd, if_neg (by simp), hpa x hf, get_memLine_piece hp' hi]
  | true =>
    have hc : atController 1 p = false := by simp [atController, hcache]
    obtain ⟨x, hx, hload, hv⟩ := l2Find_homeWrite_slice (s := s) hc v
    rw [hx, ← hload]
    refine Cells.load_congr _ _ _ _ fun j hlo hhi => ?_
    rw [if_pos rfl, get_overlay, if_pos ((holds_iff _ hn).mp hv j hlo hhi)]

/-- Where the line of a piece lies. -/
theorem l2Open_pa {s : State} {p : Piece} (hp : Claims.InLine s p) : (l2Open s p).pa = p.pa / 128 * 128 := by
  obtain ⟨-, -, -, hpa⟩ := hp
  unfold l2Open
  cases hf : l2Find s p.asid (lineOf p.va) with
  | none => rfl
  | some x => exact hpa x hf

/-- A read at the home leaves the piece in one line. -/
theorem inLine_homeRead {s : State} {p : Piece} (hp : Claims.InLine s p) (lvl : Nat) :
    Claims.InLine (homeRead s lvl p).1 p := by
  obtain ⟨hdev, hn, hlin, hpa⟩ := id hp
  refine ⟨hdev, hn, fun o ho => by
    rw [(homeRead_home ..).redirect_eq, (homeRead_home ..).redirect_eq, hlin o ho], fun x hx => ?_⟩
  unfold homeRead at hx
  rw [if_neg (by simp [hdev])] at hx
  split at hx
  · obtain ⟨y, hy, hxy⟩ := l2Find_l2Clean hx
    rw [hxy, hpa y hy]
  · dsimp only at hx
    obtain ⟨ha, hl⟩ := l2Open_key s p
    rw [← ha, ← hl] at hx
    have hfind := fun y : L2Line => l2Find_l2Put s y
    rw [← l2Open_pa hp]
    split at hx
    · exact Option.some.inj (hx.symm.trans (hfind { l2Open s p with early := lvl == 3 })) ▸ rfl
    · exact Option.some.inj (hx.symm.trans (hfind { l2Filled s (l2Open s p) with early := lvl == 3 })) ▸ rfl

/-- A read at the home gives the value there. -/
theorem homeRead_value {s : State} {p : Piece} (hp : Claims.InLine s p) : (homeRead s 1 p).2 = homeValueOf s p := by
  cases hcache : eC p.leaf.e with
  | false => exact homeRead_uncached hp hcache
  | true => exact homeRead_slice hp (by simp [atController, hcache])

end

end Sys2Proof.Machine

namespace Sys2Proof.Proofs
open Sys2Proof.Machine hiding Ready
open Sys2Proof.Claims

/-! ### Stores and atomics of one piece (02 R55, R57, R58, R60, 03 R87, 12 R333) -/

/-- A store of one piece is one store at its level. -/
theorem storeAt_piece (s : State) (lvl : Nat) (p : Piece) (v n : Nat) :
    storeAt s (.mem lvl [p]) v n = if atL1 lvl p then l1Store s p (v % 256 ^ p.n) else homeStore s lvl p (v % 256 ^ p.n) := rfl

theorem loadAt_piece (s : State) (lvl : Nat) (p : Piece) (n : Nat) :
    loadAt s (.mem lvl [p]) n = if atL1 lvl p then l1Load s p else homeLoad s lvl p := by
  show ((if atL1 lvl p then l1Load s p else homeLoad s lvl p).1, (if atL1 lvl p then l1Load s p else homeLoad s lvl p).2 + 256 ^ p.n * 0) = _
  rfl

theorem heldLine_of_home {s t : State} (h : HomeStep s t) (p : Piece) :
    heldLine t p = l1Find t (halfOf s (lineOf p.va)) p.asid (lineOf p.va) := by
  rw [heldLine, h.halfOf_eq]

/-- The line that a store at level l1 leaves in the issuing half. -/
def storedLine (s : State) (p : Piece) (v : Nat) : L1Line :=
  { l1Open s p with
    data := Cells.store (l1Open s p).data (p.pa % 128) v p.n, valid := (l1Open s p).valid ||| byteMask (p.pa % 128) p.n
    dirty := (l1Open s p).dirty ||| byteMask (p.pa % 128) p.n
    tags := (l1Open s p).tags &&& ~~~wordTags (fun k => inWord k (p.pa % 128) p.n) 0 }

theorem heldLine_l1Store (s : State) (p : Piece) (v : Nat) : heldLine (l1Store s p v) p = some (storedLine s p v) := by
  obtain ⟨hh, ha, hl⟩ := l1Open_key s p
  have hput := l1Find_l1Put_same s (storedLine s p v)
  rw [heldLine_of_home (l1Store_home s p v)]
  rw [show (storedLine s p v).half = _ from hh, show (storedLine s p v).asid = _ from ha,
    show (storedLine s p v).la = _ from hl] at hput
  exact hput

/-- Another line is left alone by a store at level l1, or replaced. -/
theorem l1Find_l1Store_other {s : State} {p : Piece} {half asid la : Nat}
    (hk : ¬(half = halfOf s (lineOf p.va) ∧ asid = p.asid ∧ la = lineOf p.va)) (v : Nat) :
    l1Find (l1Store s p v) half asid la = l1Find s half asid la ∨
      16 ≤ s.l1.length ∧ l1Find (l1Store s p v) half asid la = none := by
  obtain ⟨hh, ha, hl⟩ := l1Open_key s p
  exact l1Find_l1Put_other (x := storedLine s p v) (by
    rwa [show (storedLine s p v).half = _ from hh, show (storedLine s p v).asid = _ from ha,
      show (storedLine s p v).la = _ from hl])

/-- The bytes that the half's line held before a store, none where it held no line. -/
theorem get_l1Open (s : State) (p : Piece) (o : Nat) :
    Cells.get (l1Open s p).data o = ((heldLine s p).map (fun x => Cells.get x.data o)).getD 0 := by
  show Cells.get ((heldLine s p).getD _).data o = _
  cases heldLine s p with
  | none => rfl
  | some x => rfl

/-- What was stored at level l1 is loaded there. -/
theorem l1Load_l1Store (s : State) (p : Piece) (v : Nat) : (l1Load (l1Store s p v) p).2 = v % 256 ^ p.n := by
  have hopen : l1Open (l1Store s p v) p = storedLine s p v := by
    show (heldLine (l1Store s p v) p).getD _ = _
    rw [heldLine_l1Store, Option.getD_some]
  have hheld : holds (storedLine s p v).valid (p.pa % 128) p.n = true := holds_or_byteMask ..
  unfold l1Load l1Fill
  simp only [hopen, hheld, if_true]
  exact Cells.load_store ..

/-- A store at the home changes of memory only what it stores to. -/
theorem homeStore_line (s : State) (lvl : Nat) (p : Piece) (v : Nat) :
    LineStep p.asid (lineOf p.va) (HomeTouches s p) s (homeStore s lvl p v) := by
  have hbefore : LineStep p.asid (lineOf p.va) (HomeTouches s p) s (beforeHome s p.asid p.va) :=
    beforeHome_line rfl fun x o a hx ho hw => .inr (.inr (.inr ⟨x, o, hx, ho, hw⟩))
  refine (hbefore.trans (homeWrite_line ⟨rfl, rfl⟩ (fun a hlo hhi => .inl ?_) fun hobj a hin => .inr (.inl ⟨hobj, ?_⟩))).trans
    (updateCopy_line ..)
  · rw [hbefore.redirect_eq] at hlo hhi
    exact ⟨hlo, hhi⟩
  · obtain ⟨k, c, hk, hc, hlo, hhi⟩ := hin
    exact ⟨k, c, hk, hbefore.granAddr_eq _ ▸ hc, hlo, hhi⟩

/-- No dirty byte of L2 is outside what an access at the home may change. -/
theorem get_mem_of_not_touched {s t : State} {p : Piece} {a : Nat}
    (h : LineStep p.asid (lineOf p.va) (HomeTouches s p) s t) (ha : ¬HomeTouches s p a) :
    Cells.get t.mem a = Cells.get s.mem a :=
  h.bytes a ha fun ⟨x, hx, _, o, ho, e⟩ => ha (.inr (.inr (.inl ⟨x, hx, o, ho, e⟩)))

/-- A store at the home leaves every other line of L1 alone. -/
theorem l1Find_homeStore_other {s : State} {lvl : Nat} {p : Piece} {half asid la : Nat}
    (hk : ¬(half = halfOf s (lineOf p.va) ∧ asid = p.asid ∧ la = lineOf p.va)) (v : Nat) :
    l1Find (homeStore s lvl p v) half asid la = l1Find s half asid la := by
  have hhalf : halfOf (homeWrite (beforeHome s p.asid p.va) lvl p v) (lineOf p.va) = halfOf s (lineOf p.va) :=
    ((beforeHome_home ..).trans (homeWrite_home ..)).halfOf_eq _
  rw [homeStore, l1Find_updateCopy_other (by rwa [hhalf]), l1Find_of_l1_eq (homeWrite_l1 ..), l1Find_beforeHome, if_neg hk]

theorem clean_of_none {s : State} {p : Piece} (h : heldLine s p = none) : ∀ x, heldLine s p = some x → x.dirty = 0 := by
  intro x hx
  rw [h] at hx
  cases hx

/-- Settles O25, level by level. -/
theorem storesTouchOnlyAndAreRead : Obligations.StoresTouchOnlyAndAreRead := by
  unfold Obligations.StoresTouchOnlyAndAreRead
  refine ⟨fun s lvl p v hl1 => ?_, fun s lvl p v hl1 => ?_, fun s off v n => ?_, fun s lvl p v hp => ?_, fun s off v n => ?_,
    fun s lvl p hl1 hnone hp => ⟨fun hc => ?_, fun hc h2 => ?_⟩⟩
  · rw [storeAt_piece, if_pos hl1]
    refine ⟨(l1Store_home s p _).frame, ⟨_, heldLine_l1Store s p _, fun o => ?_⟩, fun half asid la hk => ?_, fun hlen => ⟨?_, ?_⟩⟩
    · rw [storedLine, Cells.get_store_eq_ite, get_l1Open]
      cases heldLine s p with
      | none => rfl
      | some x => rfl
    · exact (l1Find_l1Store_other hk _).imp id And.right
    · rw [show l1Store s p (v % 256 ^ p.n) = l1In s (storedLine s p (v % 256 ^ p.n)) from l1Put_of_lt hlen _]
      rfl
    · exact fun half asid la hk => (l1Find_l1Store_other hk _).resolve_right fun h => by omega
  · rw [storeAt_piece, if_neg (by simp [hl1])]
    exact ⟨(homeStore_home s lvl p _).frame, fun a ha => get_mem_of_not_touched (homeStore_line s lvl p _) ha,
      fun half asid la hk => l1Find_homeStore_other hk _⟩
  · exact ⟨rfl, fun o => Cells.get_store_eq_ite _ off v n o⟩
  · rw [storeAt_piece, loadAt_piece]
    split
    · rw [l1Load_l1Store, Nat.mod_mod]
    · rw [homeLoad_homeStore hp.1, Nat.mod_mod]
  · exact Cells.load_store ..
  · rw [loadAt_piece, if_neg (by simp [hl1]), homeLoad, beforeHome_of_clean (clean_of_none hnone)]
    exact homeRead_slice hp hc
  · rw [loadAt_piece, if_neg (by simp [hl1]), homeLoad, beforeHome_of_clean (clean_of_none hnone)]
    unfold homeRead l2Clean
    simp only [hp.1, hc, h2, if_true, Bool.false_eq_true, if_false]

/-- The issuing half holds the line no longer. -/
theorem heldLine_dropCopy (s : State) (p : Piece) : heldLine (dropCopy s p.asid p.va) p = none := by
  rw [heldLine_of_home (dropCopy_home ..), dropCopy, l1Find_l1Drop, if_pos ⟨rfl, rfl, rfl⟩]

/-- An atomic on one piece: its line is dropped from the half, and the value at the home is read and replaced. -/
theorem rmwAt_piece {s : State} {p : Piece} (hclean : ∀ x, heldLine s p = some x → x.dirty = 0) (lvl n : Nat) (f : Nat → Nat) :
    rmwAt s (.mem lvl [p]) n f =
      (homeWrite (homeRead (dropCopy s p.asid p.va) 1 p).1 1 p
        (f (homeRead (dropCopy s p.asid p.va) 1 p).2 % 256 ^ p.n), (homeRead (dropCopy s p.asid p.va) 1 p).2) := by
  have hdrop : dropCopies s [p] = dropCopy s p.asid p.va := by
    show dropCopy (beforeHome s p.asid p.va) p.asid p.va = _
    rw [beforeHome_of_clean hclean]
  show (homeWrite (homeRead (dropCopies s [p]) 1 p).1 1 p _, _) = _
  rw [hdrop]
  rfl

/-- Settles O26: the value at the home before and after, and what the read and the write at the home leave alone. -/
theorem atomicsUpdateHome : Obligations.AtomicsUpdateHome := by
  unfold Obligations.AtomicsUpdateHome
  refine ⟨fun s lvl p f hp hclean => ?_, fun s off n f => ?_⟩
  · have hdrop : LineStep p.asid (lineOf p.va) (HomeTouches s p) s (dropCopy s p.asid p.va) := .of_l1 ..
    have hread : LineStep p.asid (lineOf p.va) (HomeTouches s p) (dropCopy s p.asid p.va)
        (homeRead (dropCopy s p.asid p.va) 1 p).1 :=
      homeRead_line ⟨rfl, rfl⟩ fun x o hx ho => .inr (.inr (.inl ⟨x, hx, o, ho, rfl⟩))
    have hsr := hdrop.trans hread
    have hwrite := homeWrite_line (lvl := 1) (v := f (homeRead (dropCopy s p.asid p.va) 1 p).2 % 256 ^ p.n)
      (A := HomeTouches s p) (s := (homeRead (dropCopy s p.asid p.va) 1 p).1) (p := p) ⟨rfl, rfl⟩
      (fun a hlo hhi => .inl (by rw [hsr.redirect_eq] at hlo hhi; exact ⟨hlo, hhi⟩))
      (fun hobj a ⟨k, c, hk, hc, hlo, hhi⟩ => .inr (.inl ⟨hobj, k, c, hk, hsr.granAddr_eq _ ▸ hc, hlo, hhi⟩))
    have hp' : InLine (dropCopy s p.asid p.va) p := hp
    have hline := inLine_homeRead hp' 1
    have hvalue : (homeRead (dropCopy s p.asid p.va) 1 p).2 = homeValueOf s p := by
      rw [homeRead_value hp', homeValueOf, homeValueOf, if_neg (by simp [hp.1]), if_neg (by simp [hp.1])]
      rfl
    rw [rmwAt_piece hclean]
    refine ⟨hvalue, ?_, ?_, (hsr.trans hwrite).frame, fun a ha => get_mem_of_not_touched (hsr.trans hwrite) ha⟩
    · rw [homeValueOf_homeWrite hline, hvalue, Nat.mod_mod]
    · rw [heldLine_of_home ((homeRead_home ..).trans (homeWrite_home ..)), l1Find_of_l1_eq (homeWrite_l1 ..),
        l1Find_of_l1_eq (homeRead_l1 ..)]
      exact heldLine_dropCopy s p
  · refine ⟨rfl, Cells.load_store .., rfl, fun o ho => Cells.get_store_of_not_mem _ _ _ _ _ ho⟩

end Sys2Proof.Proofs


/-!
SUPPORT. Cells written one after the other, predicate bits written in any file, and instructions that only retire.
-/
namespace Sys2Proof.Machine

/-! ### Cells written one after the other -/

section
variable {α : Type} {w : Nat} {key : α → Nat} {val : α → BitVec w} {l : List α} {j : Nat}

theorem get_foldl_set_not_mem (c : List (Nat × BitVec w)) (h : ∀ a ∈ l, key a ≠ j) :
    Cells.get (l.foldl (fun c a => Cells.set c (key a) (val a)) c) j = Cells.get c j :=
  List.foldlRecOn (motive := fun d => Cells.get d j = Cells.get c j) _ _ rfl fun d hd a ha => by
    rw [Cells.get_set, if_neg (h a ha), hd]

/-- A cell that is written holds the value, where all that is written there is the same. -/
theorem get_foldl_set_mem {a : α} (ha : a ∈ l) (hk : key a = j) (h : ∀ b ∈ l, key b = j → val b = val a)
    (c : List (Nat × BitVec w)) : Cells.get (l.foldl (fun c a => Cells.set c (key a) (val a)) c) j = val a := by
  induction l using List.reverseRecOn with
  | nil => cases ha
  | append_singleton r b ih =>
    rw [List.foldl_append, List.foldl_cons, List.foldl_nil, Cells.get_set]
    split
    · next hb => exact h b (by simp) hb
    · next hb =>
      have har : a ∈ r := by
        rcases List.mem_append.mp ha with har | hab
        · exact har
        · exact absurd (List.mem_singleton.mp hab ▸ hk) hb
      exact ih har fun b' hb' => h b' (List.mem_append_left _ hb')

end

/-! ### Predicate bits -/

theorem viewKey_regKey_ne {p l j : Nat} (hl : l < 32) (hj : j < 32) (h : j ≠ l) (n m : Nat) :
    viewKey n (regKey p j) ≠ viewKey m (regKey p l) := by
  unfold viewKey regKey
  omega

theorem lookup_holdOld_of_ne {α : Type} {k j : Nat} (hj : ∀ m, j ≠ viewKey m k) (old : α) (ns : List Nat)
    (h : List (Nat × α)) : lookup j (holdOld k old ns h) = lookup j h :=
  List.foldlRecOn (motive := fun d => lookup j d = lookup j h) _ _ rfl fun d hd m _ => by
    split
    · exact hd
    · rw [lookup_keep, if_neg (hj m), hd]

/-- What holds the bits that a fragment keeps is found by its identifier. -/
theorem exportOf_of_seatHolds {s : State} {l : Nat} (h : seatHolds s s.f.seat l = true) : ∃ e, exportOf s = some e := by
  unfold seatHolds Frag.seat at h
  unfold exportOf
  cases hx : s.f.exp with
  | none => simp [hx] at h
  | some x =>
    simp only [hx, Option.map_some, Option.any_some, List.any_eq_true, Bool.and_eq_true] at h
    obtain ⟨e, he, hid, -⟩ := h
    exact Option.isSome_iff_exists.mp (List.find?_isSome.mpr ⟨e, he, hid⟩)

theorem exportOf_id {s : State} {e : Export} (h : exportOf s = some e) : s.f.exp = some e.id := by
  unfold exportOf at h
  cases hx : s.f.exp with
  | none => simp [hx] at h
  | some x =>
    rw [hx] at h
    have := List.find?_some h
    simp only [beq_iff_eq] at this
    rw [this]

/-- A fragment's exported part after it has written a predicate bit: it keeps the value, above the old one where that is taken. -/
def keptBit (s : State) (p l : Nat) (b : Bool) (ns : Export → List Nat) (pd : Export → List Nat) (e : Export) : Export :=
  { e with pheld := keep (viewKey s.f.nw (regKey p l)) b
                      (holdOld (regKey p l) ((Cells.get s.w.p p).getLsbD l) (ns e) e.pheld), pdirty := pd e }

/-- The parent's file after a predicate bit is written: the bit is written there where no exported part holds it. -/
theorem exportOf_writePBit (s : State) {p l : Nat} (b : Bool) (hp : p ≠ 0) :
    ((writePBit s p l b).w.p = s.w.p ∧ exportOf s ≠ none ∨
      (writePBit s p l b).w.p = Cells.set s.w.p p (setBit (Cells.get s.w.p p) l b)) ∧
    ∃ ns pd, exportOf (writePBit s p l b) = (exportOf s).map (keptBit s p l b ns pd) := by
  have hput : writePBit s p l b = putBit s.f.seat p l b s := if_neg hp
  rw [hput]
  unfold putBit
  dsimp only
  split
  · next hempty =>
    refine ⟨.inr rfl, fun _ => [], Export.pdirty, ?_⟩
    rw [List.isEmpty_iff] at hempty
    unfold exportOf
    dsimp only
    rw [hempty]
    split <;> rfl
  · unfold Frag.seat
    cases hx : s.f.exp with
    | none =>
      refine ⟨.inr rfl, fun _ => [], Export.pdirty, ?_⟩
      unfold exportOf
      simp only [hx, Option.map_none]
    | some x =>
      dsimp only [Option.map_some]
      split
      · next hold =>
        obtain ⟨e, he⟩ := exportOf_of_seatHolds (s := s) (l := l) (by rw [Frag.seat, hx]; exact hold)
        refine ⟨.inl ⟨rfl, by simp [he]⟩, fun _ => [], fun e => addOnce (regKey p l) e.pdirty, ?_⟩
        rw [exportOf_updExport _ _ _ (by intro e; rfl), he]
        have hid : e.id = x := Option.some.inj ((exportOf_id he).symm.trans hx)
        simp [hid, keptBit, holdOld]
      · refine ⟨.inr rfl, fun e => e.keepers (some (x, s.f.nw)) l, Export.pdirty, ?_⟩
        rw [exportOf_updExport _ _ _ (by intro e; rfl),
          exportOf_map (s := s) (fun e : Export =>
            { e with
              pheld := holdOld (regKey p l) ((Cells.get s.w.p p).getLsbD l) (e.keepers (some (x, s.f.nw)) l) e.pheld })
            (by rfl) (by rfl) (by intro e; rfl)]
        cases he : exportOf s with
        | none => rfl
        | some e =>
          have hid : e.id = x := Option.some.inj ((exportOf_id he).symm.trans hx)
          simp [hid, keptBit]

/-- What a fragment finds of a predicate after it has written a bit of it, whichever file holds the bit. -/
theorem filePred_writePBit (s : State) {p l j : Nat} (b : Bool) (hp : p ≠ 0) (hl : l < 32) (hj : j < 32) :
    filePred (writePBit s p l b) p j = if j = l then b else filePred s p j := by
  obtain ⟨hfile, ns, pd, hexp⟩ := exportOf_writePBit s (l := l) b hp
  have hnw : (writePBit s p l b).f.nw = s.f.nw := by rw [writePBit_frame]
  have hother : j ≠ l → (Cells.get (writePBit s p l b).w.p p).getLsbD j = (Cells.get s.w.p p).getLsbD j := fun hne => by
    rcases hfile with ⟨h, -⟩ | h
    · rw [h]
    · rw [h, Cells.get_set, if_pos rfl, setBit_getLsbD _ _ _ _ hl, if_neg hne]
  unfold filePred
  rw [hexp]
  cases he : exportOf s with
  | none =>
    dsimp only [Option.map_none]
    split
    · next heq =>
      subst heq
      have h := hfile.resolve_left fun h => h.2 he
      rw [h, Cells.get_set, if_pos rfl, setBit_getLsbD _ _ _ _ hl, if_pos rfl]
    · next hne => exact hother hne
  | some e =>
    dsimp only [Option.map_some, keptBit]
    rw [hnw, lookup_keep]
    split
    · next heq =>
      rw [viewKey_inj, regKey_inj hj hl] at heq
      rw [if_pos heq.2]
      rfl
    · next hne =>
      have hjl : j ≠ l := fun h => hne (by rw [h])
      rw [if_neg hjl, lookup_holdOld_of_ne (fun m => viewKey_regKey_ne hl hj hjl _ m), hother hjl]

/-- Bits of a predicate written in the lanes of a mask; p0 is not written (09 R256). -/
theorem filePred_writeP (s : State) (p : Nat) (m bits : Lanes) {j : Nat} (hj : j < 32) :
    filePred (writeP s p m bits) p j = if p ≠ 0 ∧ m.getLsbD j = true then bits.getLsbD j else filePred s p j := by
  by_cases hp : p = 0
  · subst hp
    have h0 : writeP s 0 m bits = s := List.foldlRecOn (motive := fun t : State => t = s) _ _ rfl fun t ht l _ => ht
    rw [h0, if_neg (by simp)]
  · suffices ∀ (ls : List Nat) (t : State), (∀ l ∈ ls, l < 32) →
        filePred (ls.foldl (fun s l => writePBit s p l (bits.getLsbD l)) t) p j =
          if j ∈ ls then bits.getLsbD j else filePred t p j by
      have h := this (lanesOf m) s fun l hl => lt_of_mem_lanesOf hl
      simpa only [writeP, mem_lanesOf, hp, ne_eq, not_false_eq_true, true_and] using h
    intro ls
    induction ls with
    | nil => exact fun _ _ => by simp
    | cons l r ih =>
      intro t hls
      rw [List.foldl_cons, ih _ fun l hl => hls l (List.mem_cons_of_mem _ hl), filePred_writePBit t _ hp (hls l (by simp)) hj]
      by_cases hr : j ∈ r
      · simp [hr]
      · by_cases hjl : j = l <;> simp [hr, hjl]

theorem map_exps_updExport {β : Type} {g : Export → β} {u : Export → Export} (hu : ∀ e, g (u e) = g e) (s : State) (x : Nat) :
    (updExport s x u).w.exps.map g = s.w.exps.map g := by
  rw [updExport, List.map_map]
  refine List.map_congr_left fun e _ => ?_
  rw [Function.comp_apply]
  split
  · exact hu e
  · rfl

/-- A written predicate bit changes nothing of the exports but the bits that they hold. -/
theorem sameExports_putBit (me : Option (Nat × Nat)) (p l : Nat) (b : Bool) (s : State) :
    Claims.SameExports s (putBit me p l b s) := by
  unfold Claims.SameExports putBit
  dsimp only
  split
  · rfl
  · split
    · split
      · exact map_exps_updExport (by intro e; rfl) _ _
      · refine (map_exps_updExport (by intro e; rfl) _ _).trans ?_
        exact List.map_map
    · exact List.map_map

theorem sameExports_trans {s t u : State} (h : Claims.SameExports s t) (k : Claims.SameExports t u) :
    Claims.SameExports s u := Eq.trans k h

theorem sameExports_writeP (s : State) (p : Nat) (m bits : Lanes) : Claims.SameExports s (writeP s p m bits) :=
  List.foldlRecOn (motive := fun t => Claims.SameExports s t) _ _ rfl fun t ht l _ => by
    unfold writePBit
    split
    · exact ht
    · exact sameExports_trans ht (sameExports_putBit ..)

theorem writeP_frame (s : State) (p : Nat) (m bits : Lanes) :
    writeP s p m bits = { s with w := { s.w with p := (writeP s p m bits).w.p, exps := (writeP s p m bits).w.exps } } := by
  refine List.foldlRecOn (motive := fun t : State => t = { s with w := { s.w with p := t.w.p, exps := t.w.exps } })
    _ _ rfl fun t ht l _ => ?_
  rw [writePBit_frame, ht]

/-- The lanes that an instruction writes are the claims' write set, where nothing is reissued. -/
theorem wset_eq_writeLanesOf {s : State} (h : s.f.replay = none) : wset s = Claims.writeLanesOf s := by
  have hnarrow : ∀ l, l < 32 → (0xF : Lanes).getLsbD l = decide (l < 4) := by decide
  have hwide : ∀ l, l < 32 → (0xFFFFFFFF : Lanes).getLsbD l = true := by decide
  refine lanes_ext _ _ fun l hl => ?_
  rw [wset, writeSet, actSet_eq_activeLanesOf h]
  unfold Claims.writeLanesOf Claims.activeLanesOf warpLanes
  rw [mkLanes_getLsbD]
  split
  · split
    · next hn => rw [hnarrow l hl]; simp [hn, hl]
    · next hn => rw [hwide l hl]; simp [hn, hl]
  · rw [mkLanes_getLsbD]

/-! ### Instructions that only retire -/

/-- What an instruction leaves that retires: the fragment's position and the last-read marks differ. -/
theorem retire_shape {i : Instr} {u : State} (h : u.f.replay = none) :
    ∃ a l, retire i u =
      { u with
        f := { u.f with pc := nextPc u.f, inClause := !lastWord u.f, hold := .free, done := 0, count := 0, latch := a }
        w := { u.w with lastRead := l } } := by
  refine ⟨(retire i u).f.latch, (retire i u).w.lastRead, ?_⟩
  rw [← retire_f i u h]
  exact retire_frame i u h

/-! ### Handles (13 R358) -/

/-- A check that no quarter fails. -/
theorem firstFault_of_pass {s : State} {qs : List Nat} {code : Nat} {f : Nat → Option Nat} {rest : List Check}
    (h : ∀ q ∈ qs, f q = none) : firstFault s qs ((code, f) :: rest) = firstFault s qs rest := by
  have hnil : qs.filterMap (fun q => (f q).map (fun a => (q, a))) = [] :=
    List.filterMap_eq_nil_iff.mpr fun q hq => by rw [h q hq]; rfl
  simp only [firstFault, hnil]

/-- A quarter operation without live quarters only retires. -/
theorem tileOp_of_dead {i : Instr} {early late : List Check} {held : List Nat → Bool} {k : List Nat → State → State} {s : State}
    (h : liveQuarters s = []) : tileOp i early held late k s = retire i s := by
  simp [tileOp, h]

/-- A quarter operation whose checks pass and that does not wait has its effect. -/
theorem tileOp_of_pass {i : Instr} {early late : List Check} {held : List Nat → Bool} {k : List Nat → State → State} {s : State}
    (hne : liveQuarters s ≠ []) (he : firstFault s (liveQuarters s) early = none) (hh : held (liveQuarters s) = false)
    (hl : firstFault s (liveQuarters s) late = none) : tileOp i early held late k s = k (liveQuarters s) s := by
  simp [tileOp, hne, he, hh, hl]

/-- The handles of a warp after one is written in some quarters. -/
def handlesWritten (h : BitVec 4) (new : Nat → BitVec 128) (qs : List Nat) (c : List (Nat × BitVec 128)) :
    List (Nat × BitVec 128) :=
  qs.foldl (fun c q => Cells.set c (16 * q + h.toNat) (new q)) c

theorem get_handlesWritten (h : BitVec 4) (new : Nat → BitVec 128) (qs : List Nat) (c : List (Nat × BitVec 128)) (q : Nat)
    (k : BitVec 4) : Cells.get (handlesWritten h new qs c) (16 * q + k.toNat) =
      if q ∈ qs ∧ k = h then new q else Cells.get c (16 * q + k.toNat) := by
  have hkey : ∀ q', 16 * q' + h.toNat = 16 * q + k.toNat ↔ q' = q ∧ k = h := fun q' => by
    rw [← BitVec.toNat_inj]
    omega
  unfold handlesWritten
  split
  · next hq => exact get_foldl_set_mem hq.1 ((hkey q).mpr ⟨rfl, hq.2⟩) (fun b _ hb => by rw [((hkey b).mp hb).1]) c
  · next hq => exact get_foldl_set_not_mem c fun b hb hb' => hq ⟨((hkey b).mp hb').1 ▸ hb, ((hkey b).mp hb').2⟩

/-- Where no quarter's handle breaks a check, a handle is written in every live quarter. -/
theorem writeHandles_pass {i : Instr} {h : BitVec 4} {new : Nat → BitVec 128} {s : State}
    (hok : ∀ q ∈ liveQuarters s, (handleOf (new q)).broken = false) :
    writeHandles i h new s =
      retire i { s with w := { s.w with h := handlesWritten h new (liveQuarters s) s.w.h } } := by
  by_cases hne : liveQuarters s = []
  · rw [writeHandles, tileOp_of_dead hne, hne]
    rfl
  · have hpass : firstFault s (liveQuarters s)
        [(0x11, fun q => failIf (handleOf (new q)).broken h.toNat)] = none := by
      rw [firstFault_of_pass fun q hq => by rw [failIf, hok q hq]; rfl]
      rfl
    rw [writeHandles, tileOp_of_pass hne hpass rfl rfl]
    rfl

/-! ### Tile predicates (13 R378) -/

theorem writeZ_frame (s : State) (z : BitVec 3) (v : BitVec 4) :
    writeZ s z v = { s with w := { s.w with z := (writeZ s z v).w.z } } := by
  unfold writeZ
  split <;> rfl

/-- z0 reads all ones and is never written. -/
theorem readZ_writeZ {s : State} (hz : s.w.z.length = 8) (z : BitVec 3) (v : BitVec 4) (y : BitVec 3) :
    readZ (writeZ s z v) y = if y = 0 then 15 else if y = z then v else readZ s y := by
  unfold readZ writeZ
  by_cases hy : y = 0
  · simp [hy]
  by_cases h0 : z = 0
  · rw [if_pos h0, if_neg hy, if_neg hy, if_neg (h0 ▸ hy)]
  · have hlt : z.toNat < s.w.z.length := hz ▸ z.isLt
    simp only [hy, h0, if_false, List.getD_eq_getElem?_getD, List.getElem?_set, BitVec.toNat_inj, hlt, if_true]
    by_cases hyz : y = z
    · simp [hyz]
    · simp [hyz, Ne.symm hyz]

end Sys2Proof.Machine

namespace Sys2Proof.Proofs
open Sys2Proof.Machine hiding Ready
open Sys2Proof.Claims

/-! ### Handles, tile predicates and the fill fence (13 R358, R378, R379) -/

/-- An instruction that writes a handle, whose checks pass. -/
theorem writeHandles_writes {i : Instr} {s : State} {h : BitVec 4} {new : Nat → BitVec 128} (hr : Ready i s)
    (hok : ∀ q ∈ liveQuarters s, (handleOf (new q)).broken = false) :
    (let t := writeHandles i h new (unheld s)
     Past s t ∧ t = { s with f := t.f, w := { s.w with lastRead := t.w.lastRead, h := t.w.h } } ∧
     ∀ q k, q < 4 → handleBits t q k = if q ∈ liveQuarters s ∧ k = h then new q else handleBits s q k) := by
  have hw : writeHandles i h new (unheld s) = retire i { unheld s with
      w := { s.w with h := handlesWritten h new (liveQuarters s) s.w.h } } := writeHandles_pass (s := unheld s) hok
  have hpast : Past s (writeHandles i h new (unheld s)) := hw ▸ past_retire hr rfl
  obtain ⟨a, lr, ht⟩ := retire_shape (i := i) (u := { unheld s with
    w := { s.w with h := handlesWritten h new (liveQuarters s) s.w.h } }) (replay_of_ready hr)
  refine ⟨hpast, ?_, fun q k _ => ?_⟩
  · rw [hw, ht]
    rfl
  · rw [hw, ht]
    exact get_handlesWritten ..

/-- An instruction that writes a tile predicate. -/
theorem writeZ_writes {i : Instr} {s : State} (hr : Ready i s) (hz : s.w.z.length = 8) (z : BitVec 3) (v : BitVec 4) :
    (let t := retire i (writeZ (unheld s) z v)
     Past s t ∧ t = { s with f := t.f, w := { s.w with lastRead := t.w.lastRead, z := t.w.z } } ∧
     ∀ y, readZ t y = if y = 0 then 15 else if y = z then v else readZ s y) := by
  have hf : (writeZ (unheld s) z v).f = (started s).f := by rw [writeZ_frame]; rfl
  obtain ⟨a, lr, ht⟩ := retire_shape (i := i) (u := writeZ (unheld s) z v) (by rw [hf]; exact replay_of_ready hr)
  refine ⟨past_retire hr hf, ?_, fun y => ?_⟩
  · rw [ht, writeZ_frame]
    rfl
  · rw [ht]
    exact readZ_writeZ (s := unheld s) hz z v y

/-- An instruction that writes a predicate in its write set. -/
theorem writeP_writes {i : Instr} {s : State} (hr : Ready i s) (p : BitVec 3) (bits : Lanes) :
    (let t := retire i (writeP (unheld s) p.toNat (wset (unheld s)) bits)
     Past s t ∧ OnlyPredicates s t ∧ ∀ l, l < 32 → filePred t p.toNat l =
       if p ≠ 0 ∧ (writeLanesOf s).getLsbD l = true then bits.getLsbD l else filePred s p.toNat l) := by
  have hframe := writeP_frame (unheld s) p.toNat (wset (unheld s)) bits
  have hsame := sameExports_writeP (unheld s) p.toNat (wset (unheld s)) bits
  have hpred := fun l hl => filePred_writeP (unheld s) p.toNat (wset (unheld s)) bits (j := l) hl
  have hmask : wset (unheld s) = writeLanesOf s := wset_eq_writeLanesOf (s := s) (replay_of_ready hr)
  have hp : p.toNat ≠ 0 ↔ p ≠ 0 := by simp [← BitVec.toNat_inj]
  generalize writeP (unheld s) p.toNat (wset (unheld s)) bits = u at *
  have hf : u.f = (started s).f := by rw [hframe]; rfl
  obtain ⟨a, lr, ht⟩ := retire_shape (i := i) (u := u) (by rw [hf]; exact replay_of_ready hr)
  refine ⟨past_retire hr hf, ⟨?_, ?_⟩, fun l hl => ?_⟩
  · rw [ht, hframe]
    rfl
  · rw [ht]
    exact hsame
  · have hfile : filePred (retire i u) p.toNat l = filePred u p.toNat l := by rw [ht]; rfl
    simp only [hfile, hpred l hl, hp, hmask]
    rfl

/-- `spfen` retires from the next window generation. -/
theorem generation_starts {s : State} (hr : Ready .spfen s) (opc : List OpLine) :
    (let t := retire .spfen { unheld s with opc := opc, blk := { s.blk with gen := s.blk.gen + 1 } }
     Past s t ∧ t.blk = { s.blk with gen := s.blk.gen + 1 } ∧ t.opc = opc ∧
     t = { s with f := t.f, w := { s.w with lastRead := t.w.lastRead }, blk := t.blk, opc := t.opc }) := by
  obtain ⟨a, lr, ht⟩ := retire_shape (i := .spfen)
    (u := { unheld s with opc := opc, blk := { s.blk with gen := s.blk.gen + 1 } }) (replay_of_ready hr)
  refine ⟨past_retire hr rfl, ?_⟩
  rw [ht]
  exact ⟨rfl, rfl, rfl⟩

/-- Settles O39, form by form: each only writes what it names and retires. -/
theorem handlesAndTilePredicates : Obligations.HandlesAndTilePredicates := by
  unfold Obligations.HandlesAndTilePredicates
  refine ⟨fun s h sa sb st hr => ?hset, fun s h sa sl hr => ?hadj, fun i s z v hr hz hi => ?zpred,
    fun s z p hr => ?ztst, fun s hr hcol => ?spfen⟩
  case hset =>
    have harm : exec (.hset h sa sb st) s = execHset h sa sb st s := rfl
    intro v new hok
    exact ⟨_, by rw [harm, execHset, issue_of_ready hr]; rfl, writeHandles_writes hr hok⟩
  case hadj =>
    have harm : exec (.hadj h sa sl) s = execHadj h sa sl s := rfl
    intro x new hok
    exact ⟨_, by rw [harm, execHadj, issue_of_ready hr]; rfl, writeHandles_writes hr hok⟩
  case zpred =>
    rcases hi with rfl | ⟨za, zb, fn, rfl, rfl⟩
    · have harm : exec (.zset z v) s = execZset z v s := rfl
      exact ⟨_, by rw [harm, execZset, issue_of_ready hr], writeZ_writes hr hz z v⟩
    · have harm : exec (.zlog z za zb fn) s = execZlog z za zb fn s := rfl
      exact ⟨_, by rw [harm, execZlog, issue_of_ready hr]; rfl, writeZ_writes hr hz z _⟩
  case ztst =>
    have harm : exec (.ztst z p) s = execZtst z p s := rfl
    refine ⟨_, by rw [harm, execZtst, issue_of_ready hr], ?_⟩
    obtain ⟨hpast, honly, hpred⟩ := writeP_writes hr p (mkLanes (fun l => (readZ s z).getLsbD (l / 8)))
    refine ⟨hpast, honly, fun l hl => (hpred l hl).trans ?_⟩
    rw [mkLanes_getLsbD, decide_eq_true hl, Bool.true_and]
  case spfen =>
    have harm : exec .spfen s = execSpfen s := rfl
    have hcol' : collected (unheld s) = true := hcol
    refine ⟨_, by rw [harm, execSpfen, issue_of_ready hr, afterWork, if_pos hcol'], ?_⟩
    dsimp only
    split
    · next hg =>
      obtain ⟨hpast, hblk, hopc, hframe⟩ := generation_starts hr (s.opc.filter (fun e => e.blk != s.blk.uid))
      refine ⟨hpast, hblk, hframe, fun h => absurd hg h, fun _ e he => ?_⟩
      have hkept : e ∈ s.opc.filter (fun e => e.blk != s.blk.uid) := hopc.subst (motive := (e ∈ ·)) he
      exact bne_iff_ne.mp (List.mem_filter.mp hkept).2
    · next hg =>
      obtain ⟨hpast, hblk, hopc, hframe⟩ := generation_starts hr s.opc
      exact ⟨hpast, hblk, hframe, fun _ => hopc, fun h => absurd h hg⟩

end Sys2Proof.Proofs


/-!
SUPPORT. Accumulator tiles and ranked lists: what writing words of a tile, undeclaring a list and writing its rows leave, and
what holds after the same step has been made for each of a list's elements.
-/
namespace Sys2Proof.Machine

/-! ### A step made for each element of a list -/

/-- What one element's step establishes and every step keeps holds after all of them. -/
theorem foldl_establishes {α σ : Type} {P : σ → Prop} {f : σ → α → σ} {l : List α} {a : α} (ha : a ∈ l)
    (hset : ∀ s, P (f s a)) (hkeep : ∀ s, ∀ b ∈ l, P s → P (f s b)) (s : σ) : P (l.foldl f s) := by
  induction l using List.reverseRecOn with
  | nil => cases ha
  | append_singleton r b ih =>
    rw [List.foldl_append, List.foldl_cons, List.foldl_nil]
    by_cases hab : a = b
    · exact hab ▸ hset _
    · have har : a ∈ r := (List.mem_append.mp ha).resolve_right fun h => hab (List.mem_singleton.mp h)
      exact hkeep _ b (by simp) (ih har fun s b hb => hkeep s b (List.mem_append_left _ hb))

/-! ### Steps over tiles (02 R46) -/

/-- Nothing but the block's tiles and its ranked lists has changed. -/
def TilesStep (s t : State) : Prop := t = { s with blk := { s.blk with tiles := t.blk.tiles, lists := t.blk.lists } }

namespace TilesStep
variable {s t u : State}

theorem refl (s : State) : TilesStep s s := rfl

theorem trans (h : TilesStep s t) (k : TilesStep t u) : TilesStep s u := by
  unfold TilesStep at *
  rw [k, h]

theorem foldl {α : Type} {f : State → α → State} {l : List α} (h : ∀ s a, TilesStep s (f s a)) (s : State) :
    TilesStep s (l.foldl f s) :=
  List.foldlRecOn (motive := fun t => TilesStep s t) _ _ (refl s) fun t ht a _ => ht.trans (h t a)

theorem coreIdx_eq (h : TilesStep s t) : coreIdx t = coreIdx s := by
  unfold coreIdx
  rw [h]

theorem holds_eq (h : TilesStep s t) (x : RankList) (a : Nat) : x.holds t a = x.holds s a := by
  unfold RankList.holds
  rw [h.coreIdx_eq]

theorem tileOf_eq (h : TilesStep s t) (off : BitVec 5) (q : Nat) : tileOf t off q = tileOf s off q := by
  unfold tileOf
  rw [h]

theorem firstTile_eq (h : TilesStep s t) (off : BitVec 5) (k q : Nat) : firstTile t off k q = firstTile s off k q := by
  unfold firstTile
  rw [h.tileOf_eq]

end TilesStep

theorem setTile_step (s : State) (a : Nat) (l : List (Nat × Nat)) : TilesStep s (setTile s a l) := rfl

theorem lists_setTile (s : State) (a : Nat) (l : List (Nat × Nat)) : (setTile s a l).blk.lists = s.blk.lists := rfl

theorem undeclare_step (s : State) (a n : Nat) : TilesStep s (undeclare s a n) := rfl

theorem mem_lists_undeclare {s : State} {a n : Nat} {x : RankList} :
    x ∈ (undeclare s a n).blk.lists ↔ x ∈ s.blk.lists ∧ ∀ j < n, x.holds s (a + j) = false := by
  unfold undeclare
  simp

/-- The tiles and words that a key stands for. -/
theorem tileKey_inj {s : State} {a b i j : Nat} (hi : i < 512) (hj : j < 512) : tileKey s a i = tileKey s b j ↔ a = b ∧ i = j := by
  unfold tileKey
  omega

theorem lt_of_mem_tileCells {f : Nat → Nat → Nat} {p : Nat × Nat} (h : p ∈ tileCells f) : p.1 < 512 := by
  simp only [tileCells, grid, List.mem_map, List.mem_flatMap, List.mem_range] at h
  obtain ⟨_, ⟨r, hr, c, hc, rfl⟩, rfl⟩ := h
  dsimp only
  omega

theorem mem_tileCells {f : Nat → Nat → Nat} {r c : Nat} (hr : r < 16) (hc : c < 32) : (32 * r + c, f r c) ∈ tileCells f := by
  simp only [tileCells, grid, List.mem_map, List.mem_flatMap, List.mem_range]
  exact ⟨(r, c), ⟨r, hr, c, hc, rfl⟩, rfl⟩

theorem tileWord_setTile_other {s : State} {a b i : Nat} {l : List (Nat × Nat)} (hl : ∀ p ∈ l, p.1 < 512) (hi : i < 512)
    (hab : a ≠ b) : tileWord (setTile s a l) b i = tileWord s b i :=
  get_foldl_set_not_mem _ fun p hp h => hab ((tileKey_inj (hl p hp) hi).mp h).1

/-- A word that is written holds the value, where the words of its list all have the same. -/
theorem tileWord_setTile_const {s : State} {a i v : Nat} {l : List (Nat × Nat)} (hi : (i, v) ∈ l) (hl : ∀ p ∈ l, p.2 = v) :
    tileWord (setTile s a l) a i = BitVec.ofNat 32 v :=
  get_foldl_set_mem (val := fun p : Nat × Nat => BitVec.ofNat 32 p.2) hi rfl (fun p hp _ => by dsimp only; rw [hl p hp]) _

/-- A tile that is cleared is 0 in every word. -/
theorem tileWord_setTile_zero (s : State) (a : Nat) {r c : Nat} (hr : r < 16) (hc : c < 32) :
    tileWord (setTile s a (tileCells (fun _ _ => 0))) a (32 * r + c) = 0 :=
  tileWord_setTile_const (mem_tileCells (f := fun _ _ => 0) hr hc) fun p hp => by
    obtain ⟨_, _, rfl⟩ := List.mem_map.mp hp
    rfl

/-! ### Clearing tiles (13 R367) -/

/-- A tile is cleared, and the list that holds it undeclared. -/
def clearTile (s : State) (a : Nat) : State := setTile (undeclare s a 1) a (tileCells (fun _ _ => 0))

theorem clearTile_step (s : State) (a : Nat) : TilesStep s (clearTile s a) :=
  (undeclare_step s a 1).trans (setTile_step ..)

theorem tileWord_clearTile_other {s : State} {a b i : Nat} (hi : i < 512) (hab : a ≠ b) :
    tileWord (clearTile s a) b i = tileWord s b i :=
  tileWord_setTile_other (fun _ => lt_of_mem_tileCells) hi hab

theorem tileWord_clearTile_same (s : State) (a : Nat) {r c : Nat} (hr : r < 16) (hc : c < 32) :
    tileWord (clearTile s a) a (32 * r + c) = 0 := by
  rw [clearTile, tileWord_setTile_zero _ a hr hc]

theorem mem_lists_clearTile {s : State} {a : Nat} {x : RankList} :
    x ∈ (clearTile s a).blk.lists ↔ x ∈ s.blk.lists ∧ x.holds s a = false := by
  rw [clearTile, lists_setTile, mem_lists_undeclare]
  simp only [Nat.lt_one_iff, forall_eq, Nat.add_zero]

theorem tileWord_clearTiles {s : State} {ts : List Nat} {a r c : Nat} (ha : a ∈ ts) (hr : r < 16) (hc : c < 32) :
    tileWord (ts.foldl clearTile s) a (32 * r + c) = 0 :=
  foldl_establishes (P := fun t => tileWord t a (32 * r + c) = 0) ha (fun s => tileWord_clearTile_same s a hr hc)
    (fun s b _ h => by
      by_cases hab : b = a
      · rw [hab]
        exact tileWord_clearTile_same s a hr hc
      · rw [tileWord_clearTile_other (by omega) hab, h]) s

theorem tileWord_clearTiles_other {s : State} {ts : List Nat} {a i : Nat} (ha : a ∉ ts) (hi : i < 512) :
    tileWord (ts.foldl clearTile s) a i = tileWord s a i :=
  List.foldlRecOn (motive := fun t => tileWord t a i = tileWord s a i) _ _ rfl fun t ht b hb => by
    rw [tileWord_clearTile_other hi (fun h : b = a => ha (h ▸ hb)), ht]

theorem mem_lists_clearTiles {s : State} {ts : List Nat} {x : RankList} :
    x ∈ (ts.foldl clearTile s).blk.lists ↔ x ∈ s.blk.lists ∧ ∀ a ∈ ts, x.holds s a = false := by
  induction ts generalizing s with
  | nil => simp
  | cons a r ih =>
    have hstep : ∀ b, x.holds (clearTile s a) b = x.holds s b := (clearTile_step s a).holds_eq x
    simp only [List.foldl_cons, ih, mem_lists_clearTile, hstep, List.forall_mem_cons, and_assoc]

/-! ### Empty entries (13 R370) -/

theorem tileWord_setTile_pair {s : State} {a b i j v w : Nat} (hi : i + 1 < 512) (hj : j < 512) :
    tileWord (setTile s a [(i, v), (i + 1, w)]) b j =
      if a = b ∧ i + 1 = j then BitVec.ofNat 32 w else if a = b ∧ i = j then BitVec.ofNat 32 v else tileWord s b j := by
  have h0 := tileKey_inj (s := s) (a := a) (b := b) (show i < 512 by omega) hj
  have h1 := tileKey_inj (s := s) (a := a) (b := b) hi hj
  have hkey : tileWord (setTile s a [(i, v), (i + 1, w)]) b j =
    Cells.get (Cells.set (Cells.set s.blk.tiles (tileKey s a i) (BitVec.ofNat 32 v)) (tileKey s a (i + 1)) (BitVec.ofNat 32 w))
      (tileKey s b j) := rfl
  rw [hkey, Cells.get_set, Cells.get_set]
  simp only [h0, h1, tileWord]

/-- An entry of a list is made empty. -/
def emptyEntry (first k r : Nat) (s : State) (j : Nat) : State :=
  setTile s (entryPlace first k r j).1
    [((entryPlace first k r j).2, emptySlot.1), ((entryPlace first k r j).2 + 1, emptySlot.2)]

theorem entryPlace_lt (first k r j : Nat) : (entryPlace first k r j).2 + 1 < 512 := by
  unfold entryPlace
  dsimp only
  omega

theorem entryAt_emptyEntry_same (s : State) (first k r j : Nat) :
    entryAt (emptyEntry first k r s j) first k r j = emptySlot := by
  have hlt := entryPlace_lt first k r j
  unfold entryAt emptyEntry
  dsimp only
  rw [tileWord_setTile_pair hlt (by omega), tileWord_setTile_pair hlt hlt, if_neg (by omega), if_pos ⟨rfl, rfl⟩,
    if_pos ⟨rfl, rfl⟩]
  rfl

/-- An empty entry of a list stays empty when another one is made so. -/
theorem entryAt_emptyEntry_keep {s : State} {first k r j r' j' : Nat} (h : entryAt s first k r' j' = emptySlot) :
    entryAt (emptyEntry first k r s j) first k r' j' = emptySlot := by
  by_cases hp : entryPlace first k r j = entryPlace first k r' j'
  · have hsame := entryAt_emptyEntry_same s first k r' j'
    unfold emptyEntry at hsame ⊢
    rw [hp]
    exact hsame
  · have hlt := entryPlace_lt first k r j
    have hlt' := entryPlace_lt first k r' j'
    have hne : ¬((entryPlace first k r j).1 = (entryPlace first k r' j').1 ∧ (entryPlace first k r j).2 = (entryPlace first k r' j').2) :=
      fun hh => hp (Prod.ext hh.1 hh.2)
    have heven : (entryPlace first k r j).2 % 2 = 0 ∧ (entryPlace first k r' j').2 % 2 = 0 := by
      unfold entryPlace
      dsimp only
      omega
    unfold entryAt emptyEntry at *
    dsimp only at *
    rw [tileWord_setTile_pair hlt (by omega), tileWord_setTile_pair hlt hlt', if_neg (by omega), if_neg hne,
      if_neg (by omega), if_neg (by omega), h]

theorem tileWord_emptyEntry_other {s : State} {first k r j a i : Nat} (ha : (entryPlace first k r j).1 ≠ a) (hi : i < 512) :
    tileWord (emptyEntry first k r s j) a i = tileWord s a i := by
  rw [emptyEntry, tileWord_setTile_pair (entryPlace_lt ..) hi, if_neg (fun h => ha h.1), if_neg (fun h => ha h.1)]

/-- Every entry of a list is made empty. -/
def emptyList (first k : Nat) (s : State) : State :=
  (List.range 16).foldl (fun s r => (List.range k).foldl (emptyEntry first k r) s) s

theorem setRows_empty (first k : Nat) (s : State) :
    setRows first k (fun _ => List.replicate k emptySlot) s = emptyList first k s := by
  have hrow : ∀ j, (List.replicate k emptySlot).getD j emptySlot = emptySlot := fun j => by
    rw [List.getD_eq_getElem?_getD, List.getElem?_replicate]
    split <;> rfl
  unfold setRows setRow emptyList emptyEntry
  simp only [hrow]

theorem emptyList_step (first k : Nat) (s : State) : TilesStep s (emptyList first k s) :=
  .foldl (fun s _ => .foldl (fun _ _ => setTile_step ..) s) s

theorem lists_emptyList (first k : Nat) (s : State) : (emptyList first k s).blk.lists = s.blk.lists :=
  List.foldlRecOn (motive := fun t : State => t.blk.lists = s.blk.lists) _ _ rfl fun _ ht _ _ =>
    List.foldlRecOn (motive := fun t : State => t.blk.lists = s.blk.lists) _ _ ht fun _ hu _ _ => hu

theorem entryAt_emptyList {s : State} {first k r j : Nat} (hr : r < 16) (hj : j < k) :
    entryAt (emptyList first k s) first k r j = emptySlot :=
  foldl_establishes (P := fun t => entryAt t first k r j = emptySlot) (List.mem_range.mpr hr)
    (fun s => foldl_establishes (P := fun t => entryAt t first k r j = emptySlot) (List.mem_range.mpr hj)
      (fun s => entryAt_emptyEntry_same s first k r j) (fun _ _ _ h => entryAt_emptyEntry_keep h) s)
    (fun _ _ _ h => List.foldlRecOn (motive := fun t => entryAt t first k r j = emptySlot) _ _ h
      fun _ ht _ _ => entryAt_emptyEntry_keep ht) s

/-- The tiles of a list hold its entries. -/
theorem entryPlace_tile {first k r j : Nat} (hr : r < 16) (hj : j < k) :
    first ≤ (entryPlace first k r j).1 ∧ (entryPlace first k r j).1 < first + listTiles k := by
  have h : r * k + j < 16 * k := by nlinarith
  unfold entryPlace listTiles
  dsimp only
  omega

theorem tileWord_emptyList_other {s : State} {first k a i : Nat} (ha : a < first ∨ first + listTiles k ≤ a) (hi : i < 512) :
    tileWord (emptyList first k s) a i = tileWord s a i :=
  List.foldlRecOn (motive := fun t => tileWord t a i = tileWord s a i) _ _ rfl fun _ ht r hr =>
    List.foldlRecOn (motive := fun t => tileWord t a i = tileWord s a i) _ _ ht fun _ hu j hj => by
      have hplace := entryPlace_tile (first := first) (List.mem_range.mp hr) (List.mem_range.mp hj)
      rw [tileWord_emptyEntry_other (by omega) hi, hu]

/-! ### Declaring lists (13 R371) -/

/-- A list of length `n` is declared in a quarter's tiles, every entry empty. -/
def declareList (off : BitVec 5) (n : Nat) (s : State) (q : Nat) : State :=
  let t := emptyList (firstTile s off n q) n (undeclare s (firstTile s off n q) (listTiles n))
  { t with blk := { t.blk with lists := t.blk.lists ++
    [{ core := coreIdx t, first := firstTile s off n q, k := n, rejected := 0 }] } }

/-- A quarter's list is declared, and empty. -/
def Declared (off : BitVec 5) (n q : Nat) (s : State) : Prop :=
  (∃ x ∈ s.blk.lists, x.core = coreIdx s ∧ x.first = firstTile s off n q ∧ x.k = n ∧ x.rejected = 0) ∧
    ∀ r j, r < 16 → j < n → entryAt s (firstTile s off n q) n r j = emptySlot

theorem declareList_step (off : BitVec 5) (n : Nat) (s : State) (q : Nat) : TilesStep s (declareList off n s q) :=
  ((undeclare_step s _ _).trans (emptyList_step _ _ _)).trans rfl

theorem entryAt_declareList (off : BitVec 5) (n : Nat) (s : State) (q first r j : Nat) :
    entryAt (declareList off n s q) first n r j =
      entryAt (emptyList (firstTile s off n q) n (undeclare s (firstTile s off n q) (listTiles n))) first n r j := rfl

theorem lists_declareList (off : BitVec 5) (n : Nat) (s : State) (q : Nat) :
    (declareList off n s q).blk.lists = (undeclare s (firstTile s off n q) (listTiles n)).blk.lists ++
      [{ core := coreIdx s, first := firstTile s off n q, k := n, rejected := 0 }] := by
  unfold declareList
  dsimp only
  rw [lists_emptyList, (emptyList_step ..).coreIdx_eq, (undeclare_step ..).coreIdx_eq]

theorem declared_same (off : BitVec 5) (n : Nat) (s : State) (q : Nat) : Declared off n q (declareList off n s q) := by
  have hstep := declareList_step off n s q
  refine ⟨⟨{ core := coreIdx s, first := firstTile s off n q, k := n, rejected := 0 }, ?_, ?_, ?_, rfl, rfl⟩,
    fun r j hr hj => ?_⟩
  · rw [lists_declareList]
    exact List.mem_append_right _ (List.mem_singleton.mpr rfl)
  · rw [hstep.coreIdx_eq]
  · rw [hstep.firstTile_eq]
  · rw [hstep.firstTile_eq, entryAt_declareList, entryAt_emptyList hr hj]

/-- The tiles of two quarters' lists are apart. -/
theorem firstTile_apart (s : State) (off : BitVec 5) (n : Nat) {q q' : Nat} (h : q ≠ q') :
    firstTile s off n q + listTiles n ≤ firstTile s off n q' ∨ firstTile s off n q' + listTiles n ≤ firstTile s off n q := by
  unfold firstTile
  rcases Nat.lt_or_gt_of_ne h with hlt | hlt
  · exact .inl (by nlinarith)
  · exact .inr (by nlinarith)

theorem declared_keep {off : BitVec 5} {n q q' : Nat} {s : State} (h : Declared off n q s) :
    Declared off n q (declareList off n s q') := by
  by_cases hq : q = q'
  · exact hq ▸ declared_same off n s q
  have hstep := declareList_step off n s q'
  have hapart := firstTile_apart s off n hq
  obtain ⟨⟨x, hx, hcore, hfirst, hk, hrej⟩, hentries⟩ := h
  refine ⟨⟨x, ?_, ?_, ?_, hk, hrej⟩, fun r j hr hj => ?_⟩
  · rw [lists_declareList]
    refine List.mem_append_left _ (mem_lists_undeclare.mpr ⟨hx, fun j hj => ?_⟩)
    unfold RankList.holds
    rw [hfirst, hk]
    by_contra hholds
    simp only [Bool.not_eq_false, Bool.and_eq_true, decide_eq_true_eq] at hholds
    omega
  · rw [hstep.coreIdx_eq, hcore]
  · rw [hstep.firstTile_eq, hfirst]
  · have hplace := entryPlace_tile (first := firstTile s off n q) hr hj
    have hlt := entryPlace_lt (firstTile s off n q) n r j
    rw [hstep.firstTile_eq, entryAt_declareList, ← hentries r j hr hj]
    unfold entryAt
    dsimp only
    rw [tileWord_emptyList_other (by omega) (by omega), tileWord_emptyList_other (by omega) hlt]
    rfl

/-! ### Undeclaring lists -/

theorem mem_lists_undeclareAll {s : State} {qs : List Nat} {first : State → Nat → Nat} {x : RankList}
    (hfirst : ∀ s t q, TilesStep s t → first t q = first s q) :
    x ∈ (qs.foldl (fun s q => undeclare s (first s q) 1) s).blk.lists ↔
      x ∈ s.blk.lists ∧ ∀ q ∈ qs, x.holds s (first s q) = false := by
  induction qs generalizing s with
  | nil => simp
  | cons q r ih =>
    have hstep := undeclare_step s (first s q) 1
    simp only [List.foldl_cons, ih, mem_lists_undeclare, hstep.holds_eq, hfirst _ _ _ hstep, List.forall_mem_cons,
      Nat.lt_one_iff, forall_eq, Nat.add_zero, and_assoc]

end Sys2Proof.Machine

namespace Sys2Proof.Proofs
open Sys2Proof.Machine hiding Ready
open Sys2Proof.Claims

/-! ### Tiles cleared, lists declared and undeclared (13 R367, R371, 02 R46) -/

/-- No tile within the block's count breaks the check of `accclr`. -/
theorem head?_accBad {s : State} {ts : List Nat} (h : ∀ a ∈ ts, a < tileCount s) :
    (ts.filterMap (accBad s false)).head? = none := by
  have hnil : ts.filterMap (accBad s false) = [] := List.filterMap_eq_nil_iff.mpr fun a ha => by
    rw [accBad, failIf, if_neg (by simpa using h a ha)]
  rw [hnil]
  rfl

theorem listTilesBad_of_lt {s : State} {off : BitVec 5} {n q : Nat}
    (h : ∀ j, j < listTiles n → firstTile s off n q + j < tileCount s) : listTilesBad s off n q = none := by
  unfold listTilesBad
  have hnil : (List.range (listTiles n)).filterMap (fun j => accBad s false (firstTile s off n q + j)) = [] :=
    List.filterMap_eq_nil_iff.mpr fun j hj => by
      rw [accBad, failIf, if_neg (by simpa using h j (List.mem_range.mp hj))]
  rw [hnil]
  rfl

/-- A quarter operation with one check, which every live quarter passes, and with an effect that is a step over tiles for each
of them in turn, leaves that step and retires. -/
theorem tileOp_steps {i : Instr} {s : State} {code : Nat} {f : Nat → Option Nat} {step : List Nat → State → State}
    (hr : Ready i s) (hpass : ∀ q ∈ liveQuarters s, f q = none) (hnil : step [] (unheld s) = unheld s)
    (hstep : ∀ qs, TilesStep (unheld s) (step qs (unheld s))) :
    ∃ t, tileOp i [(code, f)] (fun _ => false) [] (fun qs s => retire i (step qs s)) (unheld s) = t ∧ Past s t ∧
      t = { s with f := t.f, w := { s.w with lastRead := t.w.lastRead }, blk := { s.blk with tiles := t.blk.tiles, lists := t.blk.lists } } ∧
      t.blk = (step (liveQuarters s) (unheld s)).blk ∧ ∀ a i, tileWord t a i = tileWord (step (liveQuarters s) (unheld s)) a i := by
  have hop : tileOp i [(code, f)] (fun _ => false) [] (fun qs s => retire i (step qs s)) (unheld s) =
      retire i (step (liveQuarters s) (unheld s)) := by
    by_cases hne : liveQuarters s = []
    · rw [tileOp_of_dead (s := unheld s) hne, hne, hnil]
    · exact tileOp_of_pass (s := unheld s) hne ((firstFault_of_pass hpass).trans rfl) rfl rfl
  have hq := hstep (liveQuarters s)
  have hf : (step (liveQuarters s) (unheld s)).f = (started s).f := by rw [hq]; rfl
  obtain ⟨a, lr, ht⟩ := retire_shape (i := i) (u := step (liveQuarters s) (unheld s)) (by rw [hf]; exact replay_of_ready hr)
  refine ⟨_, hop, past_retire hr hf, ?_, ?_, ?_⟩
  · rw [ht, hq]
    rfl
  · rw [ht]
  · rw [ht]
    exact fun _ _ => rfl

/-- The tiles that `accclr` clears in a quarter. -/
def clearedTiles (s : State) (n : BitVec 4) (off : BitVec 5) (q : Nat) : List Nat :=
  (List.range (n.toNat + 1)).map (fun j => tileOf s off q + 4 * j)

theorem mem_clearedTiles {s : State} {n : BitVec 4} {off : BitVec 5} {q a : Nat} :
    a ∈ clearedTiles s n off q ↔ ∃ j, j ≤ n.toNat ∧ a = tileOf s off q + 4 * j := by
  simp only [clearedTiles, List.mem_map, List.mem_range, Nat.lt_succ_iff, eq_comm]

/-- `accclr` clears its tiles, one after the other. -/
theorem exec_accclr_clears {s : State} {n : BitVec 4} {off : BitVec 5} (hr : Ready (.accclr n off) s)
    (hlt : ∀ q ∈ liveQuarters s, ∀ j, j ≤ n.toNat → tileOf s off q + 4 * j < tileCount s) :
    (let u := ((liveQuarters s).flatMap (clearedTiles s n off)).foldl clearTile (unheld s)
     ∃ t, exec (.accclr n off) s = .next t ∧ Past s t ∧
       t = { s with f := t.f, w := { s.w with lastRead := t.w.lastRead }, blk := { s.blk with tiles := t.blk.tiles, lists := t.blk.lists } } ∧
       t.blk = u.blk ∧ ∀ a i, tileWord t a i = tileWord u a i) := by
  have harm : exec (.accclr n off) s = execAccclr n off s := rfl
  have hpass : ∀ q ∈ liveQuarters s, ((clearedTiles s n off q).filterMap (accBad s false)).head? = none := fun q hq =>
    head?_accBad fun a ha => by
      obtain ⟨j, hj, rfl⟩ := mem_clearedTiles.mp ha
      exact hlt q hq j hj
  obtain ⟨t, hop, h⟩ := tileOp_steps (i := .accclr n off) (code := 0x10)
    (step := fun qs u => (qs.flatMap (clearedTiles s n off)).foldl clearTile u) hr hpass rfl
    (fun qs => .foldl clearTile_step _)
  refine ⟨t, ?_, h⟩
  rw [harm, execAccclr, issue_of_ready hr, ← hop]
  rfl

/-- `accdcl` declares the lists of the live quarters, one after the other. -/
theorem exec_accdcl_declares {s : State} {k : BitVec 6} {off : BitVec 5} (hr : Ready (.accdcl k off) s)
    (hlt : ∀ q ∈ liveQuarters s, ∀ j, j < listTiles (k.toNat + 1) → firstTile s off (k.toNat + 1) q + j < tileCount s) :
    (let u := (liveQuarters s).foldl (declareList off (k.toNat + 1)) (unheld s)
     ∃ t, exec (.accdcl k off) s = .next t ∧ Past s t ∧
       t = { s with f := t.f, w := { s.w with lastRead := t.w.lastRead }, blk := { s.blk with tiles := t.blk.tiles, lists := t.blk.lists } } ∧
       t.blk = u.blk ∧ ∀ a i, tileWord t a i = tileWord u a i) := by
  have harm : exec (.accdcl k off) s = execAccdcl k off s := rfl
  obtain ⟨t, hop, h⟩ := tileOp_steps (i := .accdcl k off) (code := 0x10) (f := listTilesBad s off (k.toNat + 1))
    (step := fun qs u => qs.foldl (declareList off (k.toNat + 1)) u) hr (fun q hq => listTilesBad_of_lt (hlt q hq)) rfl
    (fun qs => .foldl (declareList_step off _) _)
  refine ⟨t, ?_, h⟩
  rw [harm, execAccdcl, issue_of_ready hr, ← hop]
  simp only [setRows_empty]
  rfl

/-- `accdcl.u` undeclares the lists of the live quarters, one after the other. -/
theorem exec_accdclU_undeclares {s : State} {k : BitVec 6} {off : BitVec 5} (hr : Ready (.accdclU k off) s)
    (hlt : ∀ q ∈ liveQuarters s, (∀ j, j < listTiles (k.toNat + 1) → firstTile s off (k.toNat + 1) q + j < tileCount s) ∧
      ∃ x, listAt s (firstTile s off (k.toNat + 1) q) = some x ∧ x.k = k.toNat + 1) :
    (let u := (liveQuarters s).foldl (fun s q => undeclare s (firstTile s off (k.toNat + 1) q) 1) (unheld s)
     ∃ t, exec (.accdclU k off) s = .next t ∧ Past s t ∧
       t = { s with f := t.f, w := { s.w with lastRead := t.w.lastRead }, blk := { s.blk with tiles := t.blk.tiles, lists := t.blk.lists } } ∧
       t.blk = u.blk ∧ ∀ a i, tileWord t a i = tileWord u a i) := by
  have harm : exec (.accdclU k off) s = execAccdclU k off s := rfl
  obtain ⟨t, hop, h⟩ := tileOp_steps (i := .accdclU k off) (code := 0x10)
    (f := fun q => match listTilesBad s off (k.toNat + 1) q with
      | some a => some a
      | none => match listAt s (firstTile s off (k.toNat + 1) q) with
        | some x => failIf (x.k != k.toNat + 1) (firstTile s off (k.toNat + 1) q % 2048)
        | none => some (firstTile s off (k.toNat + 1) q % 2048))
    (step := fun qs u => qs.foldl (fun s q => undeclare s (firstTile s off (k.toNat + 1) q) 1) u) hr
    (fun q hq => by
      obtain ⟨htiles, x, hx, hk⟩ := hlt q hq
      simp [listTilesBad_of_lt htiles, hx, hk, failIf]) rfl
    (fun qs => .foldl (fun _ _ => undeclare_step ..) _)
  refine ⟨t, ?_, h⟩
  rw [harm, execAccdclU, issue_of_ready hr, ← hop]
  rfl

/-- Settles O35: each form is its step in the live quarters, one after the other, and retires. -/
theorem tilesClearedAndDeclared : Obligations.TilesClearedAndDeclared := by
  unfold Obligations.TilesClearedAndDeclared
  refine ⟨fun s n off hr hlt => ?accclr, fun s k off hr hlt => ?accdcl, fun s k off hr hlt => ?accdclU⟩
  case accclr =>
    obtain ⟨t, hexec, hpast, hframe, hblk, htile⟩ := exec_accclr_clears hr hlt
    refine ⟨t, hexec, hpast, hframe, fun q hq j r c hj hr hc => ?_, fun a i hi ha _ => ?_, fun x hx => ?_⟩
    · rw [htile, tileWord_clearTiles (List.mem_flatMap.mpr ⟨q, hq, mem_clearedTiles.mpr ⟨j, hj, rfl⟩⟩) hr hc]
    · rw [htile, tileWord_clearTiles_other (fun h => ?_) hi]
      · rfl
      · obtain ⟨q, hq, hmem⟩ := List.mem_flatMap.mp h
        obtain ⟨j, hj, hja⟩ := mem_clearedTiles.mp hmem
        exact ha q hq j hj hja
    · rw [hblk, mem_lists_clearTiles] at hx
      exact ⟨hx.1, fun q hq j hj => hx.2 _ (List.mem_flatMap.mpr ⟨q, hq, mem_clearedTiles.mpr ⟨j, hj, rfl⟩⟩)⟩
  case accdcl =>
    obtain ⟨t, hexec, hpast, hframe, hblk, htile⟩ := exec_accdcl_declares hr hlt
    refine ⟨t, hexec, hpast, hframe, fun q hq => ?_⟩
    have hstep : TilesStep (unheld s) ((liveQuarters s).foldl (declareList off (k.toNat + 1)) (unheld s)) :=
      .foldl (declareList_step off _) _
    obtain ⟨⟨x, hx, hcore, hfirst, hk, hrej⟩, hentries⟩ : Declared off (k.toNat + 1) q _ :=
      foldl_establishes hq (fun s => declared_same off _ s q) (fun _ _ _ => declared_keep) (unheld s)
    rw [hstep.firstTile_eq] at hfirst hentries
    rw [hstep.coreIdx_eq] at hcore
    refine ⟨⟨x, hblk ▸ hx, hcore, hfirst, hk, hrej⟩, fun r j hr hj => (?_ : _ = emptySlot)⟩
    rw [← hentries r j hr (Nat.lt_succ_of_le hj)]
    unfold entryAt
    simp only [htile]
    rfl
  case accdclU =>
    obtain ⟨t, hexec, hpast, hframe, hblk, -⟩ := exec_accdclU_undeclares hr hlt
    have htiles : t.blk.tiles = s.blk.tiles := by
      rw [hblk]
      exact List.foldlRecOn (motive := fun u : State => u.blk.tiles = s.blk.tiles) _ _ rfl fun _ h _ _ => h
    refine ⟨t, hexec, hpast, ?_, fun x => ?_⟩
    · rw [htiles] at hframe
      exact hframe
    · rw [hblk]
      exact mem_lists_undeclareAll (s := unheld s) fun _ _ _ h => h.firstTile_eq ..

end Sys2Proof.Proofs


/-!
SUPPORT. What a collector operation, an indirect gather and a prefetch leave: packets that leave, reads at the home that do
not depend on the fragment's hold, and lines brought in.
-/
namespace Sys2Proof.Machine

/-! ### Packets that leave (02 R64, R65) -/

/-- Only packets of collector groups have left, and commits are due. -/
def PacketsLeft (s t : State) : Prop := ∃ f, Sent f s t ∧ ∀ c, Claims.unsent (f c) = Claims.unsent c

namespace PacketsLeft
variable {s t u : State}

theorem refl (s : State) : PacketsLeft s s := ⟨id, .refl (fun _ => rfl) s, fun _ => rfl⟩

theorem trans (h : PacketsLeft s t) (k : PacketsLeft t u) : PacketsLeft s u := by
  obtain ⟨f, hf, hfu⟩ := h
  obtain ⟨g, hg, hgu⟩ := k
  exact ⟨g ∘ f, hf.trans hg, fun c => (hgu _).trans (hfu c)⟩

theorem frame (h : PacketsLeft s t) : t = { s with colls := t.colls, agenda := t.agenda } := by
  obtain ⟨f, hf, -⟩ := h
  exact hf.frame

theorem unsent_eq (h : PacketsLeft s t) : t.colls.map Claims.unsent = s.colls.map Claims.unsent := by
  obtain ⟨f, hf, hfu⟩ := h
  rw [hf.colls, List.map_map]
  exact List.map_congr_left fun c _ => hfu c

theorem mem_agenda (h : PacketsLeft s t) {e : Instr × EvArg} (he : e ∈ s.agenda) : e ∈ t.agenda := by
  obtain ⟨f, hf, -⟩ := h
  obtain ⟨l, hl, -⟩ := hf.agenda
  rw [hl]
  exact List.mem_append_left l he

end PacketsLeft

theorem packetsLeft_sendKeys (core : Nat) (keys : List (Nat × Nat)) (s : State) : PacketsLeft s (sendKeys core keys s) :=
  ⟨_, sendKeys_sent core keys s, markSent_unsent core keys⟩

theorem packetsLeft_sendGroups (p : Coll → Bool) (s : State) : PacketsLeft s (sendGroups p s) :=
  ⟨_, sendGroups_sent p s, fun c => (markAll_fields _ c).2⟩

theorem packetsLeft_sendOldest (core : Nat) (s : State) : PacketsLeft s (sendOldest core s) := by
  unfold sendOldest
  split
  · exact packetsLeft_sendKeys ..
  · exact .refl s

theorem packetsLeft_sendDue (c : Coll) (s : State) : PacketsLeft s (sendDue c s) := by
  have holdest : ∀ u, PacketsLeft u (if 448 ≤ collEntries u c.core then sendOldest c.core u else u) := fun u => by
    split
    · exact packetsLeft_sendOldest ..
    · exact .refl u
  exact (packetsLeft_sendKeys ..).trans (holdest _)

/-! ### Elements put into the collector (12 R336 to R338) -/

/-- The collector operation of a gather, scatter or scatter-add with these elements. -/
def newColl (s : State) (i : Instr) (kind : Nat) (d : BitVec 8) (es : List Elem) : Coll :=
  { id := s.uid, core := collectorOf s.w.core, blk := s.blk.uid, wp := s.w.idx, instr := i, kind := kind,
    ty := BitVec.ofNat 4 (modeType s), d := d.toNat, elems := es, note := BitVec.ofNat 2 (noteAt s.f s.f.pc),
    own := s.f.mask, stopped := false, losses := 0, pc := s.f.pc, user := isUser s, mode := s.f.mode }

/-- The operation under a flag that counts a gather's, or a scatter's, elements. -/
def collPend (s : State) (kind : Nat) (d : BitVec 8) (act : Lanes) : Pend :=
  if kind = 0 then newPend s (setA s.f) none .collector act [] 0
    ((List.range (opWidth s)).flatMap (fun j => (lanesOf act).map (regKey (d.toNat + j))))
  else newPend s (setB s.f) (some act) .collector act []

/-- An operation enters the collector, its merge window is to expire, and the fragment goes on. -/
def enterColl (c : Coll) (p : Pend) (s : State) : State :=
  push .mergeWindowExpiry (.unit c.id) { advance (pushPend p s) with colls := s.colls ++ [c] }

/-- What `gth`, `sct` and `scad` leave where nothing holds them. -/
theorem collect_enters {i : Instr} {kind : Nat} {d a : BitVec 8} {k : BitVec 4} {s : State} {es : List Elem}
    (hes : collElems s (modeType s) kind d.toNat a.toNat k.toNat (actSet s) = es)
    (hbase : (readS s (2 * k.toNat)).toNat % memBytes (modeType s) = 0) (hact : actSet s ≠ 0)
    (hord : orderHeld s (es.map (fun e => (e.lane, e.va))) (memBytes (modeType s)) = false)
    (hroom : collEntries s (collectorOf s.w.core) + es.length ≤ 512) :
    collect i kind d a k s =
      (let u := sendGroups (clashing s kind es (memBytes (modeType s))) s
       sendDue (newColl s i kind d es) (enterColl (newColl s i kind d es) (collPend u kind d (actSet s)) u)) := by
  have hroom' : ¬512 < collEntries s (collectorOf s.w.core) + es.length := by omega
  unfold collect
  simp only [hes, hbase, bne_self_eq_false, Bool.false_eq_true, if_false, hact, hord, hroom']
  unfold enterColl collPend
  split
  · rfl
  · rfl

/-! ### Reads at the home under another hold (12 R339) -/

theorem foldl_unheld {α : Type} {f : State → α → State} (h : ∀ s a, f (unheld s) a = unheld (f s a)) (l : List α) (s : State) :
    l.foldl f (unheld s) = unheld (l.foldl f s) := by
  induction l generalizing s with
  | nil => rfl
  | cons a r ih => rw [List.foldl_cons, h, ih, List.foldl_cons]

theorem setGran_unheld (s : State) (pa v : Nat) : setGran (unheld s) pa v = unheld (setGran s pa v) := by
  have haddr : granAddr (unheld s) pa = granAddr s pa := rfl
  unfold setGran
  rw [haddr]
  cases granAddr s pa <;> rfl

theorem setTag_unheld (s : State) (pa : Nat) (b : Bool) : setTag (unheld s) pa b = unheld (setTag s pa b) := by
  have hgran : gran (unheld s) pa = gran s pa := rfl
  unfold setTag
  dsimp only
  rw [hgran, setGran_unheld, apply_ite unheld]

theorem l2Write_unheld (s : State) (x : L2Line) (m : BitVec 128) : l2Write (unheld s) x m = unheld (l2Write s x m) :=
  foldl_unheld (fun _ _ => rfl) _ s

theorem l2Put_unheld (s : State) (x : L2Line) : l2Put (unheld s) x = unheld (l2Put s x) := by
  have hl2 : (unheld s).l2 = s.l2 := rfl
  unfold l2Put
  dsimp only
  rw [hl2]
  cases l2Victim ((s.l2.filter (fun y => !(y.asid == x.asid && y.la == x.la))).filter (l2Mates x)) with
  | none => simp only [ite_self]; rfl
  | some v =>
    rw [apply_ite unheld, apply_ite unheld]
    dsimp only [l2Drop]
    have hwrite := l2Write_unheld { s with l2 := x :: s.l2.filter (fun y => !(y.asid == x.asid && y.la == x.la)) } v v.dirty
    congr 2
    exact congrArg (fun t => l2Drop t v.asid v.la) hwrite

theorem clearTags_unheld (s : State) (p : Piece) : clearTags (unheld s) p = unheld (clearTags s p) := by
  unfold clearTags
  rw [apply_ite unheld, foldl_unheld fun s i => setTag_unheld ..]

theorem homeWrite_unheld (s : State) (lvl : Nat) (p : Piece) (v : Nat) : homeWrite (unheld s) lvl p v = unheld (homeWrite s lvl p v) := by
  unfold homeWrite
  dsimp only
  rw [clearTags_unheld, apply_ite unheld, ← l2Put_unheld]
  rfl

theorem l1Write_unheld (s : State) (x : L1Line) (m : BitVec 128) : l1Write (unheld s) x m = unheld (l1Write s x m) := by
  unfold l1Write
  dsimp only
  rw [foldl_unheld fun s o => homeWrite_unheld .., apply_ite unheld, foldl_unheld fun s k => ?_]
  rw [apply_ite unheld, setTag_unheld]

theorem writeBack_unheld (s : State) (x : L1Line) (keep : Bool) : writeBack (unheld s) x keep = unheld (writeBack s x keep) := by
  unfold writeBack
  dsimp only
  rw [l1Write_unheld]
  rfl

theorem beforeHome_unheld (s : State) (asid : Nat) (va : W64) : beforeHome (unheld s) asid va = unheld (beforeHome s asid va) := by
  have hfind : l1Find (unheld s) (halfOf (unheld s) (lineOf va)) asid (lineOf va) =
    l1Find s (halfOf s (lineOf va)) asid (lineOf va) := rfl
  unfold beforeHome
  dsimp only
  rw [hfind]
  cases l1Find s (halfOf s (lineOf va)) asid (lineOf va) with
  | none => rfl
  | some x =>
    dsimp only
    rw [apply_ite unheld, writeBack_unheld]

theorem l2Clean_unheld (s : State) (p : Piece) : l2Clean (unheld s) p = unheld (l2Clean s p) := by
  have hfind : l2Find (unheld s) p.asid (lineOf p.va) = l2Find s p.asid (lineOf p.va) := rfl
  unfold l2Clean
  rw [hfind]
  cases l2Find s p.asid (lineOf p.va) with
  | none => rfl
  | some x =>
    dsimp only
    rw [l2Write_unheld]
    rfl

theorem devRead_unheld (s : State) (o n : Nat) : devRead (unheld s) o n = devRead s o n := by
  induction n generalizing o with
  | zero => rfl
  | succ n ih =>
    unfold devRead
    rw [ih]
    rfl

theorem homeRead_unheld (s : State) (lvl : Nat) (p : Piece) :
    homeRead (unheld s) lvl p = (unheld (homeRead s lvl p).1, (homeRead s lvl p).2) := by
  have hopen : l2Open (unheld s) p = l2Open s p := rfl
  have hfill : ∀ x, l2Filled (unheld s) x = l2Filled s x := fun _ => rfl
  unfold homeRead
  dsimp only
  rw [l2Clean_unheld, hopen, devRead_unheld, hfill, l2Put_unheld]
  split
  · rfl
  · split <;> rfl

/-- A load at the home or the controller gives the same whatever holds the fragment. -/
theorem loadPieces_unheld {lvl : Nat} (hl : lvl ≠ 0) (s : State) (ps : List Piece) :
    loadPieces (unheld s) lvl ps = (unheld (loadPieces s lvl ps).1, (loadPieces s lvl ps).2) := by
  have hl1 : ∀ p, atL1 lvl p = false := fun p => by simp [atL1, hl]
  induction ps generalizing s with
  | nil => rfl
  | cons p r ih =>
    unfold loadPieces homeLoad
    simp only [hl1, Bool.false_eq_true, if_false, beforeHome_unheld, homeRead_unheld, ih]

theorem loadAt_unheld {p : Place} (h : ∀ ps, p ≠ .mem 0 ps) (s : State) (n : Nat) :
    (loadAt (unheld s) p n).2 = (loadAt s p n).2 := by
  cases p with
  | win o => rfl
  | dev o => exact devRead_unheld s o n
  | mem lvl ps =>
    show (loadPieces (unheld s) lvl ps).2 = (loadPieces s lvl ps).2
    rw [loadPieces_unheld fun hl => h ps (hl ▸ rfl)]

/-- An access of a register passes its check where it leads. -/
theorem checkWake_ok {k : Access} {g : W64} {n : Nat} {p q : Place} (h : checkWake k g n p = .ok q) : q = p := by
  unfold checkWake at h
  split at h
  · split at h
    · cases h; rfl
    · cases h
  · split at h
    · cases h; rfl
    · cases h
  · cases h
  · cases h; rfl

/-- What is performed at the home slice is not performed in the L1. -/
theorem resolve_home_ne {s : State} {user : Bool} {k : Access} {g : W64} {n l : Nat} {p : Place}
    (h : resolve s user k .home g n l = .ok p) (ps : List Piece) : p ≠ .mem 0 ps := by
  unfold resolve At.level at h
  dsimp only at h
  split at h
  · split at h <;> cases h
    simp
  · split at h
    · split at h
      · split at h <;> cases h
        simp
      · cases h
    · split at h
      · split at h
        · cases h
        · split at h
          · rw [checkWake_ok h]
            simp
          · cases h
            simp
      · cases h

theorem resolveGlobal_home_ne {s : State} {user : Bool} {k : Access} {g : W64} {n : Nat} {p : Place}
    (h : resolveGlobal s user k .home g n = .ok p) (ps : List Piece) : p ≠ .mem 0 ps := by
  unfold resolveGlobal at h
  split at h
  · cases h
  · exact resolve_home_ne h ps

theorem resolveGlobal_unheld (s : State) (user : Bool) (k : Access) (at' : At) (g : W64) (n : Nat) :
    resolveGlobal (unheld s) user k at' g n = resolveGlobal s user k at' g n := by
  unfold resolveGlobal
  rw [resolve_unheld]

theorem secondAddr_unheld (s : State) (addr : Nat → W64) (base extent : W64) (w l : Nat) :
    secondAddr (unheld s) addr base extent w l = secondAddr s addr base extent w l := by
  have huser : isUser (unheld s) = isUser s := rfl
  unfold secondAddr
  rw [huser, resolveGlobal_unheld]
  cases hp : resolveGlobal s (isUser s) .read .home (addr l) 4 with
  | error m => rfl
  | ok p =>
    dsimp only
    rw [loadAt_unheld (resolveGlobal_home_ne hp)]

theorem gthhHeld_unheld (s : State) (addr : Nat → W64) (base extent : W64) (w l : Nat) :
    gthhHeld (unheld s) addr base extent w l = gthhHeld s addr base extent w l := by
  have huser : isUser (unheld s) = isUser s := rfl
  unfold gthhHeld
  simp only [secondAddr_unheld, resolveGlobal_unheld, huser]
  rfl

/-! ### Memory instructions that retire -/

/-- A memory instruction under flag A that starts an operation in the lanes of its groups and retires. -/
theorem retireMem_startsAccess {i : Instr} {u : State} {groups : List Lanes} {act : Lanes} (hall : groups.foldl (· ||| ·) 0 = act)
    (hr : u.f.replay = none) (flag : Nat) (lands : List Landing) (reads : List (Nat × Nat × Nat)) :
    Claims.StartsAccess i u (retireMem i act (startMemory i u flag none groups lands reads true)) flag false act groups lands
      reads := by
  unfold Claims.StartsAccess
  split
  · next h0 =>
    have hnone : startMemory i u flag none groups lands reads true = u := by rw [startMemory, hall, if_pos h0]
    rw [hnone, retireMem, if_pos h0]
    exact retire_frame i u hr
  · next hne =>
    rw [retireMem_startMemory hall hne hr, memoryPend, currentNote_eq u hr, replayOf, hr]
    rfl

/-- Where the fragment stands behind it. -/
theorem retireMem_startMemory_f {i : Instr} {u : State} {groups : List Lanes} {act : Lanes}
    (hall : groups.foldl (· ||| ·) 0 = act) (hr : u.f.replay = none) (flag : Nat) (lands : List Landing)
    (reads : List (Nat × Nat × Nat)) :
    ∃ a, (retireMem i act (startMemory i u flag none groups lands reads true)).f =
      { u.f with pc := nextPc u.f, inClause := !lastWord u.f, hold := .free, done := 0, count := 0, latch := a } := by
  by_cases h0 : act = 0
  · have hnone : startMemory i u flag none groups lands reads true = u := by rw [startMemory, hall, if_pos h0]
    rw [hnone, retireMem, if_pos h0]
    exact ⟨_, retire_f i u hr⟩
  · rw [retireMem_startMemory hall h0 hr]
    exact ⟨_, rfl⟩

end Sys2Proof.Machine

namespace Sys2Proof.Proofs
open Sys2Proof.Machine hiding Ready
open Sys2Proof.Claims

/-! ### Gathers and scatters (12 R336 to R338) -/

theorem exec_gather_ready {i : Instr} {s : State} {kind : Nat} {d a : BitVec 8} {k : BitVec 4}
    (hform : gatherForm i = some (kind, d, a, k)) (hr : Ready i s) : exec i s = .next (collect i kind d a k (unheld s)) := by
  unfold gatherForm at hform
  split at hform
  · cases hform
    have harm : exec (.gth d a k) s = execGth d a k s := rfl
    rw [harm, execGth, issue_of_ready hr]
  · cases hform
    have harm : exec (.sct d a k) s = execSct d a k s := rfl
    rw [harm, execSct, issue_of_ready hr]
  · cases hform
    have harm : exec (.scad d a k) s = execScad d a k s := rfl
    rw [harm, execScad, issue_of_ready hr]
  · cases hform

theorem collElems_unheld {s : State} (hr : s.f.replay = none) (kind : Nat) (d a : BitVec 8) (k : BitVec 4) :
    collElems (unheld s) (modeType (unheld s)) kind d.toNat a.toNat k.toNat (actSet (unheld s)) = elementsOf s kind d a k := by
  rw [actSet_unheld hr]
  rfl

theorem unsent_newColl (s : State) (i : Instr) (kind : Nat) (d a : BitVec 8) (k : BitVec 4) :
    unsent (newColl s i kind d (elementsOf s kind d a k)) = newColl s i kind d (elementsOf s kind d a k) := by
  unfold unsent newColl elementsOf
  simp only [List.map_map]
  rfl

theorem collPend_eq {s u : State} {kind : Nat} {d : BitVec 8}
    (hu : u = { unheld s with colls := u.colls, agenda := u.agenda }) :
    collPend u kind d (activeLanesOf s) = operation s (if kind = 0 then setA s.f else setB s.f) (kind != 0) .collector
      (activeLanesOf s) [] (if kind = 0 then gathered s d else []) := by
  unfold collPend
  rw [hu]
  by_cases hk : kind = 0
  · simp only [hk, if_true]
    rfl
  · simp only [if_neg hk, bne_iff_ne.mpr hk]
    rfl

/-- The state in which an operation has entered the collector, whatever packets leave before and after. -/
theorem entered {s u t : State} {c : Coll} {p : Pend} (hsend : PacketsLeft (unheld s) u) (hdue : PacketsLeft (enterColl c p u) t)
    (hid : c.id = s.uid) (hc : unsent c = c) :
    Past s { t with f := { t.f with done := 0, count := 0 } } ∧
      t.colls.map unsent = s.colls.map unsent ++ [c] ∧ (.mergeWindowExpiry, .unit s.uid) ∈ t.agenda ∧
      (∀ e ∈ s.agenda, e ∈ t.agenda) ∧
      t = { s with f := t.f, uid := s.uid + 1, colls := t.colls, agenda := t.agenda, w := { s.w with pend := s.w.pend ++ [p] } } := by
  refine ⟨?_, ?_, ?_, fun e he => ?_, ?_⟩
  · unfold Past
    rw [hdue.frame]
    dsimp only [enterColl, push, advance, pushPend, fresh]
    rw [hsend.frame]
    rfl
  · rw [hdue.unsent_eq]
    dsimp only [enterColl, push]
    rw [List.map_append, hsend.unsent_eq, List.map_singleton, hc]
    rfl
  · exact hdue.mem_agenda (List.mem_append_right _ (List.mem_singleton.mpr (by rw [hid])))
  · exact hdue.mem_agenda (List.mem_append_left _ (hsend.mem_agenda he))
  · rw [hdue.frame]
    dsimp only [enterColl, push, advance, pushPend, fresh]
    rw [hsend.frame]
    rfl

/-- A gather, scatter or scatter-add puts its elements into the collector. -/
theorem exec_gather_enters {i : Instr} {s : State} {kind : Nat} {d a : BitVec 8} {k : BitVec 4}
    (hform : gatherForm i = some (kind, d, a, k)) (hr : Ready i s)
    (hbase : (readS s (2 * k.toNat)).toNat % memBytes (modeType s) = 0) (hact : activeLanesOf s ≠ 0)
    (hord : orderHeld s ((elementsOf s kind d a k).map (fun e => (e.lane, e.va))) (memBytes (modeType s)) = false)
    (hroom : collEntries s (collectorOf s.w.core) + (elementsOf s kind d a k).length ≤ 512) :
    (let c := newColl s i kind d (elementsOf s kind d a k)
     ∃ t, exec i s = .next t ∧ Past s { t with f := { t.f with done := 0, count := 0 } } ∧
      t.colls.map unsent = s.colls.map unsent ++ [c] ∧ (.mergeWindowExpiry, .unit s.uid) ∈ t.agenda ∧
      (∀ e ∈ s.agenda, e ∈ t.agenda) ∧
      t = { s with
        f := t.f, uid := s.uid + 1, colls := t.colls, agenda := t.agenda
        w := { s.w with pend := s.w.pend ++ [operation s (if kind = 0 then setA s.f else setB s.f) (kind != 0) .collector
                                              (activeLanesOf s) [] (if kind = 0 then gathered s d else [])] } }) := by
  have hreplay := replay_of_ready hr
  have hsend := packetsLeft_sendGroups (clashing (unheld s) kind (elementsOf s kind d a k) (memBytes (modeType s))) (unheld s)
  have henters := collect_enters (i := i) (s := unheld s) (collElems_unheld hreplay kind d a k) hbase
    (actSet_unheld hreplay ▸ hact) hord hroom
  rw [actSet_unheld hreplay] at henters
  refine ⟨_, (exec_gather_ready hform hr).trans (congrArg _ henters), ?_⟩
  rw [← collPend_eq (kind := kind) (d := d) hsend.frame]
  exact entered hsend (packetsLeft_sendDue ..) rfl (unsent_newColl s i kind d a k)

/-! ### Indirect gathers (12 R339) -/

theorem gthhLane_ok {s t : State} {g base extent : W64} {w v : Nat} (h : gthhLane s g base extent w = .ok (t, v)) :
    OnlyMemory s t ∧ (extent = 0 → v = 0) := by
  unfold gthhLane at h
  split at h
  · cases h
  · next p hp =>
    have hfirst : OnlyMemory s (keepLeaves (loadAt s p 4).1 p) :=
      onlyMemory_trans (onlyMemory_of_homeStep (loadAt_home ..)) (keepLeaves_onlyMemory _ p)
    dsimp only at h
    split at h
    · cases h
      exact ⟨hfirst, fun _ => rfl⟩
    · next e he =>
      split at h
      · cases h
      · next q hq =>
        cases h
        refine ⟨onlyMemory_trans hfirst (onlyMemory_trans (onlyMemory_of_homeStep (loadAt_home ..)) (keepLeaves_onlyMemory _ q)),
          fun h0 => ?_⟩
        rw [elemAddr, h0, if_pos (show (0 : W64).toNat ≤ _ from Nat.zero_le _)] at he
        cases he

/-- Where no lane of an indirect gather faults, every lane has its value. -/
theorem gthhLanes_ok {addr : Nat → W64} {base extent : W64} {w : Nat} {ls : List Nat} {s u : State} {vs : List (Nat × Nat)}
    (h : gthhLanes addr base extent w ls s = (u, vs, [])) :
    vs.map Prod.fst = ls ∧ OnlyMemory s u ∧ (extent = 0 → ∀ x ∈ vs, x.2 = 0) := by
  induction ls generalizing s vs with
  | nil =>
    cases h
    exact ⟨rfl, onlyMemory_refl _, fun _ _ hx => by cases hx⟩
  | cons l r ih =>
    unfold gthhLanes at h
    split at h
    · injection h with _ h
      injection h with _ h
      cases h
    · next t v hlane =>
      obtain ⟨hmem, hzero⟩ := gthhLane_ok hlane
      rcases hrest : gthhLanes addr base extent w r t with ⟨u', vs', bad⟩
      rw [hrest] at h
      cases h
      obtain ⟨hfst, hmem', hzero'⟩ := ih hrest
      refine ⟨by rw [List.map_cons, hfst], onlyMemory_trans hmem hmem', fun h0 x hx => ?_⟩
      rcases List.mem_cons.mp hx with rfl | hx
      · exact hzero h0
      · exact hzero' h0 x hx

/-- An indirect gather that waits for nothing and whose lanes do not fault makes its accesses and retires. -/
theorem exec_gthh_reads {s u : State} {d a : BitVec 8} {k : BitVec 4} {vs : List (Nat × Nat)} (hr : Ready (.gthh d a k) s) :
    (let base := readS s (2 * k.toNat)
     let extent := readS s (2 * k.toNat + 1)
     let n := memBytes (modeType s)
     let addr := fun l => src64 s a.toNat l
     let first := (lanesOf (activeLanesOf s)).map (fun l => (l, addr l))
     let second := (lanesOf (activeLanesOf s)).filterMap (fun l => (secondAddr s addr base extent n l).map (fun e => (l, e)))
     base.toNat % n = 0 →
     (∀ l ∈ lanesOf (activeLanesOf s), (addr l).toNat % 4 = 0 ∧ gthhHeld s addr base extent n l = false) →
     InOrder s first 4 → InOrder s second n →
     gthhLanes addr base extent n (lanesOf (activeLanesOf s)) (unheld s) = (u, vs, []) →
     vs.map Prod.fst = lanesOf (activeLanesOf s) →
     exec (.gthh d a k) s = .next (retireMem (.gthh d a k) (activeLanesOf s)
       (startMemory (.gthh d a k) u (setA s.f) none (byLine first)
         (vs.flatMap (fun x => landWords (opWidth s) d.toNat x.1 (loadExt (modeType s) x.2)))
         (first.map (fun x => (x.1, x.2.toNat, 4)) ++ second.map (fun x => (x.1, x.2.toNat, n))) true))) := by
  intro base extent n addr first second hbase hlanes hfirst hsecond hread hvs
  have harm : exec (.gthh d a k) s = execGthh d a k s := rfl
  have hact : actSet (unheld s) = activeLanesOf s := actSet_unheld (replay_of_ready hr)
  have hmode : modeType (unheld s) = modeType s := rfl
  have hwidth : opWidth (unheld s) = opWidth s := rfl
  have hscalar : ∀ n, readS (unheld s) n = readS s n := fun _ => rfl
  have hsrc : ∀ a l, src64 (unheld s) a l = src64 s a l := fun _ _ => rfl
  have hflag : setA (unheld s).f = setA s.f := rfl
  have hcoll : ∀ as n, collHeld (unheld s) as n = collHeld s as n := fun _ _ => rfl
  have horder : ∀ as n, orderHeld (unheld s) as n = orderHeld s as n := fun _ _ => rfl
  have hcrooked : first.filter (fun x => x.2.toNat % 4 != 0) = [] := by
    rw [List.filter_map, List.map_eq_nil_iff, List.filter_eq_nil_iff]
    exact fun l hl => by simp [addr, (hlanes l hl).1]
  have hfill : (lanesOf (activeLanesOf s)).any (gthhHeld s addr base extent n) = false := by
    simpa using fun l hl => (hlanes l ((mem_lanesOf _ l).mpr hl)).2
  have hheld : gthhHeld (unheld s) addr base extent n = gthhHeld s addr base extent n :=
    funext fun l => gthhHeld_unheld ..
  have hdone : ∀ as : List (Nat × W64), (∀ x ∈ as, x.1 ∈ lanesOf (activeLanesOf s)) →
      as.filter (fun x => vs.any (fun v => v.1 == x.1)) = as := fun as has => by
    rw [List.filter_eq_self]
    intro x hx
    have hmem := has x hx
    rw [← hvs] at hmem
    obtain ⟨v, hv, hvx⟩ := List.mem_map.mp hmem
    exact List.any_eq_true.mpr ⟨v, hv, beq_iff_eq.mpr hvx⟩
  have hdone₁ := hdone first fun x hx => by
    obtain ⟨l, hl, rfl⟩ := List.mem_map.mp hx
    exact hl
  have hdone₂ := hdone second fun x hx => by
    obtain ⟨l, hl, hx⟩ := List.mem_filterMap.mp hx
    obtain ⟨e, -, rfl⟩ := Option.map_eq_some_iff.mp hx
    exact hl
  rw [harm, execGthh, issue_of_ready hr]
  simp only [hact, hmode, hwidth, hscalar, hsrc, hflag, hcoll, horder, secondAddr_unheld]
  have hread' : gthhLanes (fun l => src64 s a.toNat l) (readS s (2 * k.toNat)) (readS s (2 * k.toNat + 1))
    (memBytes (modeType s)) (lanesOf (activeLanesOf s)) (unheld s) = (u, vs, []) := hread
  have hwait : ¬((collHeld s first 4 || collHeld s second n || orderHeld s first 4 || orderHeld s second n) = true) := by
    simp [hfirst.1, hfirst.2, hsecond.1, hsecond.2]
  rw [if_neg (by simpa using hbase), hread', hcrooked]
  refine congrArg Host.Outcome.next ?_
  refine (if_neg (by simp)).trans ((if_neg ?_).trans ((if_neg hwait).trans ?_))
  · exact ne_true_of_eq_false (hheld ▸ hfill)
  · dsimp only
    rw [hdone₁, hdone₂]
    rfl

/-! ### Prefetches (12 R340) -/

/-- Only memory, lines, translations and what a core's buffer keeps of homes have changed. -/
def OnlyCaches (s t : State) : Prop :=
  t = { s with mem := t.mem, l1 := t.l1, l2 := t.l2, tlb := t.tlb, wcache := t.wcache, homes := t.homes }

theorem OnlyCaches.trans {s t u : State} (h : OnlyCaches s t) (k : OnlyCaches t u) : OnlyCaches s u := by
  unfold OnlyCaches at *
  rw [k, h]

theorem onlyCaches_of_homeStep {s t : State} (h : HomeStep s t) : OnlyCaches s t := by
  unfold OnlyCaches
  rw [h.frame]

theorem keepLeaves_onlyCaches (s : State) (lvl : Nat) (ps : List Piece) : OnlyCaches s (keepLeaves s (.mem lvl ps)) := by
  have htlb : OnlyCaches s (keepTlb s (.mem lvl ps)) :=
    List.foldlRecOn (motive := fun t => OnlyCaches s t) _ _ rfl fun t h q _ =>
      h.trans (tlbKeep_frame t (asidOf t) q.va q.leaf false)
  refine List.foldlRecOn (motive := fun t => OnlyCaches s t) _ _ htlb fun t h q _ => h.trans ?_
  unfold learnHome
  split <;> rfl

theorem prefLane_onlyCaches (l : Nat) (g : W64) (s : State) : OnlyCaches s (prefLane l g s) := by
  unfold prefLane
  dsimp only
  split
  · next k p r _ =>
    split
    · refine (keepLeaves_onlyCaches s k (p :: r)).trans ?_
      split
      · exact onlyCaches_of_homeStep (l1Fill_home ..)
      · exact onlyCaches_of_homeStep (homeRead_home ..)
    · rfl
  · rfl

/-- A prefetch brings lines and translations in and retires. -/
theorem exec_pref_brings {s : State} {a b : BitVec 8} (hr : Ready (.pref a b) s) :
    ∃ t, exec (.pref a b) s = .next t ∧ Past s t ∧
      t = { s with
        f := t.f, w := { s.w with lastRead := t.w.lastRead }, mem := t.mem, l1 := t.l1, l2 := t.l2, tlb := t.tlb
        wcache := t.wcache, homes := t.homes } := by
  have harm : exec (.pref a b) s = execPref a b s := rfl
  have hlanes : OnlyCaches (unheld s) ((lanesOf (actSet (unheld s))).foldl
      (fun t l => prefLane l (genAddr (unheld s) a b l) t) (unheld s)) :=
    List.foldlRecOn (motive := fun t => OnlyCaches (unheld s) t) _ _ rfl fun t h l _ => h.trans (prefLane_onlyCaches ..)
  refine ⟨_, by rw [harm, execPref, issue_of_ready hr], ?_⟩
  generalize List.foldl _ (unheld s) _ = u at hlanes ⊢
  have hf : u.f = (started s).f := by rw [hlanes]; rfl
  obtain ⟨lt, lr, ht⟩ := retire_shape (i := .pref a b) (u := u) (by rw [hf]; exact replay_of_ready hr)
  refine ⟨past_retire hr hf, ?_⟩
  rw [ht, hlanes]
  rfl

/-- Settles O28: elements enter the collector, an indirect gather makes both reads of its lanes, and a prefetch only brings lines
in. -/
theorem gathersAndPrefetches : Obligations.GathersAndPrefetches := by
  unfold Obligations.GathersAndPrefetches
  refine ⟨fun i s kind d a k hform hr hbase hact hord hroom => ?gather, fun s u d a k vs hr => ?gthh,
    fun s a b hr => exec_pref_brings hr⟩
  case gather => exact exec_gather_enters hform hr hbase hact hord hroom
  case gthh =>
    intro base extent n addr first second hbase hlanes hfirst hsecond hread
    obtain ⟨hvs, hmem, hzero⟩ := gthhLanes_ok hread
    have hall : (byLine first).foldl (· ||| ·) 0 = activeLanesOf s := by
      have hgroups := foldl_or_lineGroups first
      rw [List.map_map] at hgroups
      exact hgroups.trans (by
        rw [show Prod.fst ∘ (fun l => (l, addr l)) = id from rfl, List.map_id, maskOf_lanesOf])
    have hf : u.f = (started s).f := by rw [hmem]
    have hru : u.f.replay = none := by rw [hf]; exact replay_of_ready hr
    refine ⟨hvs, hmem, hzero, _, exec_gthh_reads hr hbase hlanes hfirst hsecond hread hvs, ?_,
      retireMem_startsAccess hall hru _ _ _⟩
    obtain ⟨lt, ht⟩ := retireMem_startMemory_f (i := .gthh d a k) hall hru (setA s.f)
      (vs.flatMap (fun x => landWords (opWidth s) d.toNat x.1 (loadExt (modeType s) x.2)))
      (first.map (fun x => (x.1, x.2.toNat, 4)) ++ second.map (fun x => (x.1, x.2.toNat, n)))
    unfold Past
    rw [ht, hf]
    rfl

end Sys2Proof.Proofs


/-!
SUPPORT. Stores and a repatriation under another hold, scalars written beside other fields of the warp, and the operands of copy
instructions.
-/
namespace Sys2Proof.Machine

/-! ### Stores under another hold -/

theorem l1Drop_l1Write_unheld (s : State) (v : L1Line) :
    l1Drop (l1Write (unheld s) v v.dirty) v.half v.asid v.la = unheld (l1Drop (l1Write s v v.dirty) v.half v.asid v.la) := by
  rw [l1Write_unheld]
  rfl

theorem l1Put_unheld (s : State) (x : L1Line) : l1Put (unheld s) x = unheld (l1Put s x) := by
  have hwith : ∀ l, ({ unheld s with l1 := l } : State) = unheld { s with l1 := l } := fun _ => rfl
  have hl1 : (unheld s).l1 = s.l1 := rfl
  have hmates : ∀ l, l1Mates (unheld { s with l1 := l }) x = l1Mates { s with l1 := l } x := fun _ => rfl
  unfold l1Put
  dsimp only
  rw [hl1, hwith, hmates]
  generalize List.getLast? _ = last
  cases last with
  | none => simp only [ite_self]
  | some v =>
    dsimp only
    rw [apply_ite unheld, apply_ite unheld, l1Drop_l1Write_unheld]

theorem l1Store_unheld (s : State) (p : Piece) (v : Nat) : l1Store (unheld s) p v = unheld (l1Store s p v) := by
  have hopen : l1Open (unheld s) p = l1Open s p := rfl
  unfold l1Store
  dsimp only
  rw [hopen, l1Put_unheld]

theorem updateCopy_unheld (s : State) (p : Piece) (v : Nat) : updateCopy (unheld s) p v = unheld (updateCopy s p v) := by
  have hfind : l1Find (unheld s) (halfOf (unheld s) (lineOf p.va)) p.asid (lineOf p.va) =
    l1Find s (halfOf s (lineOf p.va)) p.asid (lineOf p.va) := rfl
  unfold updateCopy
  dsimp only
  rw [hfind]
  cases l1Find s (halfOf s (lineOf p.va)) p.asid (lineOf p.va) <;> rfl

theorem storePieces_unheld (lvl : Nat) (ps : List Piece) (v : Nat) (s : State) :
    storePieces (unheld s) lvl v ps = unheld (storePieces s lvl v ps) := by
  induction ps generalizing s v with
  | nil => rfl
  | cons p r ih =>
    have hone : (if atL1 lvl p then l1Store (unheld s) p (v % 256 ^ p.n) else homeStore (unheld s) lvl p (v % 256 ^ p.n)) =
        unheld (if atL1 lvl p then l1Store s p (v % 256 ^ p.n) else homeStore s lvl p (v % 256 ^ p.n)) := by
      rw [apply_ite unheld, l1Store_unheld, homeStore, homeStore, beforeHome_unheld, homeWrite_unheld, updateCopy_unheld]
    unfold storePieces
    dsimp only
    rw [hone, ih]

theorem storeAt_unheld (p : Place) (v n : Nat) (s : State) : storeAt (unheld s) p v n = unheld (storeAt s p v n) := by
  cases p with
  | win o => rfl
  | dev o =>
    have hqueue : wakeQueue (unheld s) o n = wakeQueue s o n := rfl
    unfold storeAt
    dsimp only
    rw [hqueue]
    cases wakeQueue s o n <;> rfl
  | mem lvl ps => exact storePieces_unheld lvl ps v s

theorem learnHome_unheld (s : State) (q : Piece) : learnHome (unheld s) q = unheld (learnHome s q) := by
  unfold learnHome
  rw [apply_ite unheld]
  rfl

theorem keepLeaves_unheld (s : State) (p : Place) : keepLeaves (unheld s) p = unheld (keepLeaves s p) := by
  cases p with
  | win o => rfl
  | dev o => rfl
  | mem lvl ps =>
    have htlb : keepTlb (unheld s) (.mem lvl ps) = unheld (keepTlb s (.mem lvl ps)) := foldl_unheld (fun _ _ => rfl) _ s
    unfold keepLeaves
    dsimp only
    rw [htlb, foldl_unheld learnHome_unheld]

/-! ### Repatriation under another hold (05 R162) -/

theorem spillPlace_unheld (s : State) : spillPlace (unheld s) = spillPlace s := by
  have hva : spillVa (unheld s) (spilledEntries (unheld s)) = spillVa s (spilledEntries s) := rfl
  have huser : isUser (unheld s) = isUser s := rfl
  unfold spillPlace
  dsimp only
  rw [resolveGlobal_unheld, hva, huser]
  rfl

theorem spillTo_unheld (q : Place) (s : State) : spillTo q (unheld s) = unheld (spillTo q s) := by
  have hentry : (unheld s).w.jst[spilledEntries (unheld s)]? = s.w.jst[spilledEntries s]? := rfl
  unfold spillTo
  dsimp only
  rw [hentry]
  cases s.w.jst[spilledEntries s]? with
  | none => rfl
  | some e =>
    dsimp only
    rw [storeAt_unheld, keepLeaves_unheld]
    rfl

theorem spillExcess_unheld (n : Nat) (s : State) : spillExcess n (unheld s) = unheld (spillExcess n s) := by
  induction n generalizing s with
  | zero => rfl
  | succ n ih =>
    unfold spillExcess
    rw [spillPlace_unheld, apply_ite unheld]
    cases spillPlace s with
    | error m => rfl
    | ok q =>
      dsimp only
      rw [spillTo_unheld, ih]
      rfl

theorem repatriateFront_unheld (s : State) : repatriateFront (unheld s) = unheld (repatriateFront s) := by
  have hexp : (unheld s).f.exp = s.f.exp := rfl
  have hexps : (unheld s).w.exps = s.w.exps := rfl
  unfold repatriateFront
  rw [hexp]
  cases hx : s.f.exp with
  | none => rfl
  | some x =>
    dsimp only
    unfold repatriate
    rw [hexps]
    cases s.w.exps.find? (fun e => e.id == x) with
    | none => rfl
    | some e =>
      dsimp only
      have hpush : (pushBack s e).f.exp = some x := hx
      have hpush' : (pushBack (unheld s) e).f.exp = some x := hx
      rw [← spillExcess_unheld, if_pos hpush, if_pos hpush']
      rfl

/-! ### Scalars (09 R256) -/

/-- What a scalar reads once one has been written that no result in flight is for, whatever else of the warp has changed. -/
theorem readS_of_written {s t : State} {n : Nat} {v : W64} (hs : t.w.s = (writeS s n v).w.s) (hp : t.w.pend = s.w.pend)
    (ht : t.tick = s.tick) (hfree : n ≠ 0 → inflightS s n = none) (m : Nat) :
    readS t m = if m = n ∧ m ≠ 0 then v else readS s m := by
  have hin : ∀ m, inflightS t m = inflightS s m := fun m => by rw [inflightS, hp]; rfl
  by_cases hm : m = 0
  · subst hm
    rw [if_neg (by simp)]
    rfl
  by_cases hn : m = n
  · subst hn
    rw [if_pos ⟨rfl, hm⟩]
    simp only [readS, hin, hfree hm, hm, if_false, hs, writeS, Cells.get_set, if_true]
  · have hget : Cells.get t.w.s m = Cells.get s.w.s m := by
      rw [hs, writeS]
      split
      · rfl
      · exact (Cells.get_set ..).trans (if_neg (Ne.symm hn))
    rw [if_neg (by simp [hn])]
    simp only [readS, hin, hget, ht]

/-- Nothing written, the scalars read as before. -/
theorem readS_of_eq {s t : State} (hs : t.w.s = s.w.s) (hp : t.w.pend = s.w.pend) (ht : t.tick = s.tick) (m : Nat) :
    readS t m = readS s m := by
  have hin : inflightS t m = inflightS s m := by rw [inflightS, hp]; rfl
  simp only [readS, hin, hs, ht]

/-! ### Operands in the window (12 R347, R350) -/

theorem windowCheck_passes {s : State} {g : W64} {align n : Nat} (h : Claims.WindowOperand s g align n) (k : State → State) :
    windowCheck g align n k (unheld s) = k (unheld s) := by
  obtain ⟨halign, hwin, hsize⟩ := h
  have hfit : ¬(unheld s).blk.winSize < vaOf g + n := Nat.not_lt.mpr hsize
  unfold windowCheck
  rw [if_neg (by simp [halign]), if_neg (by simp [hwin]), if_neg hfit]

theorem arrivalOp_passes {s : State} {sa : BitVec 6} (h : Claims.ArrivalObject s (readS s sa.toNat)) (k : Nat → State → State) :
    arrivalOp sa k (unheld s) = k (vaOf (readS s sa.toNat)) (unheld s) := by
  obtain ⟨hwin, hfill, hres⟩ := h
  have hfill' : ¬(fillHeld (unheld s) (.win (vaOf (readS s sa.toNat))) 16 = true) := by
    rw [show fillHeld (unheld s) (.win (vaOf (readS s sa.toNat))) 16 = false from hfill]
    exact Bool.false_ne_true
  have hread : readS (unheld s) sa.toNat = readS s sa.toNat := rfl
  have hres' : ¬((Cells.load (unheld s).blk.win (vaOf (readS s sa.toNat) + 12) 4 != 0) = true) := by
    rw [show Cells.load (unheld s).blk.win (vaOf (readS s sa.toNat) + 12) 4 = 0 from hres]
    simp
  unfold arrivalOp
  dsimp only
  rw [hread, windowCheck_passes hwin, if_neg hfill', if_neg hres']

theorem acquireAt_frame (scope : Nat) (s : State) : acquireAt scope s = { s with l1 := (acquireAt scope s).l1 } := by
  unfold acquireAt dropClean
  split <;> rfl

end Sys2Proof.Machine

namespace Sys2Proof.Proofs
open Sys2Proof.Machine hiding Ready
open Sys2Proof.Claims

/-! ### Arrival objects (12 R351, R352) -/

/-- What an instruction with scalar operands alone leaves that retires: only its fragment moves. -/
theorem retire_moves {i : Instr} {s u : State} (hr : Ready i s) (hf : u.f = (started s).f) (ha : (operands u i).va = [])
    (hb : (operands u i).vb = []) : ∃ f, retire i u = { u with f := f } ∧ Past s { u with f := f } := by
  have hpos : retire i u = { u with f := (retire i u).f } := onlyPosition_retire hr hf ha hb
  exact ⟨_, hpos, hpos ▸ past_retire hr hf⟩

/-- The same where it stores to the window. -/
theorem onlyWindow_retire {i : Instr} {s : State} (hr : Ready i s) (ha : ∀ s, (operands s i).va = [])
    (hb : ∀ s, (operands s i).vb = []) {win : Memory} {lo hi : Nat}
    (hwin : ∀ a, (a < lo ∨ hi ≤ a) → Cells.get win a = Cells.get s.blk.win a) :
    (let t := retire i { unheld s with blk := { s.blk with win := win } }
     Past s t ∧ OnlyWindow lo hi s t ∧ t.blk.win = win) := by
  obtain ⟨f, ht, hpast⟩ := retire_moves (u := { unheld s with blk := { s.blk with win := win } }) hr rfl (ha _) (hb _)
  dsimp only
  rw [ht]
  exact ⟨hpast, ⟨rfl, hwin⟩, rfl⟩

/-- `arin` adds to REMAIN. -/
theorem exec_arin_adds {s : State} {sa sb : BitVec 6} (hr : Ready (.arin sa sb) s) (hobj : ArrivalObject s (readS s sa.toNat)) :
    (let o := vaOf (readS s sa.toNat)
     ∃ t, exec (.arin sa sb) s = .next t ∧ Past s t ∧ OnlyWindow o (o + 8) s t ∧
       Cells.load t.blk.win o 8 = (Cells.load s.blk.win o 8 + (readS s sb.toNat).toNat) % 2 ^ 64) := by
  intro o
  have harm : exec (.arin sa sb) s = execArin sa sb s := rfl
  obtain ⟨hpast, honly, hwin⟩ := onlyWindow_retire hr (fun _ => rfl) (fun _ => rfl) (lo := o) (hi := o + 8)
    (win := Cells.store s.blk.win o (Cells.load s.blk.win o 8 + (readS s sb.toNat).toNat) 8)
    fun a ha => Cells.get_store_of_not_mem _ _ _ _ _ ha
  refine ⟨_, by rw [harm, execArin, issue_of_ready hr, arrivalOp_passes hobj]; rfl, hpast, honly, ?_⟩
  rw [hwin, Cells.load_store]
  norm_num

/-- `arin.set` writes REMAIN and clears OVER and SKIPPED. -/
theorem exec_arinSet_sets {s : State} {sa sb : BitVec 6} (hr : Ready (.arinSet sa sb) s)
    (hobj : ArrivalObject s (readS s sa.toNat)) :
    (let o := vaOf (readS s sa.toNat)
     ∃ t, exec (.arinSet sa sb) s = .next t ∧ Past s t ∧ OnlyWindow o (o + 12) s t ∧
       Cells.load t.blk.win o 8 = (readS s sb.toNat).toNat ∧
       Cells.load t.blk.win (o + 8) 4 = Cells.load s.blk.win (o + 8) 4 % 2 ^ 30) := by
  intro o
  have harm : exec (.arinSet sa sb) s = execArinSet sa sb s := rfl
  obtain ⟨hpast, honly, hwin⟩ := onlyWindow_retire hr (fun _ => rfl) (fun _ => rfl) (lo := o) (hi := o + 12)
    (win := Cells.store (Cells.store s.blk.win o (readS s sb.toNat).toNat 8) (o + 8)
      (Cells.load s.blk.win (o + 8) 4 % 2 ^ 30) 4)
    fun a ha => by
      rw [Cells.get_store_of_not_mem _ _ _ _ _ (by omega), Cells.get_store_of_not_mem _ _ _ _ _ (by omega)]
  refine ⟨_, by rw [harm, execArinSet, issue_of_ready hr, arrivalOp_passes hobj]; rfl, hpast, honly, ?_, ?_⟩
  · rw [hwin, Cells.load_congr _ _ _ _ fun j _ hj => Cells.get_store_of_not_mem _ _ _ _ _ (.inl hj), Cells.load_store]
    exact Nat.mod_eq_of_lt (readS s sb.toNat).isLt
  · rw [hwin, Cells.load_store]
    omega

/-- `arwt` completes where REMAIN reads 0. -/
theorem exec_arwt_waits {s : State} {sa : BitVec 6} (hr : Ready (.arwt sa) s) (hobj : ArrivalObject s (readS s sa.toNat)) :
    (let o := vaOf (readS s sa.toNat)
     ∃ t, exec (.arwt sa) s = .next t ∧
       if Cells.load s.blk.win o 8 = 0 then Past s t ∧ t = { s with f := t.f, l1 := (acquireAt 2 (started s)).l1 }
       else Sleeps (.arrival o) s t) := by
  intro o
  have harm : exec (.arwt sa) s = execArwt sa s := rfl
  have hstep : exec (.arwt sa) s = .next (if Cells.load s.blk.win o 8 = 0 then retire (.arwt sa) (acquireAt 2 (unheld s))
      else sleepAt (.arrival o) (unheld s)) := by
    rw [harm, execArwt, issue_of_ready hr, arrivalOp_passes hobj]
    rfl
  refine ⟨_, hstep, ?_⟩
  split
  · have hacq := acquireAt_frame 2 (unheld s)
    obtain ⟨f, ht, hpast⟩ := retire_moves (i := .arwt sa) (u := acquireAt 2 (unheld s)) hr (by rw [hacq]; rfl) rfl rfl
    rw [ht]
    refine ⟨hpast, ?_⟩
    rw [hacq]
    rfl
  · rfl

/-! ### Copies kicked, closed and awaited (12 R347 to R349) -/

/-- What an instruction with scalar operands alone leaves that writes a scalar and retires, where the warp's scalars and its
operations are as at its start. -/
theorem retire_written {i : Instr} {s x : State} (hr : Ready i s) (hf : x.f = (started s).f) (hs : x.w.s = s.w.s)
    (hp : x.w.pend = s.w.pend) (ht : x.tick = s.tick) {n : Nat} (hn : n ∈ (operands s i).sw) (v : W64)
    (ha : ∀ s, (operands s i).va = []) (hb : ∀ s, (operands s i).vb = []) :
    ∃ f ss, retire i (writeS x n v) = { x with f := f, w := { x.w with s := ss } } ∧
      Past s { x with f := f, w := { x.w with s := ss } } ∧
      ∀ m, readS { x with f := f, w := { x.w with s := ss } } m = if m = n ∧ m ≠ 0 then v else readS s m := by
  have hframe := writeS_frame x n v
  obtain ⟨f, hret, hpast⟩ := retire_moves (u := writeS x n v) hr (by rw [hframe]; exact hf) (ha _) (hb _)
  obtain ⟨_, hstall, _, _, _⟩ := id hr
  have hshape : ({ writeS x n v with f := f } : State) = { x with f := f, w := { x.w with s := (writeS x n v).w.s } } := by
    rw [hframe]
  refine ⟨f, (writeS x n v).w.s, hret.trans hshape, hshape ▸ hpast, readS_of_written ?_ hp ht
    (inflightS_of_not_stalls hstall hn)⟩
  show (writeS x n v).w.s = (writeS s n v).w.s
  unfold writeS
  split
  · exact hs
  · rw [hs]

/-- The same where the instruction writes its result only if its RES bit is set. -/
theorem retire_result {i : Instr} {s x : State} (hr : Ready i s) (hf : x.f = (started s).f) (hs : x.w.s = s.w.s)
    (hp : x.w.pend = s.w.pend) (ht : x.tick = s.tick) {res : BitVec 1} {n : Nat} (hn : res = 1 → n ∈ (operands s i).sw) (v : W64)
    (ha : ∀ s, (operands s i).va = []) (hb : ∀ s, (operands s i).vb = []) :
    ∃ f ss, retire i (if res = 1 then writeS x n v else x) = { x with f := f, w := { x.w with s := ss } } ∧
      Past s { x with f := f, w := { x.w with s := ss } } ∧
      ∀ m, readS { x with f := f, w := { x.w with s := ss } } m = if res = 1 ∧ m = n ∧ m ≠ 0 then v else readS s m := by
  by_cases hres : res = 1
  · obtain ⟨f, ss, hret, hpast, hread⟩ := retire_written hr hf hs hp ht (hn hres) v ha hb
    refine ⟨f, ss, by rw [if_pos hres, hret], hpast, fun m => ?_⟩
    rw [hread]
    simp only [hres, true_and]
  · obtain ⟨f, hret, hpast⟩ := retire_moves hr hf (ha _) (hb _)
    refine ⟨f, x.w.s, by rw [if_neg hres, hret], hpast, fun m => ?_⟩
    rw [if_neg (fun h => hres h.1)]
    exact readS_of_eq hs hp ht m

/-- `cpcl` closes the batch. -/
theorem exec_cpcl_closes {s : State} {res : BitVec 1} {sd : BitVec 6} (hr : Ready (.cpcl res sd) s) :
    ∃ t, exec (.cpcl res sd) s = .next t ∧ Past s t ∧
      t = { s with f := t.f, w := { s.w with batch := s.w.batch + 1, s := t.w.s } } ∧
      ∀ n, readS t n = if res = 1 ∧ n = sd.toNat ∧ n ≠ 0 then (s.w.batch + 1).setWidth 64 else readS s n := by
  have harm : exec (.cpcl res sd) s = execCpcl res sd s := rfl
  obtain ⟨f, ss, hret, hpast, hread⟩ := retire_result (i := .cpcl res sd)
    (x := { unheld s with w := { s.w with batch := s.w.batch + 1 } }) hr rfl rfl rfl rfl
    (res := res) (n := sd.toNat) (fun h => by simp [operands, h]) ((s.w.batch + 1).setWidth 64) (fun _ => rfl) (fun _ => rfl)
  refine ⟨_, ?_, hpast, rfl, hread⟩
  rw [harm, execCpcl, issue_of_ready hr, ← hret]
  rfl

/-- The batch number that a `cpwt` names. -/
def batchNamed (s : State) (rel : BitVec 1) (sa k : BitVec 6) : BitVec 32 :=
  if rel = 1 then s.w.batch - k.setWidth 32 else (readS s sa.toNat).setWidth 32

/-- A `cpwt` for batches that have been closed waits for their copies. -/
theorem exec_cpwt_waits {s : State} {res : BitVec 1} {sd : BitVec 6} {rel : BitVec 1} {sa k : BitVec 6}
    (hr : Ready (.cpwt res sd rel sa k) s)
    (hclosed : rel = 1 ∨ (batchNamed s rel sa k - s.w.batch).toNat = 0 ∨ 2 ^ 31 ≤ (batchNamed s rel sa k - s.w.batch).toNat) :
    ∃ t, exec (.cpwt res sd rel sa k) s = .next t ∧
      if batchesDone s s.blk.uid s.w.idx (batchNamed s rel sa k) then
        Past s t ∧ t = { s with f := t.f, l1 := (acquireAt 2 (started s)).l1,
                                w := { s.w with s := t.w.s, copyErr := if res = 1 then 0 else s.w.copyErr } } ∧
        ∀ m, readS t m = if res = 1 ∧ m = sd.toNat ∧ m ≠ 0 then s.w.copyErr.setWidth 64 else readS s m
      else Waits (.copies (batchNamed s rel sa k)) s t := by
  have harm : exec (.cpwt res sd rel sa k) s = execCpwt res sd rel sa k s := rfl
  have hopen : ¬((decide (rel = 0) && decide (0 < (batchNamed s rel sa k - s.w.batch).toNat) &&
      decide ((batchNamed s rel sa k - s.w.batch).toNat < 2 ^ 31)) = true) := by
    simp only [Bool.and_eq_true, decide_eq_true_eq, not_and, not_lt]
    rintro ⟨rfl, hpos⟩
    rcases hclosed with h | h | h
    · exact absurd h (by decide)
    · omega
    · exact h
  have hacq := acquireAt_frame 2 (unheld s)
  obtain ⟨f, ss, hret, hpast, hread⟩ := retire_result (i := .cpwt res sd rel sa k)
    (x := { acquireAt 2 (unheld s) with w := { s.w with copyErr := if res = 1 then 0 else s.w.copyErr } })
    hr (by rw [hacq]; rfl) rfl rfl (by rw [hacq]; rfl) (res := res) (n := sd.toNat) (fun h => by simp [operands, h])
    (s.w.copyErr.setWidth 64) (fun _ => rfl) (fun _ => rfl)
  have hwait : ((!batchesDone s s.blk.uid s.w.idx (batchNamed s rel sa k)) = true) ↔
      ¬batchesDone s s.blk.uid s.w.idx (batchNamed s rel sa k) = true := by simp
  by_cases hdone : batchesDone s s.blk.uid s.w.idx (batchNamed s rel sa k) = true
  · refine ⟨_, ?_, by rw [if_pos hdone]; exact ⟨hpast, by rw [hacq]; rfl, hread⟩⟩
    rw [harm, execCpwt, issue_of_ready hr, ← hret]
    refine congrArg Host.Outcome.next ((if_neg hopen).trans ((if_neg fun h => hwait.mp h hdone).trans ?_))
    refine congrArg (retire _) ?_
    rw [hacq]
    by_cases hres : res = 1
    · simp only [hres, if_true]
      rfl
    · simp only [hres, if_false]
      rfl
  · refine ⟨_, ?_, by rw [if_neg hdone]; exact (rfl : Waits _ s (holdAt (.copies (batchNamed s rel sa k)) (unheld s)))⟩
    rw [harm, execCpwt, issue_of_ready hr]
    refine congrArg Host.Outcome.next ((if_neg hopen).trans (if_pos (hwait.mpr hdone)))

/-- A precise fault or a notice runs the handler in the whole fragment. -/
theorem deliver_delivered {fr : FaultRec} {u r : State} (hsup : u.f.sup = false) (htvec : u.w.tvec ≠ 0)
    (hkind : fr.kind = 0 ∨ fr.kind = 3) (hroute : noRoute fr = false) (hskip : defaultSkip fr = false)
    (hrep : repatriateFront u = unheld r) :
    (deliver fr u).w.trappc = fr.pc ∧ Delivered fr.code.toNat fr.kind.toNat fr.lanes fr.va fr.aux r (deliver fr u) := by
  have hwhole : (decide (fr.kind = 0) || decide (fr.kind = 3)) = true := by simpa using hkind
  have hcode : trapcodeOf fr = BitVec.ofNat 64 (fr.kind.toNat * 256 + fr.code.toNat) := by simp [trapcodeOf, hskip]
  obtain ⟨hframe, hf, hw, h, hh, hmask, hmode, -, hhdr, -, hh0, hh1, -, -, -, -, hdel, hhkind, -, hlanes⟩ :=
    deliver_runs hsup htvec hroute
  rw [hrep] at hframe hf hw hmask hmode hhdr hh0 hh1 hlanes
  rw [if_pos hwhole] at hf hlanes
  have hpc : (deliver fr u).w.trappc = fr.pc := by rw [hw]
  refine ⟨hpc, ?_, h, hh, hmask, hmode, hhdr, hh0, hh1, hdel.trans hpc.symm, hlanes, congrArg BitVec.toNat hhkind⟩
  rw [hframe, hf, hw, hcode]
  rfl

/-- A precise fault of a warp that can take faults is delivered in the whole fragment, where it stands. -/
theorem precise_delivered {code : Nat} {m : Lanes} {va aux : W64} {s : State} (hr : s.f.replay = none) (hcode : code < 256)
    (hfabric : code ≠ 0x12) (hqueue : code ≠ 0x18) (hs : TakesFaults s) :
    (precise code m va aux (unheld s)).w.trappc = s.f.pc ∧ Delivered code 0 m va aux (atDelivery s) (precise code m va aux (unheld s)) := by
  obtain ⟨hsup, htvec, hhandler, hnone⟩ := hs
  have hnat : (BitVec.ofNat 8 code).toNat = code := Nat.mod_eq_of_lt hcode
  have hne : ∀ n : Nat, n < 256 → code ≠ n → (BitVec.ofNat 8 code == BitVec.ofNat 8 n) = false := fun n hn h => by
    rw [beq_eq_false_iff_ne, ne_eq, ← BitVec.toNat_inj, hnat, BitVec.toNat_ofNat, Nat.mod_eq_of_lt hn]
    exact h
  have hdeliver := (precise_first (code := code) (m := m) (va := va) (aux := aux) (s := unheld s) hr).trans
    (raise_delivers (s := unheld s) (by rw [hnat]; exact hfabric) hsup hhandler hnone)
  have h := deliver_delivered (u := unheld s) (r := atDelivery s)
    (fr := { ent := s.f.ent, code := BitVec.ofNat 8 code, kind := 0, lanes := m, va := va, aux := aux, pc := s.f.pc, part := .none })
    hsup htvec (.inl rfl) (by simp [noRoute, hne 0x12 (by omega) hfabric])
    (by simp [defaultSkip, hne 0x12 (by omega) hfabric, hne 0x18 (by omega) hqueue])
    (repatriateFront_unheld { s with f := { s.f with hold := .free } })
  rw [hnat] at h
  rw [hdeliver]
  exact h

/-- A `cpwt` for a batch that has not been closed raises WAIT. -/
theorem exec_cpwt_faults {s : State} {res : BitVec 1} {sd : BitVec 6} {rel : BitVec 1} {sa k : BitVec 6}
    (hr : Ready (.cpwt res sd rel sa k) s) (hrel : rel = 0) (hpos : 0 < (batchNamed s rel sa k - s.w.batch).toNat)
    (hlt : (batchNamed s rel sa k - s.w.batch).toNat < 2 ^ 31) (hs : TakesFaults s) :
    ∃ t, exec (.cpwt res sd rel sa k) s = .next t ∧ t.w.trappc = s.f.pc ∧ Delivered 0x19 0 s.f.mask 0 0x100 (atDelivery s) t := by
  have harm : exec (.cpwt res sd rel sa k) s = execCpwt res sd rel sa k s := rfl
  have hopen : (decide (rel = 0) && decide (0 < (batchNamed s rel sa k - s.w.batch).toNat) &&
      decide ((batchNamed s rel sa k - s.w.batch).toNat < 2 ^ 31)) = true := by
    rw [decide_eq_true hrel, decide_eq_true hpos, decide_eq_true hlt]
    rfl
  refine ⟨_, ?_, precise_delivered (replay_of_ready hr) (by omega) (by omega) (by omega) hs⟩
  rw [harm, execCpwt, issue_of_ready hr]
  exact congrArg Host.Outcome.next (if_pos hopen)

/-- The record of a request of `cpk` in the kick queue. -/
def kickOf (s : State) (sa : BitVec 6) (k : BitVec 4) (j : Nat) : Kick :=
  { core := s.w.core, blk := s.blk.uid, wp := s.w.idx, lanes := s.f.mask, req := vaOf (readS s sa.toNat) + 64 * j, pend := s.uid,
    pc := s.f.pc, word := wordAux (.cpk sa k), user := isUser s, stream := modeLevel s == 3, batch := s.w.batch + 1,
    stopped := false }

/-- `cpk` past its checks: it waits for an entry, or releases and kicks. -/
theorem exec_cpk_ready {s : State} {sa : BitVec 6} {k : BitVec 4} (hr : Ready (.cpk sa k) s)
    (hwin : WindowOperand s (readS s sa.toNat) 64 (64 * (k.toNat + 1))) (hcol : collected s = true) :
    exec (.cpk sa k) s = .next (if 16 ≤ queued s s.w.core then holdAt .kick (unheld s)
      else kickRequests (.cpk sa k) (readS s sa.toNat) (k.toNat + 1) (releaseAt 2 (unheld s))) := by
  have harm : exec (.cpk sa k) s = execCpk sa k s := rfl
  have hcol' : collected (unheld s) = true := hcol
  have hread : readS (unheld s) sa.toNat = readS s sa.toNat := rfl
  rw [harm, execCpk, issue_of_ready hr]
  dsimp only
  rw [hread, windowCheck_passes hwin, afterWork, if_pos hcol']
  rfl

/-- The state in which the requests of a `cpk` stand in the kick queue, counted by its operation. -/
def kicked (s u : State) (sa : BitVec 6) (k : BitVec 4) : State :=
  { u with
    uid := s.uid + 1, agenda := u.agenda ++ [(.copyIssue, .unit s.w.core)]
    w := { u.w with pend := s.w.pend ++ [{ operation s (setB s.f) true .other s.f.mask [] with left := k.toNat + 1 }] }
    kicks := s.kicks ++ (List.range (k.toNat + 1)).map (kickOf s sa k) }

/-- A `cpk` whose requests the queue has room for appends them all. -/
theorem kickRequests_appends {s u : State} {sa : BitVec 6} {k : BitVec 4} (hcount : s.f.count = 0)
    (hroom : queued s s.w.core + (k.toNat + 1) ≤ 16) (hu : u = { unheld s with mem := u.mem, l1 := u.l1, l2 := u.l2 }) :
    kickRequests (.cpk sa k) (readS s sa.toNat) (k.toNat + 1) u = retire (.cpk sa k) (kicked s u sa k) := by
  have hcount' : u.f.count = 0 := by rw [hu]; exact hcount
  have hmin : min (k.toNat + 1) (16 - queued s s.w.core) = k.toNat + 1 := by omega
  have hqueued : queued (addPend u (setB u.f) (some u.f.mask) .other u.f.mask [] (k.toNat + 1))
      (addPend u (setB u.f) (some u.f.mask) .other u.f.mask [] (k.toNat + 1)).w.core = queued s s.w.core := by
    rw [hu]
    rfl
  unfold kickRequests
  dsimp only
  simp only [hcount', if_true, Nat.zero_mod, Nat.sub_zero, Nat.zero_add, hqueued, hmin, Nat.add_one_ne_zero, if_false]
  rw [hu]
  rfl

/-- A `cpk` whose requests the queue has room for. -/
theorem exec_cpk_kicks {s : State} {sa : BitVec 6} {k : BitVec 4} (hr : Ready (.cpk sa k) s)
    (hwin : WindowOperand s (readS s sa.toNat) 64 (64 * (k.toNat + 1))) (hcol : collected s = true)
    (hcount : s.f.count = 0) (hroom : queued s s.w.core + (k.toNat + 1) ≤ 16) :
    (let u := releaseAt 2 (unheld s)
     OnlyMemory (unheld s) u ∧ ∃ f, exec (.cpk sa k) s = .next { kicked s u sa k with f := f } ∧
       Past s { kicked s u sa k with f := f }) := by
  have hhome := releaseAt_home 2 (unheld s)
  have hf : (kicked s (releaseAt 2 (unheld s)) sa k).f = (started s).f := by
    show (releaseAt 2 (unheld s)).f = _
    rw [hhome.frame]
    rfl
  obtain ⟨f, hret, hpast⟩ := retire_moves hr hf rfl rfl
  refine ⟨onlyMemory_of_homeStep hhome, f, ?_, hpast⟩
  rw [exec_cpk_ready hr hwin hcol, if_neg (by omega), kickRequests_appends hcount hroom hhome.frame, hret]

/-- Settles O45, form by form. -/
theorem copiesAndArrivalObjects : Obligations.CopiesAndArrivalObjects := by
  unfold Obligations.CopiesAndArrivalObjects
  refine ⟨fun s u sa k => ?cpk, fun s res sd hr => exec_cpcl_closes hr, fun s res sd rel sa k => ?cpwt, fun s sa sb => ?arrival⟩
  case cpk =>
    intro g n hr hwin hcol
    refine ⟨fun hcount hroom hu => ?_, fun hfull => ?_⟩
    · obtain ⟨hmem, f, hexec, hpast⟩ := exec_cpk_kicks hr hwin hcol hcount hroom
      subst hu
      exact ⟨hmem, _, hexec, hpast, rfl⟩
    · exact ⟨_, (exec_cpk_ready hr hwin hcol).trans (congrArg _ (if_pos hfull)), rfl⟩
  case cpwt =>
    intro i n ahead hr
    exact ⟨fun hrel hpos hlt hs => exec_cpwt_faults hr hrel hpos hlt hs, fun hclosed => exec_cpwt_waits hr hclosed⟩
  case arrival =>
    intro g o v
    exact ⟨fun hr hobj => exec_arin_adds hr hobj, fun hr hobj => exec_arinSet_sets hr hobj,
      fun hr hobj => exec_arwt_waits hr hobj⟩

end Sys2Proof.Proofs


/-!
SUPPORT. Steps of a copy engine, the fragment of a queued fault's lanes, and parts of a publication walk.
-/
namespace Sys2Proof.Machine

/-! ### The issue of a copy (02 R71, R74) -/

theorem dropDestination_frame (c : Copy) (s : State) :
    dropDestination c s = { s with l1 := (dropDestination c s).l1 } := by
  unfold dropDestination
  split <;> rfl

/-- The lines dropped depend on the warp at the front, on its block's shape and on the L1 halves alone. -/
theorem dropDestination_l1_of_eq {c : Copy} {s t : State} (hl1 : t.l1 = s.l1) (hown : ownHalf t = ownHalf s) :
    (dropDestination c t).l1 = (dropDestination c s).l1 := by
  unfold dropDestination
  split
  · simp only [dropClean, hl1, hown]
  · exact hl1

/-- The request of a kick: its bytes in the window. -/
def kickBytes (s : State) (k : Kick) : List Byte := (List.range 64).map (fun j => Cells.get s.blk.win (k.req + j))

/-- The engine has taken the request: the copy stands among those in flight and marks the granules that it may write. -/
def copyEntered (core : Nat) (c : Copy) (s : State) : State :=
  fresh { s with kicks := dropKick core s.kicks, copies := s.copies ++ [c],
                 blk := { s.blk with fillPend := s.blk.fillPend ++ copyGranules s c } }

/-- An engine with room for it issues the oldest request of its core that passes the checks. -/
theorem issueRequest_issues {s u : State} {core len : Nat} {k : Kick} {b : List Byte}
    (hfind : s.kicks.find? (fun x => x.core == core) = some k) (hgoes : k.stopped = false) (hroom : inFlight s core < 64)
    (hu : focusWarp s k.blk k.wp = u) (hb : kickBytes u k = b) (hfill : fillHeld u (.win k.req) 64 = false)
    (hvalid : validate b (slotBytes u) u.blk.winSize k.word = .ok len) (hranges : rangesFull u (newCopy u k b len) = false) :
    issueRequest core s = push .copyIssue (.unit core) (push .copyGranuleWrite (.unit u.uid)
      (requestDone (dropDestination (newCopy u k b len) (copyEntered core (newCopy u k b len) u)) k.pend)) := by
  have hopen : ¬(k.stopped || decide (64 ≤ inFlight s core)) = true := by simpa [hgoes] using hroom
  unfold issueRequest
  simp only [hfind]
  rw [if_neg hopen, hu, if_neg (by rw [hfill]; exact Bool.false_ne_true)]
  rw [kickBytes] at hb
  simp only [hb, hvalid]
  rw [if_neg (by rw [hranges]; exact Bool.false_ne_true)]
  rfl

/-- What the issue of a copy leaves. -/
def copyIssued (core pend : Nat) (c : Copy) (s : State) : State :=
  { s with
    copies := s.copies ++ [c], kicks := dropKick core s.kicks, uid := s.uid + 1
    blk := { s.blk with fillPend := s.blk.fillPend ++ copyGranules s c }
    l1 := (dropDestination c s).l1
    w := { s.w with pend := s.w.pend.filterMap (fun p => if p.id = pend then
      (if p.left ≤ 1 then none else some { p with left := p.left - 1 }) else some p) }
    agenda := s.agenda ++ [(.copyGranuleWrite, .unit s.uid), (.copyIssue, .unit core)] }

/-- A copy that has been entered writes its granules, and the engine looks at its core's next request. -/
theorem push_requestDone_copyEntered (core pend : Nat) (c : Copy) (s : State) :
    push .copyIssue (.unit core) (push .copyGranuleWrite (.unit s.uid)
      (requestDone (dropDestination c (copyEntered core c s)) pend)) = copyIssued core pend c s := by
  have hl1 : (dropDestination c (copyEntered core c s)).l1 = (dropDestination c s).l1 := dropDestination_l1_of_eq rfl rfl
  rw [dropDestination_frame, hl1]
  simp only [push, requestDone, copyEntered, copyIssued, fresh, List.append_assoc, List.singleton_append, beq_iff_eq]

/-! ### Copies in flight (02 R73 to R76) -/

theorem putCopy_eq_map (c : Copy) (s : State) :
    putCopy c s = { s with copies := s.copies.map (fun x => if x.id = c.id then c else x) } := by
  simp [putCopy]

/-- A step of a copy of a warp that is neither suspended nor over. -/
theorem copyStep_of_live {s u : State} {c : Copy} (hfind : s.copies.find? (fun x => x.id == c.id) = some c)
    (hgoes : c.suspended = false) (hlive : c.done = false) (hown : c.queue = none) (hskip : c.skip = false)
    (hu : focusWarp s c.blk c.wp = u) :
    copyStep c.id s =
      if c.rows ≤ c.row then endCopy c u
      else if c.buf.isEmpty then startRow c u
      else if c.pos = 0 then beginRow c u
      else if c.pos < c.len then writeGranule c u
      else nextRow c u := by
  unfold copyStep
  simp [hfind, hgoes, hlive, hown, hskip, hu]

theorem endCopy_eq (c : Copy) (s : State) :
    endCopy c s = { s with
      copies := s.copies.map (fun x => if x.id = c.id then { c with done := true, pos := 0, buf := [], outs := [] } else x)
      blk := { s.blk with fillPend := s.blk.fillPend.filter (fun f => f.2 != c.id) }
      agenda := s.agenda ++ [(.copyCompletion, .unit c.id)] } := by
  rw [endCopy, putCopy_eq_map]
  rfl

/-- Bytes of a row written in the banks one by one. -/
theorem putWindow_eq (c : Copy) (dst : W64) (o n : Nat) (s : State) :
    putWindow c dst o n s = { s with blk := { s.blk with
      win := winStores (fun j => swizzled c.dstSwz (vaOf c.dst) c.pitch (vaOf dst + (o + j)))
        (fun j => (c.buf.getD (o + j) 0).toNat) 1 s.blk.win (List.range n) } } := by
  unfold putWindow
  induction List.range n generalizing s with
  | nil => rfl
  | cons j r ih => exact ih _

theorem swizzled_zero (base pitch o : Nat) : swizzled 0 base pitch o = o := rfl

/-- A byte of a run that stores of single bytes cover one after another. -/
theorem get_winStores_run (a : Nat) (v : Nat → Nat) (n : Nat) (win : Memory) {j : Nat} (hj : j < n) :
    Cells.get (winStores (fun i => a + i) v 1 win (List.range n)) (a + j) = BitVec.ofNat 8 (v j) := by
  have hhit : ∀ i, decide (a + i ≤ a + j ∧ a + j < a + i + 1) = decide (i = j) := fun i => decide_eq_decide.mpr (by omega)
  have hfind : (List.range n).reverse.find? (fun i => decide (i = j)) = some j := by
    cases h : (List.range n).reverse.find? (fun i => decide (i = j)) with
    | none => exact absurd (List.find?_eq_none.mp h j (by simpa using hj)) (by simp)
    | some i =>
      have hi : i = j := by simpa using List.find?_some h
      rw [hi]
  rw [get_winStores]
  simp only [hhit, hfind, Nat.sub_self, Nat.pow_zero, Nat.div_one]

/-- A byte outside of the run is as it was. -/
theorem get_winStores_run_of_outside (a : Nat) (v : Nat → Nat) (n : Nat) (win : Memory) {o : Nat} (ho : o < a ∨ a + n ≤ o) :
    Cells.get (winStores (fun i => a + i) v 1 win (List.range n)) o = Cells.get win o := by
  have hfind : (List.range n).reverse.find? (fun i => decide (a + i ≤ o ∧ o < a + i + 1)) = none := by
    rw [List.find?_eq_none]
    intro i hi
    have : i < n := by simpa using hi
    simp only [decide_eq_true_eq]
    omega
  rw [get_winStores, hfind]

theorem arriveFor_of_no_object {c : Copy} (h : c.fld 0x38 8 = 0) (n : Nat) (skipped : Bool) (s : State) :
    arriveFor c n skipped s = s := by
  simp [arriveFor, h]

/-- Destination rows of a copy into the window lie one pitch apart, unless they are scattered by an index list. -/
theorem rowDst_window {c : Copy} (hop : c.fld 0x00 1 ≠ 3) (hwin : isWindow c.dst = true)
    (hfits : vaOf c.dst + c.row * c.pitch < 2 ^ 55) :
    isWindow (rowDst c) = true ∧ vaOf (rowDst c) = vaOf c.dst + c.row * c.pitch := by
  have hlt : c.fld 0x20 8 < 2 ^ 64 := leBytes_lt c.req 0x20 8
  unfold rowDst
  rw [if_neg hop]
  simp only [isWindow, vaOf, Copy.dst, BitVec.toNat_ofNat, beq_iff_eq] at hwin hfits ⊢
  generalize c.fld 0x20 8 = a at *
  generalize c.row * c.pitch = b at *
  omega

/-- What writing a granule of a row in the window leaves. -/
def granuleWritten (c : Copy) (n : Nat) (win : Memory) (s : State) : State :=
  let c' : Copy := { c with pos := c.pos + n }
  { s with copies := s.copies.map (fun x => if x.id = c.id then c' else x)
           blk := { s.blk with win := win, fillPend := s.blk.fillPend.filter (fun f => f.2 != c.id || c'.owes f.1) }
           agenda := s.agenda ++ [(.copyGranuleWrite, .unit c.id)] }

/-- A granule of a row in the window, without a swizzle and without an arrival object. -/
theorem writeGranule_window {c : Copy} {s : State} (hwin : isWindow (rowDst c) = true) (hswz : c.dstSwz = 0)
    (harr : c.fld 0x38 8 = 0) :
    let n := min (c.len - c.pos) (128 - (vaOf (rowDst c) + c.pos) % 128)
    writeGranule c s = granuleWritten c n
      (winStores (fun j => vaOf (rowDst c) + c.pos + j) (fun j => (c.buf.getD (c.pos + j) 0).toNat) 1 s.blk.win (List.range n)) s := by
  intro n
  unfold writeGranule
  dsimp only
  rw [if_pos hwin, arriveFor_of_no_object (c := { c with pos := c.pos + n }) harr, putWindow_eq, putCopy_eq_map, hswz]
  simp only [swizzled_zero, ← Nat.add_assoc]
  rfl

/-- The first granule of a row in the window that waits for no other copy and appends no outlier. -/
theorem beginRow_window {c : Copy} {s : State} (hwin : isWindow (rowDst c) = true)
    (hfits : vaOf (rowDst c) + c.len ≤ s.blk.winSize) (houts : c.outs = []) (hheld : rowHeld s c (rowDst c) = false) :
    beginRow c s = writeGranule { c with places := [] } s := by
  have hpieces : rowPieces s c (rowDst c) = .ok [] := by
    rw [rowPieces, if_pos hwin, if_neg (by omega)]
  simp [beginRow, hheld, hpieces, houts, keepPieces]

/-- A granule of a row without a swizzle is written into the window; the first one of a row where the row can be written. -/
theorem writesRow_window {c : Copy} {u : State} {start n : Nat} (hwin : isWindow (rowDst c) = true) (hva : vaOf (rowDst c) = start)
    (hpos : c.pos < c.len) (hswz : c.dstSwz = 0) (harr : c.fld 0x38 8 = 0)
    (hn : n = min (c.len - c.pos) (128 - (start + c.pos) % 128))
    (hfirst : c.pos = 0 → c.outs = [] ∧ start + c.len ≤ u.blk.winSize ∧ rowHeld u c (rowDst c) = false) :
    (if c.pos = 0 then beginRow c u else if c.pos < c.len then writeGranule c u else nextRow c u) =
      granuleWritten { c with places := if c.pos = 0 then [] else c.places } n
        (winStores (fun j => start + c.pos + j) (fun j => (c.buf.getD (c.pos + j) 0).toNat) 1 u.blk.win (List.range n)) u := by
  subst hva hn
  by_cases hzero : c.pos = 0
  · obtain ⟨houts, hfits, hheld⟩ := hfirst hzero
    rw [if_pos hzero, if_pos hzero, beginRow_window hwin hfits houts hheld]
    exact writeGranule_window (c := { c with places := [] }) hwin hswz harr
  · rw [if_neg hzero, if_neg hzero, if_pos hpos]
    exact writeGranule_window hwin hswz harr

/-- The end of a copy that a warp asked for. -/
theorem completeCopy_of_warp {c : Copy} {s gone flushed u v : State} (hown : c.queue = none)
    (hgone : { s with copies := s.copies.filter (fun x => x.id != c.id) } = gone)
    (hflushed : (gone.grids.filter (fun g => g.gear.isSome)).foldl (fun s g => flushIdle g.gid s) gone = flushed)
    (hu : focusWarp (flushed.queues.foldl (fun s q => settleQueue q.id s) flushed) c.blk c.wp = u)
    (hv : unfocus { u with w := { u.w with copyErr := BitVec.ofNat 32 (min 0xFFFFFFFF (u.w.copyErr.toNat + c.errs)) } } = v) :
    completeCopy c s = push .copyIssue (.unit c.core) v := by
  subst hgone hflushed hu hv
  simp only [completeCopy, hown]

/-! ### Queued faults (07 R209) -/

theorem unfocusFrag_faultq (s : State) (q : List FaultRec) :
    unfocusFrag { s with w := { s.w with faultq := q } } =
      { unfocusFrag s with w := { (unfocusFrag s).w with faultq := q } } := by
  unfold unfocusFrag
  dsimp only
  split <;> rfl

theorem focusEnt_faultq (s : State) (e : Nat) (q : List FaultRec) :
    focusEnt { s with w := { s.w with faultq := q } } e =
      { focusEnt s e with w := { (focusEnt s e).w with faultq := q } } := by
  unfold focusEnt
  rw [unfocusFrag_faultq]
  dsimp only
  split <;> rfl

/-- The queue of faults has no part in which fragment comes to the front. -/
theorem focusLane_faultq (s : State) (l : Nat) (q : List FaultRec) :
    focusLane { s with w := { s.w with faultq := q } } l =
      { focusLane s l with w := { (focusLane s l).w with faultq := q } } := by
  unfold focusLane
  dsimp only
  split
  · rfl
  · split
    · exact focusEnt_faultq s _ q
    · rfl

/-- The oldest queued fault of a warp that runs no handler is delivered in the fragment of its lowest lane. -/
theorem deliverQueued_delivers {s v : State} {fr : FaultRec} {rest : List FaultRec} {lanes : Lanes} (hq : s.w.faultq = fr :: rest)
    (hhandler : s.w.handler = none) (hrun : s.blk.st = .running) (hsome : fr.lanes &&& ~~~s.w.exited = lanes) (hlanes : lanes ≠ 0)
    (hv : focusLane { s with w := { s.w with faultq := rest } } (lowLane lanes) = v) (hdel : deliverable v.f = true) :
    deliverQueued s = deliver { fr with lanes := lanes } v := by
  rw [focusLane_faultq] at hv
  subst hv
  unfold deliverQueued
  simp only [hq, hsome]
  rw [if_neg (by simp [hhandler]), if_neg (by simp [hrun]), if_neg hlanes, if_pos hdel]

/-- The handler of a fault of some lanes of a fragment that runs in its own warp. -/
theorem deliver_lanes {fr : FaultRec} {v : State} (lanes : Lanes) (hsup : v.f.sup = false) (htvec : v.w.tvec ≠ 0)
    (hexp : v.f.exp = none) (hroute : noRoute fr = false) :
    ∃ t h, deliver { fr with lanes := lanes } v = t ∧ t.w.handler = some h ∧ h.part = fr.part ∧ h.kind = fr.kind ∧
      h.mask = v.f.mask ∧ t.f.mask = (if fr.kind = 0 ∨ fr.kind = 3 then v.f.mask else lanes &&& v.f.mask) ∧ t.f.sup = true ∧
      t.f.mode = 0 ∧ t.f.pc = v.w.tvec ∧ t.f.inClause = false ∧
      t = { v with f := t.f, w := { v.w with handler := t.w.handler, trapcode := trapcodeOf fr, trapmask := lanes.setWidth 64,
                                             trapva := fr.va, trappc := fr.pc, trapaux := fr.aux } } := by
  have hhere : repatriateFront v = v := by rw [repatriateFront, hexp]
  obtain ⟨hframe, hf, hw, h, hh, hmask, -, -, -, -, -, -, -, -, -, -, -, hkind, hpart, -⟩ :=
    deliver_runs (fr := { fr with lanes := lanes }) hsup htvec hroute
  rw [hhere] at hframe hf hw hmask
  have hwarp : (deliver { fr with lanes := lanes } v).w =
      { v.w with handler := (deliver { fr with lanes := lanes } v).w.handler, trapcode := trapcodeOf fr,
                 trapmask := lanes.setWidth 64, trapva := fr.va, trappc := fr.pc, trapaux := fr.aux } := hw
  refine ⟨_, h, rfl, hh, hpart, hkind, hmask, ?_, ?_, ?_, ?_, ?_, ?_⟩
  · rw [hf]
    simp only [Bool.or_eq_true, decide_eq_true_eq]
  · rw [hf]
  · rw [hf]
  · rw [hf]
  · rw [hf]
  · rw [← hwarp]
    exact hframe

/-! ### Publication walks (04 R136 to R145) -/

theorem putWalk_eq_map (k : Walk) (s : State) :
    putWalk k s = { s with walks := s.walks.map (fun y => if y.id = k.id then k else y) } := by
  simp [putWalk]

/-- The event of a walk that goes on: its block runs, and a walker is free for it where the stop of its block parked it. -/
theorem walkEvent_runs {s u : State} {k : Walk} (ev : Instr) (act : Walk → State → State) (harg : s.arg = .unit k.id)
    (hfind : s.walks.find? (fun x => x.id == k.id) = some k) (hgoes : k.suspended = false) (hu : focusWarp s k.blk k.wp = u)
    (hwarp : u.w.launched ≠ 0) (hrun : u.blk.st = .running) (hfree : k.parked = true → walkerFree u k = true) :
    walkEvent ev act s = act { k with parked := false } (putWalk { k with parked := false } u) := by
  have hpark : (k.parked && !walkerFree u k) = false := by
    cases hp : k.parked with
    | false => rfl
    | true => simp [hfree hp]
  unfold walkEvent
  simp only [harg, hfind, hu]
  rw [if_neg hwarp, hgoes, hrun]
  simp [hpark]

/-- A free walker claims the root that the lane at the front of a `pub` names. -/
theorem beginWalk_claims {k : Walk} {s v : State} {l size owner : Nat} {g ref : W64} {rest : List (Nat × W64 × W64)}
    (hidle : k.active = false) (hfree : walkerFree s k = true) (hlanes : k.lanes = (l, g, ref) :: rest)
    (hheld : refHeld s (asidOf s) ref = false) (htarget : targetOf s (asidOf s) k.user ref g = .ok (.obj 1 owner size))
    (hset : setObjState (asidOf s) k.user ref 2 s = (v, .done)) :
    beginWalk k s = push .objectScan (.unit k.id)
      (putWalk { k with active := true, queue := [ref], pos := 0, word := 0, flipped := false, waits := [] } v) := by
  simp [beginWalk, hidle, hfree, hlanes, hheld, htarget, claimObj, hset]

theorem claimObj_id (k : Walk) (asid : Nat) (va : W64) (s : State) : (claimObj k asid va s).1.id = k.id := by
  unfold claimObj
  split <;> rfl

theorem scanRef_id (asid : Nat) (a ref : W64) (k : Walk) (s : State) : (scanRef asid a ref k s).1.id = k.id := by
  unfold scanRef
  split
  · rfl
  · split
    · rfl
    · split
      · rfl
      · exact claimObj_id k asid ref s
    · dsimp only
      split <;> rfl
    · rfl

/-- Scanning notes objects in its walk, and leaves it the same walk. -/
theorem scanWords_id (asid : Nat) (va : W64) (n w : Nat) (k : Walk) (s : State) : (scanWords asid va n w k s).1.id = k.id := by
  induction n generalizing w k s with
  | zero => rfl
  | succ n ih =>
    unfold scanWords
    dsimp only
    split
    · rfl
    · rename_i p _
      split
      · rfl
      · split
        · exact ih _ _ _
        · generalize hr : scanRef _ _ _ _ _ = r
          have hid : r.1.id = k.id := by rw [← hr]; exact scanRef_id _ _ _ _ _
          obtain ⟨k', s', e⟩ := r
          cases e with
          | done => exact (ih _ _ _).trans hid
          | held => exact hid
          | fault m => exact hid

/-- The next claimed object is scanned to its end. -/
theorem scanObject_scans {k k' : Walk} {s x : State} {va : W64} {p : Piece} {h : Nat} (hnext : k.queue[k.pos]? = some va)
    (hhead : objHeader s (asidOf s) k.user va = .ok (p, h))
    (hscan : scanWords (asidOf s) va (8 * (h % 2 ^ 32) - max 1 k.word) (max 1 k.word) k
      (drainObject (asidOf s) (vaOf va) (h % 2 ^ 32) s) = (k', x, .done)) :
    let done : Walk := { k' with pos := k'.pos + 1, word := 0 }
    k'.id = k.id ∧ scanObject k s = push (walkStage done) (.unit k.id)
      { x with walks := x.walks.map (fun y => if y.id = k.id then done else y) } := by
  have hsize : bits h 0 32 = h % 2 ^ 32 := by simp [bits]
  have hid : k'.id = k.id := by
    have hkeeps := scanWords_id (asidOf s) va (8 * (h % 2 ^ 32) - max 1 k.word) (max 1 k.word) k
      (drainObject (asidOf s) (vaOf va) (h % 2 ^ 32) s)
    rw [hscan] at hkeeps
    exact hkeeps
  refine ⟨hid, ?_⟩
  unfold scanObject
  simp only [hnext, hhead, hsize, hscan]
  rw [putWalk_eq_map, ← hid]

/-- The flip phase publishes the claimed objects, the last discovered first. -/
theorem flipWalk_flips {k : Walk} {s v : State} (h : publishAll (asidOf s) k.user k.queue.reverse s = (v, .done)) :
    flipWalk k s = push .finalStore (.unit k.id) (putWalk { k with flipped := true } v) := by
  simp only [flipWalk, h]

/-- The final store of a lane, once nothing that it waits for is unpublished and no copy owes its place. -/
theorem storeFinal_stores {k : Walk} {s : State} {l : Nat} {g ref : W64} {rest : List (Nat × W64 × W64)} {p : Place}
    (hlanes : k.lanes = (l, g, ref) :: rest) (hwaits : stillWaited s (asidOf s) k.user k.waits = .ok false)
    (hplace : finalPlace k s g l = .ok p) (hfill : fillHeld s p 8 = false) :
    storeFinal k s = endLane k (keepTlb (storeRef ref s p) p) := by
  unfold storeFinal
  simp only [hlanes, hwaits, hplace]
  rw [hfill]
  rfl

theorem endLane_of_lanes {k : Walk} {a : Nat × W64 × W64} {rest : List (Nat × W64 × W64)} (h : k.lanes = a :: rest) (s : State) :
    endLane k s =
      if rest = [] then complete { s with walks := s.walks.filter (fun x => x.id != k.id) } k.pend
      else push .publicationWalk (.unit k.id) (putWalk { k with lanes := rest, active := false } s) := by
  unfold endLane
  rw [h]
  cases rest <;> rfl

end Sys2Proof.Machine

namespace Sys2Proof.Proofs
open Sys2Proof.Machine hiding Ready
open Sys2Proof.Claims

/-- Settles O56, unit by unit. -/
theorem enginesAndWalkersProceed : Obligations.EnginesAndWalkersProceed := by
  unfold Obligations.EnginesAndWalkersProceed
  refine ⟨?issue, ?granule, ?completion, ?fault, ?walk⟩
  case issue =>
    intro s core len k harg hfind hgoes hroom u b hfill hvalid hranges
    have hexec : exec .copyIssue s = .next (copyIssued core k.pend (newCopy u k b len) u) := by
      have harm : exec .copyIssue s = execCopyIssue s := rfl
      rw [harm, execCopyIssue, harg, ← push_requestDone_copyEntered]
      exact congrArg _ (issueRequest_issues hfind hgoes hroom rfl rfl hfill hvalid hranges)
    clear_value b u
    exact ⟨_, newCopy u k b len, hexec, rfl, rfl, rfl, rfl, rfl, rfl, rfl, rfl, rfl, rfl, rfl, rfl, rfl, rfl, rfl, rfl, rfl⟩
  case granule =>
    intro s c n harg hfind hgoes hlive hown hskip u start
    have harm : exec .copyGranuleWrite s = .next (copyStep c.id s) := by
      have h : exec .copyGranuleWrite s = execCopyGranuleWrite s := rfl
      rw [h, execCopyGranuleWrite, harg]
    refine ⟨fun hpast => ?ends, fun hrow hbuf hpos hop hwin hswz hfits harr hn hfirst => ?write⟩
    case ends =>
      refine ⟨_, harm, ?_⟩
      rw [copyStep_of_live hfind hgoes hlive hown hskip rfl, if_pos hpast, endCopy_eq]
    case write =>
      obtain ⟨hrowWin, hva⟩ := rowDst_window (c := c) (by omega) hwin (by omega)
      have hexec : exec .copyGranuleWrite s = .next (granuleWritten { c with places := if c.pos = 0 then [] else c.places } n
          (winStores (fun j => start + c.pos + j) (fun j => (c.buf.getD (c.pos + j) 0).toNat) 1 u.blk.win (List.range n)) u) := by
        rw [harm, copyStep_of_live (u := u) hfind hgoes hlive hown hskip rfl, if_neg (Nat.not_le.mpr hrow),
          if_neg (by simpa using hbuf), writesRow_window hrowWin hva hpos hswz harr hn hfirst]
      clear_value start u
      refine ⟨_, hexec, rfl, fun j hj => ?_, fun a ha => ?_, fun f hf => ?_⟩
      · exact (get_winStores_run _ _ _ _ hj).trans (BitVec.ofNat_toNat ..)
      · exact get_winStores_run_of_outside _ _ _ _ ha
      · exact List.mem_of_mem_filter hf
  case completion =>
    intro s c harg hfind hown gone flushed u v
    have harm : exec .copyCompletion s = .next (completeCopy c (unfocus s)) := by
      have h : exec .copyCompletion s = execCopyCompletion s := rfl
      rw [h, execCopyCompletion, harg]
      simp only [hfind]
    rw [harm, completeCopy_of_warp (gone := gone) (flushed := flushed) (u := u) (v := v) hown rfl rfl rfl rfl]
    rfl
  case fault =>
    intro s b w fr rest harg u lanes v hq hhandler hrun hlanes hdel hsup htvec hexp hroute
    have harm : exec .faultDelivery s = .next (deliverQueued u) := by
      have h : exec .faultDelivery s = execFaultDelivery s := rfl
      rw [h, execFaultDelivery, harg]
    obtain ⟨t, h, ht, hrest⟩ := deliver_lanes lanes hsup htvec hexp hroute
    refine ⟨t, h, ?_, hrest⟩
    rw [harm, ← ht, deliverQueued_delivers hq hhandler hrun rfl hlanes rfl hdel]
  case walk =>
    intro s k harg hfind hgoes here k₀ u asid set hwarp hrun hpark
    have hevent : ∀ ev act, walkEvent ev act s = act k₀ u := fun ev act =>
      walkEvent_runs ev act harg hfind hgoes rfl hwarp hrun hpark
    refine ⟨?begin, ?scan, ?flip, ?store⟩
    case begin =>
      intro l g ref rest size owner v hidle hfree hlanes hheld htarget hset
      have harm : exec .publicationWalk s = .next (walkEvent .publicationWalk beginWalk s) := rfl
      rw [harm, hevent, beginWalk_claims (k := k₀) hidle hfree hlanes hheld htarget hset, putWalk_eq_map]
      rfl
    case scan =>
      intro va p h k' x hnext hhead size done hscan
      have harm : exec .objectScan s = .next (walkEvent .objectScan scanObject s) := rfl
      obtain ⟨hid, hscanned⟩ := scanObject_scans (k := k₀) hnext hhead hscan
      refine ⟨hid, ?_⟩
      rw [harm, hevent, hscanned]
      rfl
    case flip =>
      intro v hpublished
      have harm : exec .flipPhase s = .next (walkEvent .flipPhase flipWalk s) := rfl
      rw [harm, hevent, flipWalk_flips (k := k₀) hpublished, putWalk_eq_map]
      rfl
    case store =>
      intro l g ref rest p hlanes hwaits hplace hfill
      have harm : exec .finalStore s = .next (walkEvent .finalStore storeFinal s) := rfl
      rw [harm, hevent, storeFinal_stores (k := k₀) hlanes hwaits hplace hfill, endLane_of_lanes (k := k₀) hlanes,
        putWalk_eq_map]
      rfl

end Sys2Proof.Proofs

/-!
SUPPORT. Memory instructions that complete: the operation that each starts, the lanes' accesses of every lane form, and a
scalar's one access.
-/
namespace Sys2Proof.Machine

/-! ### Memory instructions that retire -/

/-- A new operation without parts, or with a part for each of its lanes, is the claims' record of it. -/
theorem newPend_eq_operation {whole : Option Lanes} {act : Lanes} (h : whole.getD act = act) (s : State) (flag : Nat)
    (u : PendUnit) (lands : List Landing) :
    newPend s flag whole u act lands = Claims.operation s flag whole.isSome u act lands := by
  unfold newPend Claims.operation
  rw [h]
  cases whole <;> rfl

/-- A memory instruction, whichever its flag, that starts an operation in the lanes of its groups and retires. -/
theorem retireMem_starts {i : Instr} {u : State} {groups : List Lanes} {act : Lanes} {whole : Option Lanes}
    (hall : groups.foldl (· ||| ·) 0 = act) (hwhole : whole.getD act = act) (hr : u.f.replay = none) (flag : Nat)
    (lands : List Landing) (reads : List (Nat × Nat × Nat)) :
    Claims.StartsAccess i u (retireMem i act (startMemory i u flag whole groups lands reads true)) flag whole.isSome act groups
      lands reads := by
  unfold Claims.StartsAccess
  split
  · next h0 =>
    have hnone : startMemory i u flag whole groups lands reads true = u := by rw [startMemory, hall, if_pos h0]
    rw [hnone, retireMem, if_pos h0]
    exact retire_frame i u hr
  · next hne =>
    rw [retireMem_startMemory hall hne hr, memoryPend, newPend_eq_operation hwhole, currentNote_eq u hr, replayOf, hr]

/-- Where the fragment stands behind it. -/
theorem retireMem_starts_f {i : Instr} {u : State} {groups : List Lanes} {act : Lanes} {whole : Option Lanes}
    (hall : groups.foldl (· ||| ·) 0 = act) (hr : u.f.replay = none) (flag : Nat) (lands : List Landing)
    (reads : List (Nat × Nat × Nat)) :
    ∃ a, (retireMem i act (startMemory i u flag whole groups lands reads true)).f =
      { u.f with pc := nextPc u.f, inClause := !lastWord u.f, hold := .free, done := 0, count := 0, latch := a } := by
  by_cases h0 : act = 0
  · have hnone : startMemory i u flag whole groups lands reads true = u := by rw [startMemory, hall, if_pos h0]
    rw [hnone, retireMem, if_pos h0]
    exact ⟨_, retire_f i u hr⟩
  · rw [retireMem_startMemory hall h0 hr]
    exact ⟨_, rfl⟩

/-! ### Scalar accesses (10 R290, R291) -/

/-- What a scalar access brings to its destination, if it has one. -/
def scalarLands (sd : Option (BitVec 6)) (v : Nat) : List Landing :=
  match sd with
  | some d => [.scalar d.toNat (BitVec.ofNat 64 v)]
  | none => []

/-- A scalar access that is aligned, reaches a place and waits for nothing is made, and starts its operation. -/
theorem scalarAccess_of_reached {s : State} {k : Access} {at' : At} {n : Nat} {g : W64} {sd : Option (BitVec 6)} {q : Place}
    (halign : g.toNat % n = 0) (hplace : laneResolve s (scalarMem k n at' sd.isSome) g (lowLane s.f.mask) = .ok q)
    (hfill : fillHeld s q n = false) (hcoll : collHeld s ((lanesOf s.f.mask).map (fun l => (l, g))) n = false)
    (horder : orderHeld s ((lanesOf s.f.mask).map (fun l => (l, g))) n = false)
    (hwake : (scalarMem k n at' sd.isSome).store = true → wakeHeld s q n = false) (i : Instr)
    (perform : State → Place → State × Nat) (after : Place → State → State) :
    scalarAccess i k at' n g sd perform after s =
      retireMem i s.f.mask (startMemory i (after q (keepLeaves (perform s q).1 q)) (if sd.isSome then setA s.f else setB s.f)
        (some s.f.mask) [s.f.mask] (scalarLands sd (perform s q).2) (readsOf (scalarMem k n at' sd.isSome) ((lanesOf s.f.mask).map (fun l => (l, g)))) true) := by
  have hwait : ((scalarMem k n at' sd.isSome).store && wakeHeld s q n) = false := by
    cases hs : (scalarMem k n at' sd.isSome).store
    · rfl
    · simpa using hwake hs
  unfold scalarAccess
  simp only [halign, hplace, hfill, hcoll, horder, hwait]
  rfl

end Sys2Proof.Machine

namespace Sys2Proof.Proofs
open Sys2Proof.Machine hiding Ready
open Sys2Proof.Claims

/-- A memory instruction that starts its operation from a state whose fragment is as at its start stands past itself. -/
theorem past_retireMem {i : Instr} {s u : State} {groups : List Lanes} {act : Lanes} {whole : Option Lanes} (h : Ready i s)
    (hf : u.f = (started s).f) (hall : groups.foldl (· ||| ·) 0 = act) (flag : Nat) (lands : List Landing)
    (reads : List (Nat × Nat × Nat)) :
    Past s (retireMem i act (startMemory i u flag whole groups lands reads true)) := by
  have hr : u.f.replay = none := by rw [hf]; exact replay_of_ready h
  obtain ⟨a, ht⟩ := retireMem_starts_f (i := i) (whole := whole) hall hr flag lands reads
  unfold Past
  rw [ht, hf]
  rfl

/-! ### Lane accesses (12 R329 to R335) -/

/-- The claim's places are those that the accesses of the form reach once the instruction has issued. -/
theorem reached_of_reaches {i : Instr} {s : State} {m : LaneForm} {ps : List (Nat × Place)} (hr : s.f.replay = none)
    (h : Reaches i s m ps) : Reached (unheld s) m.acc m.addr ps := by
  obtain ⟨hlanes, hps, hord, -⟩ := h
  have hact := actSet_unheld hr
  have hat : lanesAt (unheld s) m.addr = m.accesses s := by rw [lanesAt, hact]; rfl
  obtain ⟨hcoll, horder⟩ := hord
  refine {
    lanes := hact ▸ hlanes
    aligned := fun x hx => (hps x hx).1
    place := fun x hx => (laneResolve_unheld ..).trans (hps x hx).2.1
    filled := fun x hx => (hps x hx).2.2.1
    wake := fun hs x hx => (hps x hx).2.2.2 hs
    coll := ?_, order := ?_ }
  · rw [hat]; exact hcoll
  · rw [hat]; exact horder

/-- The accesses of every form read, write, or do both. -/
theorem laneForm_kind {s : State} {i : Instr} {m : LaneForm} (hm : laneForm s i = some m) :
    m.acc.kind = .read ∨ m.acc.kind = .write ∨ m.acc.kind = .rmw := by
  unfold laneForm at hm
  dsimp only at hm
  split at hm
  case h_22 => cases hm
  case h_1 | h_2 | h_3 | h_4 | h_5 => cases hm; exact .inl rfl
  case h_6 | h_7 | h_8 | h_9 => cases hm; exact .inr (.inl rfl)
  all_goals
    cases hm
    exact .inr (.inr rfl)

/-- What accesses that read, write or do both read is what the claims say. -/
theorem readsOf_eq_readBytes {p : LaneMem} (h : p.kind = .read ∨ p.kind = .write ∨ p.kind = .rmw) (as : List (Nat × W64)) :
    readsOf p as = readBytes p.kind as p.n := by
  unfold readsOf
  rcases h with h | h | h <;> rw [h] <;> rfl

/-- With a lane active, the replies are one for all lanes of `ldq`, else one for each line. -/
theorem replyGroups_eq {s : State} {m : LaneForm} (hne : activeLanesOf s ≠ 0) :
    replyGroups m.acc (m.accesses s) =
      if m.acc.partialCommit = true ∧ m.acc.kind = .read then [activeLanesOf s] else byLine (m.accesses s) := by
  have hfst : (m.accesses s).map Prod.fst = lanesOf (activeLanesOf s) := by simp [LaneForm.accesses, Function.comp_def]
  have hsome : (m.accesses s).isEmpty = false := by
    rw [← List.isEmpty_map (f := Prod.fst), hfst, List.isEmpty_eq_false_iff]
    intro hnil
    rw [← maskOf_lanesOf (activeLanesOf s), hnil] at hne
    exact hne rfl
  unfold replyGroups
  rw [hfst, maskOf_lanesOf, hsome]
  simp only [Bool.not_false, Bool.and_true, Bool.and_eq_true, decide_eq_true_eq]
  rfl

/-- Where no lane is active no operation starts, whatever its replies would have been. -/
theorem startsAccess_congr {i : Instr} {u t : State} {flag : Nat} {whole : Bool} {act : Lanes} {g g' : List Lanes}
    {lands : List Landing} {reads : List (Nat × Nat × Nat)} (hg : act ≠ 0 → g = g')
    (h : StartsAccess i u t flag whole act g lands reads) : StartsAccess i u t flag whole act g' lands reads := by
  by_cases hne : act = 0
  · unfold StartsAccess at h ⊢
    rw [if_pos hne] at h ⊢
    exact h
  · rwa [← hg hne]

/-- Settles O21: the instruction is the lane access of its form, which starts its operation from the memory that its lanes'
accesses leave. -/
theorem laneMemoryCompletes : Obligations.LaneMemoryCompletes := by
  unfold Obligations.LaneMemoryCompletes
  intro i s m ps hm h hreach
  have hr := replay_of_ready h
  have hact := actSet_unheld hr
  have hform := laneForm_memory hm
  obtain ⟨-, -, -, hdue⟩ := id hreach
  have harm := exec_laneForm hm h hdue
  rw [laneAccess_of_reached (reached_of_reaches hr hreach), hact] at harm
  have hat : lanesAt (unheld s) m.addr = m.accesses s := by rw [lanesAt, hact]; rfl
  have hall := foldl_or_replyGroups m.acc (unheld s) m.addr
  rw [hat, hact] at hall
  rw [hat, readsOf_eq_readBytes (laneForm_kind hm)] at harm
  have hmem : OnlyMemory (started s) (m.after (performLanes m.one ps (started s)).1) :=
    onlyMemory_trans (performLanes_onlyMemory hform ps _) (hform.after _)
  have hf : (m.after (performLanes m.one ps (started s)).1).f = (started s).f := by rw [hmem]
  have hflag : laneFlag (unheld s) m.acc (activeLanesOf s) = (if m.acc.flagA then setA s.f else setB s.f,
      if m.acc.flagA then none else some (activeLanesOf s)) := by
    unfold laneFlag
    split <;> rfl
  rw [hflag] at harm
  have hwhole : (if m.acc.flagA then none else some (activeLanesOf s)).getD (activeLanesOf s) = activeLanesOf s := by
    split <;> rfl
  have hstart := retireMem_starts (i := i) (whole := if m.acc.flagA then none else some (activeLanesOf s)) hall hwhole
    (u := m.after (performLanes m.one ps (started s)).1) (by rw [hf]; exact hr) (if m.acc.flagA then setA s.f else setB s.f)
    (performLanes m.one ps (started s)).2 (readBytes m.acc.kind (m.accesses s) m.acc.n)
  refine ⟨_, _, _, harm, past_retireMem h hf hall _ _ _, rfl, rfl, hmem, ?_⟩
  have hsome : (if m.acc.flagA then none else some (activeLanesOf s)).isSome = !m.acc.flagA := by
    cases m.acc.flagA <;> rfl
  rw [hsome] at hstart
  exact startsAccess_congr replyGroups_eq hstart

end Sys2Proof.Proofs

namespace Sys2Proof.Proofs
open Sys2Proof.Machine hiding Ready
open Sys2Proof.Claims

/-! ### Scalar accesses (10 R290, R291) -/

/-- The frame of a scalar form's access is that of its kind. -/
theorem scalarForm_acc {s : State} {i : Instr} {m : ScalarForm} (hm : scalarForm s i = some m) :
    m.acc = scalarMem m.acc.kind m.acc.n m.acc.place m.dest.isSome := by
  unfold scalarForm at hm
  dsimp only at hm
  split at hm
  case h_9 => cases hm
  all_goals
    cases hm
    rfl

/-- The accesses of every scalar form read, write, or do both. -/
theorem scalarForm_kind {s : State} {i : Instr} {m : ScalarForm} (hm : scalarForm s i = some m) :
    m.acc.kind = .read ∨ m.acc.kind = .write ∨ m.acc.kind = .rmw := by
  unfold scalarForm at hm
  dsimp only at hm
  split at hm
  case h_9 => cases hm
  case h_1 | h_2 | h_3 => cases hm; exact .inl rfl
  case h_4 | h_5 | h_6 => cases hm; exact .inr (.inl rfl)
  case h_7 | h_8 => cases hm; exact .inr (.inr rfl)

/-- A scalar form's access, and what follows it, change memory alone. -/
theorem scalarForm_memory {s : State} {i : Instr} {m : ScalarForm} (hm : scalarForm s i = some m) (u : State) (q : Place) :
    OnlyMemory u (m.one u q).1 ∧ OnlyMemory u (m.after q u) := by
  have hload : ∀ n, OnlyMemory u (loadAt u q n).1 := fun n => onlyMemory_of_homeStep (loadAt_home u q n)
  have hstore : ∀ v n, OnlyMemory u (storeThrough u q v n) := fun v n => onlyMemory_of_placeStep (storeThrough_place u q v n)
  have hrmw : ∀ n f, OnlyMemory u (rmwAt u q n f).1 := fun n f => onlyMemory_of_placeStep (rmwAt_place u q n f)
  unfold scalarForm at hm
  dsimp only at hm
  split at hm
  case h_9 => cases hm
  case h_1 | h_2 => cases hm; exact ⟨hload _, onlyMemory_refl _⟩
  case h_3 => cases hm; exact ⟨hload _, onlyMemory_of_homeStep (acquireAt_home ..)⟩
  case h_4 | h_5 => cases hm; exact ⟨hstore _ _, onlyMemory_refl _⟩
  case h_6 =>
    cases hm
    exact ⟨onlyMemory_trans (onlyMemory_of_homeStep (releaseAt_home ..)) (onlyMemory_of_placeStep (storeThrough_place ..)),
      onlyMemory_refl _⟩
  case h_7 | h_8 => cases hm; exact ⟨hrmw _ _, onlyMemory_refl _⟩

/-- A scalar memory instruction that nothing keeps from it is the scalar access of its form. -/
theorem exec_scalarForm {i : Instr} {s : State} {m : ScalarForm} (hm : scalarForm s i = some m) (h : Ready i s)
    (hd : ReleaseDue i s) :
    exec i s = .next (scalarAccess i m.acc.kind m.acc.place m.acc.n m.addr m.dest m.one m.after (unheld s)) := by
  unfold scalarForm at hm
  dsimp only at hm
  split at hm
  case h_1 | h_2 | h_4 | h_5 =>
    cases hm
    show issue _ _ s = _
    rw [issue_of_ready h]
    rfl
  case h_3 sd sa k =>
    cases hm
    have harm : exec (.sLdacq sd sa k) s = execSLdacq sd sa k s := rfl
    rw [harm, execSLdacq, issue_of_ready h]
    rfl
  case h_6 sd sa k =>
    cases hm
    have harm : exec (.sStrel sd sa k) s = execSStrel sd sa k s := rfl
    have hdone : collected (unheld s) = true := hd (.inr ⟨sd, sa, k, rfl⟩)
    rw [harm, execSStrel, issue_of_ready h, afterWork, if_pos hdone]
    rfl
  case h_7 sd sa sb w =>
    cases hm
    have harm : exec (.sAadd sd sa sb w) s = execSAadd sd sa sb w s := rfl
    rw [harm, execSAadd, issue_of_ready h]
    rfl
  case h_8 sd sa sb w =>
    cases hm
    have hsize : 256 ^ (if w = 1 then 4 else 8) = if w = 1 then 2 ^ 32 else 2 ^ 64 := by split <;> norm_num
    have harm : exec (.sAcas sd sa sb w) s = execSAcas sd sa sb w s := rfl
    rw [harm, execSAcas, issue_of_ready h]
    dsimp only
    rw [hsize]
    rfl
  case h_9 => cases hm

/-- Settles O27: the instruction is the scalar access of its form, which starts one operation of every lane of MASK. -/
theorem scalarMemoryCompletes : Obligations.ScalarMemoryCompletes := by
  unfold Obligations.ScalarMemoryCompletes
  intro i s m q hm h _ halign hplace hfill hord hwake hdue
  have hr := replay_of_ready h
  obtain ⟨hcoll, horder⟩ := hord
  have hacc := scalarForm_acc hm
  have hmem : OnlyMemory (started s) (m.after q (keepLeaves (m.one (started s) q).1 q)) :=
    onlyMemory_trans (onlyMemory_trans (scalarForm_memory hm _ q).1 (keepLeaves_onlyMemory _ q)) (scalarForm_memory hm _ q).2
  have hf : (m.after q (keepLeaves (m.one (started s) q).1 q)).f = (started s).f := by rw [hmem]
  have hall : [s.f.mask].foldl (· ||| ·) 0 = s.f.mask := BitVec.zero_or
  have harm := exec_scalarForm hm h hdue
  rw [scalarAccess_of_reached (s := unheld s) halign (by rw [← hacc, laneResolve_unheld]; exact hplace) hfill hcoll horder
    (by rw [← hacc]; exact hwake), ← hacc, readsOf_eq_readBytes (scalarForm_kind hm)] at harm
  refine ⟨_, _, _, harm, past_retireMem h hf hall _ _ _, rfl, rfl, hmem, ?_⟩
  exact retireMem_starts (whole := some s.f.mask) hall rfl (by rw [hf]; exact hr) _ _ _

end Sys2Proof.Proofs

/-!
SUPPORT. Synchronisation within a block and on memory words: what a publication queues, the word that waits and wakes name,
and the barriers of a block where no other fragment waits.
-/
namespace Sys2Proof.Machine

/-! ### Publications (04 R136, R145) -/

theorem pubCheck_unheld (s : State) (g ref : W64) (l : Nat) : pubCheck (unheld s) g ref l = pubCheck s g ref l := by
  have htarget : targetOf (unheld s) (asidOf (unheld s)) (isUser (unheld s)) ref g = targetOf s (asidOf s) (isUser s) ref g := rfl
  unfold pubCheck
  rw [resolve_unheld, htarget]
  rfl

/-- A walk enters a cluster's queue, and its operation, whole in the lanes `act`, is outstanding. -/
def enterWalk (cluster : Nat) (act : Lanes) (lanes : List (Nat × W64 × W64)) (t : State) : State :=
  push .publicationWalk (.unit t.uid)
    { addPend t (setB t.f) (some act) .other act [] with walks := t.walks ++ [newWalk t cluster lanes] }

end Sys2Proof.Machine

namespace Sys2Proof.Proofs
open Sys2Proof.Machine hiding Ready
open Sys2Proof.Claims

/-- A `pub` whose lanes pass their checks, with its lanes' accesses performed and room in the queue, releases and queues. -/
theorem exec_pub_queues {s : State} {d a b : BitVec 8} (h : Ready (.pub d a b) s) (hne : activeLanesOf s ≠ 0)
    (hlanes : ∀ x ∈ laneAddrs s a b, x.2.toNat % 8 = 0 ∧ pubCheck s x.2 (laneRef s d x.1) x.1 = .ok () ∧
      refHeld s (asidOf s) (laneRef s d x.1) = false)
    (hcol : collected s = true) (hroom : pubQueued s (clusterOf s.w.core) + (laneAddrs s a b).length ≤ 64) :
    exec (.pub d a b) s = .next (retire (.pub d a b) (enterWalk (clusterOf s.w.core) (activeLanesOf s)
      ((laneAddrs s a b).map (fun x => (x.1, x.2, laneRef s d x.1)))
      (releaseAt (accessScope (modeLevel s) (placesOf s (pubMem s) (laneAddrs s a b))) (unheld s)))) := by
  have harm : exec (.pub d a b) s = execPub d a b s := rfl
  have hact := actSet_unheld (replay_of_ready h)
  have hat : (lanesOf (activeLanesOf s)).map (fun l => (l, genAddr (unheld s) a b l)) = laneAddrs s a b := rfl
  have hcrooked : (laneAddrs s a b).filter (fun x => x.2.toNat % 8 != 0) = [] := by
    rw [List.filter_eq_nil_iff]
    exact fun x hx => by simp [(hlanes x hx).1]
  have hheld : (laneAddrs s a b).any (fun x => refHeld (unheld s) (asidOf (unheld s)) (refOf (unheld s) d x.1)) = false := by
    rw [List.any_eq_false]
    exact fun x hx => ne_true_of_eq_false (hlanes x hx).2.2
  have hcol' : collected (unheld s) = true := hcol
  have hroom' : ¬64 < pubQueued (unheld s) (clusterOf (unheld s).w.core) + (laneAddrs s a b).length := Nat.not_lt.mpr hroom
  have hbad : ∀ f : Nat × W64 → Option (Nat × MFault), (∀ x, pubCheck s x.2 (laneRef s d x.1) x.1 = .ok () → f x = none) →
      (laneAddrs s a b).filterMap f = [] := fun f hf => by
    rw [List.filterMap_eq_nil_iff]
    exact fun x hx => hf x (hlanes x hx).2.1
  rw [harm, execPub, issue_of_ready h]
  dsimp only
  rw [hact, hat, hcrooked, hheld, hbad]
  · simp only [List.isEmpty_nil, Bool.not_true, Bool.false_eq_true, if_false, List.filter_nil, hne, afterWork, hcol', if_true, hroom',
      placesOf_unheld]
    rfl
  · intro x hx
    have hx' : pubCheck (unheld s) x.2 (refOf (unheld s) d x.1) x.1 = .ok () := (pubCheck_unheld ..).trans hx
    rw [hx']

/-- Settles O32: the release leaves memory alone changed, and the walk and its operation are entered after it. -/
theorem publicationsAreQueued : Obligations.PublicationsAreQueued := by
  unfold Obligations.PublicationsAreQueued
  intro s d a b h hne hlanes hcol hroom acc
  have hhome := releaseAt_home (accessScope (modeLevel s) (placesOf s (pubMem s) (laneAddrs s a b))) (unheld s)
  have hexec := exec_pub_queues h hne hlanes hcol hroom
  generalize hu : releaseAt (accessScope (modeLevel s) (placesOf s (pubMem s) (laneAddrs s a b))) (unheld s) = u at hhome hexec
  have hframe := hhome.frame
  have hf : (enterWalk (clusterOf s.w.core) (activeLanesOf s) ((laneAddrs s a b).map (fun x => (x.1, x.2, laneRef s d x.1))) u).f = (started s).f := by
    show u.f = _
    rw [hframe]
    rfl
  have hfields : u.uid = s.uid ∧ u.blk.uid = s.blk.uid ∧ u.w.idx = s.w.idx := by
    rw [hframe]
    exact ⟨rfl, rfl, rfl⟩
  obtain ⟨huid, hblk, hwp⟩ := hfields
  have hret := retire_frame (.pub d a b) _ (by rw [hf]; exact replay_of_ready h)
  refine ⟨_, u, newWalk u (clusterOf s.w.core) ((laneAddrs s a b).map (fun x => (x.1, x.2, laneRef s d x.1))), hexec,
    past_retire h hf, hu.symm, onlyMemory_of_homeStep hhome, huid, rfl, rfl, huid, rfl, rfl, rfl, hblk, hwp, ?_⟩
  rw [hret, hframe]
  rfl

end Sys2Proof.Proofs

namespace Sys2Proof.Proofs
open Sys2Proof.Machine hiding Ready
open Sys2Proof.Claims

/-! ### Wait words (14 R397, R398) -/

/-- An aligned wait word that the access reaches, and that nothing holds, is read or written. -/
theorem wordOp_passes {s : State} {k : Access} {sa : BitVec 6} {p : Place} (h : WaitWord s k (readS s sa.toNat) p) (i : Instr)
    (act : W64 → Place → State → State) : wordOp i k sa act (unheld s) = act (readS s sa.toNat) p (unheld s) := by
  obtain ⟨halign, hpriv, hres, hheader, hfill, hcoll, horder⟩ := h
  have hread : readS (unheld s) sa.toNat = readS s sa.toNat := rfl
  have hres' : resolve (unheld s) (isUser (unheld s)) k .home (readS s sa.toNat) 8 0 = .ok p := (resolve_unheld ..).trans hres
  have hcheck : (if k = .write then checkHeader (unheld s) p (readS s sa.toNat) else .ok p) = .ok p := by
    split
    · next hk => exact hheader hk
    · rfl
  have hfill' : ¬fillHeld (unheld s) p 8 = true := ne_true_of_eq_false hfill
  have hwait : ¬(collHeld (unheld s) ((lanesOf (unheld s).f.mask).map (fun l => (l, readS s sa.toNat))) 8 ||
      orderHeld (unheld s) ((lanesOf (unheld s).f.mask).map (fun l => (l, readS s sa.toNat))) 8) = true := by
    rw [Bool.or_eq_true, not_or]
    exact ⟨ne_true_of_eq_false hcoll, ne_true_of_eq_false horder⟩
  unfold wordOp
  dsimp only
  rw [hread, if_neg (by simp [halign]), if_neg (by simp [hpriv]), hres']
  dsimp only
  rw [hcheck]
  dsimp only
  rw [if_neg hfill', if_neg hwait]

/-- The comparison of a `bwt`, spelled out. -/
theorem condHolds_iff (cond : BitVec 2) (v x : Nat) :
    condHolds cond v x = true ↔ (cond = 0 ∧ v = x) ∨ (cond = 1 ∧ v ≠ x) ∨ (cond ≠ 0 ∧ cond ≠ 1 ∧ x ≤ v) := by
  unfold condHolds
  split
  · next h0 => simp [h0]
  · next h0 =>
    split
    · next h1 => simp [h1]
    · next h1 =>
      rw [decide_eq_true_iff]
      tauto

/-- `bwt` reads its word, and completes with an acquire or falls asleep, registered or to look again. -/
theorem exec_bwt_reads {s u : State} {v : Nat} {sa sb : BitVec 6} {cond : BitVec 2} {p : Place} (h : Ready (.bwt sa sb cond) s)
    (hword : WaitWord s .read (readS s sa.toNat) p) (hload : loadAt (unheld s) p 8 = (u, v)) :
    ∃ reg : Bool, exec (.bwt sa sb cond) s = .next (
      if condHolds cond v (readS s sb.toNat).toNat then retire (.bwt sa sb cond) (acquireAt 2 (keepLeaves u p))
      else if reg then sleepAt (.word (readS s sa.toNat) cond (readS s sb.toNat) reg false) (keepLeaves u p)
      else push .waitWordReread (.triple (keepLeaves u p).blk.uid (keepLeaves u p).w.idx (keepLeaves u p).f.ent)
        (sleepAt (.word (readS s sa.toNat) cond (readS s sb.toNat) reg false) (keepLeaves u p))) := by
  have harm : exec (.bwt sa sb cond) s = execBwt sa sb cond s := rfl
  refine ⟨isWindow (readS s sa.toNat) ||
    decide (registeredAt (unheld s) (homeSlice (unheld s) (asidOf (unheld s)) (readS s sa.toNat)) < 64), ?_⟩
  rw [harm, execBwt, issue_of_ready h, wordOp_passes hword]
  dsimp only
  rw [hload]
  rfl

theorem keepLeaves_agenda (s : State) (p : Place) : (keepLeaves s p).agenda = s.agenda := by
  cases p with
  | win o => rfl
  | dev o => rfl
  | mem lvl ps => rw [keepLeaves_onlyCaches s lvl ps]

/-- A fragment that sleeps for its wait word: only its hold and what is due have changed. -/
theorem exec_bwt_waits {s u : State} {v : Nat} {sa sb : BitVec 6} {cond : BitVec 2} {p : Place} (h : Ready (.bwt sa sb cond) s)
    (hword : WaitWord s .read (readS s sa.toNat) p) (hload : loadAt (started s) p 8 = (u, v)) :
    OnlyMemory (started s) u ∧ ∃ t, exec (.bwt sa sb cond) s = .next t ∧
      if condHolds cond v (readS s sb.toNat).toNat = true then Past s t ∧ OnlyPosition (acquireAt 2 (keepLeaves u p)) t
      else (∃ r, t.f = { s.f with hold := .word (readS s sa.toNat) cond (readS s sb.toNat) r false, st := .sleeping } ∧
        t = { keepLeaves u p with
          f := t.f, agenda := if r then u.agenda else u.agenda ++ [(.waitWordReread, .triple s.blk.uid s.w.idx s.f.ent)] }) := by
  have hread : OnlyMemory (started s) u := by
    have hstep := loadAt_home (started s) p 8
    rw [hload] at hstep
    exact onlyMemory_of_homeStep hstep
  have hkept : OnlyMemory u (keepLeaves u p) := keepLeaves_onlyMemory u p
  have hagenda : (keepLeaves u p).agenda = u.agenda := keepLeaves_agenda u p
  obtain ⟨reg, hexec⟩ := exec_bwt_reads h hword hload
  refine ⟨hread, _, hexec, ?_⟩
  have hmem := onlyMemory_trans hread hkept
  have hids : (keepLeaves u p).f = (started s).f ∧ (keepLeaves u p).blk.uid = s.blk.uid ∧ (keepLeaves u p).w.idx = s.w.idx := by
    rw [hmem]
    exact ⟨rfl, rfl, rfl⟩
  obtain ⟨hf, hblk, hwp⟩ := hids
  split
  · have hf' : (acquireAt 2 (keepLeaves u p)).f = (started s).f := by rw [acquireAt_frame]; exact hf
    exact ⟨past_retire h hf', onlyPosition_retire h hf' rfl rfl⟩
  · refine ⟨reg, ?_, ?_⟩
    · cases reg <;> simp only [sleepAt, push, hf, if_true, Bool.false_eq_true, if_false] <;> rfl
    · rw [← hagenda, hblk, hwp, hf]
      cases reg <;> rfl

/-- `bwk` releases at device scope and then writes its word. -/
theorem exec_bwk_writes {s : State} {sa sb : BitVec 6} {p : Place} (h : Ready (.bwk sa sb) s)
    (hword : WaitWord s .write (readS s sa.toNat) p) (hcol : collected s = true) :
    (let u := keepLeaves (storeThrough (releaseAt 2 (started s)) p (readS s sb.toNat).toNat 8) p
     ∃ t, exec (.bwk sa sb) s = .next t ∧ Past s t ∧ OnlyMemory (started s) u ∧ OnlyPosition u t) := by
  intro u
  have harm : exec (.bwk sa sb) s = execBwk sa sb s := rfl
  have hcol' : collected (unheld s) = true := hcol
  have hmem : OnlyMemory (started s) u :=
    onlyMemory_trans (onlyMemory_trans (onlyMemory_of_homeStep (releaseAt_home 2 _)) (onlyMemory_of_placeStep (storeThrough_place ..)))
      (keepLeaves_onlyMemory _ p)
  have hf : u.f = (started s).f := by rw [hmem]
  have hexec : exec (.bwk sa sb) s = .next (retire (.bwk sa sb) u) := by
    rw [harm, execBwk, issue_of_ready h, wordOp_passes hword, afterWork, if_pos hcol']
    rfl
  exact ⟨_, hexec, past_retire h hf, hmem, onlyPosition_retire h hf rfl rfl⟩

/-! ### Yields, fences and nop (14 R400, 03 R89) -/

/-- `yld` moves on, holds its fragment, and its expiry is due. -/
theorem exec_yld_holds {s : State} (h : Ready .yld s) :
    ∃ t, exec .yld s = .next t ∧
      Past s { t with f := { t.f with hold := .free, waited := s.f.waited, promoted := s.f.promoted } } ∧
      t.f.hold = .yield ∧ t.f.waited = 0 ∧ t.f.promoted = none ∧
      t = { s with f := t.f, agenda := s.agenda ++ [(.yieldExpiry, .triple s.blk.uid s.w.idx s.f.ent)] } := by
  have harm : exec .yld s = execYld s := rfl
  obtain ⟨f, hret, hpast⟩ := retire_moves (i := .yld) (u := unheld s) h rfl rfl rfl
  unfold Past at hpast
  have hent := congrArg Frag.ent hpast
  dsimp only at hpast hent
  refine ⟨_, by rw [harm, execYld, issue_of_ready h, hret], ?_, rfl, rfl, rfl, ?_⟩
  · unfold Past
    dsimp only
    rw [hpast]
    rfl
  · rw [← hent]
    rfl

/-- A fence performs the halves of its kind. -/
theorem exec_fence_orders {s : State} {scope kind : BitVec 2} (h : Ready (.fence scope kind) s) (hcol : collected s = true) :
    (let r := if kind = 0 then started s else releaseAt scope.toNat (started s)
     let u := if kind = 1 then r else acquireAt scope.toNat r
     OnlyMemory (started s) u ∧ ∃ t, exec (.fence scope kind) s = .next t ∧ Past s t ∧ OnlyPosition u t) := by
  intro r u
  have harm : exec (.fence scope kind) s = execFence scope kind s := rfl
  have hcol' : collected (unheld s) = true := hcol
  have hstep : HomeStep (started s) u := (HomeStep.ite (.refl _) (releaseAt_home ..)).trans (.ite (.refl _) (acquireAt_home ..))
  have hf : u.f = (started s).f := by rw [hstep.frame]
  have hexec : exec (.fence scope kind) s = .next (retire (.fence scope kind) u) := by
    rw [harm, execFence, issue_of_ready h, afterWork, if_pos hcol']
    rfl
  exact ⟨onlyMemory_of_homeStep hstep, _, hexec, past_retire h hf, onlyPosition_retire h hf rfl rfl⟩

/-- Settles O47, instruction by instruction. -/
theorem waitWordsYieldsAndFences : Obligations.WaitWordsYieldsAndFences := by
  unfold Obligations.WaitWordsYieldsAndFences
  refine ⟨fun s u v sa sb cond p => ?bwt, fun s u sa sb p => ?bwk, fun s h => exec_yld_holds h, fun s u scope kind => ?fence,
    fun s h => ?nop⟩
  case bwt =>
    intro g x h hword hload
    obtain ⟨hmem, t, hexec, ht⟩ := exec_bwt_waits h hword hload
    refine ⟨hmem, t, hexec, ?_⟩
    simp only [condHolds_iff] at ht
    exact ht
  case bwk =>
    intro g h hword hcol hu
    subst hu
    exact exec_bwk_writes h hword hcol
  case fence =>
    intro h hcol hu
    dsimp only at hu
    subst hu
    exact exec_fence_orders h hcol
  case nop =>
    have harm : exec .nop s = execNop s := rfl
    exact ⟨_, by rw [harm, execNop, issue_of_ready h], past_retire (u := unheld s) h rfl, onlyPosition_retire (u := unheld s) h rfl rfl rfl⟩

end Sys2Proof.Proofs

namespace Sys2Proof.Machine

/-! ### Barriers (14 R387) -/

/-- Changing an element by what it comes to. -/
theorem modify_eq_const {α : Type} {l : List α} {n : Nat} {a : α} (h : l[n]? = some a) (f : α → α) :
    l.modify n f = l.modify n (fun _ => f a) := by
  refine List.ext_getElem? fun j => ?_
  rw [List.getElem?_modify, List.getElem?_modify]
  by_cases hj : n = j
  · subst hj
    simp [h]
  · simp [hj]

/-- The last of two changes of one element to a value stays. -/
theorem modify_modify_const {α : Type} (l : List α) (n : Nat) (f : α → α) (b : α) :
    (l.modify n f).modify n (fun _ => b) = l.modify n (fun _ => b) := by
  refine List.ext_getElem? fun j => ?_
  simp only [List.getElem?_modify]
  by_cases hj : n = j <;> simp [hj, Function.comp_def]

/-- The barrier that a block has of an identifier. -/
theorem barrierAt_of_getElem? {s : State} {id : Nat} {b : Barrier} (h : s.blk.bars[id]? = some b) : barrierAt s id = b := by
  rw [barrierAt, List.getD_eq_getElem?_getD, h]
  rfl

/-- The state in which barrier `id` of the block is `b`. -/
def withBarrier (id : Nat) (b : Barrier) (s : State) : State := updBarrier id (fun _ => b) s

theorem withBarrier_getElem? {s : State} {id : Nat} {b : Barrier} (h : s.blk.bars[id]? = some b) (b' : Barrier) :
    (withBarrier id b' s).blk.bars[id]? = some b' := by
  show (s.blk.bars.modify id (fun _ => b'))[id]? = some b'
  rw [List.getElem?_modify, h]
  simp

/-- A list gains the keys that it does not hold yet. -/
theorem mem_foldl_addOnce (ks l : List Nat) (k : Nat) : k ∈ ks.foldl (fun l k => addOnce k l) l ↔ k ∈ l ∨ k ∈ ks := by
  rw [← List.contains_iff_mem, contains_foldl_addOnce, Bool.or_eq_true, List.contains_iff_mem, List.contains_iff_mem, or_comm]

theorem nodup_foldl_addOnce (ks : List Nat) {l : List Nat} (h : l.Nodup) : (ks.foldl (fun l k => addOnce k l) l).Nodup := by
  refine List.foldlRecOn (motive := List.Nodup) _ _ h fun l hl k _ => ?_
  unfold addOnce
  split
  · exact hl
  · next hk => exact List.nodup_cons.mpr ⟨by simpa using hk, hl⟩

/-- What stands under a key after one value has been kept under several. -/
theorem lookup_foldl_keep {α : Type} (v : α) (ks : List Nat) (l : List (Nat × α)) (j : Nat) :
    lookup j (ks.foldl (fun l k => keep k v l) l) = if j ∈ ks then some v else lookup j l := by
  induction ks generalizing l with
  | nil => rfl
  | cons k r ih =>
    rw [List.foldl_cons, ih, lookup_keep]
    by_cases hj : j = k <;> by_cases hr : j ∈ r <;> simp [hj, hr]

/-- Where no fragment passes, nothing is performed for any. -/
theorem eachFrag_of_none {s : State} {p : Frag → Bool} (h : ∀ w ∈ s.w :: s.blk.warps, ∀ g ∈ w.frags, p g = false)
    (act : State → State) : eachFrag p act s = s := by
  have hnone : fragsWhere s p = [] := by
    rw [fragsWhere, List.flatMap_eq_nil_iff]
    intro w hw
    rw [List.map_eq_nil_iff, List.filter_eq_nil_iff]
    exact fun g hg => ne_true_of_eq_false (h w hw g hg)
  rw [eachFrag, hnone]

/-- Where no other fragment waits for the phase, a complete phase advances and nothing else happens. -/
theorem completePhase_of_none {s : State} {id : Nat} {b : Barrier} (hb : s.blk.bars[id]? = some b)
    (hw : Claims.NoneWaits id b.phase s) :
    completePhase id s = if phaseDone b then withBarrier id (nextPhase b) s else s := by
  unfold completePhase
  rw [barrierAt_of_getElem? hb]
  dsimp only
  split
  · have hnext : updBarrier id nextPhase s = withBarrier id (nextPhase b) s := by
      unfold withBarrier updBarrier
      rw [modify_eq_const hb]
    rw [hnext, wakeBarrier, eachFrag_of_none]
    exact fun w hw' g hg => beq_eq_false_iff_ne.mpr (hw w hw' g hg)
  · rfl

/-- The arrival of a fragment's lanes at a barrier, as the state before their release has it. -/
def arrived (s : State) (b : Barrier) (cnt : BitVec 1) (sa : BitVec 6) : Barrier :=
  arrivals s b (barCount s cnt sa) (laneKeys s.w.idx s.f.mask)

theorem arrived_phase (s : State) (b : Barrier) (cnt : BitVec 1) (sa : BitVec 6) : (arrived s b cnt sa).phase = b.phase := by
  unfold arrived arrivals
  dsimp only
  cases b.expected <;> rfl

theorem phaseDone_eq (b : Barrier) : phaseDone b = b.expected.any (fun n => decide (n ≤ b.arrived.length)) := by
  unfold phaseDone
  cases b.expected <;> rfl

/-- The lanes' arrival is what the claims say. -/
theorem arrived_arrivedAt (s : State) (b : Barrier) (cnt : BitVec 1) (sa : BitVec 6) :
    Claims.ArrivedAt s b cnt sa (arrived s b cnt sa) := by
  have hall : (arrived s b cnt sa).arrived = (laneKeys s.w.idx s.f.mask).foldl (fun l k => addOnce k l) b.arrived := by
    unfold arrived arrivals
    dsimp only
    cases b.expected <;> rfl
  refine ⟨arrived_phase .., fun k => ?_, fun hn => ?_, ?_⟩
  · rw [hall]
    exact mem_foldl_addOnce ..
  · rw [hall]
    exact nodup_foldl_addOnce _ hn
  · rw [hall]
    unfold arrived arrivals barCount
    cases b.expected with
    | some n => exact ⟨rfl, rfl⟩
    | none =>
      by_cases hc : cnt = 1
      · simp [hc]
      · simp only [hc, if_false, decide_false]
        exact ⟨rfl, rfl⟩

/-- Arriving is a release and the barrier's change. -/
theorem arriveAt_eq {s u : State} {id : BitVec 4} {b : Barrier} (hb : s.blk.bars[id.toNat]? = some b) (cnt : BitVec 1)
    (sa : BitVec 6) (hu : u = releaseAt 1 (unheld s)) :
    arriveAt id cnt sa (unheld s) = withBarrier id.toNat (arrived s b cnt sa) u := by
  have hframe := (releaseAt_home 1 (unheld s)).frame
  rw [← hu] at hframe
  have hb' : u.blk.bars[id.toNat]? = some b := by rw [hframe]; exact hb
  have harr : ∀ n ks, arrivals u b n ks = arrivals s b n ks := fun n ks => by
    rw [hframe]
    rfl
  have hkeys : laneKeys u.w.idx u.f.mask = laneKeys s.w.idx s.f.mask := by rw [hframe]; rfl
  unfold arriveAt withBarrier updBarrier
  dsimp only
  rw [← hu, modify_eq_const hb', harr, hkeys]
  rfl

end Sys2Proof.Machine

namespace Sys2Proof.Proofs
open Sys2Proof.Machine hiding Ready
open Sys2Proof.Claims

theorem acquireAt_withBarrier_l1 (scope id : Nat) (b : Barrier) (s : State) :
    (acquireAt scope (withBarrier id b s)).l1 = (acquireAt scope s).l1 := by
  have hfused : fusedOne (withBarrier id b s) = fusedOne s := rfl
  unfold acquireAt
  rw [hfused]
  split <;> rfl

/-- `bar` past its lanes' accesses: the arrival completes the phase, or the fragment waits for it. -/
theorem exec_bar_arrives {s : State} {id : BitVec 4} {cnt : BitVec 1} {sa : BitVec 6} {b : Barrier} (h : Ready (.bar id cnt sa) s)
    (hcol : collected s = true) (hb : s.blk.bars[id.toNat]? = some b) :
    (let b' := arrived s b cnt sa
     let v := withBarrier id.toNat b' (releaseAt 1 (unheld s))
     exec (.bar id cnt sa) s = .next (if phaseDone b' then completePhase id.toNat (retire (.bar id cnt sa) (acquireAt 1 v))
       else holdAt (.barrier id.toNat b.phase) v)) := by
  intro b' v
  have harm : exec (.bar id cnt sa) s = execBar id cnt sa s := rfl
  have hcol' : collected (unheld s) = true := hcol
  have hbu : (releaseAt 1 (unheld s)).blk.bars[id.toNat]? = some b := by
    rw [(releaseAt_home 1 (unheld s)).frame]
    exact hb
  rw [harm, execBar, issue_of_ready h, afterWork, if_pos hcol']
  dsimp only
  rw [barrierAt_of_getElem? (s := unheld s) hb, arriveAt_eq hb cnt sa rfl, barrierAt_of_getElem? (withBarrier_getElem? hbu _)]

/-- The fragment's lanes remember the phase at which they arrived. -/
def remember (id : BitVec 4) (ph : BitVec 32) (s : State) : State :=
  { s with w := { s.w with
    arrived := ((lanesOf s.f.mask).map (fun l => 32 * id.toNat + l)).foldl (fun l k => keep k ph l) s.w.arrived } }

/-- `bara` past its lanes' accesses: the fragment goes on, and the arrival may complete the phase. -/
theorem exec_bara_arrives {s : State} {id : BitVec 4} {cnt : BitVec 1} {sa : BitVec 6} {b : Barrier} (h : Ready (.bara id cnt sa) s)
    (hcol : collected s = true) (hb : s.blk.bars[id.toNat]? = some b) :
    exec (.bara id cnt sa) s = .next (completePhase id.toNat (retire (.bara id cnt sa)
      (remember id b.phase (withBarrier id.toNat (arrived s b cnt sa) (releaseAt 1 (unheld s)))))) := by
  have harm : exec (.bara id cnt sa) s = execBara id cnt sa s := rfl
  have hcol' : collected (unheld s) = true := hcol
  rw [harm, execBara, issue_of_ready h, afterWork, if_pos hcol']
  dsimp only
  rw [barrierAt_of_getElem? (s := unheld s) hb, arriveAt_eq hb cnt sa rfl]
  rfl

/-- A release leaves everything but memory and lines. -/
theorem releaseAt_shape (scope : Nat) (s : State) :
    ∃ m l1 l2, releaseAt scope s = { s with mem := m, l1 := l1, l2 := l2 } :=
  ⟨_, _, _, (releaseAt_home scope s).frame⟩

/-- Whether other fragments wait depends on the other fragments alone. -/
theorem noneWaits_congr {id : Nat} {ph : BitVec 32} {s t : State} (h : NoneWaits id ph s) (hf : t.w.frags = s.w.frags)
    (hw : t.blk.warps = s.blk.warps) : NoneWaits id ph t := by
  intro w hmem g hg
  rcases List.mem_cons.mp hmem with rfl | hmem
  · exact h s.w (by simp) g (hf ▸ hg)
  · exact h w (List.mem_cons_of_mem _ (hw ▸ hmem)) g hg

/-- A fragment that has moved on after its arrival, where no other waits: its barrier is as its arrival left it, or in its next
phase. -/
theorem completePhase_arrived {s x : State} {id : BitVec 4} {cnt : BitVec 1} {sa : BitVec 6} {b : Barrier}
    (hb : s.blk.bars[id.toNat]? = some b) (hnone : NoneWaits id.toNat b.phase s)
    (hx : x.blk = { s.blk with bars := s.blk.bars.modify id.toNat (fun _ => arrived s b cnt sa) })
    (hfrags : x.w.frags = s.w.frags) :
    completePhase id.toNat x = { x with blk := { s.blk with bars := s.blk.bars.modify id.toNat (fun _ =>
      if phaseDone (arrived s b cnt sa) then nextPhase b else arrived s b cnt sa) } } := by
  have hbx : x.blk.bars[id.toNat]? = some (arrived s b cnt sa) := by
    rw [hx]
    exact withBarrier_getElem? hb _
  have hphase : nextPhase (arrived s b cnt sa) = nextPhase b := by
    unfold nextPhase
    rw [arrived_phase]
  rw [completePhase_of_none hbx (noneWaits_congr (by rw [arrived_phase]; exact hnone) hfrags (by rw [hx])), hphase]
  by_cases hdone : phaseDone (arrived s b cnt sa) = true
  · simp only [hdone, if_true]
    unfold withBarrier updBarrier
    rw [hx]
    dsimp only
    rw [modify_modify_const]
  · simp only [hdone, Bool.false_eq_true, if_false]
    dsimp only at hx
    rw [← hx]

/-- A `bar` arrives, and goes on after an acquire or waits. -/
theorem exec_bar_completes {s : State} {id : BitVec 4} {cnt : BitVec 1} {sa : BitVec 6} {b : Barrier} (h : Ready (.bar id cnt sa) s)
    (hcol : collected s = true) (hb : s.blk.bars[id.toNat]? = some b) (hnone : NoneWaits id.toNat b.phase s) :
    (let u := releaseAt 1 (started s)
     let b' := arrived s b cnt sa
     ∃ t, exec (.bar id cnt sa) s = .next t ∧
      t = { s with f := t.f, mem := u.mem, l1 := t.l1, l2 := u.l2, blk := { s.blk with bars := t.blk.bars } } ∧
      if phaseDone b' = true then
        Past s t ∧ BarrierIs id.toNat (nextPhase b) s t ∧ t.l1 = (acquireAt 1 u).l1
      else BarrierIs id.toNat b' s t ∧ t.l1 = u.l1 ∧ t.f = { s.f with hold := .barrier id.toNat b.phase, st := .ready }) := by
  intro u b'
  have hexec := exec_bar_arrives h hcol hb
  obtain ⟨m, l1, l2, hu⟩ : ∃ m l1 l2, u = { unheld s with mem := m, l1 := l1, l2 := l2 } := releaseAt_shape 1 _
  dsimp only at hexec
  rw [show releaseAt 1 (unheld s) = u from rfl] at hexec
  refine ⟨_, hexec, ?_⟩
  by_cases hdone : phaseDone (arrived s b cnt sa) = true
  · have hl1 := acquireAt_withBarrier_l1 1 id.toNat (arrived s b cnt sa) u
    obtain ⟨f, hret, hpast⟩ := retire_moves (i := .bar id cnt sa)
      (u := acquireAt 1 (withBarrier id.toNat (arrived s b cnt sa) u)) h (by rw [acquireAt_frame, hu]; rfl) rfl rfl
    rw [if_pos hdone, if_pos hdone, hret, completePhase_arrived (cnt := cnt) (sa := sa) hb hnone
      (by rw [acquireAt_frame, hu]; rfl) (by rw [acquireAt_frame, hu]; rfl), if_pos hdone]
    refine ⟨?_, hpast, rfl, hl1⟩
    rw [acquireAt_frame, hu]
    rfl
  · rw [if_neg hdone, if_neg hdone]
    rw [hu]
    exact ⟨rfl, rfl, rfl, rfl⟩

/-- A `bara` arrives and goes on. -/
theorem exec_bara_completes {s : State} {id : BitVec 4} {cnt : BitVec 1} {sa : BitVec 6} {b : Barrier} (h : Ready (.bara id cnt sa) s)
    (hcol : collected s = true) (hb : s.blk.bars[id.toNat]? = some b) (hnone : NoneWaits id.toNat b.phase s) :
    (let u := releaseAt 1 (started s)
     let b' := arrived s b cnt sa
     ∃ t, exec (.bara id cnt sa) s = .next t ∧ Past s t ∧
      t = { s with f := t.f, mem := u.mem, l1 := u.l1, l2 := u.l2, w := (remember id b.phase s).w
                   blk := { s.blk with bars := t.blk.bars } } ∧
      BarrierIs id.toNat (if phaseDone b' then nextPhase b else b') s t) := by
  intro u b'
  have hexec := exec_bara_arrives h hcol hb
  obtain ⟨m, l1, l2, hu⟩ : ∃ m l1 l2, u = { unheld s with mem := m, l1 := l1, l2 := l2 } := releaseAt_shape 1 _
  rw [show releaseAt 1 (unheld s) = u from rfl] at hexec
  obtain ⟨f, hret, hpast⟩ := retire_moves (i := .bara id cnt sa)
    (u := remember id b.phase (withBarrier id.toNat (arrived s b cnt sa) u)) h (by rw [hu]; rfl) rfl rfl
  rw [hret, completePhase_arrived (cnt := cnt) (sa := sa) hb hnone (by rw [hu]; rfl) (by rw [hu]; rfl)] at hexec
  refine ⟨_, hexec, hpast, ?_, rfl⟩
  rw [hu]
  rfl

/-- What the lanes of a mask remember of a barrier, and what they remember of the others. -/
theorem lookup_remember (id : BitVec 4) (ph : BitVec 32) (s : State) :
    (∀ l, lookup (32 * id.toNat + l) (remember id ph s).w.arrived =
      if s.f.mask.getLsbD l = true then some ph else lookup (32 * id.toNat + l) s.w.arrived) ∧
    ∀ k, k < 32 * id.toNat ∨ 32 * id.toNat + 32 ≤ k → lookup k (remember id ph s).w.arrived = lookup k s.w.arrived := by
  refine ⟨fun l => ?_, fun k hk => ?_⟩
  · refine (lookup_foldl_keep ..).trans (if_congr ?_ rfl rfl)
    simp
  · refine (lookup_foldl_keep ..).trans (if_neg fun hmem => ?_)
    obtain ⟨l, hl, rfl⟩ := List.mem_map.mp hmem
    have := lt_of_mem_lanesOf hl
    omega

/-- Packets that leave with the groups of some operations change the collector alone. -/
theorem onlyCollector_sendGroups (p : Coll → Bool) (s : State) : OnlyCollector s (sendGroups p s) :=
  ⟨(sendGroups_sent p s).frame, (packetsLeft_sendGroups p s).unsent_eq, (sendGroups_sent p s).agenda⟩

/-- `barw` sends its lanes' groups, and waits or goes on after an acquire. -/
theorem exec_barw_waits {s : State} {id : BitVec 4} {b : Barrier} (h : Ready (.barw id) s)
    (hb : s.blk.bars[id.toNat]? = some b) :
    (let u := sendGroups (ofFront s) (started s)
     let isOpen := fun l => s.f.mask.getLsbD l = true ∧ lookup (32 * id.toNat + l) s.w.arrived = some b.phase
     ∃ t, exec (.barw id) s = .next t ∧ ((∃ l, isOpen l) → Waits (.barrier id.toNat b.phase) u t) ∧
      ((¬∃ l, isOpen l) → Past s t ∧ t = { u with f := t.f, l1 := (acquireAt 1 u).l1 })) := by
  intro u isOpen
  have harm : exec (.barw id) s = execBarw id s := rfl
  have hframe : u = { unheld s with colls := u.colls, agenda := u.agenda } := (sendGroups_sent (ofFront s) (unheld s)).frame
  have hbu : u.blk.bars[id.toNat]? = some b := by rw [hframe]; exact hb
  have hexec : exec (.barw id) s = .next (
      if (lanesOf u.f.mask).any (fun l => lookup (32 * id.toNat + l) u.w.arrived == some b.phase) then
        holdAt (.barrier id.toNat b.phase) u
      else retire (.barw id) (acquireAt 1 u)) := by
    rw [harm, execBarw, issue_of_ready h]
    dsimp only
    rw [show sendGroups (ofFront (unheld s)) (unheld s) = u from rfl, barrierAt_of_getElem? hbu]
  have hopen : (lanesOf u.f.mask).any (fun l => lookup (32 * id.toNat + l) u.w.arrived == some b.phase) = true ↔
      ∃ l, isOpen l := by
    rw [hframe]
    simp [unheld, isOpen]
  refine ⟨_, hexec, fun hwait => ?_, fun hwait => ?_⟩
  · rw [if_pos (hopen.mpr hwait)]
    unfold Waits
    rw [hframe]
    rfl
  · obtain ⟨f, hret, hpast⟩ := retire_moves (i := .barw id) (u := acquireAt 1 u) h (by rw [acquireAt_frame, hframe]; rfl) rfl rfl
    rw [if_neg (mt hopen.mp hwait), hret]
    refine ⟨hpast, ?_⟩
    rw [acquireAt_frame]

/-- Settles O46: `bar` and `bara` through the arrival of their lanes, `barw` through what its lanes remember. -/
theorem barriersComplete : Obligations.BarriersComplete := by
  unfold Obligations.BarriersComplete
  refine ⟨fun s u id cnt sa b split => ?arrives, fun s u id b h hb hu => ?waits⟩
  case arrives =>
    intro i h hcol hb hnone hu
    subst hu
    refine ⟨onlyMemory_of_homeStep (releaseAt_home ..), ?_⟩
    have hany := phaseDone_eq (arrived s b cnt sa)
    cases split with
    | false =>
      obtain ⟨t, hexec, hframe, ht⟩ := exec_bar_completes h hcol hb hnone
      have hlookup : ∀ k, lookup k t.w.arrived = lookup k s.w.arrived := fun k => by rw [hframe]
      refine ⟨t, arrived s b cnt sa, hexec, arrived_arrivedAt .., ?_, fun l _ => ?_, fun k _ => hlookup k, ?_⟩
      · rw [hframe]
      · rw [hlookup, if_neg (by simp)]
      · rw [← hany]
        exact ht
    | true =>
      obtain ⟨t, hexec, hpast, hframe, hbar⟩ := exec_bara_completes h hcol hb hnone
      obtain ⟨hown, hothers⟩ := lookup_remember id b.phase s
      have hw : t.w = (remember id b.phase s).w := by rw [hframe]
      have hl1 : t.l1 = (releaseAt 1 (started s)).l1 := by rw [hframe]
      refine ⟨t, arrived s b cnt sa, hexec, arrived_arrivedAt .., ?_, fun l _ => ?_, fun k hk => ?_, ?_⟩
      · rw [hframe]
        rfl
      · rw [hw, hown]
        simp
      · rw [hw, hothers k hk]
      · rw [← hany]
        by_cases hdone : phaseDone (arrived s b cnt sa) = true
        · rw [if_pos hdone] at hbar ⊢
          exact ⟨hpast, hbar, hl1⟩
        · rw [if_neg hdone] at hbar ⊢
          exact ⟨hbar, hl1, hpast⟩
  case waits =>
    subst hu
    obtain ⟨t, hexec, hwaits, hpasses⟩ := exec_barw_waits h hb
    exact ⟨onlyCollector_sendGroups .., t, hexec, fun l _ hl => hwaits ⟨l, hl⟩,
      fun hnone => hpasses fun ⟨l, hl⟩ => hnone l (BitVec.lt_of_getLsbD hl.1) hl⟩

end Sys2Proof.Proofs

/-!
SUPPORT. Packets of the front end: the fetch of a packet that can start, what its start and its completion leave of its queue,
and what every step of the front end leaves of the copies and of what is due.
-/
namespace Sys2Proof.Machine

/-! ### Queues through a start and a completion (15 R408, R410) -/

/-- The status area's write leaves a queue's counts and its packets. -/
theorem writeStatus_pkts {s : State} {q : Nat} {x : Queue} (hx : queueAt s q = some x) :
    ∃ y, queueAt (writeStatus q s) q = some y ∧ y.started = x.started ∧ y.done = x.done ∧ y.pkts = x.pkts := by
  have hupd : ∀ u : Queue → Queue, (∀ x, (u x).id = x.id) → queueAt (updQueue q u s) q = some (u x) := fun u hu => by
    rw [queueAt_updQueue s q q u hu, hx, Option.map_some, if_pos rfl]
  unfold writeStatus
  rw [hx]
  dsimp only
  split
  · exact ⟨_, hupd _ fun _ => rfl, rfl, rfl, rfl⟩
  · split
    · next hw => exact ⟨x, by rw [queueAt, queueWrite_queues hw]; exact hx, rfl, rfl, rfl⟩
    · exact ⟨_, hupd _ fun _ => rfl, rfl, rfl, rfl⟩

/-- A packet that starts is its queue's last. -/
theorem startPacket_queueAt {s : State} {q op : Nat} {b : List Byte} {block : Bool} {x : Queue} (hx : queueAt s q = some x) :
    ∃ y, queueAt (startPacket q x.started op b block s) q = some y ∧ y.started = x.started + 1 ∧ y.done = x.done ∧
      y.pkts = x.pkts ++ [{ n := x.started, op := op, bytes := b, complete := false }] := by
  have hupd := queueAt_updQueue s q q (fun y => { y with
    started := x.started + 1, blocked := y.blocked || block, idleSince := s.tick
    pkts := y.pkts ++ [{ n := x.started, op := op, bytes := b, complete := false }] }) (fun _ => rfl)
  rw [hx, Option.map_some, if_pos rfl] at hupd
  unfold startPacket
  rw [hx]
  dsimp only
  rw [if_neg (Nat.lt_irrefl _)]
  exact writeStatus_pkts hupd

/-- The queue after its packet `n` has completed, before the status is written. -/
def completed (n tick : Nat) (x : Queue) : Queue :=
  foldDone { x with
    blocked := x.blocked && !x.pkts.any (fun p => p.n == n && (p.op == 5 || p.op == 7)),
    pkts := x.pkts.map (fun p => if p.n == n then { p with complete := true } else p), idleSince := tick }

/-- A completion keeps its queue, and counts what it counts. -/
theorem completePacket_queueAt {s : State} {q : Nat} {x : Queue} (hx : queueAt s q = some x) (n : Nat) :
    ∃ y, queueAt (completePacket q n s) q = some y ∧ y.started = x.started ∧ y.done = (completed n s.tick x).done := by
  have hupd : queueAt (updQueue q (completed n s.tick) s) q = some (completed n s.tick x) := by
    rw [queueAt_updQueue s q q (completed n s.tick) (fun _ => rfl), hx, Option.map_some, if_pos rfl]
  have hmap : ∀ c : Bool, ∃ y, queueAt (if c then wantMap q (updQueue q (completed n s.tick) s) else
      updQueue q (completed n s.tick) s) q = some y ∧ y.started = x.started ∧ y.done = (completed n s.tick x).done := fun c => by
    cases c with
    | false => exact ⟨_, hupd, rfl, rfl⟩
    | true =>
      obtain ⟨y, hy, -, hstarted, hdone⟩ := wantMap_widx hupd
      exact ⟨y, hy, hstarted, hdone⟩
  obtain ⟨y, hy, hstarted, hdone⟩ := hmap _
  obtain ⟨z, hz, hkept⟩ := ((writeStatus_kept q _).trans (poll_kept q _)).kept q y hy
  exact ⟨z, hz, hkept.started.trans hstarted, hkept.done.trans hdone⟩

/-- The one outstanding packet of a queue, once complete, is counted. -/
theorem completed_done_of_single {x : Queue} {p : Pkt} (h : x.pkts = [p]) (tick : Nat) :
    (completed p.n tick x).done = x.done + 1 := by
  simp [completed, foldDone, h]

/-! ### What the front end leaves of the copies and of what is due -/

/-- The copies are as before, and everything that was due still is. -/
structure StillDue (s t : State) : Prop where
  copies : t.copies = s.copies
  due : ∀ e ∈ s.agenda, e ∈ t.agenda

namespace StillDue
variable {s t u : State}

theorem refl (s : State) : StillDue s s := ⟨rfl, fun _ h => h⟩

theorem trans (h : StillDue s t) (k : StillDue t u) : StillDue s u :=
  ⟨k.copies.trans h.copies, fun e he => k.due e (h.due e he)⟩

end StillDue

theorem HomeStep.stillDue {s t : State} (h : HomeStep s t) : StillDue s t := by
  rw [h.frame]
  exact ⟨rfl, fun _ h => h⟩

theorem push_stillDue (i : Instr) (a : EvArg) (s : State) : StillDue s (push i a s) :=
  ⟨rfl, fun _ h => List.mem_append_left _ h⟩

theorem updQueue_stillDue (q : Nat) (f : Queue → Queue) (s : State) : StillDue s (updQueue q f s) := ⟨rfl, fun _ h => h⟩

theorem storeAt_stillDue (s : State) (p : Place) (v n : Nat) : StillDue s (storeAt s p v n) := by
  cases p with
  | win o => exact ⟨rfl, fun _ h => h⟩
  | dev o =>
    unfold storeAt
    dsimp only
    split
    · exact push_stillDue ..
    · exact .refl s
  | mem lvl ps => exact (storePieces_home s lvl v ps).stillDue

theorem agentWrite_stillDue {s t : State} {asid : Nat} {va : W64} {v n : Nat} (h : agentWrite s asid va v n = .ok t) :
    StillDue s t := by
  unfold agentWrite at h
  split at h
  · cases h
  · split at h
    · split at h
      · cases h
      · cases h; exact storeAt_stillDue ..
    · split at h
      · cases h
      · cases h; exact (homeWrite_home ..).stillDue

theorem queueWrite_stillDue {x : Queue} {va : W64} {b : List Byte} {s t : State} (h : queueWrite x va b s = .ok t) :
    StillDue s t := by
  induction b generalizing va s with
  | nil => cases h; exact .refl _
  | cons c r ih =>
    unfold queueWrite at h
    cases hw : agentWrite s x.asid va c.toNat 1 with
    | error m => rw [hw] at h; cases h
    | ok v =>
      rw [hw] at h
      exact (agentWrite_stillDue hw).trans (ih h)

theorem writeStatus_stillDue (q : Nat) (s : State) : StillDue s (writeStatus q s) := by
  unfold writeStatus
  split
  · exact .refl s
  · split
    · exact updQueue_stillDue ..
    · split
      · next hw => exact queueWrite_stillDue hw
      · exact updQueue_stillDue ..

theorem haltQueue_stillDue (q : Nat) (halting : Nat × Bool) (n code off cause tag gid : Nat) (s : State) :
    StillDue s (haltQueue q halting n code off cause tag gid s) := by
  unfold haltQueue
  split
  · exact .refl s
  · refine .trans ?_ (writeStatus_stillDue ..)
    split
    · exact updQueue_stillDue ..
    · split
      · next hw => exact (updQueue_stillDue ..).trans (queueWrite_stillDue hw)
      · exact updQueue_stillDue ..

theorem poll_stillDue (q : Nat) (s : State) : StillDue s (poll q s) := by
  unfold poll
  split
  · exact .refl s
  · split
    · exact .refl s
    · split
      · exact push_stillDue ..
      · split
        · exact haltQueue_stillDue ..
        · split
          · exact push_stillDue ..
          · exact haltQueue_stillDue ..

theorem startPacket_stillDue (q n op : Nat) (b : List Byte) (block : Bool) (s : State) :
    StillDue s (startPacket q n op b block s) := by
  unfold startPacket
  split
  · exact .refl s
  · split
    · exact updQueue_stillDue ..
    · exact (updQueue_stillDue ..).trans (writeStatus_stillDue ..)

/-! ### The copy of a COPY packet (02 R80) -/

/-- A number's bytes, found between others, give the number back. -/
theorem leBytes_between {a r : List Byte} {off v n : Nat} (ha : a.length = off) (hv : v < 256 ^ n) :
    leBytes (a ++ toBytes v n ++ r) off n = v := by
  rw [List.append_assoc, ← ha, leBytes_append_toBytes, Nat.mod_eq_of_lt hv]

/-- The request of the copy holds the packet's addresses. -/
theorem packetCopy_addresses (q : Queue) (n : Nat) (b : List Byte) (s : State) :
    (packetCopy q n b s).fld 0x18 8 = leBytes b 0x08 8 ∧ (packetCopy q n b s).fld 0x20 8 = leBytes b 0x10 8 := by
  unfold Copy.fld packetCopy
  dsimp only
  refine ⟨?_, leBytes_between (by simp) (leBytes_lt ..)⟩
  rw [List.append_assoc]
  exact leBytes_between (by simp) (leBytes_lt ..)

theorem copyUnit_dvd (len : Nat) : copyUnit len ∣ len := by
  unfold copyUnit
  split
  · next h => exact Nat.dvd_of_mod_eq_zero h
  · split
    · next h => exact Nat.dvd_of_mod_eq_zero h
    · exact one_dvd _

/-- The rows cover the copy's bytes. -/
theorem packetCopy_bytes (q : Queue) (n : Nat) (b : List Byte) (s : State) :
    (packetCopy q n b s).rows * (packetCopy q n b s).len = leBytes b 0x18 8 := by
  unfold packetCopy
  dsimp only
  exact Nat.div_mul_cancel (copyUnit_dvd _)

end Sys2Proof.Machine

namespace Sys2Proof.Proofs
open Sys2Proof.Machine hiding Ready
open Sys2Proof.Claims

/-! ### Packets that can start (15 R409, R410) -/

/-- The fetch of a packet that passes every check starts it. -/
theorem fetchPacket_starts {u : State} {q op : Nat} {late : Bool} {d : Doing} (h : CanStart u q op late d)
    (k : Doing → State → State) : fetchPacket op q none late k u = k d u := by
  obtain ⟨hq, -, hmapped, hhalted, hblocked, hnext, hn, hop, hagain, hbyte, hheld, hbytes, hfault, hwaits, hroom, hlate⟩ := h
  have hd : ({ q := d.q, n := d.q.started, op := op, b := d.b, again := false } : Doing) = d := by
    rw [← hn, ← hop, ← hagain]
  have hfetches : d.q.fetches = true := by simp [Queue.fetches, hmapped, hhalted, hblocked, hnext]
  have hearly : (late && decide (d.q.done < d.q.started)) = false := by
    cases late with
    | false => rfl
    | true => simp [hlate rfl, hn]
  have hfull : decide (16 ≤ (d.q.pkts.filter (fun p => !p.complete)).length) = false := by simpa using hroom
  rw [hn] at hheld hbytes
  unfold fetchPacket
  rw [hq]
  simp only [Option.getD_none, Option.isNone_none, Option.isSome_none, hfetches, hheld, hbytes, hbyte, hfault, hfull, hearly, hwaits,
    Bool.not_true, Bool.and_false, Bool.or_false, Bool.false_eq_true, if_false, bne_self_eq_false, hd]

/-- An event whose packet can start performs it in the state with every fragment put back. -/
theorem packet_starts {s : State} {q op : Nat} {late : Bool} {d : Doing} (harg : s.arg = .unit q)
    (h : CanStart (unfocus s) q op late d) (k : Doing → State → State) : packet op late k s = k d (unfocus s) := by
  unfold packet
  rw [harg]
  exact fetchPacket_starts h k

/-- A queue that is not blocked has no packet that blocks it. -/
theorem blocking_of_canStart {s : State} {q op : Nat} {late : Bool} {d : Doing} (h : CanStart (unfocus s) q op late d) (o : Nat) :
    blocking s q o = none := by
  obtain ⟨hq, -, -, -, hblocked, -⟩ := h
  have hq' : queueAt s q = some d.q := hq
  rw [blocking, hq', Option.bind_some, hblocked]
  rfl

/-- A packet that is performed without a fault starts and completes. -/
theorem perform_completes {d : Doing} {k : State → Except MFault State} {u v : State}
    (h : k (startedPacket d false u) = .ok v) : perform d k u = completePacket d.q.id d.n v := by
  have h' : k (startPacket d.q.id d.n d.op d.b false u) = .ok v := h
  unfold perform
  dsimp only
  rw [h']

/-- NOP and FENCE leave their queue with one more packet started and, where none is outstanding, completed. -/
theorem doNothing_counts {u : State} {q op : Nat} {late : Bool} {d : Doing} (h : CanStart u q op late d) :
    ∃ x, queueAt (completePacket q d.n (startedPacket d false u)) q = some x ∧ x.started = d.n + 1 ∧
      (d.q.pkts = [] → x.done = d.q.done + 1) := by
  obtain ⟨hq, hid, -, -, -, -, hn, -⟩ := h
  obtain ⟨y, hy, hstarted, hdone, hpkts⟩ := startPacket_queueAt (op := d.op) (b := d.b) (block := false) hq
  rw [← hn] at hy hpkts hstarted
  have hy' : queueAt (startedPacket d false u) q = some y := by rw [startedPacket, hid]; exact hy
  obtain ⟨x, hx, hxs, hxd⟩ := completePacket_queueAt hy' d.n
  refine ⟨x, hx, hxs.trans hstarted, fun hnone => ?_⟩
  rw [hnone, List.nil_append] at hpkts
  rw [hxd, completed_done_of_single hpkts, hdone]

/-- A COPY whose addresses are global starts its copy and makes its first granule due. -/
theorem doCopy_starts {u : State} {d : Doing} (hsrc : isGlobal (BitVec.ofNat 64 (d.f 0x08 8)) = true)
    (hdst : isGlobal (BitVec.ofNat 64 (d.f 0x10 8)) = true) :
    packetCopy d.q d.n d.b u ∈ (doCopy d u).copies ∧ (.copyGranuleWrite, .unit u.uid) ∈ (doCopy d u).agenda := by
  have hbad : [d.f 0x08 8, d.f 0x10 8].find? (fun a => !isGlobal (BitVec.ofNat 64 a)) = none := by simp [hsrc, hdst]
  unfold doCopy
  dsimp only
  rw [hbad]
  dsimp only
  have hstart := startPacket_stillDue d.q.id d.n d.op d.b false (fresh { u with copies := u.copies ++ [packetCopy d.q d.n d.b u] })
  have hpoll := fun t => poll_stillDue d.q.id t
  refine ⟨?_, (hpoll _).due _ (List.mem_append_right _ (List.mem_singleton.mpr rfl))⟩
  rw [(hpoll _).copies, (push_stillDue ..).copies, hstart.copies]
  exact List.mem_append_right _ (List.mem_singleton.mpr rfl)

/-- The condition of a WAITMEM, spelled out. -/
theorem memHolds_iff (d : Doing) (w : Nat) :
    memHolds d.b w = true ↔
      (let x := w &&& d.f 0x18 8
       let y := d.f 0x10 8 &&& d.f 0x18 8
       (d.f 0x20 1 = 0 ∧ x = y) ∨ (d.f 0x20 1 = 1 ∧ x ≠ y) ∨ (2 ≤ d.f 0x20 1 ∧ y ≤ x)) := by
  unfold memHolds
  show (if d.f 0x20 1 = 0 then w &&& d.f 0x18 8 == d.f 0x10 8 &&& d.f 0x18 8
    else if d.f 0x20 1 = 1 then w &&& d.f 0x18 8 != d.f 0x10 8 &&& d.f 0x18 8
    else decide (d.f 0x10 8 &&& d.f 0x18 8 ≤ w &&& d.f 0x18 8)) = true ↔ _
  generalize w &&& d.f 0x18 8 = x
  generalize d.f 0x10 8 &&& d.f 0x18 8 = y
  generalize d.f 0x20 1 = c
  dsimp only
  split
  · next h0 => simp [h0]
  · next h0 =>
    split
    · next h1 => simp [h1]
    · next h1 =>
      have h2 : 2 ≤ c := by omega
      simp [h0, h1, h2]

/-! ### What each opcode does once its packet can start (15 R410) -/

/-- A LAUNCH whose record is accepted starts. -/
theorem doLaunch_accepted {u v : State} {d : Doing} {gid : Nat} (hv : frontLaunch u (d.request 0x08 false none) = .ok v gid) :
    doLaunch d u = poll d.q.id (startedPacket d false v) := by
  rw [doLaunch, hv]
  rfl

/-- A GRAPH whose nodes pass and whose root record is accepted starts its graph. -/
theorem doGraph_accepted {u v : State} {d : Doing} {b : List Byte} {nodes : List Node} {gid : Nat}
    (hb : recordBytes u d.q.asid false true (BitVec.ofNat 64 (d.f 0x08 8)) (64 * d.f 0x10 2) = .ok b)
    (hnodes : readNodes u d (d.f 0x10 2) b = .ok nodes)
    (hv : frontLaunch (fresh u) (d.request 0x18 true (some u.uid)) = .ok v gid) :
    doGraph d u = poll d.q.id (startedPacket d false { v with graphs := v.graphs ++
      [{ id := u.uid, root := gid, nodes := nodes, signal := BitVec.ofNat 64 (d.f 0x20 8), queue := (d.q.id, d.n),
         asid := d.q.asid, cls := d.q.cls }] }) := by
  unfold doGraph
  rw [hb]
  dsimp only
  rw [hnodes]
  dsimp only
  rw [hv]
  rfl

/-- A SIGNAL writes its value. -/
theorem doSignal_writes {u v : State} {d : Doing} (hop : d.f 0x18 1 = 0)
    (hv : agentWrite (startedPacket d false u) d.q.asid (BitVec.ofNat 64 (d.f 0x08 8)) (d.f 0x10 8) 8 = .ok v) :
    doSignal d u = completePacket d.q.id d.n v := by
  unfold doSignal
  refine perform_completes ?_
  rw [if_pos hop]
  exact hv

/-- A SIGNAL adds its value. -/
theorem doSignal_adds {u v : State} {d : Doing} {old : Nat} (hop : d.f 0x18 1 = 1)
    (hv : agentRmw (startedPacket d false u) d.q.asid (BitVec.ofNat 64 (d.f 0x08 8)) (· + d.f 0x10 8) = .ok (v, old)) :
    doSignal d u = completePacket d.q.id d.n v := by
  unfold doSignal
  refine perform_completes ?_
  rw [if_neg (by rw [hop]; decide), hv]

/-- A WAITMEM completes where its word's condition holds, and looks again elsewhere. -/
theorem doWaitmem_looks {u : State} {d : Doing} {w : Nat}
    (hheld : agentHeld (startedPacket d true u) d.q.asid (BitVec.ofNat 64 (d.f 0x08 8)) 8 = false)
    (hw : agentRead (startedPacket d true u) d.q.asid (BitVec.ofNat 64 (d.f 0x08 8)) 8 = .ok w) :
    doWaitmem d u = if memHolds d.b w = true then completePacket d.q.id d.n (startedPacket d true u)
      else push .waitmemPacket (.unit d.q.id) (startedPacket d true u) := by
  have hlook : doWaitmem d u = watchWord d.q.id d.n d.q.asid d.b (startedPacket d true u) := rfl
  have hheld' : ¬agentHeld (startedPacket d true u) d.q.asid (BitVec.ofNat 64 (leBytes d.b 0x08 8)) 8 = true :=
    ne_true_of_eq_false hheld
  have hw' : agentRead (startedPacket d true u) d.q.asid (BitVec.ofNat 64 (leBytes d.b 0x08 8)) 8 = .ok w := hw
  rw [hlook, watchWord]
  rw [if_neg hheld', hw']

/-- A RELEASE adds its tokens where the link has room for them. -/
theorem doRelease_adds {u : State} {d : Doing} {l : Link} (hl : lookup (d.f 0x08 2) u.dev.links = some l)
    (hroom : l.tokens + d.f 0x0C 4 < 2 ^ 32) :
    (let st := startedPacket d false u
     doRelease d u = completePacket d.q.id d.n { st with dev := { st.dev with
       links := keep (d.f 0x08 2) { l with tokens := l.tokens + d.f 0x0C 4 } st.dev.links } }) := by
  unfold doRelease
  dsimp only
  rw [hl]
  dsimp only
  rw [if_neg (Nat.not_le.mpr hroom)]
  exact perform_completes rfl

/-- An ACQUIRE takes its tokens where the link has them, and looks again elsewhere. -/
theorem doAcquire_takes {u : State} {d : Doing} {l : Link}
    (hl : lookup (d.f 0x08 2) (startedPacket d true u).dev.links = some l) :
    (let blk := startedPacket d true u
     doAcquire d u = if d.f 0x0C 4 ≤ l.tokens then completePacket d.q.id d.n { blk with dev := { blk.dev with
         links := keep (d.f 0x08 2) { l with tokens := l.tokens - d.f 0x0C 4 } blk.dev.links } }
       else push .acquirePacket (.unit d.q.id) blk) := by
  have hlook : doAcquire d u = takeTokens d.q.id d.n d.b (startedPacket d true u) := rfl
  have hl' : lookup (leBytes d.b 0x08 2) (startedPacket d true u).dev.links = some l := hl
  dsimp only
  rw [hlook, takeTokens]
  dsimp only
  rw [hl']
  rfl

/-- A TIME writes the time. -/
theorem doTime_writes {u v : State} {d : Doing} (hv : agentWrite (startedPacket d false u) d.q.asid
    (BitVec.ofNat 64 (d.f 0x08 8)) (timeNow (startedPacket d false u)) 8 = .ok v) :
    doTime d u = completePacket d.q.id d.n v := perform_completes hv

/-- An INVAL of a global range invalidates it. -/
theorem doInval_invalidates {u : State} {d : Doing} (hva : isGlobal (BitVec.ofNat 64 (d.f 0x08 8)) = true) :
    (let va := BitVec.ofNat 64 (d.f 0x08 8)
     doInval d u = completePacket d.q.id d.n
       (invalidate (effAsid d.q.asid (vaOf va)) (vaOf va) (d.f 0x10 8) (startedPacket d false u))) := by
  have hglobal : ¬(!isGlobal (BitVec.ofNat 64 (d.f 0x08 8))) = true := by rw [hva]; decide
  unfold doInval
  refine perform_completes ?_
  rw [if_neg hglobal]

/-- WAITMEM and ACQUIRE fetch their packet where no packet blocks the queue. -/
theorem exec_waitmemPacket_fetches {s : State} {q : Nat} {d : Doing} (harg : s.arg = .unit q)
    (h : CanStart (unfocus s) q 5 false d) : exec .waitmemPacket s = .next (packet 5 false doWaitmem s) := by
  have harm : exec .waitmemPacket s = execWaitmemPacket s := rfl
  rw [harm, execWaitmemPacket, harg]
  dsimp only
  rw [blocking_of_canStart h]

theorem exec_acquirePacket_fetches {s : State} {q : Nat} {d : Doing} (harg : s.arg = .unit q)
    (h : CanStart (unfocus s) q 7 false d) : exec .acquirePacket s = .next (packet 7 false doAcquire s) := by
  have harm : exec .acquirePacket s = execAcquirePacket s := rfl
  rw [harm, execAcquirePacket, harg]
  dsimp only
  rw [blocking_of_canStart h]

/-- An event that fetches packets of an opcode performs what the packet does. -/
theorem exec_packet_starts {s : State} {e : Instr} {q op : Nat} {late : Bool} {d : Doing} {k : Doing → State → State} {t : State}
    (harm : exec e s = .next (packet op late k s)) (harg : s.arg = .unit q) (h : CanStart (unfocus s) q op late d)
    (ht : k d (unfocus s) = t) : exec e s = .next t := by
  rw [harm, packet_starts harg h, ht]

/-- Settles O58: the event of a packet that can start performs it, opcode by opcode. -/
theorem packetsStart : Obligations.PacketsStart := by
  unfold Obligations.PacketsStart
  intro s q d harg u va blk st
  have hid : ∀ {op late}, CanStart u q op late d → d.q.id = q := fun h => h.2.1
  refine ⟨fun late op e he h => ?nothing, fun v gid h hv => ?launch, fun v b nodes gid h hb hnodes hv => ?graph,
    fun h hsrc hdst => ?copy, fun v h hop hv => ?write, fun v old h hop hv => ?add, fun w h hheld hw => ?waitmem,
    fun l h hl hroom => ?release, fun l h hl => ?acquire, fun v h hv => ?time, fun h hva => ?inval⟩
  all_goals obtain rfl := hid h
  case nothing =>
    obtain ⟨x, hx, hstarted, hdone⟩ := doNothing_counts h
    have hrun : doNothing d u = completePacket d.q.id d.n st := perform_completes rfl
    refine ⟨_, x, ?_, rfl, hx, hstarted, hdone⟩
    rcases he with ⟨rfl, rfl, rfl⟩ | ⟨rfl, rfl, rfl⟩ <;> exact exec_packet_starts rfl harg h hrun
  case launch => exact exec_packet_starts rfl harg h (doLaunch_accepted hv)
  case graph => exact exec_packet_starts rfl harg h (doGraph_accepted hb hnodes hv)
  case copy =>
    obtain ⟨hcopy, hdue⟩ := doCopy_starts (u := u) hsrc hdst
    obtain ⟨hfrom, hto⟩ := packetCopy_addresses d.q d.n d.b u
    exact ⟨_, _, exec_packet_starts rfl harg h rfl, hcopy, rfl, rfl, rfl, hfrom, hto, packetCopy_bytes .., hdue⟩
  case write => exact exec_packet_starts rfl harg h (doSignal_writes hop hv)
  case add => exact exec_packet_starts rfl harg h (doSignal_adds hop hv)
  case waitmem =>
    refine exec_packet_starts (exec_waitmemPacket_fetches harg h) harg h ((doWaitmem_looks hheld hw).trans ?_)
    exact if_congr (memHolds_iff d w) rfl rfl
  case release => exact exec_packet_starts rfl harg h (doRelease_adds hl hroom)
  case acquire => exact exec_packet_starts (exec_acquirePacket_fetches harg h) harg h (doAcquire_takes hl)
  case time => exact exec_packet_starts rfl harg h (doTime_writes hv)
  case inval => exact exec_packet_starts rfl harg h (doInval_invalidates hva)

end Sys2Proof.Proofs

/-!
SUPPORT. The due event of a step: what a step that performs one comes to, with the promotions that its ageing of the waiting
fragments makes due, and the free value on which the statement O2 turns.
-/
namespace Sys2Proof.Machine

/-! ### What is due through the end of a step -/

theorem settleJoin_agenda (s : State) (n : Nat) : (settleJoin s n).agenda = s.agenda := by
  unfold settleJoin
  dsimp only
  split
  · rfl
  · split <;> rfl

theorem settleNarrow_agenda (x : Nat) (s : State) (n : Nat) : (settleNarrow x s n).agenda = s.agenda := by
  unfold settleNarrow
  dsimp only
  split
  · rfl
  · split
    · rfl
    · split
      · rfl
      · split <;> rfl

theorem settleRegang_agenda (s : State) (lv : BitVec 16) (x : Option Nat) : (settleRegang s lv x).agenda = s.agenda := by
  have hfuse : ∀ (t : State) (grp : List Frag), (fuseRegang t grp).agenda = t.agenda := fun t grp => by
    unfold fuseRegang
    dsimp only
    split <;> rfl
  unfold settleRegang
  dsimp only
  split
  · rfl
  · split
    · rfl
    · exact List.foldlRecOn (motive := fun (t : State) => t.agenda = s.agenda) _ _ rfl fun t ht k _ => (hfuse t _).trans ht

/-- Joins and regangs that settle, and time that passes, make nothing due. -/
theorem finish_agenda (s : State) : (finish s).agenda = s.agenda := by
  have hjoins : ∀ (l : List Nat) (t : State), (l.foldl settleJoin t).agenda = t.agenda := fun l t =>
    List.foldlRecOn (motive := fun (u : State) => u.agenda = t.agenda) _ _ rfl fun u hu n _ => (settleJoin_agenda u n).trans hu
  have hnarrow : ∀ (x : Nat) (l : List Nat) (t : State), (l.foldl (settleNarrow x) t).agenda = t.agenda := fun x l t =>
    List.foldlRecOn (motive := fun (u : State) => u.agenda = t.agenda) _ _ rfl fun u hu n _ => (settleNarrow_agenda x u n).trans hu
  have hexports : ∀ (l : List Export) (t : State),
      (l.foldl (fun s e => (List.range e.jst.length).foldl (settleNarrow e.id) s) t).agenda = t.agenda := fun l t =>
    List.foldlRecOn (motive := fun (u : State) => u.agenda = t.agenda) _ _ rfl fun u hu e _ => (hnarrow e.id _ u).trans hu
  have hregangs : ∀ (l : List (BitVec 16 × Option Nat)) (t : State),
      (l.foldl (fun s k => settleRegang s k.1 k.2) t).agenda = t.agenda := fun l t =>
    List.foldlRecOn (motive := fun (u : State) => u.agenda = t.agenda) _ _ rfl fun u hu k _ =>
      (settleRegang_agenda u k.1 k.2).trans hu
  exact (hregangs _ _).trans ((hexports _ _).trans (hjoins _ _))

/-! ### Candidates and promotions (06 R181) -/

/-- The promotions that a step of `n` cycles makes due: of the candidates that have then waited 48 cycles. -/
def promotions (n : Nat) (cs : List Cand) : List (Instr × EvArg) :=
  (cs.filter (fun d => decide (d.waited < 48) && decide (48 ≤ d.waited + n) && d.promoted.isNone)).map
    (fun d => (.issuePromotion, .triple d.blk d.wp d.ent))

theorem ageWaiters_agenda (s : State) :
    (ageWaiters none s).agenda = s.agenda ++ promotions (stepCycles s) (candidates s) := by
  have hpush : ∀ (l : List Cand) (t : State),
      (l.foldl (fun s d => push .issuePromotion (.triple d.blk d.wp d.ent) s) t).agenda =
        t.agenda ++ l.map (fun d => (.issuePromotion, .triple d.blk d.wp d.ent)) := by
    intro l
    induction l with
    | nil => simp
    | cons d r ih =>
      intro t
      rw [List.foldl_cons, ih]
      simp
  have hall : (candidates s).filter (fun d => some d != none) = candidates s := List.filter_eq_self.mpr fun _ _ => rfl
  unfold ageWaiters promotions
  simp only [hall]
  exact hpush _ _

/-- The ageing of the waiting fragments changes no trust state. -/
theorem ageWaiters_trust (c : Option Cand) (s : State) : (ageWaiters c s).trust = s.trust := by
  unfold ageWaiters
  exact List.foldlRecOn (motive := fun (t : State) => t.trust = s.trust) _ _ rfl fun t ht _ _ => ht

theorem perCore_eq_nil {cores : List Nat} {cs : List Cand} (h : perCore cores cs = []) :
    ∀ n ∈ cores, bestOf (cs.filter (fun c => c.core == n)) = none := by
  induction cores with
  | nil => simp
  | cons m r ih =>
    unfold perCore at h
    cases hb : bestOf (cs.filter (fun c => c.core == m)) with
    | some c => rw [hb] at h; cases h
    | none =>
      rw [hb] at h
      intro n hn
      rcases List.mem_cons.mp hn with rfl | hn
      · exact hb
      · exact ih h n hn

theorem bestOf_eq_none {cs : List Cand} (h : bestOf cs = none) : cs = [] := by
  cases cs with
  | nil => rfl
  | cons c r =>
    unfold bestOf at h
    split at h
    · cases h
    · split at h <;> cases h

/-- Where no fragment is chosen, none could issue. -/
theorem candidates_of_choose_none {s : State} (h : choose s = none) : candidates s = [] := by
  have hnil : perCore ((candidates s).map Cand.core).eraseDups (candidates s) = [] := by
    unfold choose at h
    dsimp only at h
    split at h
    · next hn => exact hn
    · cases h
    · next c r _ hlist =>
      have hlt : Config.issuePick s.tick % (r.length + 1) < (c :: r).length := Nat.mod_lt _ (Nat.succ_pos _)
      rw [List.getElem?_eq_getElem hlt] at h
      cases h
  by_contra hne
  obtain ⟨c, hc⟩ := List.exists_mem_of_ne_nil _ hne
  have hbest := perCore_eq_nil hnil c.core (List.mem_eraseDups.mpr (List.mem_map_of_mem hc))
  have hmem : c ∈ (candidates s).filter (fun d => d.core == c.core) := List.mem_filter.mpr ⟨hc, beq_self_eq_true _⟩
  rw [bestOf_eq_none hbest] at hmem
  cases hmem

/-! ### The due event of a step -/

/-- The state before the event `a` at place `k` of the agenda, taken off it, once the waiting fragments have aged. -/
def beforeEvent (a : EvArg) (k : Nat) (s : State) : State :=
  { ageWaiters none s with arg := a, agenda := (ageWaiters none s).agenda.eraseIdx k }

/-- A step performs the due event that the free value picks. What the ageing makes due, promotions, stays due behind it. -/
theorem step_performs_due {s : State} {i : Instr} {a : EvArg} (hrun : running s = true) (hdue : s.agenda ≠ [])
    (hfirst : choose s = none ∨ Config.eventFirst s.tick = true)
    (hpick : s.agenda[duePlace s (Config.eventPick s.tick % s.agenda.length)]? = some (i, a)) (hadm : admitted s i = true) :
    step s = finished (exec i (beforeEvent a (duePlace s (Config.eventPick s.tick % s.agenda.length)) s)) := by
  have hadm' : admitted (ageWaiters none s) i = true := by
    rw [← hadm]
    unfold admitted
    rw [ageWaiters_trust]
  have hevent : stepEvent s (Config.eventPick s.tick % s.agenda.length) =
      finished (exec i (beforeEvent a (duePlace s (Config.eventPick s.tick % s.agenda.length)) s)) := by
    unfold stepEvent
    dsimp only
    rw [hpick]
    exact if_pos hadm'
  have hsome : ¬s.agenda.isEmpty = true := by simpa using hdue
  unfold step
  rw [if_neg (by simp [hrun]), if_neg hsome]
  split
  · exact hevent
  · next c hc =>
    rw [if_pos (hfirst.resolve_left (by rw [hc]; simp))]
    exact hevent

/-- A module at step `n` with one event due, and one fragment of a running block that has waited 47 cycles. -/
def overdue (n : Nat) : State :=
  { State.reset with
    tick := n, agenda := [(.doubledRefresh, .unit 3)]
    blocks := [{ Block.empty with
      uid := 1, st := .running
      warps := [{ Warp.empty with launched := 1, frags := [{ Frag.empty with mask := 1, waited := 47 }] }] }] }

/-- Its fragment could issue, whichever step it is. -/
theorem candidates_overdue (n : Nat) :
    candidates (overdue n) = [{ blk := 1, wp := 0, ent := 0, core := 0, waited := 47, promoted := none }] := rfl

/-- Whatever cycles its step takes, the fragment's promotion is then due. -/
theorem ageWaiters_overdue_agenda (n : Nat) :
    (ageWaiters none (overdue n)).agenda = [(.doubledRefresh, .unit 3), (.issuePromotion, .triple 1 0 0)] := by
  have hpromoted : promotions (stepCycles (overdue n))
      [{ blk := 1, wp := 0, ent := 0, core := 0, waited := 47, promoted := none }] = [(.issuePromotion, .triple 1 0 0)] := by
    have hcycles : 48 ≤ 47 + stepCycles (overdue n) := by unfold stepCycles; omega
    simp [promotions, hcycles]
  rw [ageWaiters_agenda, candidates_overdue, hpromoted]
  rfl

end Sys2Proof.Machine

namespace Sys2Proof.Proofs
open Sys2Proof.Machine hiding Ready
open Sys2Proof.Claims

/-- Where no fragment could issue, ageing makes nothing due, and the step is as O2 says it. -/
theorem step_performs_due_of_choose_none {s : State} {i : Instr} {a : EvArg} (hrun : running s = true) (hdue : s.agenda ≠ [])
    (hnone : choose s = none) (hpick : s.agenda[duePlace s (Config.eventPick s.tick % s.agenda.length)]? = some (i, a))
    (hadm : admitted s i = true) :
    step s = finished (exec i { ageWaiters none s with
      arg := a, agenda := s.agenda.eraseIdx (duePlace s (Config.eventPick s.tick % s.agenda.length)) }) := by
  have hagenda : (ageWaiters none s).agenda = s.agenda := by
    rw [ageWaiters_agenda, candidates_of_choose_none hnone]
    exact List.append_nil _
  rw [step_performs_due hrun hdue (.inl hnone) hpick hadm, beforeEvent, hagenda]

/-- A step of the module with an overdue fragment that puts the event first leaves the fragment's promotion due. -/
theorem step_overdue_agenda {n : Nat} (hfirst : Config.eventFirst n = true) :
    ∃ t, step (overdue n) = .next t ∧ t.agenda = [(.issuePromotion, .triple 1 0 0)] := by
  have hpick : Config.eventPick (overdue n).tick % (overdue n).agenda.length = 0 := Nat.mod_one _
  have hstep := step_performs_due (s := overdue n) (i := .doubledRefresh) (a := .unit 3) rfl (by simp [overdue]) (.inr hfirst)
    (by rw [hpick]; rfl) rfl
  refine ⟨_, hstep, ?_⟩
  rw [finish_agenda, hpick]
  show (ageWaiters none (overdue n)).agenda.eraseIdx 0 = _
  rw [ageWaiters_overdue_agenda]
  rfl

/-- O2 holds exactly where the free value of log 1 never puts an event before an instruction. Its right side leaves out the
promotions that the ageing of the waiting fragments makes due (06 R181), which `step` keeps (`step_performs_due`); a step at which
the free value puts an event first loses one of them for `overdue`. As `Config.eventFirst` has no body, neither O2 nor its negation
can be proved. -/
theorem stepPerformsDueEvents_iff : Obligations.StepPerformsDueEvents ↔ ∀ n, Config.eventFirst n = false := by
  unfold Obligations.StepPerformsDueEvents
  refine ⟨fun h n => ?_, fun hnever s i a hrun hdue hfirst hpick hadm => ?_⟩
  · by_contra hfirst
    rw [Bool.not_eq_false] at hfirst
    have hpick : Config.eventPick (overdue n).tick % (overdue n).agenda.length = 0 := Nat.mod_one _
    have hclaim := h (overdue n) .doubledRefresh (.unit 3) rfl (by simp [overdue]) (.inr hfirst) (by rw [hpick]; rfl) rfl
    obtain ⟨t, hstep, ht⟩ := step_overdue_agenda hfirst
    rw [hstep, hpick] at hclaim
    have hagenda := congrArg State.agenda (Host.Outcome.next.inj hclaim)
    rw [ht, finish_agenda] at hagenda
    cases hagenda
  · have hnone : choose s = none := hfirst.resolve_right (by rw [hnever]; exact Bool.false_ne_true)
    exact step_performs_due_of_choose_none hrun hdue hnone hpick hadm

end Sys2Proof.Proofs

/-!
SUPPORT. Object memory: the carve-out entries and tags of words, what a write at the home leaves of them and of the value there,
and the references and objects that `stref` and `ohdr` put into memory.
-/
namespace Sys2Proof.Machine

/-! ### Carve-out entries and tags (04 R124) -/

/-- Where the carve-out entries lie is not for steps at the home to change. -/
theorem HomeStep.granAddr_eq {s t : State} (h : HomeStep s t) (pa : Nat) : granAddr t pa = granAddr s pa := by
  rw [h.frame]
  rfl

theorem gran_of_some {s : State} {pa c : Nat} (h : granAddr s pa = some c) : gran s pa = Cells.load s.mem c 2 := by
  unfold gran
  rw [h]

theorem setGran_of_some {s : State} {pa c : Nat} (h : granAddr s pa = some c) (v : Nat) :
    setGran s pa v = { s with mem := Cells.store s.mem c v 2 } := by
  unfold setGran
  rw [h]

theorem setGran_frame (s : State) (pa v : Nat) : setGran s pa v = { s with mem := (setGran s pa v).mem } := by
  unfold setGran
  split <;> rfl

/-- What was written into a carve-out entry is read there. -/
theorem gran_setGran {s : State} {pa c : Nat} (h : granAddr s pa = some c) (v : Nat) :
    gran (setGran s pa v) pa = v % 256 ^ 2 := by
  rw [gran_of_some (((setGran_home s pa v).granAddr_eq pa).trans h), setGran_of_some h]
  exact Cells.load_store ..

/-- Outside its entry a granule's entry changes no byte. -/
theorem get_setGran_of_outside {s : State} {pa c a : Nat} (h : granAddr s pa = some c) (ha : a < c ∨ c + 2 ≤ a) (v : Nat) :
    Cells.get (setGran s pa v).mem a = Cells.get s.mem a := by
  rw [setGran_of_some h]
  exact Cells.get_store_of_not_mem _ _ _ _ _ ha

/-- A carve-out entry with tag `k` set or cleared. -/
def retagged (g k : Nat) (b : Bool) : Nat :=
  if b then (if bit g k then g - 2 ^ k else g) + 2 ^ k else if bit g k then g - 2 ^ k else g

theorem setTag_eq (s : State) (pa : Nat) (b : Bool) :
    setTag s pa b = if retagged (gran s pa) (pa % 64 / 8) b = gran s pa then s
      else setGran s pa (retagged (gran s pa) (pa % 64 / 8) b) := rfl

theorem get_setTag_of_outside {s : State} {pa c a : Nat} (h : granAddr s pa = some c) (ha : a < c ∨ c + 2 ≤ a) (b : Bool) :
    Cells.get (setTag s pa b).mem a = Cells.get s.mem a := by
  rw [setTag_eq]
  split
  · rfl
  · exact get_setGran_of_outside h ha _

theorem bit_eq_testBit (v i : Nat) : bit v i = v.testBit i := by
  rw [bit, Nat.testBit_eq_decide_div_mod_eq]
  rfl

theorem bit_retagged (g k : Nat) (b : Bool) : bit (retagged g k b) k = b := by
  have hoff : (if bit g k then g - 2 ^ k else g).testBit k = false := by
    split
    · next hset =>
      rw [bit_eq_testBit] at hset
      have hflip := Nat.testBit_two_pow_add_eq (g - 2 ^ k) k
      rw [Nat.add_sub_cancel' (Nat.ge_two_pow_of_testBit hset), hset] at hflip
      simpa using hflip.symm
    · next hclear => rwa [bit_eq_testBit, Bool.not_eq_true] at hclear
  rw [bit_eq_testBit, retagged]
  cases b with
  | false => exact hoff
  | true => rw [if_pos rfl, Nat.add_comm, Nat.testBit_two_pow_add_eq, hoff, Bool.not_false]

/-- A word's tag is what it was set to. -/
theorem tagAt_setTag {s : State} {pa c : Nat} (h : granAddr s pa = some c) (b : Bool) : tagAt (setTag s pa b) pa = b := by
  have hbit := bit_retagged (gran s pa) (pa % 64 / 8) b
  rw [setTag_eq, tagAt]
  split
  · next hsame => rwa [hsame] at hbit
  · have hlow : pa % 64 / 8 < 16 := by omega
    rw [gran_setGran h, bit_eq_testBit, show 256 ^ 2 = 2 ^ 16 from rfl, Nat.testBit_mod_two_pow, ← bit_eq_testBit, hbit,
      decide_eq_true hlow, Bool.true_and]

/-- A tag is read from its entry alone. -/
theorem tagAt_congr {s t : State} {pa c : Nat} (hs : granAddr s pa = some c) (ht : granAddr t pa = some c)
    (h : ∀ a, c ≤ a → a < c + 2 → Cells.get t.mem a = Cells.get s.mem a) : tagAt t pa = tagAt s pa := by
  rw [tagAt, tagAt, gran_of_some hs, gran_of_some ht, Cells.load_congr _ _ _ _ h]

/-- A write to one aligned word of an object page clears that word's tag (04 R128). -/
theorem clearTags_word {p : Piece} (hobj : eOBJ p.leaf.e = true) (hn : p.n = 8) (ha : p.pa % 8 = 0) (s : State) :
    clearTags s p = setTag s p.pa false := by
  have hword : p.pa / 8 * 8 = p.pa := by omega
  unfold clearTags
  rw [if_pos hobj, hn, ha, hword]
  rfl

/-! ### Writes at the home behind the clearing of the tags (02 R57, R58, 04 R128) -/

/-- An L2 line through which a write of a piece has gone to memory. -/
def writtenThrough (p : Piece) (v : Nat) (y : L2Line) : L2Line :=
  if y.asid == p.asid && y.la == lineOf p.va then
    { y with data := overlay y.data (Cells.store y.data (p.pa % 128) v p.n) (y.valid &&& byteMask (p.pa % 128) p.n)
             dirty := y.dirty &&& ~~~byteMask (p.pa % 128) p.n }
  else y

/-- An L2 line in which a piece has been written. -/
def writtenLine (lvl : Nat) (p : Piece) (v : Nat) (x : L2Line) : L2Line :=
  { x with data := Cells.store x.data (p.pa % 128) v p.n, valid := x.valid ||| byteMask (p.pa % 128) p.n
           dirty := x.dirty ||| byteMask (p.pa % 128) p.n, early := lvl == 3 }

theorem homeWrite_controller {lvl : Nat} {p : Piece} (hc : atController lvl p = true) (s : State) (v : Nat) :
    homeWrite s lvl p v =
      { physWrite (clearTags s p) p.pa v p.n with l2 := (clearTags s p).l2.map (writtenThrough p v) } := by
  unfold homeWrite
  dsimp only
  rw [if_pos hc]
  rfl

theorem homeWrite_slice {lvl : Nat} {p : Piece} (hc : atController lvl p = false) (s : State) (v : Nat) :
    homeWrite s lvl p v = l2Put (clearTags s p) (writtenLine lvl p v (l2Open (clearTags s p) p)) := by
  unfold homeWrite
  dsimp only
  rw [if_neg (ne_true_of_eq_false hc)]
  rfl

theorem writtenThrough_key (p : Piece) (v : Nat) (y : L2Line) :
    (writtenThrough p v y).asid = y.asid ∧ (writtenThrough p v y).la = y.la := by
  unfold writtenThrough
  split <;> exact ⟨rfl, rfl⟩

theorem writtenThrough_of_ne {p : Piece} {y : L2Line} (v : Nat) (h : ¬(y.asid = p.asid ∧ y.la = lineOf p.va)) :
    writtenThrough p v y = y := by
  unfold writtenThrough
  rw [if_neg (by simpa only [Bool.and_eq_true, beq_iff_eq] using h)]

/-- Once the tags are cleared, a write at the home changes the piece's bytes, and what a replaced line elsewhere held dirty. -/
theorem homeWrite_line_of_cleared {A : Nat → Prop} {s : State} {lvl : Nat} {p : Piece} {v : Nat}
    (hb : ∀ a, redirect s p.pa ≤ a → a < redirect s p.pa + p.n → A a) :
    LineStep p.asid (lineOf p.va) A (clearTags s p) (homeWrite s lvl p v) := by
  cases hc : atController lvl p with
  | true =>
    rw [homeWrite_controller hc]
    refine (physWrite_line _ p.pa v p.n (by rwa [(clearTags_home s p).redirect_eq])).trans (.of_lines _ _ fun y hy hne => ?_)
    obtain ⟨z, hz, rfl⟩ := List.mem_map.mp hy
    obtain ⟨ha, hl⟩ := writtenThrough_key p v z
    rw [ha, hl] at hne
    rw [writtenThrough_of_ne v hne]
    exact hz
  | false =>
    rw [homeWrite_slice hc]
    exact l2Put_line (l2Open_key (clearTags s p) p)

theorem l2Find_homeWrite_writtenThrough {lvl : Nat} {p : Piece} (hc : atController lvl p = true) (s : State) (v asid la : Nat) :
    l2Find (homeWrite s lvl p v) asid la = (l2Find s asid la).map (writtenThrough p v) := by
  refine l2Find_map (writtenThrough_key p v) ?_ asid la
  rw [homeWrite_controller hc, clearTags_frame]

/-- A write at the home leaves the piece in one line. -/
theorem inLine_homeWrite {s : State} {p : Piece} (hp : Claims.InLine s p) (lvl v : Nat) :
    Claims.InLine (homeWrite s lvl p v) p := by
  obtain ⟨hdev, hn, hlin, hpa⟩ := id hp
  have hred := (homeWrite_home s lvl p v).redirect_eq
  refine ⟨hdev, hn, fun o ho => by rw [hred, hred, hlin o ho], fun x hx => ?_⟩
  cases hc : atController lvl p with
  | true =>
    obtain ⟨-, y, hy, hxy⟩ := l2Find_homeWrite_controller hc v hx
    rw [hxy, hpa y hy]
  | false =>
    have hcleared : Claims.InLine (clearTags s p) p := inLine_of_home hp (clearTags_home s p) fun x hx => ⟨x, by
      rwa [clearTags_frame] at hx, rfl⟩
    obtain ⟨ha, hl⟩ := l2Open_key (clearTags s p) p
    have hfind := l2Find_l2Put (clearTags s p) (writtenLine lvl p v (l2Open (clearTags s p) p))
    rw [homeWrite_slice hc] at hx
    rw [show (writtenLine lvl p v (l2Open (clearTags s p) p)).asid = p.asid from ha,
      show (writtenLine lvl p v (l2Open (clearTags s p) p)).la = lineOf p.va from hl, hx] at hfind
    cases hfind
    exact l2Open_pa hcleared

/-- Every byte behind a cached line through which a write has gone to memory is that of memory where the write was. -/
theorem homeValueOf_homeWrite_through {s : State} {lvl : Nat} {p : Piece} (hp : Claims.InLine s p)
    (hc : atController lvl p = true) (hcache : eC p.leaf.e = true) (v : Nat) :
    homeValueOf (homeWrite s lvl p v) p = v % 256 ^ p.n := by
  have hp' := inLine_homeWrite hp lvl v
  obtain ⟨hdev, hn, -, hpa⟩ := id hp'
  rw [← physRead_homeWrite (s := s) hc v]
  unfold homeValueOf
  simp only [hdev, hcache, Bool.false_eq_true, if_false, if_true]
  cases hx : l2Find (homeWrite s lvl p v) p.asid (lineOf p.va) with
  | none => rfl
  | some x =>
    refine load_offset fun i hi => ?_
    rw [get_overlay, hpa x hx, get_memLine_piece hp' hi]
    split
    · next hvalid =>
      rw [l2Find_homeWrite_writtenThrough hc] at hx
      obtain ⟨y, hy, rfl⟩ := Option.map_eq_some_iff.mp hx
      obtain ⟨-, ha, hl⟩ := l2Find_key hy
      have hw : (y.asid == p.asid && y.la == lineOf p.va) = true := by rw [ha, hl]; simp
      unfold writtenThrough at hvalid ⊢
      rw [if_pos hw] at hvalid ⊢
      rw [(homeWrite_home s lvl p v).redirect_eq, homeWrite_controller hc, get_overlay, BitVec.getLsbD_and, hvalid,
        byteMask_getLsbD_add hn hi, Bool.and_self, if_pos rfl, Cells.get_store _ _ _ _ _ hi, physWrite_mem,
        (clearTags_home s p).redirect_eq, Cells.get_store _ _ _ _ _ hi]
    · rfl

/-- A write at any level behind the L1 leaves its value at the home (02 R57, R58). -/
theorem homeValueOf_homeWrite_at {s : State} {p : Piece} (hp : Claims.InLine s p) (lvl v : Nat) :
    homeValueOf (homeWrite s lvl p v) p = v % 256 ^ p.n := by
  have hp' := inLine_homeWrite hp lvl v
  obtain ⟨hdev, -, -, -⟩ := id hp
  have hread := homeRead_homeWrite (s := s) (lvl := lvl) (p := p) hdev v (homeWrite s lvl p v).l1
  cases hcache : eC p.leaf.e with
  | false => exact (homeRead_uncached hp' hcache).symm.trans hread
  | true =>
    cases hc : atController lvl p with
    | false => exact (homeRead_slice hp' hc).symm.trans hread
    | true => exact homeValueOf_homeWrite_through hp hc hcache v

/-- A value at the home depends on memory only by the bytes of the piece. -/
theorem homeValueOf_congr_mem {s t : State} {p : Piece} (hp : Claims.InLine s p) (ht : t = { s with mem := t.mem })
    (h : ∀ i, i < p.n → Cells.get t.mem (redirect s p.pa + i) = Cells.get s.mem (redirect s p.pa + i)) :
    homeValueOf t p = homeValueOf s p := by
  have hred : redirect t p.pa = redirect s p.pa := by rw [ht]; rfl
  have hfind : l2Find t p.asid (lineOf p.va) = l2Find s p.asid (lineOf p.va) := by rw [ht]; rfl
  have hpt : Claims.InLine t p := by rw [ht]; exact hp
  obtain ⟨hdev, -, -, hpa⟩ := id hp
  unfold homeValueOf
  simp only [hdev, hfind, Bool.false_eq_true, if_false]
  cases hx : l2Find s p.asid (lineOf p.va) with
  | none => exact load_offset fun i hi => by rw [hred, h i hi]
  | some x =>
    refine load_offset fun i hi => ?_
    rw [get_overlay, get_overlay, hpa x hx, get_memLine_piece hpt hi, get_memLine_piece hp hi, hred, h i hi]

theorem HomeStep.frame_of_l1 {s t : State} (h : HomeStep s t) (hl1 : t.l1 = s.l1) : t = { s with mem := t.mem, l2 := t.l2 } := by
  have hframe := h.frame
  rwa [hl1] at hframe

/-! ### Reference stores and created objects change memory and lines (04 R132, R134) -/

theorem storeRef_place (ref : W64) (s : State) (q : Place) : PlaceStep s (storeRef ref s q) := by
  refine (storeThrough_place s q ref.toNat 8).trans ?_
  unfold storeRef
  generalize storeThrough s q ref.toNat 8 = t
  unfold setRefTag
  split
  · next lvl p =>
    have htag : HomeStep t (if atL1 lvl p then t else setTag t p.pa true) := .ite (.refl t) (setTag_home ..)
    refine HomeStep.toPlace (.ite (.refl t) ?_)
    dsimp only
    split
    · exact htag.trans (l1Keep_home ..)
    · exact htag
  · exact .refl t

theorem createObject_home (s : State) (t : Nat) (ps : List Piece) : HomeStep s (createObject s t ps) := by
  have hplain := (dropCopies_home s ps).trans (HomeStep.foldl (f := fun s (p : Piece) => setGran s p.pa 0x100)
    (fun s p => setGran_home s p.pa 0x100) ps (dropCopies s ps))
  unfold createObject
  dsimp only
  split
  · exact hplain
  · exact (hplain.trans (homeWrite_home ..)).trans (setGran_home ..)

theorem ohdrLanes_home (gs : List (Nat × W64 × Nat × List Piece)) (s : State) : HomeStep s (ohdrLanes gs s).1 := by
  induction gs generalizing s with
  | nil => exact .refl s
  | cons x r ih =>
    obtain ⟨l, g, t, ps⟩ := x
    unfold ohdrLanes
    split
    · exact ih s
    · exact (createObject_home s t ps).trans (ih _)

/-! ### The checks of lanes do not see the fragment's hold (04 R132, R134) -/

theorem findHead_unheld (s : State) (asid va fuel k : Nat) : findHead (unheld s) asid va fuel k = findHead s asid va fuel k := by
  induction fuel generalizing k with
  | zero => rfl
  | succ n ih =>
    unfold findHead
    rw [ih]
    rfl

theorem destHead_unheld (s : State) (g : W64) : destHead (unheld s) g = destHead s g := by
  unfold destHead
  rw [findHead_unheld]
  rfl

theorem destCheck_unheld (s : State) (g : W64) (p : Place) (t : Target) : destCheck (unheld s) g p t = destCheck s g p t := by
  have howned : destOwned (unheld s) g = destOwned s g := by
    unfold destOwned
    rw [destHead_unheld]
    rfl
  unfold destCheck
  rw [howned]
  rfl

theorem strefHeld_unheld (s : State) (g ref : W64) : strefHeld (unheld s) g ref = strefHeld s g ref := by
  unfold strefHeld
  rw [destHead_unheld]
  rfl

theorem strefCheck_unheld (s : State) (g ref : W64) (l : Nat) : strefCheck (unheld s) g ref l = strefCheck s g ref l := by
  have htarget : targetOf (unheld s) (asidOf (unheld s)) (isUser (unheld s)) ref g = targetOf s (asidOf s) (isUser s) ref g := rfl
  unfold strefCheck
  simp only [resolve_unheld, htarget, destCheck_unheld]
  rfl

theorem granules_unheld (s : State) (va : W64) (n : Nat) : granules (unheld s) va n = granules s va n := by
  induction n with
  | zero => rfl
  | succ n ih =>
    unfold granules
    rw [ih]
    rfl

theorem ohdrCheck_unheld (s : State) (g : W64) (t : Nat) : ohdrCheck (unheld s) g t = ohdrCheck s g t := by
  unfold ohdrCheck
  simp only [granules_unheld]

/-! ### Lanes whose checks all pass -/

/-- Where every lane's check gives its place back, the places are those of all lanes. -/
theorem filterMap_map_eq_self {α β : Type} {f : β → Option α} {g : α → β} {l : List α} (h : ∀ x, f (g x) = some x) :
    (l.map g).filterMap f = l := by
  rw [List.filterMap_map, show f ∘ g = some from funext h, List.filterMap_some]

/-- And where none gives a fault, there is none to collect. -/
theorem filterMap_map_eq_nil {α β γ : Type} {f : β → Option γ} {g : α → β} {l : List α} (h : ∀ x, f (g x) = none) :
    (l.map g).filterMap f = [] := by
  rw [List.filterMap_map, List.filterMap_eq_nil_iff]
  exact fun x _ => h x

/-- No lane's address is misaligned. -/
theorem filter_crooked_eq_nil {as : List (Nat × W64)} {n : Nat} (h : ∀ x ∈ as, x.2.toNat % n = 0) :
    as.filter (fun x => x.2.toNat % n != 0) = [] := by
  rw [List.filter_eq_nil_iff]
  exact fun x hx => by simp [h x hx]

/-- Every lane of the accesses is among those performed. -/
theorem filter_performed_eq_self {β : Type} {as : List (Nat × W64)} {good : List (Nat × β)}
    (h : good.map Prod.fst = as.map Prod.fst) : as.filter (fun x => good.any (fun g => g.1 == x.1)) = as := by
  rw [List.filter_eq_self]
  intro x hx
  have hmem : x.1 ∈ good.map Prod.fst := h ▸ List.mem_map_of_mem hx
  obtain ⟨g, hg, hgx⟩ := List.mem_map.mp hmem
  exact List.any_eq_true.mpr ⟨g, hg, beq_iff_eq.mpr hgx⟩

end Sys2Proof.Machine

namespace Sys2Proof.Proofs
open Sys2Proof.Machine hiding Ready
open Sys2Proof.Claims

/-! ### References in memory (04 R134) -/

theorem updateCopy_of_none {s : State} {p : Piece} (h : heldLine s p = none) (v : Nat) : updateCopy s p v = s := by
  unfold heldLine at h
  unfold updateCopy
  dsimp only
  rw [h]

theorem heldLine_homeWrite (s : State) (lvl : Nat) (p : Piece) (v : Nat) : heldLine (homeWrite s lvl p v) p = heldLine s p := by
  rw [heldLine_of_home (homeWrite_home ..), l1Find_of_l1_eq (homeWrite_l1 ..)]
  rfl

/-- A reference goes to a home whose line the issuing half does not hold as a write, which clears the tag, and the tag of
a reference that is not null. -/
theorem storeRef_home {s : State} {lvl : Nat} {p : Piece} (hl1 : atL1 lvl p = false) (hnone : heldLine s p = none)
    (hn : p.n = 8) (hobj : eOBJ p.leaf.e = true) (ref : W64) :
    storeRef ref s (.mem lvl [p]) =
      if ref = 0 then homeWrite s lvl p ref.toNat else setTag (homeWrite s lvl p ref.toNat) p.pa true := by
  have hheld := (heldLine_homeWrite s lvl p ref.toNat).trans hnone
  have hstore : storeThrough s (.mem lvl [p]) ref.toNat 8 = homeWrite s lvl p ref.toNat := by
    have hsmall : ref.toNat % 256 ^ p.n = ref.toNat := by
      rw [hn]
      exact Nat.mod_eq_of_lt ref.isLt
    show storeAt s (.mem lvl [p]) ref.toNat 8 = _
    rw [storeAt_piece, if_neg (ne_true_of_eq_false hl1), homeStore, beforeHome_of_clean (clean_of_none hnone), hsmall,
      updateCopy_of_none hheld]
  unfold storeRef
  rw [hstore]
  by_cases href : ref = 0
  · simp [setRefTag, href]
  · have hset : heldLine (setTag (homeWrite s lvl p ref.toNat) p.pa true) p = none := by
      rw [setTag_frame]
      exact hheld
    unfold heldLine at hset
    simp [setRefTag, hobj, hl1, hset]

/-- Behind a reference store at the home the word holds the reference. -/
theorem homeValueOf_storeRef {s : State} {lvl : Nat} {p : Piece} {c : Nat} (hl1 : atL1 lvl p = false)
    (hnone : heldLine s p = none) (hp : InLine s p) (hn : p.n = 8) (hobj : eOBJ p.leaf.e = true)
    (hc : granAddr s p.pa = some c) (hout : c + 2 ≤ redirect s p.pa ∨ redirect s p.pa + 8 ≤ c) (ref : W64) :
    homeValueOf (storeRef ref s (.mem lvl [p])) p = ref.toNat := by
  have hwritten : homeValueOf (homeWrite s lvl p ref.toNat) p = ref.toNat := by
    rw [homeValueOf_homeWrite_at hp, hn]
    exact Nat.mod_eq_of_lt ref.isLt
  rw [storeRef_home hl1 hnone hn hobj]
  split
  · exact hwritten
  · rw [homeValueOf_congr_mem (inLine_homeWrite hp lvl ref.toNat) (setTag_frame ..), hwritten]
    intro i hi
    have hhome := homeWrite_home s lvl p ref.toNat
    rw [hhome.redirect_eq]
    exact get_setTag_of_outside ((hhome.granAddr_eq p.pa).trans hc) (by omega) true

/-- And its tag says whether that is a reference. -/
theorem tagAt_storeRef {s : State} {lvl : Nat} {p : Piece} {c : Nat} (hl1 : atL1 lvl p = false)
    (hnone : heldLine s p = none) (hn : p.n = 8) (ha : p.pa % 8 = 0) (hobj : eOBJ p.leaf.e = true)
    (hc : granAddr s p.pa = some c) (hout : c + 2 ≤ redirect s p.pa ∨ redirect s p.pa + 8 ≤ c)
    (hclean : ∀ a, c ≤ a → a < c + 2 → ¬DirtyInL2 s a) (ref : W64) :
    tagAt (storeRef ref s (.mem lvl [p])) p.pa = decide (ref ≠ 0) := by
  have hgran := ((homeWrite_home s lvl p ref.toNat).granAddr_eq p.pa).trans hc
  rw [storeRef_home hl1 hnone hn hobj]
  split
  · next href =>
    have hcleared := clearTags_word hobj hn ha s
    have hline := homeWrite_line_of_cleared (A := fun a => redirect s p.pa ≤ a ∧ a < redirect s p.pa + p.n) (s := s) (lvl := lvl)
      (p := p) (v := ref.toNat) fun a hlo hhi => ⟨hlo, hhi⟩
    have hset : granAddr (clearTags s p) p.pa = some c := ((clearTags_home s p).granAddr_eq p.pa).trans hc
    rw [tagAt_congr hset hgran, hcleared, tagAt_setTag hc, decide_eq_false (not_not.mpr href)]
    intro a hlo hhi
    refine hline.bytes a (fun h => by omega) ?_
    rintro ⟨x, hx, -, o, ho, hxa⟩
    refine hclean a hlo hhi ⟨x, ?_, o, ho, ?_⟩
    · rwa [clearTags_frame] at hx
    · rwa [(clearTags_home s p).redirect_eq] at hxa
  · next href => rw [tagAt_setTag hgran, decide_eq_true href]

theorem storeRef_frame {s : State} {lvl : Nat} {p : Piece} (hl1 : atL1 lvl p = false) (hnone : heldLine s p = none)
    (hn : p.n = 8) (hobj : eOBJ p.leaf.e = true) (ref : W64) :
    storeRef ref s (.mem lvl [p]) =
      { s with mem := (storeRef ref s (.mem lvl [p])).mem, l2 := (storeRef ref s (.mem lvl [p])).l2 } := by
  have hwritten := (homeWrite_home s lvl p ref.toNat).frame_of_l1 (homeWrite_l1 ..)
  rw [storeRef_home hl1 hnone hn hobj]
  split
  · exact hwritten
  · rw [setTag_frame, hwritten]

/-! ### Objects in memory (04 R132) -/

theorem dropCopies_of_none {s : State} {p : Piece} (h : heldLine s p = none) : dropCopies s [p] = s := by
  show dropCopy (beforeHome s p.asid p.va) p.asid p.va = s
  rw [beforeHome_of_clean (clean_of_none h), dropCopy, l1Drop]
  rw [List.filter_eq_self.mpr fun x hx => by
    rw [Bool.not_eq_true']
    exact Bool.eq_false_of_not_eq_true (List.find?_eq_none.mp h x hx)]

/-- The header word of an object of the block with a template (04 R132). -/
def headerOf (s : State) (t : Nat) : Nat := bits t 56 8 * 2 ^ 56 + s.blk.owner.toNat * 2 ^ 40 + 2 ^ 32 + bits t 0 32

theorem headerOf_eq (s : State) (t : Nat) :
    headerOf s t = t / 2 ^ 56 % 256 * 2 ^ 56 + s.blk.owner.toNat * 2 ^ 40 + 2 ^ 32 + t % 2 ^ 32 := by
  have hkind : bits t 56 8 = t / 2 ^ 56 % 256 := rfl
  have hsize : bits t 0 32 = t % 2 ^ 32 := congrArg (· % 2 ^ 32) (Nat.div_one t)
  exact congrArg₂ (fun k n => k * 2 ^ 56 + s.blk.owner.toNat * 2 ^ 40 + 2 ^ 32 + n) hkind hsize

/-- An object of one granule, of which the issuing half holds no copy. -/
theorem createObject_one {s : State} {h : Piece} (hnone : heldLine s h = none) (t : Nat) :
    createObject s t [h] = setGran (homeWrite (setGran s h.pa 0x100) 1 h (headerOf s t)) h.pa 0x500 := by
  have howner : (setGran s h.pa 0x100).blk = s.blk := by rw [setGran_frame]
  unfold createObject
  simp only [dropCopies_of_none hnone, List.foldl_cons, List.foldl_nil, List.head?_cons, howner]
  rfl

theorem headerOf_lt (s : State) (t : Nat) : headerOf s t < 256 ^ 8 := by
  have hkind : bits t 56 8 < 2 ^ 8 := Nat.mod_lt _ (by decide)
  have hsize : bits t 0 32 < 2 ^ 32 := Nat.mod_lt _ (by decide)
  have howner := s.blk.owner.isLt
  unfold headerOf
  omega

/-- Behind its creation the object's header word holds what it says. -/
theorem homeValueOf_createObject {s : State} {h : Piece} {c : Nat} (hnone : heldLine s h = none) (hp : InLine s h) (hn : h.n = 8)
    (hc : granAddr s h.pa = some c) (hout : c + 2 ≤ redirect s h.pa ∨ redirect s h.pa + 8 ≤ c) (t : Nat) :
    homeValueOf (createObject s t [h]) h = headerOf s t := by
  have hclaimed := setGran_home s h.pa 0x100
  have hclaimedLine : InLine (setGran s h.pa 0x100) h := inLine_of_home hp hclaimed fun x hx => ⟨x, by
    rwa [setGran_frame] at hx, rfl⟩
  have hhome := hclaimed.trans (homeWrite_home (setGran s h.pa 0x100) 1 h (headerOf s t))
  rw [createObject_one hnone, homeValueOf_congr_mem (inLine_homeWrite hclaimedLine 1 _) (setGran_frame ..),
    homeValueOf_homeWrite hclaimedLine, hn, Nat.mod_eq_of_lt (headerOf_lt s t)]
  intro i hi
  rw [hhome.redirect_eq]
  exact get_setGran_of_outside ((hhome.granAddr_eq h.pa).trans hc) (by omega) _

/-- And its granule's entry is that of a HEAD owned by its block, without tags. -/
theorem gran_createObject {s : State} {h : Piece} {c : Nat} (hnone : heldLine s h = none) (hc : granAddr s h.pa = some c) (t : Nat) :
    gran (createObject s t [h]) h.pa = 0x500 := by
  have hhome := (setGran_home s h.pa 0x100).trans (homeWrite_home (setGran s h.pa 0x100) 1 h (headerOf s t))
  rw [createObject_one hnone]
  exact gran_setGran ((hhome.granAddr_eq h.pa).trans hc) 0x500

theorem createObject_frame {s : State} {h : Piece} (hnone : heldLine s h = none) (t : Nat) :
    createObject s t [h] = { s with mem := (createObject s t [h]).mem, l2 := (createObject s t [h]).l2 } := by
  refine (createObject_home s t [h]).frame_of_l1 ?_
  rw [createObject_one hnone, setGran_frame]
  refine (homeWrite_l1 ..).trans ?_
  rw [setGran_frame]

/-! ### The lanes of `stref` and `ohdr` (04 R132, R134) -/

theorem map_fst_laneAddrs (s : State) (a b : BitVec 8) : (laneAddrs s a b).map Prod.fst = lanesOf (activeLanesOf s) := by
  simp [laneAddrs, Function.comp_def]

theorem foldl_or_byLine_laneAddrs (s : State) (a b : BitVec 8) :
    (byLine (laneAddrs s a b)).foldl (· ||| ·) 0 = activeLanesOf s := by
  have h := foldl_or_lineGroups (laneAddrs s a b)
  rwa [map_fst_laneAddrs, maskOf_lanesOf] at h

/-! ### `stref` (04 R134) -/

/-- Memory after references are stored with their tags at the lanes' places, in order. -/
def refsStored (d : BitVec 8) (s : State) (ps : List (Nat × Place)) : State :=
  ps.foldl (fun t x => keepLeaves (storeRef (laneRef s d x.1) t x.2) x.2) (started s)

theorem refsStored_onlyMemory (d : BitVec 8) (s : State) (ps : List (Nat × Place)) :
    OnlyMemory (started s) (refsStored d s ps) :=
  List.foldlRecOn (motive := OnlyMemory (started s)) ps _ (onlyMemory_refl _) fun _ h _ _ =>
    onlyMemory_trans h (onlyMemory_trans (onlyMemory_of_placeStep (storeRef_place ..)) (keepLeaves_onlyMemory ..))

/-- A `stref` whose lanes' destinations and targets pass their checks and wait for nothing stores its references. -/
theorem exec_stref_stores {s : State} {d a b : BitVec 8} {ps : List (Nat × Place)} (h : Ready (.stref d a b) s)
    (hlanes : ps.map Prod.fst = lanesOf (activeLanesOf s))
    (hps : ∀ x ∈ ps, ∀ g, (x.1, g) ∈ laneAddrs s a b → g.toNat % 8 = 0 ∧ strefCheck s g (laneRef s d x.1) x.1 = .ok x.2 ∧
      fillHeld s x.2 8 = false ∧ strefHeld s g (laneRef s d x.1) = false ∧ wakeHeld s x.2 8 = false)
    (hord : InOrder s (laneAddrs s a b) 8) :
    exec (.stref d a b) s = .next (retireMem (.stref d a b) (activeLanesOf s) (startMemory (.stref d a b) (refsStored d s ps)
      (setB s.f) (some (activeLanesOf s)) (byLine (laneAddrs s a b)) [] [] true)) := by
  have harm : exec (.stref d a b) s = execStref d a b s := rfl
  have hact := actSet_unheld (replay_of_ready h)
  have hat : (lanesOf (activeLanesOf s)).map (fun l => (l, genAddr (unheld s) a b l)) = laneAddrs s a b := rfl
  have hpairs : laneAddrs s a b = ps.map (fun x => (x.1, genAddr s a b x.1)) := by
    rw [← hat, ← hlanes, List.map_map]
    rfl
  have hlane := fun x hx => hps x hx (genAddr s a b x.1) (hpairs ▸ List.mem_map_of_mem hx)
  have hcrooked : (laneAddrs s a b).filter (fun x => x.2.toNat % 8 != 0) = [] := by
    refine filter_crooked_eq_nil fun x hx => ?_
    obtain ⟨y, hy, rfl⟩ := List.mem_map.mp (hpairs ▸ hx)
    exact (hlane y hy).1
  have hchecks : (laneAddrs s a b).map (fun x => (x.1, strefCheck (unheld s) x.2 (refOf (unheld s) d x.1) x.1)) =
      ps.map (fun x => (x.1, .ok x.2)) := by
    rw [hpairs, List.map_map]
    refine List.map_congr_left fun x hx => ?_
    obtain ⟨-, hok, -⟩ := hlane x hx
    rw [Function.comp_apply, strefCheck_unheld, ← hok]
    rfl
  have hfill : ps.any (fun x => fillHeld (unheld s) x.2 8) = false := by
    rw [List.any_eq_false]
    exact fun x hx => have ⟨_, _, hfree, _, _⟩ := hlane x hx; ne_true_of_eq_false hfree
  have hheld : (laneAddrs s a b).any (fun x => strefHeld (unheld s) x.2 (refOf (unheld s) d x.1)) = false := by
    rw [hpairs, List.any_map, List.any_eq_false]
    exact fun x hx => have ⟨_, _, _, hfree, _⟩ := hlane x hx; ne_true_of_eq_false ((strefHeld_unheld ..).trans hfree)
  have hwake : ps.any (fun x => wakeHeld (unheld s) x.2 8) = false := by
    rw [List.any_eq_false]
    exact fun x hx => have ⟨_, _, _, _, hfree⟩ := hlane x hx; ne_true_of_eq_false hfree
  have hdone := filter_performed_eq_self (hlanes.trans (map_fst_laneAddrs s a b).symm)
  obtain ⟨hcoll, horder⟩ := hord
  replace hcoll : collHeld (unheld s) (laneAddrs s a b) 8 = false := hcoll
  replace horder : orderHeld (unheld s) (laneAddrs s a b) 8 = false := horder
  rw [harm, execStref, issue_of_ready h]
  dsimp only
  rw [hact, hat, hcrooked, hchecks, filterMap_map_eq_self, filterMap_map_eq_nil, hfill, hheld, hcoll, horder,
    hwake, hdone]
  · rfl
  · exact fun _ => rfl
  · exact fun _ => rfl

/-- Settles O30: the lanes' stores change memory alone and start one operation; a store at the home is a write there, which
clears the word's tag, and the setting of the tag for a reference that is not null. -/
theorem referencesAreStored : Obligations.ReferencesAreStored := by
  unfold Obligations.ReferencesAreStored
  refine ⟨fun s d a b ps h hlanes hps hord => ?_, fun s lvl p ref c hl1 hnone hp hn ha hobj hc hout hclean => ⟨?_, ?_, ?_⟩⟩
  · have hmem := refsStored_onlyMemory d s ps
    have hf : (refsStored d s ps).f = (started s).f := by rw [hmem]
    have hr : (refsStored d s ps).f.replay = none := by rw [hf]; exact replay_of_ready h
    have hall := foldl_or_byLine_laneAddrs s a b
    exact ⟨_, _, exec_stref_stores h hlanes hps hord, past_retireMem h hf hall _ _ _, rfl, hmem,
      retireMem_starts (whole := some (activeLanesOf s)) hall rfl hr _ _ _⟩
  · exact homeValueOf_storeRef hl1 hnone hp hn hobj hc hout ref
  · exact tagAt_storeRef hl1 hnone hn ha hobj hc hout hclean ref
  · exact storeRef_frame hl1 hnone hn hobj ref

/-! ### `ohdr` (04 R132) -/

/-- An `ohdr` whose lanes' objects pass their checks, meet no granule that is not PLAIN and wait for nothing creates them. -/
theorem exec_ohdr_creates {s : State} {d a b : BitVec 8} {gs : List (Nat × W64 × Nat × List Piece)} (h : Ready (.ohdr d a b) s)
    (hlanes : gs.map (fun x => (x.1, x.2.1)) = laneAddrs s a b)
    (hgs : ∀ x ∈ gs, x.2.1.toNat % 64 = 0 ∧ x.2.2.1 = (laneRef s d x.1).toNat ∧ ohdrCheck s x.2.1 x.2.2.1 = .ok x.2.2.2 ∧
      objHeld s x.2.2.2 = false)
    (hord : InOrder s (laneAddrs s a b) 64) (hfree : (ohdrLanes gs (started s)).2 = []) :
    exec (.ohdr d a b) s = .next (retireMem (.ohdr d a b) (activeLanesOf s) (startMemory (.ohdr d a b)
      (ohdrLanes gs (started s)).1 (setB s.f) (some (activeLanesOf s)) (byLine (laneAddrs s a b)) [] [] true)) := by
  have harm : exec (.ohdr d a b) s = execOhdr d a b s := rfl
  have hact := actSet_unheld (replay_of_ready h)
  have hat : (lanesOf (activeLanesOf s)).map (fun l => (l, genAddr (unheld s) a b l)) = laneAddrs s a b := rfl
  have hcrooked : (laneAddrs s a b).filter (fun x => x.2.toNat % 64 != 0) = [] := by
    refine filter_crooked_eq_nil fun x hx => ?_
    obtain ⟨y, hy, rfl⟩ := List.mem_map.mp (hlanes ▸ hx)
    exact (hgs y hy).1
  have hchecks : (laneAddrs s a b).map (fun x => (x.1, x.2, (refOf (unheld s) d x.1).toNat,
      ohdrCheck (unheld s) x.2 (refOf (unheld s) d x.1).toNat)) = gs.map (fun x => (x.1, x.2.1, x.2.2.1, .ok x.2.2.2)) := by
    rw [← hlanes, List.map_map]
    refine List.map_congr_left fun x hx => ?_
    obtain ⟨-, htemplate, hcheck, -⟩ := hgs x hx
    rw [← hcheck, htemplate, Function.comp_apply, ohdrCheck_unheld]
    rfl
  have hfill : gs.any (fun x => objHeld (unheld s) x.2.2.2) = false := by
    rw [List.any_eq_false]
    exact fun x hx => have ⟨_, _, _, hfree⟩ := hgs x hx; ne_true_of_eq_false hfree
  have hdone : (laneAddrs s a b).filter (fun x => gs.any (fun g => g.1 == x.1)) = laneAddrs s a b := by
    refine filter_performed_eq_self ?_
    rw [← hlanes, List.map_map]
    rfl
  obtain ⟨hcoll, horder⟩ := hord
  replace hcoll : collHeld (unheld s) (laneAddrs s a b) 64 = false := hcoll
  replace horder : orderHeld (unheld s) (laneAddrs s a b) 64 = false := horder
  replace hfree : (ohdrLanes gs (unheld s)).2 = [] := hfree
  rw [harm, execOhdr, issue_of_ready h]
  dsimp only
  rw [hact, hat, hcrooked, hchecks, filterMap_map_eq_self, filterMap_map_eq_nil, hfill, hcoll, horder, hdone,
    hfree]
  · rfl
  · exact fun _ => rfl
  · exact fun _ => rfl

/-- Settles O31: claiming the lanes' granules changes memory and lines alone and starts one operation; one granule's creation
is a write of its header word at the home between two writes of its carve-out entry. -/
theorem objectsAreCreated : Obligations.ObjectsAreCreated := by
  unfold Obligations.ObjectsAreCreated
  refine ⟨fun s d a b gs h hlanes hgs hord hfree => ?_, fun s t h c hnone hp hn hc hout => ⟨?_, ?_, ?_⟩⟩
  · have hmem := onlyMemory_of_homeStep (ohdrLanes_home gs (started s))
    have hf : (ohdrLanes gs (started s)).1.f = (started s).f := by rw [hmem]
    have hr : (ohdrLanes gs (started s)).1.f.replay = none := by rw [hf]; exact replay_of_ready h
    have hall := foldl_or_byLine_laneAddrs s a b
    exact ⟨_, _, exec_ohdr_creates h hlanes hgs hord hfree, past_retireMem h hf hall _ _ _, rfl, hmem,
      retireMem_starts (whole := some (activeLanesOf s)) hall rfl hr _ _ _⟩
  · exact gran_createObject hnone hc t
  · exact (homeValueOf_createObject hnone hp hn hc hout t).trans (headerOf_eq s t)
  · exact createObject_frame hnone t

end Sys2Proof.Proofs

/-!
SUPPORT and O43. What the branches that split a fragment leave: a transfer of control, the two parts of a split, and the parts
of exported lanes.
-/
namespace Sys2Proof.Machine

/-! ### Transfers of control (10 R276) -/

/-- A fragment that has been transferred to a clause header. -/
def Frag.movedTo (f : Frag) (dest : W64) : Frag :=
  { f with pc := dest, inClause := false, hold := .free, st := .ready, done := 0, count := 0, latch := [] }

/-- An instruction without vector sources that transfers control moves its fragment and changes nothing else. -/
theorem retireTo_of_scalar {i : Instr} {s : State} (ha : (operands (unheld s) i).va = []) (hb : (operands (unheld s) i).vb = [])
    (dest : W64) : retireTo i dest (unheld s) = { s with f := s.f.movedTo dest } := by
  rw [retireTo, applyNotes, noteKeys_of_scalar ha hb]
  rfl

/-! ### The issuing fragment's hold and the split table -/

/-- How many live fragments of a kind there are does not depend on the issuing fragment's hold. -/
theorem length_filter_liveFrags {w : Warp} {f g : Frag} (hm : f.mask = g.mask) (he : f.ent = g.ent) {p : Frag → Bool}
    (hp : p f = p g) : ((liveFrags w f).filter p).length = ((liveFrags w g).filter p).length := by
  unfold liveFrags
  rw [hm, he]
  split
  · rfl
  · rw [List.filter_cons, List.filter_cons, hp]
    split <;> rfl

theorem entriesUsed_unheld (s : State) : entriesUsed (unheld s).w (unheld s).f = entriesUsed s.w s.f := by
  unfold entriesUsed
  rw [length_filter_liveFrags (f := (unheld s).f) (g := s.f) rfl rfl rfl]
  rfl

theorem entryFree_unheld (s : State) : entryFree (unheld s) = entryFree s := by
  have hused := entriesUsed_unheld s
  have hexp : (unheld s).f.exp = s.f.exp := rfl
  unfold entryFree entryFreeFor
  rw [hused, hexp]
  cases s.f.exp with
  | none => rfl
  | some x =>
    dsimp only
    rw [length_filter_liveFrags (f := (unheld s).f) (g := s.f) rfl rfl rfl]
    rfl

theorem mayExport_unheld (s : State) (side : Lanes) : mayExport (unheld s) side = mayExport s side := by
  unfold mayExport
  dsimp only
  rw [entriesUsed_unheld]
  rfl

theorem mem_insertBy {α : Type} {key : α → Nat} {x y : α} {l : List α} : y ∈ insertBy key x l ↔ y = x ∨ y ∈ l := by
  induction l with
  | nil => simp [insertBy]
  | cons z r ih =>
    unfold insertBy
    split
    · rw [List.mem_cons, ih, List.mem_cons]
      exact or_left_comm
    · exact List.mem_cons

end Sys2Proof.Machine

namespace Sys2Proof.Proofs
open Sys2Proof.Machine hiding Ready
open Sys2Proof.Claims

/-! ### Divergent branches (10 R279, 05 R151, R158, R159) -/

theorem selected_unheld (s : State) (c : BitVec 4) : selected (unheld s) c = takenBy s c := rfl

theorem fallThrough_unheld (s : State) : fallThrough (unheld s) = following s := rfl

/-- A fragment none or all of whose lanes are taken moves whole. -/
theorem divergeBy_moves {i : Instr} {s : State} {c : BitVec 4} {off : BitVec 20} (ha : (operands (unheld s) i).va = [])
    (hb : (operands (unheld s) i).vb = []) (hm : takenBy s c = s.f.mask ∨ takenBy s c = 0) :
    divergeBy i c off (unheld s) =
      { s with f := s.f.movedTo (if takenBy s c = s.f.mask then branchTarget s off else following s) } := by
  unfold divergeBy
  rw [selected_unheld]
  by_cases hall : takenBy s c = s.f.mask
  · rw [if_pos hall]
    exact (if_pos hall).trans (retireTo_of_scalar ha hb _)
  · rw [if_neg hall]
    exact ((if_neg hall).trans (if_pos (hm.resolve_left hall))).trans (retireTo_of_scalar ha hb _)

/-- The part of a split fragment that receives an entry. -/
def splitOff (s : State) (taken : Lanes) (dest : W64) : Frag :=
  { s.f.movedTo dest with ent := freeEnt s, mask := s.f.mask &&& ~~~taken, pc := following s, waited := 0, promoted := none }

/-- With an entry free, any other fragment splits. -/
theorem divergeBy_splits {i : Instr} {s : State} {c : BitVec 4} {off : BitVec 20} (ha : (operands (unheld s) i).va = [])
    (hb : (operands (unheld s) i).vb = []) (hall : takenBy s c ≠ s.f.mask) (hnone : takenBy s c ≠ 0) (hfree : entryFree s = true) :
    divergeBy i c off (unheld s) = { s with
      f := { s.f.movedTo (branchTarget s off) with mask := takenBy s c }
      w := { s.w with frags := insertBy Frag.ent (splitOff s (takenBy s c) (branchTarget s off)) s.w.frags } } := by
  have hsplit : split i (takenBy s c) off (unheld s) = { s with
      f := { s.f.movedTo (branchTarget s off) with mask := takenBy s c }
      w := { s.w with frags := insertBy Frag.ent (splitOff s (takenBy s c) (branchTarget s off)) s.w.frags } } := by
    unfold split
    dsimp only
    rw [retireTo_of_scalar ha hb]
    rfl
  unfold divergeBy
  dsimp only
  rw [selected_unheld, entryFree_unheld, if_pos hfree]
  exact ((if_neg hall).trans (if_neg hnone)).trans hsplit

/-- With none free, a branch in place raises STACK. -/
theorem divergeBy_faults {i : Instr} {s : State} {c : BitVec 4} {off : BitVec 20} (hall : takenBy s c ≠ s.f.mask)
    (hnone : takenBy s c ≠ 0) (hfree : entryFree s = false) (hexp : s.f.exp = none) :
    divergeBy i c off (unheld s) = stackFault 2 (unheld s) := by
  have hfree' : ¬entryFree s = true := ne_true_of_eq_false hfree
  have hfront : repatriateFront (unheld s) = unheld s := by
    have hexp' : (unheld s).f.exp = none := hexp
    rw [repatriateFront, hexp']
  unfold divergeBy
  dsimp only
  rw [selected_unheld, hfront, entryFree_unheld, if_neg hfree']
  exact ((if_neg hall).trans (if_neg hnone)).trans (if_neg hfree')

/-- STACK is delivered precisely, with its cause. -/
theorem stackFault_delivered {s : State} {cause : Nat} (hr : s.f.replay = none) (hs : TakesFaults s) :
    (stackFault cause (unheld s)).w.trappc = s.f.pc ∧
      Delivered 0x0D 0 s.f.mask 0 (BitVec.ofNat 64 (cause * 256)) (atDelivery s) (stackFault cause (unheld s)) :=
  precise_delivered hr (by omega) (by omega) (by omega) hs

/-- A branch that exports nothing diverges in place. -/
theorem exec_diverges {i : Instr} {s : State} {c : BitVec 4} {off : BitVec 20}
    (hi : i = .brd c off ∨ i = .brdx c off ∧
      (takenBy s c = s.f.mask ∨ takenBy s c = 0 ∨ mayExport s (smallerSide s c) = none)) (hr : Ready i s) :
    exec i s = .next (divergeBy i c off (unheld s)) := by
  rcases hi with rfl | ⟨rfl, hstays⟩
  · have harm : exec (.brd c off) s = execBrd c off s := rfl
    rw [harm, execBrd, issue_of_ready hr]
  · have harm : exec (.brdx c off) s = execBrdx c off s := rfl
    have hside : minority (unheld s).f.mask (takenBy s c) = smallerSide s c := rfl
    rw [harm, execBrdx, issue_of_ready hr]
    refine congrArg Host.Outcome.next ?_
    dsimp only
    rw [selected_unheld, hside, mayExport_unheld]
    by_cases hwhole : takenBy s c = s.f.mask ∨ takenBy s c = 0
    · exact if_pos (by rwa [Bool.or_eq_true, decide_eq_true_eq, decide_eq_true_eq])
    · have hnone : mayExport s (smallerSide s c) = none :=
        (hstays.resolve_left (not_or.mp hwhole).1).resolve_left (not_or.mp hwhole).2
      rw [hnone]
      exact ite_self _

/-- The branches have no vector sources. -/
theorem operands_branch {i : Instr} {c : BitVec 4} {off : BitVec 20} (hi : i = .brd c off ∨ i = .brdx c off) (s : State) :
    (operands s i).va = [] ∧ (operands s i).vb = [] := by
  rcases hi with rfl | rfl <;> exact ⟨rfl, rfl⟩

/-! The parts of exported lanes. -/

/-- Part `j` of the exported lanes `map` of fragment `f`, under identifier `x`, on narrow warp `j`. -/
def exportPart (f : Frag) (x : Nat) (map : List Nat) (pc : W64) (j ent : Nat) : Frag :=
  { f with ent := ent, mask := maskOf ((map.drop (4 * j)).take 4), pc := pc, exp := some x, nw := j, waited := 0,
           promoted := none, wave := none }

/-- Part `j` receives an entry. -/
def addPart (x : Nat) (map : List Nat) (pc : W64) (s : State) (j : Nat) : State :=
  { s with w := { s.w with frags := insertBy Frag.ent (exportPart s.f x map pc j (freeEnt s)) s.w.frags } }

section
variable {x : Nat} {map : List Nat} {pc : W64} {js : List Nat} {s : State}

theorem foldl_addPart_frame :
    js.foldl (addPart x map pc) s = { s with w := { s.w with frags := (js.foldl (addPart x map pc) s).w.frags } } := by
  induction js generalizing s with
  | nil => rfl
  | cons j r ih =>
    rw [List.foldl_cons, ih]
    rfl

/-- The warp's fragments stay. -/
theorem mem_foldl_addPart_of_mem {g : Frag} (h : g ∈ s.w.frags) : g ∈ (js.foldl (addPart x map pc) s).w.frags := by
  induction js generalizing s with
  | nil => exact h
  | cons j r ih => exact ih (mem_insertBy.mpr (.inr h))

/-- Every part has an entry. -/
theorem exists_mem_foldl_addPart {j : Nat} (hj : j ∈ js) :
    ∃ e, exportPart s.f x map pc j e ∈ (js.foldl (addPart x map pc) s).w.frags := by
  induction js generalizing s with
  | nil => exact absurd hj List.not_mem_nil
  | cons k r ih =>
    rcases List.mem_cons.mp hj with rfl | hr
    · exact ⟨_, mem_foldl_addPart_of_mem (s := addPart x map pc s j) (mem_insertBy.mpr (.inl rfl))⟩
    · exact ih (s := addPart x map pc s k) hr

/-- No other fragment joins them. -/
theorem part_of_mem_foldl_addPart {g : Frag} (h : g ∈ (js.foldl (addPart x map pc) s).w.frags) :
    g ∈ s.w.frags ∨ ∃ j e, g = exportPart s.f x map pc j e := by
  induction js generalizing s with
  | nil => exact .inl h
  | cons k r ih =>
    rcases ih (s := addPart x map pc s k) h with hmem | hpart
    · exact (mem_insertBy.mp hmem).elim (fun hg => .inr ⟨k, _, hg⟩) .inl
    · exact .inr hpart

end

/-- The state of a fragment whose minority side has left for a narrow core, before its parts have entries. -/
def sideGone (s : State) (side : Lanes) (core : Nat) (dest : W64) : State :=
  let n := ((lanesOf side).length + 3) / 4
  { s with
    f := { s.f.movedTo dest with mask := s.f.mask &&& ~~~side }
    uid := s.uid + 1
    w := { s.w with
      exps := s.w.exps ++ [{ id := s.uid, core := core, nwarps := n, total := n, map := lanesOf side, level := s.f.level,
                             pulled := [], held := [], dirty := [], pheld := [], pdirty := [], jst := [] }]
      jst := updLevel s.w.jst s.f.level.toNat (fun j => { j with counter := j.counter + n }) } }

/-- `brdx` where the side may be exported: it leaves, and each part of it receives an entry. -/
theorem exec_brdx_exports {s : State} {c : BitVec 4} {off : BitVec 20} {core : Nat} (hr : Ready (.brdx c off) s)
    (hall : takenBy s c ≠ s.f.mask) (hnone : takenBy s c ≠ 0) (hmay : mayExport s (smallerSide s c) = some core) :
    (let side := smallerSide s c
     let taken := side = takenBy s c
     exec (.brdx c off) s = .next ((List.range (((lanesOf side).length + 3) / 4)).foldl
       (addPart s.uid (lanesOf side) (if taken then branchTarget s off else following s))
       (sideGone s side core (if taken then following s else branchTarget s off)))) := by
  have harm : exec (.brdx c off) s = execBrdx c off s := rfl
  have hside : minority (unheld s).f.mask (takenBy s c) = smallerSide s c := rfl
  have hsplit : ¬((decide (takenBy s c = (unheld s).f.mask) || decide (takenBy s c = 0)) = true) := by
    rw [Bool.or_eq_true, decide_eq_true_eq, decide_eq_true_eq]
    exact not_or.mpr ⟨hall, hnone⟩
  rw [harm, execBrdx, issue_of_ready hr]
  refine congrArg Host.Outcome.next ?_
  dsimp only
  rw [selected_unheld, hside, mayExport_unheld, hmay, if_neg hsplit]
  dsimp only
  unfold exportSide
  dsimp only
  rw [retireTo_of_scalar rfl rfl]
  rfl

/-- Settles O43: none or all of the lanes taken, the fragment moves whole; otherwise it splits, raises STACK where its warp has
no entry free, or exports its smaller side. -/
theorem divergentBranches : Obligations.DivergentBranches := by
  refine ⟨?_, ?_⟩
  · intro s i c off m hi hr
    obtain ⟨ha, hb⟩ := operands_branch (hi.imp id And.left) (unheld s)
    have hexec := exec_diverges hi hr
    refine ⟨fun hall => ⟨_, hexec.trans (congrArg _ (divergeBy_moves ha hb (.inl hall))), ?_, rfl⟩,
      fun hall hnone => ⟨_, hexec.trans (congrArg _ (divergeBy_moves ha hb (.inr hnone))), ?_, rfl⟩,
      fun hall hnone hfree => ⟨_, _, hexec.trans (congrArg _ (divergeBy_splits ha hb hall hnone hfree)), rfl, rfl, rfl⟩,
      fun hall hnone hfree hexp hs => ⟨_, hexec.trans (congrArg _ (divergeBy_faults hall hnone hfree hexp)),
        stackFault_delivered (replay_of_ready hr) hs⟩⟩
    · rw [if_pos hall]
      rfl
    · rw [if_neg hall]
      rfl
  · intro s c off core m side n hr hall hnone hmay
    refine ⟨_, exec_brdx_exports hr hall hnone hmay, ?_, ?_, ?_, fun k => ?_, fun g hg => mem_foldl_addPart_of_mem hg,
      fun g hg => ?_, fun j hj => ?_⟩
    · rw [foldl_addPart_frame]
      rfl
    · rw [foldl_addPart_frame]
      rfl
    · rw [foldl_addPart_frame]
      rfl
    · rw [foldl_addPart_frame]
      exact getElem?_updLevel ..
    · refine (part_of_mem_foldl_addPart hg).imp id fun ⟨j, e, hpart⟩ => ?_
      rw [hpart]
      rfl
    · obtain ⟨e, hmem⟩ := exists_mem_foldl_addPart (List.mem_range.mpr hj)
      exact ⟨_, hmem, rfl, rfl, rfl, rfl, rfl, rfl, rfl, rfl⟩

end Sys2Proof.Proofs

/-!
SUPPORT and O44. What `mark`, `join`, `regang`, `exit` and `wait` leave: entries of join stacks, fragments that wait, and lanes
that end.
-/
namespace Sys2Proof.Machine

/-! ### Spilled entries (05 R153) -/

/-- A spill stores an entry and marks it: the fragment and the height of the join stack are as before. -/
theorem spillTo_keeps (q : Place) (s : State) : (spillTo q s).f = s.f ∧ (spillTo q s).w.jst.length = s.w.jst.length := by
  unfold spillTo
  dsimp only
  cases hentry : s.w.jst[spilledEntries s]? with
  | none => exact ⟨rfl, rfl⟩
  | some e =>
    have hframe : Claims.OnlyMemory s (keepLeaves (storeAt s q e.word 32) q) := Proofs.onlyMemory_trans
      (Proofs.onlyMemory_of_placeStep (storeAt_place ..)) (Proofs.keepLeaves_onlyMemory ..)
    dsimp only
    rw [hframe]
    exact ⟨rfl, List.length_modify ..⟩

/-! ### Exports that return (05 R161) -/

/-- Looking at a narrow warp's end may make its return due, and changes nothing else. -/
theorem noteReturn_frame (x nw : Nat) (s : State) : noteReturn x nw s = { s with agenda := (noteReturn x nw s).agenda } := by
  unfold noteReturn
  cases s.w.exps.find? (fun e => e.id == x) with
  | none => rfl
  | some e =>
    dsimp only
    split <;> rfl

/-! ### Lanes that end (10 R284, 14 R387, 05 R167) -/

/-- Where no phase is open, threads that exit change no barrier. -/
theorem exitedThreads_of_idle {s : State} (h : ∀ b ∈ s.blk.bars, b.expected = none) : exitedThreads s = s := by
  have hbars : s.blk.bars.map (fun b => if b.expected.isSome && !b.counted then
      { b with expected := some (uncounted s b.arrived) } else b) = s.blk.bars := by
    refine (List.map_congr_left fun b hb => ?_).trans (List.map_id _)
    rw [h b hb]
    rfl
  have hphase : ∀ id, completePhase id s = s := fun id => by
    have hopen : (barrierAt s id).expected = none := by
      unfold barrierAt
      rw [List.getD_eq_getElem?_getD]
      cases hb : s.blk.bars[id]? with
      | none => rfl
      | some b => exact h b (List.mem_of_getElem? hb)
    have hdone : ¬phaseDone (barrierAt s id) = true := by
      rw [phaseDone, hopen]
      exact Bool.false_ne_true
    exact if_neg hdone
  unfold exitedThreads
  rw [hbars]
  exact List.foldl_fixed' hphase _

/-- A warp that has received no registers returns none. -/
theorem returnDonations_of_none {s : State} (h : ∀ d ∈ s.blk.donations, d.2.1 ≠ s.w.idx) : returnDonations s = s := by
  have hmine : s.blk.donations.filter (fun d => d.2.1 == s.w.idx) = [] :=
    List.filter_eq_nil_iff.mpr fun d hd hbad => h d hd (beq_iff_eq.mp hbad)
  have hrest : s.blk.donations.filter (fun d => d.2.1 != s.w.idx) = s.blk.donations :=
    List.filter_eq_self.mpr fun d hd => bne_iff_ne.mpr (h d hd)
  have hgive : ∀ n, giveBack s n [] = s := fun n => by rw [giveBack]
  unfold returnDonations
  dsimp only
  rw [hmine, List.reverse_nil, hgive, hrest]

/-- With no phase open and no register received, the end of lanes makes the block's end due where they were its last, and changes
nothing else. -/
theorem afterExit_of_idle {s : State} (hbars : ∀ b ∈ s.blk.bars, b.expected = none)
    (hdon : ∀ d ∈ s.blk.donations, d.2.1 ≠ s.w.idx) :
    afterExit s = { s with agenda := if s.w.launched = s.w.exited ∧ ∀ w ∈ s.blk.warps, w.launched = w.exited
      then s.agenda ++ [(.blockEnd, .unit s.blk.uid)] else s.agenda } := by
  have hended : warpsEnded s = true ↔ s.w.launched = s.w.exited ∧ ∀ w ∈ s.blk.warps, w.launched = w.exited := by
    simp [warpsEnded]
  unfold afterExit
  dsimp only
  rw [exitedThreads_of_idle hbars, returnDonations_of_none hdon]
  by_cases hall : s.w.launched = s.w.exited
  · rw [if_neg (fun h => bne_iff_ne.mp h hall.symm)]
    by_cases hend : warpsEnded s = true
    · rw [if_pos hend, if_pos (hended.mp hend)]
      rfl
    · rw [if_neg hend, if_neg (fun h => hend (hended.mpr h))]
  · rw [if_pos (bne_iff_ne.mpr (Ne.symm hall)), if_neg (fun h => hall h.1)]

/-- Every flag of a mask is complete where no operation is outstanding under one of them. -/
theorem flagsDone_iff (w : Warp) (f : Frag) (m : BitVec 12) :
    flagsDone w f m = true ↔ ∀ n, n < 12 → m.getLsbD n = true → flagCount w f n = 0 := by
  simp only [flagsDone, flagDone, List.all_eq_true, List.mem_range, Bool.or_eq_true, Bool.not_eq_true', beq_iff_eq]
  refine forall₂_congr fun n _ => ?_
  cases m.getLsbD n <;> simp

end Sys2Proof.Machine

namespace Sys2Proof.Proofs
open Sys2Proof.Machine hiding Ready
open Sys2Proof.Claims

/-! ### `mark` (10 R280, 05 R153, R154) -/

/-- A fragment past an instruction, at another join level. -/
theorem past_atLevel {s u t : State} (h : Past s u) (lv : BitVec 16) (ht : t.f = { u.f with level := lv }) :
    Past { s with f := { s.f with level := lv } } t := by
  unfold Past at h ⊢
  rw [ht, h]
  rfl

/-- The entry that `mark` pushes. -/
def markedEntry (s : State) (off : BitVec 20) : JEntry :=
  { rejoin := branchTarget s off, expected := s.f.mask, mode := s.f.mode, counter := 0, parent := s.f.level, free := false,
    spilled := false }

/-- A push onto the warp's stack: the entry, and the fragment past its `mark` at the new level. -/
theorem pushEntry_marks {s u : State} {off : BitVec 20} (hr : Ready (.mark off) s) (hu : u.f = (started s).f) :
    (let t := pushEntry (.mark off) (branchTarget s off) u
     Past { u with f := { u.f with level := BitVec.ofNat 16 u.w.jst.length } } t ∧
       t = { u with f := t.f, w := { u.w with jst := u.w.jst ++ [markedEntry s off] } }) := by
  have hentry : newEntry u (branchTarget s off) = markedEntry s off := by
    unfold newEntry markedEntry
    rw [hu]
    rfl
  obtain ⟨f, hmoved, hpast⟩ := retire_moves (i := .mark off) (s := s)
    (u := { u with w := { u.w with jst := u.w.jst ++ [markedEntry s off] } }) hr hu rfl rfl
  have hpast' : Past u { u with f := f } := by
    unfold Past at hpast ⊢
    rw [hu]
    exact hpast
  unfold pushEntry
  dsimp only
  rw [hentry, hmoved]
  exact ⟨past_atLevel hpast' _ rfl, rfl⟩

/-- A warp with every join-stack entry that it may have: 8 on a narrow core, 16 held and those of its spill area otherwise. -/
def JoinStackFull (s : State) : Prop := if narrow s then 8 ≤ s.w.jst.length else 16 + spillMax s ≤ s.w.jst.length

theorem joinStackFull_iff (s : State) : JoinStackFull s ↔
    (narrow s && decide (8 ≤ s.w.jst.length) || !narrow s && decide (16 + spillMax s ≤ s.w.jst.length)) = true := by
  unfold JoinStackFull
  cases narrow s <;> simp

/-- `mark` of a fragment in place. -/
theorem exec_mark_inPlace {s : State} {off : BitVec 20} (hr : Ready (.mark off) s) (hexp : s.f.exp = none) :
    exec (.mark off) s = .next (markInPlace (.mark off) (branchTarget s off) (unheld s)) := by
  have harm : exec (.mark off) s = execMark off s := rfl
  have hplace : exportOf (unheld s) = none := by
    have hexp' : (unheld s).f.exp = none := hexp
    rw [exportOf, hexp']
  rw [harm, execMark, issue_of_ready hr]
  dsimp only
  rw [hplace]
  rfl

/-- Where the warp may have a further entry it is pushed, once the lowest entry held has been spilled where 16 are. -/
theorem markInPlace_pushes {s u : State} {i : Instr} {rejoin : W64} (hroom : ¬JoinStackFull s)
    (hu : if narrow s = true ∨ heldEntries s < 16 then u = started s
      else ∃ q, spillPlace (started s) = .ok q ∧ fillHeld s q 32 = false ∧ u = spillTo q (started s)) :
    markInPlace i rejoin (unheld s) = pushEntry i rejoin u := by
  have hfull : ¬JoinStackFull (unheld s) := hroom
  have hspare : (narrow (unheld s) || decide (heldEntries (unheld s) < 16)) = true ↔ narrow s = true ∨ heldEntries s < 16 := by
    rw [Bool.or_eq_true, decide_eq_true_eq]
    rfl
  unfold markInPlace
  dsimp only
  rw [if_neg (fun h => hfull ((joinStackFull_iff _).mpr h))]
  by_cases hheld : narrow s = true ∨ heldEntries s < 16
  · rw [if_pos hheld] at hu
    rw [hu]
    exact if_pos (hspare.mpr hheld)
  · rw [if_neg hheld] at hu
    obtain ⟨q, hplace, hfill, rfl⟩ := hu
    have hplace' : spillPlace (unheld s) = .ok q := hplace
    have hfill' : ¬fillHeld (unheld s) q 32 = true := ne_true_of_eq_false hfill
    rw [hplace']
    exact (if_neg (mt hspare.mp hheld)).trans (if_neg hfill')

/-- `mark` in an exported fragment pushes onto its narrow stack. -/
theorem exec_mark_exported {s : State} {off : BitVec 20} {e : Export} (hr : Ready (.mark off) s) (he : exportOf s = some e)
    (hroom : narrowEntries e s.f.nw < 8) :
    ∃ f, exec (.mark off) s = .next (updExport { s with f := { f with level := BitVec.ofNat 16 (0x8000 + e.jst.length) } } e.id
        (fun x => { x with jst := x.jst ++ [(s.f.nw, markedEntry s off)] })) ∧ Past s { s with f := f } := by
  have harm : exec (.mark off) s = execMark off s := rfl
  have he' : exportOf (unheld s) = some e := he
  have hroom' : ¬8 ≤ narrowEntries e (unheld s).f.nw := Nat.not_le.mpr hroom
  obtain ⟨f, hmoved, hpast⟩ := retire_moves (i := .mark off) (u := unheld s) hr rfl rfl rfl
  refine ⟨f, ?_, hpast⟩
  rw [harm, execMark, issue_of_ready hr]
  dsimp only
  rw [he', hmoved]
  exact congrArg Host.Outcome.next (if_neg hroom')

/-! ### `join` and `regang` (10 R281, R282, 05 R156, R157) -/

/-- A fragment that waits behind its instruction in a state of its own. -/
def WaitsBehind (st : FragSt) (s : State) (f : Frag) : Prop :=
  f = { s.f with pc := nextPc s.f, inClause := false, hold := .free, st := st, done := 0, count := 0, latch := f.latch }

/-- An instruction without vector sources whose fragment then waits. -/
theorem retire_waitsBehind {i : Instr} {s : State} (hr : Ready i s) (ha : (operands (unheld s) i).va = [])
    (hb : (operands (unheld s) i).vb = []) (st : FragSt) : ∃ f, WaitsBehind st s f ∧
      (let u := retire i (unheld s)
       { u with f := { u.f with st := st, inClause := false } } = { s with f := f }) := by
  obtain ⟨f, hmoved, hpast⟩ := retire_moves (u := unheld s) hr rfl ha hb
  refine ⟨{ f with st := st, inClause := false }, ?_, ?_⟩
  · have hf : f = _ := hpast
    unfold WaitsBehind
    rw [hf]
  · rw [hmoved]
    rfl

/-- `join` at the rejoin address of its level waits; the narrow warp of an exported fragment may have finished. -/
theorem exec_join_waits {s : State} {e : JEntry} (hr : Ready .join s) (he : levelEntry s = some e) (hheld : e.spilled = false)
    (hfree : e.free = false) (hat : s.f.hdr = e.rejoin) : ∃ f a, WaitsBehind .atJoin s f ∧
      exec .join s = .next { s with f := f, agenda := a } ∧ (s.f.exp = none → a = s.agenda) := by
  have harm : exec .join s = execJoin s := rfl
  have he' : levelEntry (unheld s) = some e := he
  have hspilled : ¬e.spilled = true := ne_true_of_eq_false hheld
  have hhere : ¬(e.free || (unheld s).f.hdr != e.rejoin) = true := by
    have hat' : (unheld s).f.hdr = e.rejoin := hat
    rw [hfree, hat']
    simp
  obtain ⟨f, hwaits, hmoved⟩ := retire_waitsBehind hr rfl rfl .atJoin
  have hexp : (retire .join (unheld s)).f.exp = s.f.exp := by rw [retire_f .join (unheld s) (replay_of_ready hr)]; rfl
  rw [harm, execJoin, issue_of_ready hr]
  dsimp only at hmoved ⊢
  rw [he']
  dsimp only
  rw [if_neg hspilled, if_neg hhere, hmoved, hexp]
  cases s.f.exp with
  | none => exact ⟨f, s.agenda, hwaits, rfl, fun _ => rfl⟩
  | some x =>
    refine ⟨f, _, hwaits, congrArg Host.Outcome.next (noteReturn_frame ..), ?_⟩
    rintro ⟨⟩

/-- `join` anywhere else raises STACK. -/
theorem exec_join_faults {s : State} {e : JEntry} (hr : Ready .join s) (he : levelEntry s = some e) (hheld : e.spilled = false)
    (hat : e.free = true ∨ s.f.hdr ≠ e.rejoin) : exec .join s = .next (stackFault 1 (unheld s)) := by
  have harm : exec .join s = execJoin s := rfl
  have he' : levelEntry (unheld s) = some e := he
  have hspilled : ¬e.spilled = true := ne_true_of_eq_false hheld
  have haway : (e.free || (unheld s).f.hdr != e.rejoin) = true := by
    rw [Bool.or_eq_true, bne_iff_ne]
    exact hat
  rw [harm, execJoin, issue_of_ready hr]
  dsimp only
  rw [he']
  dsimp only
  rw [if_neg hspilled, if_pos haway]

theorem exec_regang_waits {s : State} (hr : Ready .regang s) :
    ∃ f, WaitsBehind .atRegang s f ∧ exec .regang s = .next { s with f := f } := by
  have harm : exec .regang s = execRegang s := rfl
  obtain ⟨f, hwaits, hmoved⟩ := retire_waitsBehind hr rfl rfl .atRegang
  refine ⟨f, hwaits, ?_⟩
  rw [harm, execRegang, issue_of_ready hr]
  exact congrArg Host.Outcome.next hmoved

/-! ### `exit` and `wait` (10 R284, R285) -/

/-- `exit` in place, in user privilege, with no walk of its lanes, no phase open and no register received. -/
theorem exec_exit_ends {s u : State} (hr : Ready .exit s) (hsup : s.f.sup = false) (hexp : s.f.exp = none)
    (hu : u = sendGroups (ofFront s) (started s))
    (hwalks : ∀ k ∈ s.walks, k.blk = s.blk.uid → k.wp = s.w.idx → ∀ p ∈ k.lanes, s.f.mask.getLsbD p.1 = false)
    (hbars : ∀ b ∈ s.blk.bars, b.expected = none) (hdon : ∀ d ∈ s.blk.donations, d.2.1 ≠ s.w.idx) :
    exec .exit s = .next { u with
      f := { s.f with mask := 0, hold := .free, st := .ready }
      w := { s.w with exited := s.w.exited ||| s.f.mask }
      agenda := if s.w.launched = s.w.exited ||| s.f.mask ∧ ∀ w ∈ s.blk.warps, w.launched = w.exited
        then u.agenda ++ [(.blockEnd, .unit s.blk.uid)] else u.agenda } := by
  have harm : exec .exit s = execExit s := rfl
  have hsend : sendGroups (ofFront (unheld s)) (unheld s) = u := hu.symm
  obtain ⟨c, a, rfl⟩ : ∃ c a, u = { started s with colls := c, agenda := a } :=
    ⟨_, _, hu ▸ (onlyCollector_sendGroups _ _).1⟩
  have hnone : ¬s.walks.any (walksFor s) = true := by
    rw [List.any_eq_true]
    rintro ⟨k, hk, hmine⟩
    simp only [walksFor, Bool.and_eq_true, beq_iff_eq, List.any_eq_true] at hmine
    obtain ⟨⟨hblk, hwp⟩, p, hp, hlane⟩ := hmine
    exact ne_true_of_eq_false (hwalks k hk hblk hwp p hp) hlane
  rw [harm, execExit, issue_of_ready hr]
  refine congrArg Host.Outcome.next ?_
  dsimp only
  rw [hsend]
  refine (if_neg hnone).trans ((if_neg (ne_true_of_eq_false hsup)).trans ?_)
  dsimp only [started]
  rw [hexp]
  exact afterExit_of_idle hbars hdon

/-- `wait` goes on where its flags are complete, and waits for them elsewhere. -/
theorem exec_wait_looks {s : State} {m : BitVec 12} (hr : Ready (.wait m) s) :
    exec (.wait m) s = .next (if flagsDone s.w s.f m then retire (.wait m) (unheld s) else holdAt (.waits m) (unheld s)) := by
  have harm : exec (.wait m) s = execWait m s := rfl
  rw [harm, execWait, issue_of_ready hr]
  rfl

/-- Settles O44: a push, a wait behind the instruction or STACK for each of the join-stack instructions; `exit` ends its lanes; and
`wait` looks at its flags. -/
theorem joinsExitsAndWaits : Obligations.JoinsExitsAndWaits := by
  refine ⟨?mark, ?markExported, ?join, ?regang, ?exit, ?wait⟩
  case mark =>
    intro s u off hr hexp n full
    have hexec := exec_mark_inPlace hr hexp
    refine ⟨fun hroom hu => ?_, fun hfull hs => ?_⟩
    · have hkeeps : u.f = (started s).f ∧ u.w.jst.length = n := by
        by_cases hheld : narrow s = true ∨ heldEntries s < 16
        · rw [if_pos hheld] at hu
          rw [hu]
          exact ⟨rfl, rfl⟩
        · rw [if_neg hheld] at hu
          obtain ⟨q, -, -, rfl⟩ := hu
          exact spillTo_keeps q (started s)
      obtain ⟨huf, hlen⟩ := hkeeps
      obtain ⟨hpast, hpushed⟩ := pushEntry_marks hr huf
      rw [hlen] at hpast
      exact ⟨_, hexec.trans (congrArg _ (markInPlace_pushes hroom hu)), hpast, hpushed⟩
    · have hfault : markInPlace (.mark off) (branchTarget s off) (unheld s) = stackFault 3 (unheld s) :=
        if_pos ((joinStackFull_iff (unheld s)).mp hfull)
      exact ⟨_, hexec.trans (congrArg _ hfault), stackFault_delivered (replay_of_ready hr) hs⟩
  case markExported =>
    intro s off e hr he hroom
    obtain ⟨f, hexec, hpast⟩ := exec_mark_exported hr he hroom
    refine ⟨_, hexec, past_atLevel hpast _ rfl, ?_⟩
    simp only [updExport, beq_iff_eq]
    rfl
  case join =>
    intro s e hr he hheld
    refine ⟨fun hfree hat => ?_, fun hat hs => ?_⟩
    · obtain ⟨f, a, hwaits, hexec, hagenda⟩ := exec_join_waits hr he hheld hfree hat
      exact ⟨_, hexec, hwaits, rfl, hagenda⟩
    · exact ⟨_, exec_join_faults hr he hheld hat, stackFault_delivered (replay_of_ready hr) hs⟩
  case regang =>
    intro s hr
    obtain ⟨f, hwaits, hexec⟩ := exec_regang_waits hr
    exact ⟨_, hexec, rfl, hwaits⟩
  case exit =>
    intro s u hr hsup hexp hu hwalks hbars hdon
    exact ⟨hu ▸ onlyCollector_sendGroups _ _, exec_exit_ends hr hsup hexp hu hwalks hbars hdon⟩
  case wait =>
    intro s m hr
    refine ⟨_, exec_wait_looks hr, fun hdone => ?_, fun n hn hbit hopen => ?_⟩
    · rw [if_pos ((flagsDone_iff ..).mpr hdone)]
      exact ⟨past_retire (u := unheld s) hr rfl, onlyPosition_retire (u := unheld s) hr rfl rfl rfl⟩
    · rw [if_neg (fun h => hopen ((flagsDone_iff ..).mp h n hn hbit))]
      rfl

end Sys2Proof.Proofs

/-!
SUPPORT and O48. Lists kept in the order of a key, the fragment that another warp's step brings back, cells that move to other
keys, and the registers that `rdon` moves.
-/
namespace Sys2Proof.Machine

/-! ### Lists kept in the order of a key (log 2) -/

section
variable {α : Type} {key : α → Nat} {x : α} {l : List α}

theorem insertBy_of_le (h : ∀ y ∈ l, key x ≤ key y) : insertBy key x l = x :: l := by
  cases l with
  | nil => rfl
  | cons y r => exact if_neg (Nat.not_lt.mpr (h y (by simp)))

theorem insertBy_append {r : List α} (h : ∀ y ∈ l, key y < key x) : insertBy key x (l ++ r) = l ++ insertBy key x r := by
  induction l with
  | nil => rfl
  | cons y l ih =>
    exact (if_pos (h y (by simp))).trans (congrArg (y :: ·) (ih fun z hz => h z (List.mem_cons_of_mem _ hz)))

/-- The inserted element is the one with its key, where no other has it. -/
theorem find?_insertBy_self (h : ∀ y ∈ l, key y ≠ key x) : (insertBy key x l).find? (fun y => key y == key x) = some x := by
  induction l with
  | nil => simp [insertBy]
  | cons y r ih =>
    have hy : ¬(key y == key x) = true := by simpa using h y (by simp)
    unfold insertBy
    split
    · refine (List.find?_cons_of_neg (p := fun y => key y == key x) hy).trans ?_
      exact ih fun z hz => h z (List.mem_cons_of_mem _ hz)
    · exact List.find?_cons_of_pos (beq_self_eq_true _)

theorem find?_insertBy_of_neg {p : α → Bool} (h : p x = false) : (insertBy key x l).find? p = l.find? p := by
  induction l with
  | nil => simp [insertBy, h]
  | cons y r ih =>
    unfold insertBy
    split
    · rw [List.find?_cons, List.find?_cons, ih]
    · exact List.find?_cons_of_neg (by simp [h])

/-- Without the inserted element, the list is as it was. -/
theorem filter_insertBy_of_neg {p : α → Bool} (h : p x = false) : (insertBy key x l).filter p = l.filter p := by
  induction l with
  | nil => simp [insertBy, h]
  | cons y r ih =>
    unfold insertBy
    split
    · rw [List.filter_cons, List.filter_cons, ih]
    · exact List.filter_cons_of_neg (by simp [h])

theorem filter_insertBy_self (h : ∀ y ∈ l, key y ≠ key x) : (insertBy key x l).filter (fun y => key y != key x) = l :=
  (filter_insertBy_of_neg (by simp)).trans (List.filter_eq_self.mpr fun y hy => bne_iff_ne.mpr (h y hy))

/-- In a list in order, an element that passes a filter may be inserted before it or after it. -/
theorem filter_insertBy_of_pos {p : α → Bool} (hl : l.Pairwise (fun a b => key a < key b)) (h : p x = true) :
    (insertBy key x l).filter p = insertBy key x (l.filter p) := by
  induction l with
  | nil => simp [insertBy, h]
  | cons y r ih =>
    obtain ⟨hy, hr⟩ := List.pairwise_cons.mp hl
    by_cases hlt : key y < key x
    · have hins : insertBy key x (y :: r) = y :: insertBy key x r := if_pos hlt
      rw [hins, List.filter_cons, List.filter_cons, ih hr]
      split
      · exact (if_pos hlt).symm
      · rfl
    · have hins : insertBy key x (y :: r) = x :: y :: r := if_neg hlt
      rw [hins, List.filter_cons_of_pos h, insertBy_of_le]
      intro z hz
      rcases List.mem_cons.mp (List.mem_filter.mp hz).1 with rfl | hz
      · exact Nat.not_lt.mp hlt
      · exact (Nat.not_lt.mp hlt).trans (hy z hz).le

/-- In a list in order, an element is the one with its key. -/
theorem find?_of_mem (hl : l.Pairwise (fun a b => key a < key b)) (h : x ∈ l) : l.find? (fun y => key y == key x) = some x := by
  induction l with
  | nil => cases h
  | cons y r ih =>
    obtain ⟨hy, hr⟩ := List.pairwise_cons.mp hl
    rcases List.mem_cons.mp h with rfl | hx
    · exact List.find?_cons_of_pos (beq_self_eq_true _)
    · have hne : ¬(key y == key x) = true := by simpa using (hy x hx).ne
      exact (List.find?_cons_of_neg (p := fun y => key y == key x) hne).trans (ih hr hx)

theorem pairwise_insertBy (hl : l.Pairwise (fun a b => key a < key b)) (h : ∀ y ∈ l, key y ≠ key x) :
    (insertBy key x l).Pairwise (fun a b => key a < key b) := by
  induction l with
  | nil => exact List.pairwise_singleton _ _
  | cons y r ih =>
    obtain ⟨hy, hr⟩ := List.pairwise_cons.mp hl
    have hne : key y ≠ key x := h y (by simp)
    unfold insertBy
    split
    · next hlt =>
      refine List.pairwise_cons.mpr ⟨fun z hz => ?_, ih hr fun z hz => h z (List.mem_cons_of_mem _ hz)⟩
      rcases mem_insertBy.mp hz with rfl | hz
      · exact hlt
      · exact hy z hz
    · next hlt =>
      refine List.pairwise_cons.mpr ⟨fun z hz => ?_, hl⟩
      rcases List.mem_cons.mp hz with rfl | hz
      · omega
      · have := hy z hz
        omega

end

/-! ### The front of the state (log 2) -/

/-- With no fragment at the front there is none to put back. -/
theorem unfocusFrag_of_empty {s : State} (h : s.f = Frag.empty) : unfocusFrag s = s := by
  unfold unfocusFrag
  rw [if_pos (h ▸ rfl), ← h]

/-- The block at the front stays where its own fragments come to the front. -/
theorem focusBlock_own {s : State} (hst : s.blk.st ≠ .none) (hblocks : ∀ b ∈ s.blocks, b.uid ≠ s.blk.uid) :
    focusBlock s s.blk.uid = unfocusWarp s := by
  have huid : (unfocusWarp s).blk.uid = s.blk.uid := by
    unfold unfocusWarp
    dsimp only
    split <;> rfl
  have hst' : ¬(unfocusWarp s).blk.st = .none := by
    unfold unfocusWarp
    dsimp only
    split <;> exact hst
  have hrest : (unfocusWarp s).blocks = s.blocks := rfl
  have hput : (unfocus s).blocks = insertBy Block.uid (unfocusWarp s).blk s.blocks := if_neg hst'
  have hne : ∀ b ∈ s.blocks, b.uid ≠ (unfocusWarp s).blk.uid := by rwa [huid]
  unfold focusBlock
  dsimp only
  rw [hput, ← huid, find?_insertBy_self hne, filter_insertBy_self hne]
  rfl

/-- The block's warps with the one at the front, and its fragment, among them. -/
def ownWarps (s : State) : List Warp :=
  insertBy Warp.idx { s.w with frags := insertBy Frag.ent s.f s.w.frags } s.blk.warps

/-- The one fragment of a warp of the block comes to the front. -/
theorem focus_own {s : State} {i : Nat} {x : Warp} {g : Frag} (hst : s.blk.st ≠ .none)
    (hblocks : ∀ b ∈ s.blocks, b.uid ≠ s.blk.uid) (hmask : s.f.mask ≠ 0) (hlaunched : s.w.launched ≠ 0)
    (hfind : (ownWarps s).find? (fun y => y.idx == i) = some x) (hg : x.frags = [g]) :
    focus s s.blk.uid i g.ent = { s with
      f := g
      w := { x with frags := [] }
      blk := { s.blk with warps := (ownWarps s).filter (fun y => y.idx != i) } } := by
  have hfrag : unfocusFrag s = { s with f := Frag.empty, w := { s.w with frags := insertBy Frag.ent s.f s.w.frags } } := by
    unfold unfocusFrag
    rw [if_neg hmask]
  have hwarp : unfocusWarp s = { s with f := Frag.empty, w := Warp.empty, blk := { s.blk with warps := ownWarps s } } := by
    unfold unfocusWarp
    rw [hfrag]
    dsimp only
    rw [if_neg hlaunched]
    rfl
  have hfocused : focusWarp s s.blk.uid i = { s with
      f := Frag.empty, w := x, blk := { s.blk with warps := (ownWarps s).filter (fun y => y.idx != i) } } := by
    unfold focusWarp
    rw [focusBlock_own hst hblocks, hwarp]
    dsimp only
    rw [hfind]
  have hfirst : [g].find? (fun y => y.ent == g.ent) = some g := by simp
  have hrest : [g].filter (fun y => y.ent != g.ent) = [] := by simp
  rw [focus, hfocused, focusEnt, unfocusFrag_of_empty rfl]
  dsimp only
  rw [hg, hfirst, hrest]

/-- A fragment whose wait ends stands past its instruction. -/
def Frag.woken (f : Frag) (l : List (Nat × Nat)) : Frag :=
  { f with pc := nextPc f, inClause := !lastWord f, hold := .free, st := .ready, done := 0, count := 0, latch := l }

theorem endWait_eq {s : State} (h : s.f.replay = none) : ∃ l, endWait s = { s with f := s.f.woken l } := by
  refine ⟨(retire .nop s).f.latch, ?_⟩
  unfold endWait
  dsimp only
  rw [retire_of_scalar h rfl rfl, retire_f _ _ h]
  rfl

/-- The one fragment `g` of the warp `r` at the front, where the warp at the front and the warps `rest` are the others. -/
def visiting (r : Warp) (g : Frag) (rest : List Warp) (s : State) : State :=
  { s with
    f := g
    w := { r with frags := [] }
    blk := { s.blk with warps := insertBy Warp.idx { s.w with frags := [s.f] } rest } }

/-- The fragment at the front is the one of its warp, and `g` is the one of the warp `r`, which stands between others of the block;
every warp has an index of its own, in order. -/
structure Neighbours (s : State) (r : Warp) (g : Frag) (before after : List Warp) : Prop where
  placed : s.blk.st ≠ .none
  sole : ∀ b ∈ s.blocks, b.uid ≠ s.blk.uid
  mask : s.f.mask ≠ 0
  launched : s.w.launched ≠ 0
  lone : s.w.frags = []
  warps : s.blk.warps = before ++ r :: after
  order : (s.blk.warps.map Warp.idx).Pairwise (· < ·)
  own : ∀ w ∈ s.blk.warps, w.idx ≠ s.w.idx
  frags : r.frags = [g]
  rlaunched : r.launched ≠ 0
  gmask : g.mask ≠ 0

namespace Neighbours
variable {s : State} {r : Warp} {g : Frag} {before after : List Warp}

theorem pairwise (h : Neighbours s r g before after) : (before ++ r :: after).Pairwise (fun a b => a.idx < b.idx) :=
  List.pairwise_map.mp (h.warps ▸ h.order)

theorem idx_ne (h : Neighbours s r g before after) : r.idx ≠ s.w.idx := h.own r (by rw [h.warps]; simp)

/-- The warps besides the two. -/
theorem idx_before (h : Neighbours s r g before after) : ∀ w ∈ before, w.idx < r.idx :=
  fun w hw => (List.pairwise_append.mp h.pairwise).2.2 w hw r (by simp)

theorem idx_after (h : Neighbours s r g before after) : ∀ w ∈ after, r.idx < w.idx :=
  (List.pairwise_cons.mp (List.pairwise_append.mp h.pairwise).2.1).1

theorem idx_others (h : Neighbours s r g before after) : ∀ w ∈ before ++ after, w.idx ≠ r.idx := fun w hw =>
  (List.mem_append.mp hw).elim (fun hw => (h.idx_before w hw).ne) (fun hw => (h.idx_after w hw).ne')

theorem own_others (h : Neighbours s r g before after) : ∀ w ∈ before ++ after, w.idx ≠ s.w.idx := fun w hw =>
  h.own w (by rw [h.warps]; rcases List.mem_append.mp hw with hw | hw <;> simp [hw])

theorem pairwise_others (h : Neighbours s r g before after) : (before ++ after).Pairwise (fun a b => a.idx < b.idx) :=
  h.pairwise.sublist ((List.sublist_cons_self r after).append_left before)

end Neighbours

section
variable {s : State} {r : Warp} {g g' : Frag} {before after : List Warp}

/-- From a warp of one fragment to another. -/
theorem focus_visits (h : Neighbours s r g before after) : focus s s.blk.uid r.idx g.ent = visiting r g (before ++ after) s := by
  have hne : (s.w.idx == r.idx) = false := beq_eq_false_iff_ne.mpr h.idx_ne.symm
  have hdrop : (before ++ r :: after).filter (fun y => y.idx != r.idx) = before ++ after := by
    rw [List.filter_append, List.filter_cons_of_neg (by simp), ← List.filter_append]
    exact List.filter_eq_self.mpr fun y hy => bne_iff_ne.mpr (h.idx_others y hy)
  have hwarp : ownWarps s = insertBy Warp.idx { s.w with frags := [s.f] } (before ++ r :: after) := by
    rw [ownWarps, h.lone, h.warps]
    rfl
  have hgo := focus_own (s := s) (i := r.idx) h.placed h.sole h.mask h.launched
    (hwarp ▸ (find?_insertBy_of_neg (key := Warp.idx) (x := { s.w with frags := [s.f] }) (p := fun y => y.idx == r.idx) hne).trans
      (find?_of_mem h.pairwise (by simp))) h.frags
  rwa [hwarp, filter_insertBy_of_pos (p := fun y => y.idx != r.idx) h.pairwise (by simp [bne, hne]), hdrop] at hgo

/-- And back. -/
theorem focus_returns (h : Neighbours s r g before after) (hg : g'.mask ≠ 0) :
    focus (visiting r g' (before ++ after) s) s.blk.uid s.w.idx s.f.ent =
      { s with blk := { s.blk with warps := before ++ { r with frags := [g'] } :: after } } := by
  have hne : (r.idx == s.w.idx) = false := beq_eq_false_iff_ne.mpr h.idx_ne
  have hplace : insertBy Warp.idx { r with frags := [g'] } (before ++ after) = before ++ { r with frags := [g'] } :: after := by
    rw [insertBy_append (key := Warp.idx) (x := { r with frags := [g'] }) h.idx_before,
      insertBy_of_le (key := Warp.idx) (x := { r with frags := [g'] }) fun y hy => (h.idx_after y hy).le]
  have hwarp : ownWarps (visiting r g' (before ++ after) s) = insertBy Warp.idx { r with frags := [g'] }
      (insertBy Warp.idx { s.w with frags := [s.f] } (before ++ after)) := rfl
  have hback := focus_own (s := visiting r g' (before ++ after) s) (i := s.w.idx) (x := { s.w with frags := [s.f] }) (g := s.f)
    h.placed h.sole hg h.rlaunched (hwarp ▸
      (find?_insertBy_of_neg (key := Warp.idx) (x := { r with frags := [g'] }) (p := fun y => y.idx == s.w.idx) hne).trans
      (find?_insertBy_self (key := Warp.idx) (x := { s.w with frags := [s.f] }) h.own_others)) rfl
  have hw : ({ s.w with frags := [] } : Warp) = s.w := by rw [← h.lone]
  have hrest : (ownWarps (visiting r g' (before ++ after) s)).filter (fun y => y.idx != s.w.idx) =
      before ++ { r with frags := [g'] } :: after :=
    (filter_insertBy_of_pos (key := Warp.idx) (x := { r with frags := [g'] }) (p := fun y => y.idx != s.w.idx)
      (pairwise_insertBy (key := Warp.idx) (x := { s.w with frags := [s.f] }) h.pairwise_others h.own_others)
      (by simp [bne, hne])).trans
      ((congrArg (insertBy Warp.idx { r with frags := [g'] })
        (filter_insertBy_self (key := Warp.idx) (x := { s.w with frags := [s.f] }) h.own_others)).trans hplace)
  exact hback.trans (by rw [hrest, hw]; rfl)

/-- A neighbour's one fragment ends its wait, and the fragment at the front comes back. -/
theorem endAccept_eq (h : Neighbours s r g before after) (hreplay : g.replay = none) : ∃ l, endAccept r.idx g.ent s =
    { s with blk := { s.blk with warps := before ++ { r with frags := [g.woken l] } :: after } } := by
  obtain ⟨l, hwait⟩ := endWait_eq (s := visiting r g (before ++ after) s) hreplay
  refine ⟨l, ?_⟩
  unfold endAccept
  dsimp only
  rw [focus_visits h, hwait]
  exact focus_returns (g' := g.woken l) h h.gmask

end

/-! ### Cells that move to other keys -/

section
variable {w : Nat} {c : List (Nat × BitVec w)}

theorem Cells.get_filter_keys (q : Nat → Bool) (j : Nat) :
    Cells.get (c.filter (fun p => q p.1)) j = if q j then Cells.get c j else 0 := by
  induction c with
  | nil => simp
  | cons p r ih =>
    rw [List.filter_cons]
    by_cases hp : p.1 = j
    · by_cases hq : q p.1
      · rw [if_pos hq, Cells.get_cons, Cells.get_cons, if_pos hp, if_pos hp, if_pos (hp ▸ hq)]
      · rw [if_neg hq, ih, if_neg (hp ▸ hq), if_neg (hp ▸ hq)]
    · rw [Cells.get_cons, if_neg hp, ← ih]
      split
      · rw [Cells.get_cons, if_neg hp]
      · rfl

/-- In canonical form a listed cell is the one that its key reads. -/
theorem Cells.get_of_mem {n : Nat} (h : Cells.wfFrom n c = true) {p : Nat × BitVec w} (hp : p ∈ c) :
    n ≤ p.1 ∧ Cells.get c p.1 = p.2 := by
  induction c generalizing n with
  | nil => cases hp
  | cons a r ih =>
    simp only [Cells.wfFrom, Bool.and_eq_true, decide_eq_true_eq] at h
    obtain ⟨⟨hn, -⟩, hr⟩ := h
    rcases List.mem_cons.mp hp with rfl | hp
    · exact ⟨hn, if_pos rfl⟩
    · obtain ⟨hlt, hget⟩ := ih hr hp
      exact ⟨by omega, (if_neg (by omega)).trans hget⟩

theorem Cells.get_of_not_mem {j : Nat} (h : ∀ p ∈ c, p.1 ≠ j) : Cells.get c j = 0 := by
  induction c with
  | nil => rfl
  | cons a r ih => exact (if_neg (h a (by simp))).trans (ih fun p hp => h p (List.mem_cons_of_mem _ hp))

end

end Sys2Proof.Machine

namespace Sys2Proof.Proofs
open Sys2Proof.Machine hiding Ready
open Sys2Proof.Claims

/-! ### Register donation (14 R399, 05 R167) -/

/-- `racc` sleeps for the warp that it names, at the moment of its first issue. -/
theorem exec_racc {s : State} {sa : BitVec 6} (hr : Ready (.racc sa) s) :
    ∃ t, exec (.racc sa) s = .next t ∧ Sleeps (.accept ((readS s sa.toNat).toNat % 2 ^ 16))
      { s with f := { s.f with count := if s.f.count = 0 then s.tick + 1 else s.f.count } } t := by
  have harm : exec (.racc sa) s = execRacc sa s := rfl
  refine ⟨_, harm.trans (issue_of_ready hr _), ?_⟩
  by_cases hc : s.f.count = 0
  · have hc' : (unheld s).f.count = 0 := hc
    rw [if_pos hc']
    dsimp only
    rw [if_pos hc]
    rfl
  · have hc' : ¬(unheld s).f.count = 0 := hc
    rw [if_neg hc']
    dsimp only
    rw [if_neg hc]
    rfl

/-- A register cell among the highest `n` registers of a warp's allotment. -/
def highest (w : Warp) (n k : Nat) : Bool := decide (32 * (w.allot - n) ≤ k) && decide (k < 32 * w.allot)

/-- The cell above the recipient's allotment that such a cell moves to. -/
def raised (r w : Warp) (n k : Nat) : Nat := k - 32 * (w.allot - n) + 32 * r.allot

/-- A donor without its highest registers. -/
def donorAfter (w : Warp) (n : Nat) : Warp :=
  { w with
    allot := w.allot - n
    v := w.v.filter (fun p => !highest w n p.1)
    lastRead := w.lastRead.filter (fun k => !highest w n k) }

/-- A recipient with the highest registers of the donor `w`. -/
def recipientAfter (r w : Warp) (n : Nat) : Warp :=
  { r with
    allot := r.allot + n
    v := (w.v.filter (fun p => highest w n p.1)).foldl (fun v p => Cells.set v (raised r w n p.1) p.2) r.v
    lastRead := (w.lastRead.filter (highest w n)).foldl (fun l k => addOnce (raised r w n k) l) r.lastRead }

theorem highest_iff {w : Warp} {n k : Nat} : highest w n k = true ↔ 32 * (w.allot - n) ≤ k ∧ k < 32 * w.allot := by
  rw [highest, Bool.and_eq_true, decide_eq_true_eq, decide_eq_true_eq]

/-- The donor keeps its other registers. -/
theorem get_donorAfter {w : Warp} {n j l : Nat} (hl : l < 32) (hj : j < w.allot - n ∨ w.allot ≤ j) :
    Cells.get (donorAfter w n).v (regKey j l) = Cells.get w.v (regKey j l) := by
  have hstays : highest w n (regKey j l) = false := by
    rw [← Bool.not_eq_true, highest_iff, regKey]
    omega
  exact (Cells.get_filter_keys (fun k => !highest w n k) _).trans (if_pos (by rw [hstays]; rfl))

/-- The recipient keeps its registers. -/
theorem get_recipientAfter_own {r w : Warp} {n j l : Nat} (hn : n ≤ w.allot) (hl : l < 32) (hj : j < r.allot ∨ r.allot + n ≤ j) :
    Cells.get (recipientAfter r w n).v (regKey j l) = Cells.get r.v (regKey j l) := by
  refine get_foldl_set_not_mem _ fun p hp => ?_
  obtain ⟨hlow, hhigh⟩ := highest_iff.mp (List.mem_filter.mp hp).2
  rw [raised, regKey]
  omega

/-- And receives the donor's, where the cells above its allotment were empty. -/
theorem get_recipientAfter_moved {r w : Warp} {n j l : Nat} (hwf : Cells.wf w.v = true) (hn : n ≤ w.allot)
    (hclear : Cells.get r.v (regKey (r.allot + j) l) = 0) (hl : l < 32) (hj : j < n) :
    Cells.get (recipientAfter r w n).v (regKey (r.allot + j) l) = Cells.get w.v (regKey (w.allot - n + j) l) := by
  have hmoved : highest w n (regKey (w.allot - n + j) l) = true := by
    rw [highest_iff, regKey]
    omega
  have hkey : ∀ p ∈ w.v.filter (fun p => highest w n p.1), raised r w n p.1 = regKey (r.allot + j) l →
      p.1 = regKey (w.allot - n + j) l := by
    intro p hp h
    obtain ⟨hlow, hhigh⟩ := highest_iff.mp (List.mem_filter.mp hp).2
    rw [raised, regKey] at h
    rw [regKey]
    omega
  have hvalue : ∀ p ∈ w.v.filter (fun p => highest w n p.1), raised r w n p.1 = regKey (r.allot + j) l →
      p.2 = Cells.get w.v (regKey (w.allot - n + j) l) := by
    intro p hp h
    rw [← hkey p hp h]
    exact (Cells.get_of_mem hwf (List.mem_filter.mp hp).1).2.symm
  by_cases hex : ∃ p ∈ w.v, p.1 = regKey (w.allot - n + j) l
  · obtain ⟨p, hp, hpk⟩ := hex
    have hpm : p ∈ w.v.filter (fun p => highest w n p.1) := List.mem_filter.mpr ⟨hp, hpk ▸ hmoved⟩
    have hto : raised r w n p.1 = regKey (r.allot + j) l := by
      rw [hpk, raised, regKey, regKey]
      omega
    exact (get_foldl_set_mem (val := Prod.snd) hpm hto (fun b hb h => (hvalue b hb h).trans (hvalue p hpm hto).symm) _).trans
      (hvalue p hpm hto)
  · have hnone : ∀ p ∈ w.v, p.1 ≠ regKey (w.allot - n + j) l := fun p hp h => hex ⟨p, hp, h⟩
    rw [Cells.get_of_not_mem hnone, ← hclear]
    exact get_foldl_set_not_mem _ fun p hp h => hnone p (List.mem_filter.mp hp).1 (hkey p hp h)

section
variable {s : State} {r : Warp} {g : Frag} {before after : List Warp}

/-- The state in which the donor and the recipient have registers as given. -/
def afterDonation (s : State) (w : Warp) (warps : List Warp) (donation : Nat × Nat × Nat) : State :=
  { s with w := w, blk := { s.blk with warps := warps, donations := s.blk.donations ++ [donation] } }

/-- Only the warp that the donor names receives. -/
theorem donateRegs_eq (n : Nat) (hwarps : s.blk.warps = before ++ r :: after) (hother : ∀ w ∈ before ++ after, w.idx ≠ r.idx) :
    donateRegs r.idx n s =
      afterDonation s (donorAfter s.w n) (before ++ recipientAfter r s.w n :: after) (s.w.idx, r.idx, n / 8) := by
  have hsame : ∀ l : List Warp, (∀ w ∈ l, w.idx ≠ r.idx) → ∀ give : Warp → Warp,
      l.map (fun w => if w.idx != r.idx then w else give w) = l := fun l hl give =>
    (List.map_congr_left fun w hw => if_pos (bne_iff_ne.mpr (hl w hw))).trans (List.map_id l)
  unfold donateRegs
  dsimp only
  rw [hwarps, List.map_append, List.map_cons, hsame before (fun w hw => hother w (List.mem_append_left _ hw)),
    hsame after (fun w hw => hother w (List.mem_append_right _ hw)), if_neg (by simp)]
  rfl

/-- The two stay neighbours. -/
theorem neighbours_donation (h : Neighbours s r g before after) {f : Frag} (hf : f.mask = s.f.mask) (n : Nat)
    (d : Nat × Nat × Nat) : Neighbours
      (afterDonation { s with f := f } (donorAfter s.w n) (before ++ recipientAfter r s.w n :: after) d)
      (recipientAfter r s.w n) g before after := by
  have hidx : (before ++ recipientAfter r s.w n :: after).map Warp.idx = s.blk.warps.map Warp.idx := by
    simp [h.warps, recipientAfter]
  refine ⟨h.placed, h.sole, ?_, h.launched, h.lone, rfl, ?_, fun w hw => ?_, h.frags, h.rlaunched, h.gmask⟩
  · exact fun hzero => h.mask (hf.symm.trans hzero)
  · exact hidx ▸ h.order
  · have hmem := List.mem_map_of_mem (f := Warp.idx) hw
    obtain ⟨x, hx, hxw⟩ := List.mem_map.mp ((congrArg (w.idx ∈ ·) hidx).mp hmem)
    exact hxw ▸ h.own x hx

/-- The donor finds the warp that it names. -/
theorem recipient_found (h : Neighbours s r g before after) (hcore : r.core = s.w.core) (hlive : r.launched ≠ r.exited) :
    (s.w :: s.blk.warps).find? (fun w => w.idx == r.idx && w.core == s.w.core && w.launched != w.exited) = some r := by
  have hbefore : before.find? (fun w => w.idx == r.idx && w.core == s.w.core && w.launched != w.exited) = none :=
    List.find?_eq_none.mpr fun w hw => by simp [(h.idx_before w hw).ne]
  rw [List.find?_cons_of_neg (by simp [h.idx_ne.symm]), h.warps]
  refine List.find?_append.trans ?_
  rw [hbefore, List.find?_cons_of_pos (by simp [hcore, hlive])]
  rfl

/-- `rdon` to a warp whose one fragment has accepted: its registers move, it retires, and the recipient's wait ends. -/
theorem exec_rdon_meets {sa : BitVec 6} {n : BitVec 5} (hr : Ready (.rdon sa n) s) (hn : n ≠ 0)
    (h : Neighbours s r g before after) (hnamed : (readS s sa.toNat).toNat % 2 ^ 16 = r.idx) (hcore : r.core = s.w.core)
    (hlive : r.launched ≠ r.exited) (haccepts : g.hold = .accept s.w.idx) (hexps : s.w.exps = []) (hrexps : r.exps = [])
    (hkeeps : 16 + 8 * n.toNat ≤ s.w.allot) (hroom : r.allot + 8 * n.toNat ≤ 216) :
    exec (.rdon sa n) s =
      .next (endAccept r.idx g.ent (retire (.rdon sa n) (donateRegs r.idx (8 * n.toNat) (unheld s)))) := by
  have harm : exec (.rdon sa n) s = execRdon sa n s := rfl
  have hnamed' : (readS (unheld s) sa.toNat).toNat % 2 ^ 16 = r.idx := hnamed
  have hfound := recipient_found h hcore hlive
  have hfind : ((unheld s).w :: (unheld s).blk.warps).find?
      (fun w => w.idx == r.idx && w.core == (unheld s).w.core && w.launched != w.exited) = some r := hfound
  have hmeets : accepting r (unheld s).w.idx = some g := by
    have hidx : (unheld s).w.idx = s.w.idx := rfl
    simp [accepting, h.frags, haccepts, hidx]
  have hexps' : (unheld s).w.exps = [] := hexps
  have hcond : ¬(decide (r.idx = (unheld s).w.idx) || !(unheld s).w.frags.isEmpty || !lonely r ||
      decide ((unheld s).w.allot < 16 + 8 * n.toNat) || decide (216 < r.allot + 8 * n.toNat)) = true := by
    have hidx : (unheld s).w.idx = s.w.idx := rfl
    have hempty : (unheld s).w.frags = [] := h.lone
    have hallot : (unheld s).w.allot = s.w.allot := rfl
    simp [lonely, hidx, hempty, hallot, h.frags, h.idx_ne, hkeeps, hroom]
  rw [harm, execRdon, issue_of_ready hr]
  refine congrArg Host.Outcome.next ?_
  dsimp only
  rw [hnamed', if_neg hn, hfind]
  dsimp only
  rw [hmeets, hexps', hrexps]
  dsimp only
  rw [if_neg (by simp), rendezvous, if_neg hcond]

/-- An instruction without vector sources stands past its word, and nothing else of what it has done changes. -/
theorem retire_past {i : Instr} {u : State} (h : Machine.State.f u = (started s).f) (hr : s.f.replay = none)
    (ha : (operands u i).va = []) (hb : (operands u i).vb = []) : ∃ l, retire i u = { u with f := s.f.woken l } := by
  have hu : u.f.replay = none := by rw [h]; exact hr
  refine ⟨(retire i u).f.latch, ?_⟩
  rw [retire_of_scalar hu ha hb, retire_f i u hu, h]
  rfl

/-- The donor comes back to the front after the recipient's wait has ended, each with its own fragment. -/
theorem exec_rdon_eq {sa : BitVec 6} {n : BitVec 5} (hr : Ready (.rdon sa n) s) (hn : n ≠ 0)
    (h : Neighbours s r g before after) (hreplay : g.replay = none) (hnamed : (readS s sa.toNat).toNat % 2 ^ 16 = r.idx)
    (hcore : r.core = s.w.core) (hlive : r.launched ≠ r.exited) (haccepts : g.hold = .accept s.w.idx) (hexps : s.w.exps = [])
    (hrexps : r.exps = []) (hkeeps : 16 + 8 * n.toNat ≤ s.w.allot) (hroom : r.allot + 8 * n.toNat ≤ 216) :
    ∃ l l', exec (.rdon sa n) s = .next (afterDonation { s with f := s.f.woken l } (donorAfter s.w (8 * n.toNat))
      (before ++ { recipientAfter r s.w (8 * n.toNat) with frags := [g.woken l'] } :: after) (s.w.idx, r.idx, n.toNat)) := by
  have hexec := exec_rdon_meets hr hn h hnamed hcore hlive haccepts hexps hrexps hkeeps hroom
  rw [donateRegs_eq (s := unheld s) _ h.warps h.idx_others, Nat.mul_div_cancel_left _ (by omega : 0 < 8)] at hexec
  obtain ⟨l, hretire⟩ := retire_past (s := s) (i := .rdon sa n) (u := afterDonation (unheld s) (donorAfter s.w (8 * n.toNat))
    (before ++ recipientAfter r s.w (8 * n.toNat) :: after) (s.w.idx, r.idx, n.toNat)) rfl (replay_of_ready hr) rfl rfl
  obtain ⟨l', hback⟩ := endAccept_eq (neighbours_donation h (f := s.f.woken l) rfl (8 * n.toNat) (s.w.idx, r.idx, n.toNat)) hreplay
  exact ⟨l, l', (hexec.trans (congrArg (fun u => Host.Outcome.next (endAccept r.idx g.ent u)) hretire)).trans
    (congrArg Host.Outcome.next hback)⟩

end

/-- Settles O48: a cell that moves keeps its place from the foot of the registers that move. -/
theorem registersAreDonated : Obligations.RegistersAreDonated := by
  unfold Obligations.RegistersAreDonated
  refine ⟨fun s sa hr => exec_racc hr, ?_⟩
  intro s sa n r g before after k hr hn hst hmask hlaunched hwf hblocks hwarps hsorted hown hnamed hcore hlive hrl hfrags hgmask
    hreplay haccepts hlone hexps hrexps hkeeps hroom hclear
  have hallot : k ≤ s.w.allot := by omega
  have hpair : Neighbours s r g before after := ⟨hst, hblocks, hmask, hlaunched, hlone, hwarps, hsorted, hown, hfrags, hrl, hgmask⟩
  obtain ⟨l, l', hexec⟩ := exec_rdon_eq hr hn hpair hreplay hnamed hcore hlive haccepts hexps hrexps hkeeps hroom
  refine ⟨_, { recipientAfter r s.w k with frags := [g.woken l'] }, g.woken l', hexec, rfl, rfl, rfl, rfl, rfl, rfl, rfl,
    ?_, ?_, ?_, rfl⟩
  · intro j l hj hl
    exact get_recipientAfter_moved hwf hallot (hclear _ (by unfold regKey; omega) (by unfold regKey; omega)) hl hj
  · exact fun j l hl hj => get_donorAfter hl hj
  · exact fun j l hl hj => get_recipientAfter_own hallot hl hj

end Sys2Proof.Proofs

/-!
SUPPORT for O57. What the operations on blocks and grids leave unchanged: running a block, placing one, draining its clusters, a
launch's pieces, and the writes of the front end.
-/
namespace Sys2Proof.Machine

/-! ### Blocks and grids by their numbers -/

theorem find?_map_of_key {α : Type} {p : α → Bool} {f : α → α} (h : ∀ x, p (f x) = p x) (l : List α) :
    (l.map f).find? p = (l.find? p).map f := by
  have hp : p ∘ f = p := funext h
  rw [List.find?_map, hp]

theorem gridAt_gid {s : State} {gid : Nat} {g : Grid} (h : gridAt s gid = some g) : g.gid = gid := by
  simpa using List.find?_some h

/-- A grid that changes, but not its number, is found as it has become. -/
theorem gridAt_updGrid {s : State} {gid : Nat} {g : Grid} {u : Grid → Grid} (hid : ∀ x, (u x).gid = x.gid)
    (h : gridAt s gid = some g) : gridAt (updGrid s gid u) gid = some (u g) := by
  have hkey : ∀ x : Grid, ((if x.gid == gid then u x else x).gid == gid) = (x.gid == gid) := fun x => by
    split
    · rw [hid]
    · rfl
  refine (find?_map_of_key hkey s.grids).trans ?_
  have hfind : s.grids.find? (fun x => x.gid == gid) = some g := h
  rw [hfind, Option.map_some, if_pos (beq_iff_eq.mpr (gridAt_gid h))]

theorem block_uid {s : State} {uid : Nat} {b : Block} (h : s.blocks.find? (fun x => x.uid == uid) = some b) : b.uid = uid := by
  simpa using List.find?_some h

/-- So is a block. -/
theorem find?_updBlock {s : State} {uid : Nat} {b : Block} {u : Block → Block} (hid : ∀ x, (u x).uid = x.uid)
    (h : s.blocks.find? (fun x => x.uid == uid) = some b) :
    (updBlock uid u s).blocks.find? (fun x => x.uid == uid) = some (u b) := by
  have hkey : ∀ x : Block, ((if x.uid == uid then u x else x).uid == uid) = (x.uid == uid) := fun x => by
    split
    · rw [hid]
    · rfl
  refine (find?_map_of_key hkey s.blocks).trans ?_
  rw [h, Option.map_some, if_pos (beq_iff_eq.mpr (block_uid h))]

/-! ### Moments -/

theorem wantCadence_frame (s : State) : wantCadence s = { s with agenda := (wantCadence s).agenda } := by
  unfold wantCadence
  split <;> rfl

theorem wantCadence_due (s : State) : (.cadenceStep, .none) ∈ (wantCadence s).agenda := by
  unfold wantCadence
  split
  · next h => exact List.contains_iff_mem.mp h
  · exact List.mem_append_right _ (List.mem_singleton.mpr rfl)

/-! ### Running a block (06 R204, 04 R144) -/

theorem foldl_push_frame {α : Type} (i : Instr) (a : α → EvArg) (l : List α) (s : State) :
    l.foldl (fun s x => push i (a x) s) s = { s with agenda := (l.foldl (fun s x => push i (a x) s) s).agenda } :=
  List.foldlRecOn (motive := fun t : State => t = { s with agenda := t.agenda }) _ _ rfl fun t h x _ => by
    rw [h]
    rfl

/-- A block that runs. -/
def Block.entered (b : Block) : Block := { b with st := .running }

theorem runBlock_frame (uid : Nat) (s : State) :
    runBlock uid s = { s with
      walks := (runBlock uid s).walks
      agenda := (runBlock uid s).agenda
      blocks := (updBlock uid Block.entered s).blocks } := by
  unfold runBlock
  dsimp only
  rw [foldl_push_frame]
  rfl

/-- A block whose cores run no other enters running. -/
theorem enter_runs {s : State} {uid : Nat} {b : Block} (hb : s.blocks.find? (fun x => x.uid == uid) = some b)
    (hidle : ∀ x ∈ s.blocks, x.st = .running → x.uid ≠ b.uid → ∀ c ∈ b.cores, c ∉ x.cores) : enter uid s = runBlock uid s := by
  have hnone : rivals s b = [] := by
    refine List.filter_eq_nil_iff.mpr fun x hx h => ?_
    simp only [Bool.and_eq_true, beq_iff_eq, bne_iff_ne, List.any_eq_true] at h
    obtain ⟨⟨hst, huid⟩, c, hc, hon, -⟩ := h
    exact hidle x hx hst huid c hc (List.contains_iff_mem.mp hon)
  unfold enter
  rw [hb]
  dsimp only
  rw [hnone]
  rfl

theorem uids_updBlock {s : State} {uid : Nat} {u : Block → Block} (hid : ∀ x, (u x).uid = x.uid) :
    (updBlock uid u s).blocks.map Block.uid = s.blocks.map Block.uid := by
  refine (List.map_map ..).trans (List.map_congr_left fun x _ => ?_)
  dsimp only [Function.comp]
  split
  · exact hid x
  · rfl

/-- Waiting blocks that begin to run keep every block's number and every grid. -/
theorem activate_keeps (s : State) :
    (activate s).blocks.map Block.uid = s.blocks.map Block.uid ∧ (activate s).grids = s.grids := by
  unfold activate
  refine List.foldlRecOn (motive := fun t : State => t.blocks.map Block.uid = s.blocks.map Block.uid ∧ t.grids = s.grids)
    _ _ ⟨rfl, rfl⟩ fun t ⟨huids, hgrids⟩ b _ => ?_
  split
  · rw [runBlock_frame]
    exact ⟨(uids_updBlock (u := Block.entered) fun _ => rfl).trans huids, hgrids⟩
  · exact ⟨huids, hgrids⟩

/-! ### Placing a block (02 R50, 03 R111, 15 R417) -/

theorem drainClusters_home (cs : List Nat) (s : State) : HomeStep s (drainClusters cs s) := writeBackHalf_home ..

theorem freshenClusters_frame (sp : Option Nat) (cs : List Nat) (s : State) :
    freshenClusters sp cs s = { s with
      mem := (freshenClusters sp cs s).mem
      l1 := (freshenClusters sp cs s).l1
      l2 := (freshenClusters sp cs s).l2
      split := (freshenClusters sp cs s).split } := by
  unfold freshenClusters
  dsimp only
  rw [(drainClusters_home ..).frame]
  rfl

theorem takeCores_frame (cores : List Nat) (s : State) :
    takeCores cores s = { s with
      ramp := (takeCores cores s).ramp, stops := (takeCores cores s).stops, agenda := (takeCores cores s).agenda } := by
  unfold takeCores
  dsimp only
  split
  · rfl
  · rw [wantCadence_frame]

theorem coreStops_frame (cores : List Nat) (s : State) :
    coreStops cores s = { s with stops := (coreStops cores s).stops, agenda := (coreStops cores s).agenda } := by
  unfold coreStops
  dsimp only
  split
  · rfl
  · rw [wantCadence_frame]

/-- Room has been made ready on clusters and cores: only memory, the L1 and L2, the scratchpad partition, the ramp and what is due
may have changed. -/
theorem takeCores_freshenClusters_frame (cores : List Nat) (sp : Option Nat) (cl : List Nat) (s : State) :
    ∃ mem l1 l2 split ramp stops agenda, takeCores cores (freshenClusters sp cl s) =
      { s with mem := mem, l1 := l1, l2 := l2, split := split, ramp := ramp, stops := stops, agenda := agenda } := by
  rw [takeCores_frame, freshenClusters_frame]
  exact ⟨_, _, _, _, _, _, _, rfl⟩

/-! ### Draining (03 R111, R117) -/

/-- The L1 without the dirty bytes of a line. -/
theorem writeBack_l1 (s : State) (x : L1Line) : (writeBack s x false).l1 = s.l1.map (fun y =>
    if y.half == x.half && y.asid == x.asid && y.la == x.la then { x with dirty := 0 } else y) := by
  rw [writeBack_whole, l1Keep, l1Write_l1]

/-- A line that lines have been written back around is clean, or is none of them. -/
theorem writeBacks_l1 {l : List L1Line} {s : State} {z : L1Line} (hz : z ∈ (l.foldl (fun s x => writeBack s x false) s).l1) :
    z.dirty = 0 ∨ z ∈ s.l1 ∧ z ∉ l := by
  induction l generalizing s with
  | nil => exact .inr ⟨hz, List.not_mem_nil⟩
  | cons a r ih =>
    rcases ih hz with hclean | ⟨hin, hout⟩
    · exact .inl hclean
    · rw [writeBack_l1] at hin
      obtain ⟨y, hy, rfl⟩ := List.mem_map.mp hin
      by_cases hsame : (y.half == a.half && y.asid == a.asid && y.la == a.la) = true
      · rw [if_pos hsame]
        exact .inl rfl
      · rw [if_neg hsame] at hout ⊢
        refine .inr ⟨hy, fun h => (List.mem_cons.mp h).elim ?_ hout⟩
        rintro rfl
        exact hsame (by simp)

/-- Drained clusters hold no dirty byte. -/
theorem drainClusters_clean {cs : List Nat} {s : State} {x : L1Line} (hx : x ∈ (drainClusters cs s).l1)
    (hon : onClusters cs x = true) : x.dirty = 0 := by
  rcases writeBacks_l1 hx with hclean | ⟨hin, hout⟩
  · exact hclean
  · by_contra hdirty
    exact hout (List.mem_filter.mpr ⟨hin, Bool.and_eq_true _ _ ▸ ⟨hon, bne_iff_ne.mpr hdirty⟩⟩)

/-! ### What keeps every block and launch -/

/-- A grid but for its gear set and a fault of its map. -/
def Grid.bare (g : Grid) : Grid := { g with gear := none, mapFault := none }

/-- Every block is as before, and every grid but for its gear set and its map's fault. -/
structure UnitsKept (s t : State) : Prop where
  blocks : t.blocks = s.blocks
  grids : t.grids.map Grid.bare = s.grids.map Grid.bare

namespace UnitsKept
variable {s t u : State}

theorem refl (s : State) : UnitsKept s s := ⟨rfl, rfl⟩

theorem trans (h : UnitsKept s t) (k : UnitsKept t u) : UnitsKept s u :=
  ⟨k.blocks.trans h.blocks, k.grids.trans h.grids⟩

theorem foldl {α : Type} {f : State → α → State} (hf : ∀ s a, UnitsKept s (f s a)) (l : List α) (s : State) :
    UnitsKept s (l.foldl f s) :=
  List.foldlRecOn (motive := fun t => UnitsKept s t) _ _ (refl s) fun _ h a _ => h.trans (hf _ a)

theorem gridAt_bare (h : UnitsKept s t) (gid : Nat) : (gridAt t gid).map Grid.bare = (gridAt s gid).map Grid.bare := by
  have hfind : ∀ v : State, (gridAt v gid).map Grid.bare = (v.grids.map Grid.bare).find? (fun g => g.gid == gid) :=
    fun v => (List.find?_map (p := fun g : Grid => g.gid == gid) (f := Grid.bare) (l := v.grids)).symm
  rw [hfind, hfind, h.grids]

theorem gridAt_some (h : UnitsKept s t) {gid : Nat} {g : Grid} (hg : gridAt s gid = some g) :
    ∃ x, gridAt t gid = some x ∧ x.bare = g.bare := by
  have hbare := h.gridAt_bare gid
  rw [hg] at hbare
  exact Option.map_eq_some_iff.mp hbare

theorem gridAt_none (h : UnitsKept s t) {gid : Nat} (hg : gridAt s gid = none) : gridAt t gid = none := by
  have hbare := h.gridAt_bare gid
  rw [hg] at hbare
  exact Option.map_eq_none_iff.mp hbare

end UnitsKept

theorem HomeStep.unitsKept {s t : State} (h : HomeStep s t) : UnitsKept s t := by
  rw [h.frame]
  exact ⟨rfl, rfl⟩

theorem PlaceStep.unitsKept {s t : State} (h : PlaceStep s t) : UnitsKept s t := by
  rw [h.frame]
  exact ⟨rfl, rfl⟩

/-! ### Handovers of a launch's pieces (06 R187, R191) -/

theorem updGrid_unitsKept {u : Grid → Grid} (hu : ∀ g, (u g).bare = g.bare) (gid : Nat) (s : State) :
    UnitsKept s (updGrid s gid u) := by
  refine ⟨rfl, (List.map_map ..).trans (List.map_congr_left fun g _ => ?_)⟩
  dsimp only [Function.comp]
  split
  · exact hu g
  · rfl

theorem updGear_unitsKept (gid : Nat) (u : Gear → Gear) (s : State) : UnitsKept s (updGear gid u s) :=
  updGrid_unitsKept (u := fun g => { g with gear := g.gear.map u }) (fun _ => rfl) gid s

theorem mapStart_unitsKept {s t : State} {m : MapRef} {vas : List Nat} (h : mapStart s m vas = .ok t) : UnitsKept s t := by
  unfold mapStart at h
  split at h
  · cases h
  · next ps _ =>
    split at h
    · cases h
    · split at h
      · cases h
        have hleaves : UnitsKept s (keepLeaves s (.mem 1 ps)) := by
          rw [Proofs.keepLeaves_onlyCaches s 1 ps]
          exact ⟨rfl, rfl⟩
        exact hleaves.trans (UnitsKept.foldl (f := fun s (q : Piece) => beforeHome s q.asid q.va)
          (fun s q => (beforeHome_home s q.asid q.va).unitsKept) ps (keepLeaves s (.mem 1 ps)))
      · cases h
        exact .refl _

theorem mapPut_unitsKept (s : State) (m : MapRef) (va v : Nat) : UnitsKept s (mapPut s m va v) := by
  unfold mapPut
  split
  · exact (HomeStep.trans (.ite (dropCopy_home ..) (.refl s)) (homeWrite_home ..)).unitsKept
  · exact .refl s

theorem mapPutN_unitsKept (m : MapRef) (n : Nat) : ∀ (s : State) (va v : Nat), UnitsKept s (mapPutN s m va v n) := by
  induction n with
  | zero => exact fun s _ _ => .refl s
  | succ n ih => exact fun s _ _ => (mapPut_unitsKept ..).trans (ih ..)

theorem moveGrains_unitsKept (m : MapRef) (old dest : Nat) (l : List Nat) :
    ∀ s : State, UnitsKept s (moveGrains m old dest l s).1 := by
  induction l with
  | nil => exact .refl
  | cons g r ih =>
    intro s
    unfold moveGrains
    split
    · exact (mapPut_unitsKept ..).trans (ih _)
    · exact ih s

theorem writeEntry_unitsKept (m : MapRef) (e : Nat) (t : Tile) (buf prog : W64) (cluster : Nat) (s : State) :
    UnitsKept s (writeEntry m e t buf prog cluster s) := by
  have hput := fun n s va v => mapPutN_unitsKept m n s va v
  have hrun := fun (f : Nat → Nat) (v : Nat → Nat) s => UnitsKept.foldl (fun s i => hput 4 s (f i) (v i)) (List.range 4) s
  exact (((((((hput ..).trans (hput ..)).trans (hrun ..)).trans (hrun ..)).trans (hput ..)).trans (hput ..)).trans
    (mapPut_unitsKept ..)).trans (hput ..)

theorem handOver_unitsKept {gid cluster : Nat} {m : MapRef} {t : Tile} {buf prog : W64} {s u : State}
    (h : handOver gid m t buf prog cluster s = .ok u) : UnitsKept s u := by
  unfold handOver at h
  split at h
  · cases h
  · cases h
  · next v hv =>
    split at h
    · cases h
    · dsimp only at h
      split at h
      · cases h
      · cases h
      · next w hw =>
        cases h
        exact ((((mapStart_unitsKept hv).trans (mapStart_unitsKept hw)).trans (writeEntry_unitsKept ..)).trans
          (moveGrains_unitsKept ..)).trans (updGear_unitsKept ..)

theorem handPieces_unitsKept (gid : Nat) (m : MapRef) (cluster : Nat) (l : List Tile) :
    ∀ s : State, UnitsKept s (handPieces gid m cluster l s).s := by
  induction l with
  | nil => exact .refl
  | cons t r ih =>
    intro s
    unfold handPieces
    split
    · next h => exact (handOver_unitsKept h).trans (ih _)
    · exact .refl s

theorem flushCluster_unitsKept (gid cluster : Nat) (s : State) : UnitsKept s (flushCluster gid cluster s) := by
  unfold flushCluster
  split
  · exact .refl s
  · next gr _ =>
    split
    · exact .refl s
    · next g _ =>
      have hpieces := handPieces_unitsKept gid (gr.map false false) cluster
        ((g.queues.filter (fun q => q.1 == cluster)).map Prod.snd) s
      dsimp only
      split
      · exact .refl s
      · split
        · refine .trans ?_ (updGrid_unitsKept ?_ gid _)
          · refine .trans ?_ (updGear_unitsKept ..)
            exact ⟨hpieces.blocks, hpieces.grids⟩
          · exact fun _ => rfl
        · exact hpieces.trans (updGear_unitsKept ..)

/-- A cluster that a launch has left hands its pieces over; no block or launch goes. -/
theorem flushIdle_unitsKept (gid : Nat) (s : State) : UnitsKept s (flushIdle gid s) :=
  .foldl (fun s c => flushCluster_unitsKept gid c s) _ s

/-! ### Writes of the front end (15 R405, R410) -/

theorem queueWrite_unitsKept {x : Queue} {va : W64} {b : List Byte} {s t : State} (h : queueWrite x va b s = .ok t) :
    UnitsKept s t := by
  induction b generalizing va s with
  | nil =>
    cases h
    exact .refl _
  | cons c r ih =>
    unfold queueWrite at h
    cases hw : agentWrite s x.asid va c.toNat 1 with
    | error m =>
      rw [hw] at h
      cases h
    | ok v =>
      rw [hw] at h
      exact (agentWrite_place hw).unitsKept.trans (ih h)

theorem updQueue_unitsKept (q : Nat) (f : Queue → Queue) (s : State) : UnitsKept s (updQueue q f s) := ⟨rfl, rfl⟩

theorem writeStatus_unitsKept (q : Nat) (s : State) : UnitsKept s (writeStatus q s) := by
  unfold writeStatus
  split
  · exact .refl s
  · split
    · exact updQueue_unitsKept ..
    · split
      · next hw => exact queueWrite_unitsKept hw
      · exact updQueue_unitsKept ..

theorem haltQueue_unitsKept (q : Nat) (halting : Nat × Bool) (n code off cause tag gid : Nat) (s : State) :
    UnitsKept s (haltQueue q halting n code off cause tag gid s) := by
  unfold haltQueue
  split
  · exact .refl s
  · refine .trans ?_ (writeStatus_unitsKept ..)
    split
    · exact updQueue_unitsKept ..
    · split
      · next hw => exact (updQueue_unitsKept ..).trans (queueWrite_unitsKept hw)
      · exact updQueue_unitsKept ..

theorem poll_unitsKept (q : Nat) (s : State) : UnitsKept s (poll q s) := by
  unfold poll
  split
  · exact .refl s
  · split
    · exact .refl s
    · split
      · exact ⟨rfl, rfl⟩
      · split
        · exact haltQueue_unitsKept ..
        · split
          · exact ⟨rfl, rfl⟩
          · exact haltQueue_unitsKept ..

theorem wantMap_unitsKept (q : Nat) (s : State) : UnitsKept s (wantMap q s) := by
  unfold wantMap
  split
  · exact .refl s
  · split <;> exact ⟨rfl, rfl⟩

theorem completePacket_unitsKept (q n : Nat) (s : State) : UnitsKept s (completePacket q n s) := by
  unfold completePacket
  refine .trans ?_ ((writeStatus_unitsKept ..).trans (poll_unitsKept ..))
  split
  · exact (updQueue_unitsKept ..).trans (wantMap_unitsKept ..)
  · exact updQueue_unitsKept ..

theorem writeSignal_unitsKept (asid gid : Nat) (va : W64) (v : Nat) (s : State) : UnitsKept s (writeSignal asid gid va v s) := by
  unfold writeSignal
  split
  · exact .refl s
  · split
    · next hw => exact (agentWrite_place hw).unitsKept
    · exact ⟨rfl, rfl⟩

theorem endGraph_unitsKept (id : Nat) (s : State) : UnitsKept s (endGraph id s) := by
  unfold endGraph
  split
  · exact .refl s
  · next g _ =>
    split
    · exact .refl s
    · have hgone : UnitsKept s { s with graphs := s.graphs.filter (fun x => x.id != id) } := ⟨rfl, rfl⟩
      exact (hgone.trans (writeSignal_unitsKept ..)).trans (completePacket_unitsKept ..)

end Sys2Proof.Machine

/-!
O57. The events that start blocks, end them, save them and restore them, and what ends a launch.
-/
namespace Sys2Proof.Proofs
open Sys2Proof.Machine hiding Ready
open Sys2Proof.Claims

/-! ### Moments and turns (06 R200 to R204, 15 R417) -/

/-- The ramp at the end of a 100 ns step: the allowance has grown, and waiting core stops have taken place. -/
def steppedRamp (s : State) : State :=
  { s with
    ramp := (min (rampCap s) (if s.ramp.2 = 0 then s.dev.rampSlope else s.ramp.1 + s.dev.rampSlope), 0)
    stops := stopSome (stopAllowance s) s.stops
    stopSteps := if stopSome (stopAllowance s) s.stops = [] then s.dev.rampStag else s.stopSteps - 1 }

theorem exec_cadenceStep_eq (s : State) : exec .cadenceStep s = .next
    (if s.ramp.2 = 0 ∧ (steppedRamp s).stops = [] then steppedRamp s else wantCadence (steppedRamp s)) := by
  have harm : exec .cadenceStep s = execCadenceStep s := rfl
  have hramp : (if s.ramp.2 = 0 then min (rampCap s) s.dev.rampSlope else min (rampCap s) (s.ramp.1 + s.dev.rampSlope)) =
      min (rampCap s) (if s.ramp.2 = 0 then s.dev.rampSlope else s.ramp.1 + s.dev.rampSlope) := (apply_ite _ _ _ _).symm
  rw [harm, execCadenceStep]
  dsimp only
  rw [hramp]
  simp only [List.isEmpty_iff, Bool.and_eq_true, decide_eq_true_eq]
  rfl

/-- The end of a step: another is due while cores start or wait to stop. -/
theorem exec_cadenceStep (s : State) :
    ∃ t, exec .cadenceStep s = .next t ∧
      t = { s with ramp := t.ramp, stops := t.stops, stopSteps := t.stopSteps, agenda := t.agenda } ∧
      t.ramp = (min (rampCap s) (if s.ramp.2 = 0 then s.dev.rampSlope else s.ramp.1 + s.dev.rampSlope), 0) ∧
      t.stops = stopSome (stopAllowance s) s.stops ∧
      t.stopSteps = (if t.stops = [] then s.dev.rampStag else s.stopSteps - 1) ∧
      (s.ramp.2 = 0 → t.stops = [] → t.agenda = s.agenda) ∧
      (s.ramp.2 ≠ 0 ∨ t.stops ≠ [] → (.cadenceStep, .none) ∈ t.agenda) := by
  rw [exec_cadenceStep_eq]
  split
  · next hidle => exact ⟨_, rfl, rfl, rfl, rfl, rfl, fun _ _ => rfl, fun h => (h.elim (· hidle.1) (· hidle.2)).elim⟩
  · next hbusy =>
    refine ⟨_, rfl, ?_⟩
    have hdue := wantCadence_due (steppedRamp s)
    rw [wantCadence_frame]
    exact ⟨rfl, rfl, rfl, rfl, fun h₁ h₂ => (hbusy ⟨h₁, h₂⟩).elim, fun _ => hdue⟩

/-- The end of a quantum. -/
theorem exec_quantumExpiry {s : State} {uid : Nat} {b : Block} (harg : s.arg = .unit uid)
    (hb : (unfocus s).blocks.find? (fun x => x.uid == uid) = some b) (hst : b.st = .running) :
    let u := unfocus s
    let v := { u with uid := u.uid + 1, grids := u.grids.map (fun g => if g.gid = b.gid then { g with turn := u.uid } else g) }
    exec .quantumExpiry s = .next (
      if shadowed u b (asleep b) = true then activate (shadeBlock uid v)
      else if waiting u b (asleep b) = true then activate (saveBlock uid v)
      else { u with agenda := u.agenda ++ [(.quantumExpiry, .unit uid)] }) := by
  intro u v
  have harm : exec .quantumExpiry s = execQuantumExpiry s := rfl
  have hlast : fresh (updGrid u b.gid (fun g => { g with turn := u.uid })) = v := by
    simp only [fresh, updGrid, beq_iff_eq]
    rfl
  rw [harm, execQuantumExpiry, harg]
  refine congrArg Host.Outcome.next ?_
  change endQuantum uid u = _
  unfold endQuantum
  rw [hb]
  dsimp only
  rw [hst, hlast]
  rfl

/-- Has a node records of a cluster, or in its overflow area? -/
def recordsLeft (g n c : Nat) (t : State) : Bool :=
  match nodeAt t g n with
  | some x => if c < 128 then decide (x.held c ≠ 0) else !x.ovf.isEmpty
  | none => false

theorem ite_ite_not {α : Type} (p q : Bool) (x y : α) :
    (if p = true then if q = true then x else y else x) = if (p && !q) = true then y else x := by
  cases p
  · rfl
  · cases q <;> rfl

/-- A node group starts, and the node is looked at again while it holds records. -/
theorem exec_nodeTimerExpiry {s : State} {g n c : Nat} {nd : Node} (harg : s.arg = .triple g n c)
    (hnode : nodeAt (unfocus s) g n = some nd) :
    let u := unfocus s
    exec .nodeTimerExpiry s = .next (
      let t := if groupDue u nd c then startGroup g n c u else u
      if (recordsLeft g n c t && !t.agenda.contains (.nodeTimerExpiry, .triple g n c)) = true
        then { t with agenda := t.agenda ++ [(.nodeTimerExpiry, .triple g n c)] } else t) := by
  intro u
  have harm : exec .nodeTimerExpiry s = execNodeTimerExpiry s := rfl
  have htry : tryGroup g n c u = if groupDue u nd c then startGroup g n c u else u := by rw [tryGroup, hnode]
  rw [harm, execNodeTimerExpiry, harg]
  refine congrArg Host.Outcome.next ?_
  change nodeTimer g n c u = _
  unfold nodeTimer
  dsimp only
  rw [htry]
  generalize (if groupDue u nd c then startGroup g n c u else u) = t
  unfold wantGroup recordsLeft
  dsimp only
  cases nodeAt t g n with
  | none => rfl
  | some x =>
    have hheld : (x.held c != 0) = decide (x.held c ≠ 0) := (decide_not (p := x.held c = 0)).symm
    dsimp only
    rw [hheld]
    exact ite_ite_not _ _ _ _

/-- The oldest message of a receive queue starts its handler. -/
theorem exec_messageHandlerStart {s : State} {c : Nat} {m : Msg} {g : Grid} {cl : List Nat} {cs : List (Nat × Nat)}
    (harg : s.arg = .unit c) (hm : (unfocus s).recvq.find? (fun m => m.cluster == c) = some m) :
    let u := unfocus s
    let v := { u with recvq := dropMsg (fun x => x.cluster == c) u.recvq }
    gridAt v m.src = some g → g.dead = none → givePlace v g true (handlerPlace v g c) = .at_ cl cs →
    exec .activeMessageHandlerStart s = .next (startHandler g m cl cs v) := by
  intro u v hg hdead hplace
  have harm : exec .activeMessageHandlerStart s = execActiveMessageHandlerStart s := rfl
  have hg' : gridAt u m.src = some g := hg
  rw [harm, execActiveMessageHandlerStart, harg]
  refine congrArg Host.Outcome.next ?_
  change serveMessage c u = _
  unfold serveMessage
  rw [hm]
  dsimp only
  rw [hg']
  dsimp only
  rw [hdead, hplace]
  rfl

/-- A queue whose packet a copy owned is polled again. -/
theorem exec_launchAcceptance {s : State} {q : Nat} (harg : s.arg = .unit q) :
    exec .launchAcceptance s = .next (poll q (unfocus s)) := by
  have harm : exec .launchAcceptance s = execLaunchAcceptance s := rfl
  rw [harm, execLaunchAcceptance, harg]

/-! ### Saved blocks (07 R217 to R220) -/

theorem exec_blockRestore_eq {s : State} {uid : Nat} (harg : s.arg = .unit uid) :
    exec .blockRestore s = .next (restoreBlock uid (unfocus s)) := by
  have harm : exec .blockRestore s = execBlockRestore s := rfl
  rw [harm, execBlockRestore, harg]

/-- A leaving block that has settled streams out, its clusters' L1 drained. -/
theorem exec_blockRestore_leaving {s : State} {uid : Nat} {b : Block} {g : Grid} (harg : s.arg = .unit uid)
    (hb : (unfocus s).blocks.find? (fun x => x.uid == uid) = some b) (hg : gridAt (unfocus s) b.gid = some g)
    (hst : b.st = .leaving) (hsettled : settled (unfocus s) uid = true) :
    ∃ t b', exec .blockRestore s = .next t ∧ (.blockRestore, .unit uid) ∈ t.agenda ∧
      t.blocks.find? (fun x => x.uid == uid) = some b' ∧ b' = { b with st := .saved } ∧
      ∀ x ∈ t.l1, b.clusters.contains (x.half / 2) = true → x.dirty = 0 := by
  have hrun : restoreBlock uid (unfocus s) = push .blockRestore (.unit uid) (coreStops b.cores
      (updBlock uid (fun b => { b with st := .saved }) (drainClusters b.clusters (unfocus s)))) := by
    unfold restoreBlock
    rw [hb]
    dsimp only
    rw [hg, hst, hsettled]
    rfl
  have hdrained : (drainClusters b.clusters (unfocus s)).blocks.find? (fun x => x.uid == uid) = some b := by
    rw [(drainClusters_home ..).unitsKept.blocks]
    exact hb
  refine ⟨_, { b with st := .saved }, (exec_blockRestore_eq harg).trans (congrArg Host.Outcome.next hrun), ?_⟩
  rw [coreStops_frame]
  exact ⟨List.mem_append_right _ (List.mem_singleton.mpr rfl),
    find?_updBlock (u := fun b => { b with st := .saved }) (fun _ => rfl) hdrained, rfl,
    fun x hx hon => drainClusters_clean hx hon⟩

/-- A saved block as it is placed again. -/
def replaced (g : Grid) (b : Block) (cl : List Nat) (cs : List (Nat × Nat)) (turn : Nat) (x : Block) : Block :=
  { x with st := .shadow, turn := turn, clusters := cl, cores := cs.map Prod.fst, slots := cs.map Prod.snd,
           warps := x.warps.map (fun w =>
             { w with core := (warpCores (cs.map Prod.fst) (coreLoads g (savedNeed b))).getD w.idx 0 }) }

/-- A restored block runs where no other runs on its cores. -/
theorem restoreAt_runs {s : State} {g : Grid} {b : Block} {cl : List Nat} {cs : List (Nat × Nat)}
    (hb : s.blocks.find? (fun x => x.uid == b.uid) = some b) (hidle : ∀ x ∈ s.blocks, x.st = .running → ∀ c ∈ cs, c.1 ∉ x.cores) :
    (replaced g b cl cs s.uid b).entered ∈ (restoreAt g b cl cs s).blocks := by
  obtain ⟨mem, l1, l2, split, ramp, stops, agenda, hroom⟩ :=
    takeCores_freshenClusters_frame (cs.map Prod.fst) (some (launchSplit g)) cl s
  unfold restoreAt
  dsimp only
  rw [hroom]
  generalize hv : fresh _ = v
  have hblocks : v.blocks = (updBlock b.uid (replaced g b cl cs s.uid) s).blocks := by rw [← hv]; rfl
  have hfind : v.blocks.find? (fun x => x.uid == b.uid) = some (replaced g b cl cs s.uid b) := by
    rw [hblocks]
    exact find?_updBlock (u := replaced g b cl cs s.uid) (fun _ => rfl) hb
  have hothers : ∀ x ∈ v.blocks, x.st = .running → x.uid ≠ b.uid → ∀ c ∈ cs.map Prod.fst, c ∉ x.cores := by
    intro x hx hrun huid c hc
    rw [hblocks] at hx
    obtain ⟨y, hy, rfl⟩ := List.mem_map.mp hx
    obtain ⟨k, hk, rfl⟩ := List.mem_map.mp hc
    by_cases hsame : (y.uid == b.uid) = true
    · rw [if_pos hsame] at huid
      exact (huid (beq_iff_eq.mp hsame)).elim
    · rw [if_neg hsame] at hrun ⊢
      exact hidle y hy hrun k hk
  rw [enter_runs hfind hothers, runBlock_frame]
  exact List.mem_of_find?_eq_some (find?_updBlock (u := Block.entered) (fun _ => rfl) hfind)

/-- A saved block with something to do is restored where it finds a place. -/
theorem exec_blockRestore_saved {s : State} {uid : Nat} {b : Block} {g : Grid} {cl : List Nat} {cs : List (Nat × Nat)}
    (harg : s.arg = .unit uid) (hb : (unfocus s).blocks.find? (fun x => x.uid == uid) = some b)
    (hg : gridAt (unfocus s) b.gid = some g) (hst : b.st = .saved) (hwakes : wakened (unfocus s) b = true)
    (hplace : givePlace (unfocus s) g false (findPlace (unfocus s) allClusters g (savedNeed b)) = .at_ cl cs) :
    exec .blockRestore s = .next (restoreAt g b cl cs (unfocus s)) := by
  refine (exec_blockRestore_eq harg).trans (congrArg Host.Outcome.next ?_)
  unfold restoreBlock
  rw [hb]
  dsimp only
  rw [hg, hst, hwakes]
  dsimp only
  rw [hplace]
  rfl

/-! ### The start of a block (06 R176, R177) -/

/-- A placed block whose cores run no other runs; its grid counts it. -/
theorem startBlock_runs {s : State} {g : Grid} {sp : Option Nat} {t : Nat} {xyz : Nat × Nat × Nat} {n : Need} {cl : List Nat}
    {cs : List (Nat × Nat)} {entry s1 s2 s3 : W64} (hnew : ∀ x ∈ s.blocks, x.uid < s.uid)
    (hidle : ∀ x ∈ s.blocks, x.st = .running → ∀ c ∈ cs, c.1 ∉ x.cores) :
    let v := startBlock g sp t xyz n cl cs entry s1 s2 s3 id s
    (newBlock s g t xyz n cl cs entry s1 s2 s3).entered ∈ v.blocks ∧ v.ready = s.ready ∧
      v.grids = (updGrid s g.gid (fun g => { g with live := g.live + 1 })).grids := by
  intro v
  obtain ⟨mem, l1, l2, split, ramp, stops, agenda, hroom⟩ := takeCores_freshenClusters_frame (cs.map Prod.fst) sp cl s
  let b := newBlock s g t xyz n cl cs entry s1 s2 s3
  have hv : v = enter b.uid (updGrid (fresh { s with
      mem := mem, l1 := l1, l2 := l2, split := split, ramp := ramp, stops := stops, agenda := agenda
      blocks := insertBy Block.uid b s.blocks }) g.gid (fun g => { g with live := g.live + 1 })) := by
    dsimp only [v]
    unfold startBlock
    dsimp only [id]
    have hcores : (newBlock s g t xyz n cl cs entry s1 s2 s3).cores = cs.map Prod.fst := rfl
    rw [hcores, hroom]
  have hfind : (insertBy Block.uid b s.blocks).find? (fun x => x.uid == b.uid) = some b :=
    find?_insertBy_self fun x hx => (hnew x hx).ne
  have hothers : ∀ x ∈ insertBy Block.uid b s.blocks, x.st = .running → x.uid ≠ b.uid → ∀ c ∈ b.cores, c ∉ x.cores := by
    intro x hx hrun huid c hc
    obtain ⟨k, hk, rfl⟩ := List.mem_map.mp hc
    rcases mem_insertBy.mp hx with rfl | hx
    · exact (huid rfl).elim
    · exact hidle x hx hrun k hk
  rw [hv, enter_runs (b := b) hfind hothers, runBlock_frame]
  exact ⟨List.mem_of_find?_eq_some (find?_updBlock (u := Block.entered) (fun _ => rfl) hfind), rfl, rfl⟩

/-- A bench that takes a grid's next block has room for it. -/
theorem nextBench_room {s : State} {g : Grid} {n : Nat} (h : nextBench s g = some n) : benchHeld s n < 16 := by
  have hin : ∀ k, nextBench s g = some k →
      k ∈ (((placementSet g).map (· / 8)).eraseDups).filter (fun b => decide (benchHeld s b < 16)) := by
    refine List.foldlRecOn (motive := fun a : Option Nat => ∀ k, a = some k → k ∈ _) _ _ (fun k hk => by cases hk) ?_
    intro a ha b hb k hk
    split at hk
    · obtain rfl := Option.some.inj hk
      exact hb
    · split at hk
      · obtain rfl := Option.some.inj hk
        exact hb
      · exact ha k hk
  exact of_decide_eq_true (List.mem_filter.mp (hin n h)).2

/-- Passing a grid's next block on: at most that block becomes ready. -/
theorem passNext_ready {s : State} {g : Grid} {x : Machine.Ready} (hx : x ∈ (passNext g s).ready) :
    x ∈ s.ready ∨ x.gid = g.gid ∧ x.lin = g.next ∧ (s.ready.filter (fun y => y.bench == x.bench)).length < 16 := by
  unfold passNext at hx
  split at hx
  · exact .inl hx
  · split at hx
    · exact .inl hx
    · next n hn =>
      rcases List.mem_append.mp hx with hx | hx
      · exact .inl hx
      · obtain rfl := List.mem_singleton.mp hx
        exact .inr ⟨rfl, rfl, nextBench_room hn⟩

/-- A grid whose next block has been passed on where a bench takes it. -/
def passedOn (s : State) (g : Grid) : Grid :=
  { g with next := g.next + (if g.next < g.total ∧ (nextBench s g).isSome = true then 1 else 0) }

/-- The grid that it belongs to has passed it on. -/
theorem passNext_gridAt {s : State} {g : Grid} {gid : Nat} (hg : gridAt s gid = some g) :
    gridAt (passNext g s) gid = some (passedOn s g) := by
  unfold passNext passedOn
  by_cases hdone : g.total ≤ g.next
  · rw [if_pos hdone, if_neg fun h => Nat.not_lt.mpr hdone h.1]
    exact hg
  · rw [if_neg hdone]
    cases hn : nextBench s g with
    | none =>
      rw [if_neg fun h => Bool.false_ne_true h.2]
      exact hg
    | some n =>
      rw [if_pos ⟨Nat.lt_of_not_le hdone, rfl⟩]
      obtain rfl : g.gid = gid := gridAt_gid hg
      exact gridAt_updGrid (s := { s with ready := s.ready ++ [{ bench := n, gid := g.gid, lin := g.next }] })
        (u := fun g => { g with next := g.next + 1 }) (fun _ => rfl) hg

/-- Nothing but what is ready and the grids changes. -/
theorem passNext_frame (s : State) (g : Grid) :
    passNext g s = { s with ready := (passNext g s).ready, grids := (passNext g s).grids } := by
  unfold passNext
  split
  · rfl
  · split <;> rfl

/-- Each warp of a new block stands at the entry, its registers as a start leaves them. -/
theorem newBlock_warps {s : State} {g : Grid} {t : Nat} {xyz : Nat × Nat × Nat} {n : Need} {cl : List Nat} {cs : List (Nat × Nat)}
    {entry s1 s2 s3 : W64} {w : Warp} (hw : w ∈ (newBlock s g t xyz n cl cs entry s1 s2 s3).entered.warps) :
    Cells.get w.s 1 = s1 ∧ Cells.get w.s 2 = s2 ∧ Cells.get w.s 3 = s3 ∧ (∀ k, 3 < k → Cells.get w.s k = 0) ∧ w.v = [] ∧ w.p = [] ∧
      w.allot = g.allot ∧ w.tvec = BitVec.ofNat 64 (g.fld 0x38 8 / 8 * 8) ∧ w.pool = s.poolTable ∧
      ∃ f, w.frags = [f] ∧ f.pc = entry ∧ f.mask = w.launched ∧ f.mode = 0 ∧ f.sup = false := by
  obtain ⟨j, -, rfl⟩ := List.mem_map.mp hw
  dsimp only [newWarp]
  refine ⟨?_, ?_, ?_, fun k hk => ?_, rfl, rfl, rfl, rfl, rfl, _, rfl, rfl, rfl, rfl, rfl⟩
  · simp [Cells.get_set]
  · simp [Cells.get_set]
  · simp [Cells.get_set]
  · rw [Cells.get_set, if_neg (by omega), Cells.get_set, if_neg (by omega), Cells.get_set, if_neg (by omega)]
    rfl

/-- A block's place in its grid, from its number. -/
theorem place_of_number (n x y : Nat) : n % x + x * (n / x % y + y * (n / (x * y))) = n := by
  rw [← Nat.div_div_eq_div_mul, Nat.mod_add_div, Nat.mod_add_div]

/-- The launch's block `r`, where it starts. -/
def launched (g : Grid) (r : Machine.Ready) (cl : List Nat) (cs : List (Nat × Nat)) (s : State) : State :=
  startBlock g (some (launchSplit g)) g.threads
    (r.lin % g.fld 0x08 4, r.lin / g.fld 0x08 4 % g.fld 0x0C 4, r.lin / (g.fld 0x08 4 * g.fld 0x0C 4)) g.need cl cs
    (BitVec.ofNat 64 (g.fld 0x00 8)) (BitVec.ofNat 64 (g.fld 0x28 8)) g.recVa 0 id { s with ready := s.ready.filter (· != r) }

/-- A block that finds a place starts, and the grid's next block is looked at. -/
theorem exec_blockStart_eq {s : State} {gid : Nat} {g : Grid} {r : Machine.Ready} {cl : List Nat} {cs : List (Nat × Nat)}
    (harg : s.arg = .unit gid) (hg : gridAt (unfocus s) gid = some g) (hwaits : waitsToStart (unfocus s) g = true) :
    let v := passNext g (unfocus s)
    v.ready.find? (fun x => x.gid == gid) = some r → givePlace v g true (findPlace v (placementSet g) g g.need) = .at_ cl cs →
    exec .blockStart s = .next (push .blockStart (.unit gid) (launched g r cl cs v)) := by
  intro v hr hplace
  have harm : exec .blockStart s = execBlockStart s := rfl
  rw [harm, execBlockStart, harg]
  refine congrArg Host.Outcome.next ?_
  dsimp only
  unfold startNext
  rw [hg]
  dsimp only
  rw [hwaits, hr]
  dsimp only
  rw [hplace]
  rfl

/-- Where its warps stand, and what the grid and the bench still hold. -/
theorem exec_blockStart {s : State} {gid : Nat} {g : Grid} {r : Machine.Ready} {cl : List Nat} {cs : List (Nat × Nat)}
    (harg : s.arg = .unit gid) :
    let u := unfocus s
    let v := passNext g u
    gridAt u gid = some g → waitsToStart u g = true → v.ready.find? (fun x => x.gid == gid) = some r →
    givePlace v g true (findPlace v (placementSet g) g g.need) = .at_ cl cs → (∀ x ∈ u.blocks, x.uid < u.uid) →
    (∀ x ∈ u.blocks, x.st = .running → ∀ c ∈ cs, c.1 ∉ x.cores) →
    ∃ t b g', exec .blockStart s = .next t ∧ b ∈ t.blocks ∧ b.uid = u.uid ∧ b.gid = gid ∧ b.st = .running ∧ b.clusters = cl ∧
      b.cores = cs.map Prod.fst ∧ b.warps.length = g.need.warps ∧
      b.bx + g.fld 0x08 4 * (b.byy + g.fld 0x0C 4 * b.bz) = r.lin ∧
      (∀ w ∈ b.warps, Cells.get w.s 1 = BitVec.ofNat 64 (g.fld 0x28 8) ∧ Cells.get w.s 2 = g.recVa ∧ Cells.get w.s 3 = 0 ∧
        (∀ n, 3 < n → Cells.get w.s n = 0) ∧ w.v = [] ∧ w.p = [] ∧ w.allot = g.allot ∧
        w.tvec = BitVec.ofNat 64 (g.fld 0x38 8 / 8 * 8) ∧ w.pool = u.poolTable ∧
        ∃ f, w.frags = [f] ∧ f.pc = BitVec.ofNat 64 (g.fld 0x00 8) ∧ f.mask = w.launched ∧ f.mode = 0 ∧ f.sup = false) ∧
      t.ready = v.ready.filter (· != r) ∧
      (∀ x ∈ v.ready, x ∈ u.ready ∨ (x.gid = gid ∧ x.lin = g.next ∧ (u.ready.filter (fun y => y.bench == x.bench)).length < 16)) ∧
      gridAt t gid = some g' ∧ g'.live = g.live + 1 ∧
      g'.next = g.next + (if g.next < g.total ∧ (nextBench u g).isSome = true then 1 else 0) ∧
      (.blockStart, .unit gid) ∈ t.agenda := by
  intro u v hg hwaits hr hplace hnew hidle
  obtain rfl : g.gid = gid := gridAt_gid hg
  have hexec : exec .blockStart s = .next (push .blockStart (.unit g.gid) (launched g r cl cs v)) :=
    exec_blockStart_eq harg hg hwaits hr hplace
  clear_value u
  have hframe : v = { u with ready := v.ready, grids := v.grids } := passNext_frame u g
  have hblocks : v.blocks = u.blocks := by rw [hframe]
  have huid : v.uid = u.uid := by rw [hframe]
  have hpool : v.poolTable = u.poolTable := by rw [hframe]
  obtain ⟨hin, hready, hgrids⟩ := startBlock_runs (s := { v with ready := v.ready.filter (· != r) }) (g := g)
    (sp := some (launchSplit g)) (t := g.threads)
    (xyz := (r.lin % g.fld 0x08 4, r.lin / g.fld 0x08 4 % g.fld 0x0C 4, r.lin / (g.fld 0x08 4 * g.fld 0x0C 4))) (n := g.need)
    (cl := cl) (cs := cs) (entry := BitVec.ofNat 64 (g.fld 0x00 8)) (s1 := BitVec.ofNat 64 (g.fld 0x28 8)) (s2 := g.recVa)
    (s3 := 0)
    (fun x hx => by rw [huid]; exact hnew x (hblocks ▸ hx)) (fun x hx => hidle x (hblocks ▸ hx))
  have hnext := gridAt_updGrid (s := v) (u := fun g => { g with live := g.live + 1 }) (fun _ => rfl) (passNext_gridAt hg)
  refine ⟨_, _, { passedOn u g with live := g.live + 1 }, hexec, hin, huid, rfl, rfl, rfl, rfl, ?_, place_of_number ..,
    fun w hw => ?_, hready, fun x hx => passNext_ready hx, ?_, rfl, rfl,
    List.mem_append_right _ (List.mem_singleton.mpr rfl)⟩
  · exact (List.length_map _).trans List.length_range
  · obtain ⟨h1, h2, h3, hrest, hv, hp, hallot, htvec, hpoolw, hfrag⟩ := newBlock_warps hw
    exact ⟨h1, h2, h3, hrest, hv, hp, hallot, htvec, hpoolw.trans hpool, hfrag⟩
  · refine Eq.trans ?_ hnext
    exact congrArg (List.find? (fun x => x.gid == g.gid)) hgrids

/-! ### The end of blocks and grids (10 R284, 05 R169, 15 R414) -/

/-- A block that has ended with nothing outstanding goes. -/
def blockGone (uid : Nat) (b : Block) (s : State) : State :=
  let v := drainClusters b.clusters s
  updGrid { v with blocks := v.blocks.filter (fun x => x.uid != uid), opc := v.opc.filter (fun o => o.blk != uid) } b.gid
    (fun g => { g with live := g.live - 1 })

theorem exec_blockEnd_eq {s : State} {uid : Nat} {b : Block} (harg : s.arg = .unit uid) :
    let u := dropFaults uid (unfocus s)
    u.blocks.find? (fun x => x.uid == uid) = some b → b.st ≠ .escalated → blockOver u b = true →
    exec .blockEnd s = .next (push .gridRetirement (.unit b.gid)
      (activate (flushIdle b.gid (coreStops b.cores (blockGone uid b u))))) := by
  intro u hb hst hover
  have harm : exec .blockEnd s = execBlockEnd s := rfl
  rw [harm, execBlockEnd, harg]
  refine congrArg Host.Outcome.next ?_
  dsimp only
  unfold endBlock
  dsimp only
  rw [hb]
  dsimp only
  rw [if_neg hst, hover]
  rfl

theorem exec_blockEnd {s : State} {uid : Nat} {b : Block} {g : Grid} (harg : s.arg = .unit uid) :
    let u := dropFaults uid (unfocus s)
    u.blocks.find? (fun x => x.uid == uid) = some b → b.st ≠ .escalated → blockOver u b = true → gridAt u b.gid = some g →
    ∃ t g', exec .blockEnd s = .next t ∧ (∀ x ∈ t.blocks, x.uid ≠ uid) ∧ gridAt t b.gid = some g' ∧ g'.live = g.live - 1 ∧
      g'.next = g.next ∧ (.gridRetirement, .unit b.gid) ∈ t.agenda := by
  intro u hb hst hover hg
  have hexec : exec .blockEnd s = .next (push .gridRetirement (.unit b.gid)
      (activate (flushIdle b.gid (coreStops b.cores (blockGone uid b u))))) := exec_blockEnd_eq harg hb hst hover
  clear_value u
  have hdrain := (drainClusters_home b.clusters u).frame
  have hgrid : gridAt (blockGone uid b u) b.gid = some { g with live := g.live - 1 } := by
    refine gridAt_updGrid (u := fun g => { g with live := g.live - 1 }) (fun _ => rfl) ?_
    rw [hdrain]
    exact hg
  have hkept : UnitsKept (blockGone uid b u) (flushIdle b.gid (coreStops b.cores (blockGone uid b u))) := by
    refine .trans ?_ (flushIdle_unitsKept ..)
    rw [coreStops_frame]
    exact ⟨rfl, rfl⟩
  obtain ⟨g', hg', hbare⟩ := hkept.gridAt_some hgrid
  obtain ⟨huids, hgrids⟩ := activate_keeps (flushIdle b.gid (coreStops b.cores (blockGone uid b u)))
  have hlive := congrArg Grid.live hbare
  have hnext := congrArg Grid.next hbare
  refine ⟨_, g', hexec, fun x hx huid => ?_, ?_, hlive, hnext,
    List.mem_append_right _ (List.mem_singleton.mpr rfl)⟩
  · have hmem := List.mem_map_of_mem (f := Block.uid) hx
    rw [push_blocks, huids, hkept.blocks] at hmem
    obtain ⟨y, hy, hyx⟩ := List.mem_map.mp hmem
    exact bne_iff_ne.mp (List.mem_filter.mp hy).2 (hyx.trans huid)
  · exact (congrArg (List.find? (fun x : Grid => x.gid == b.gid)) hgrids).trans hg'

/-- What a grid that no fault ended leaves to its graph or its packet. -/
theorem packetOver_of_alive {g : Grid} (hdead : g.dead = none) (s : State) : packetOver g s =
    match g.graph, g.queue with
    | some id, _ => endGraph id s
    | none, some (q, n) => completePacket q n s
    | none, none => s := by
  unfold packetOver
  rw [hdead]
  cases g.queue with
  | some x => rfl
  | none => cases (g.graph.bind (graphAt s)).map Graph.queue <;> rfl

theorem packetOver_unitsKept {g : Grid} (hdead : g.dead = none) (s : State) : UnitsKept s (packetOver g s) := by
  rw [packetOver_of_alive hdead]
  split
  · exact endGraph_unitsKept ..
  · exact completePacket_unitsKept ..
  · exact .refl s

/-- The module without a grid. -/
def withoutGrid (gid : Nat) (s : State) : State := { s with grids := s.grids.filter (fun x => x.gid != gid) }

theorem withoutGrid_blocks (gid : Nat) (s : State) : (withoutGrid gid s).blocks = s.blocks := rfl

theorem gridAt_withoutGrid (gid : Nat) (s : State) : gridAt (withoutGrid gid s) gid = none :=
  List.find?_eq_none.mpr fun _ hx h => bne_iff_ne.mp (List.mem_filter.mp hx).2 (beq_iff_eq.mp h)

/-- The module in which a grid has written its signal. -/
def signalled (g : Grid) (s : State) : State := writeSignal g.asid g.gid (BitVec.ofNat 64 (g.fld 0xF8 8)) (signalValue g) s

theorem signalled_blocks (g : Grid) (s : State) : (signalled g s).blocks = s.blocks := (writeSignal_unitsKept ..).blocks

theorem signalled_of_write {g : Grid} {s x : State} (hva : BitVec.ofNat 64 (g.fld 0xF8 8) ≠ 0) (hdead : g.dead = none)
    (hmap : g.mapFault = none) (hwrite : agentWrite s g.asid (BitVec.ofNat 64 (g.fld 0xF8 8)) 1 8 = .ok x) :
    signalled g s = x := by
  unfold signalled writeSignal signalValue
  rw [if_neg hva, hdead, hmap]
  dsimp only
  rw [hwrite]

/-- Its parent counts one child less, and may follow. -/
def parentLooked (g : Grid) (s : State) : State :=
  match g.parent with
  | some p => push .gridRetirement (.unit p) (updGrid s p (fun x => { x with children := x.children - 1 }))
  | none => s

theorem gridAt_parentLooked {g : Grid} {s : State} {gid : Nat} (h : gridAt s gid = none) :
    gridAt (parentLooked g s) gid = none := by
  unfold parentLooked
  split
  · next p _ =>
    have hkey : ∀ x : Grid, ((if x.gid == p then { x with children := x.children - 1 } else x).gid == gid) = (x.gid == gid) :=
      fun x => by split <;> rfl
    refine (find?_map_of_key hkey s.grids).trans ?_
    have hfind : s.grids.find? (fun x => x.gid == gid) = none := h
    rw [hfind]
    rfl
  · exact h

theorem parentLooked_keeps (g : Grid) (s : State) :
    (parentLooked g s).blocks = s.blocks ∧ (parentLooked g s).mem = s.mem ∧ (parentLooked g s).l2 = s.l2 := by
  unfold parentLooked
  split <;> exact ⟨rfl, rfl, rfl⟩

theorem retireGrid_eq {s : State} {g : Grid} (hg : gridAt s g.gid = some g) (hretired : g.retired = false) (hdead : g.dead = none)
    (hover : gridOver s g = true) (hheld : signalHeld s g = false) (hblocks : ∀ b ∈ s.blocks, b.gid ≠ g.gid) :
    retireGrid g.gid s = parentLooked g (packetOver g (withoutGrid g.gid (signalled g s))) := by
  have hnone : (signalled g s).blocks.any (fun b => b.gid == g.gid) = false := by
    rw [signalled_blocks]
    exact List.any_eq_false.mpr fun b hb h => hblocks b hb (beq_iff_eq.mp h)
  unfold signalled at hnone
  unfold retireGrid
  rw [hg]
  dsimp only
  rw [hretired, hover, hheld, hdead]
  dsimp only [Option.isSome]
  simp only [Bool.not_true, Bool.or_false, Bool.false_eq_true, if_false, hnone]
  rfl

/-- A grid that has ended leaves, its signal written. -/
theorem exec_gridRetirement {s : State} {gid : Nat} {g : Grid} (harg : s.arg = .unit gid) :
    let u := activate (unfocus s)
    gridAt u gid = some g → g.retired = false → g.dead = none → gridOver u g = true → signalHeld u g = false →
    (∀ b ∈ u.blocks, b.gid ≠ gid) →
    ∃ t, exec .gridRetirement s = .next t ∧ gridAt t gid = none ∧ t.blocks = u.blocks ∧
      (∀ p, g.parent = some p → (.gridRetirement, .unit p) ∈ t.agenda) ∧
      ∀ x va, va = BitVec.ofNat 64 (g.fld 0xF8 8) → va ≠ 0 → g.queue = none → g.graph = none → g.mapFault = none →
        agentWrite u g.asid va 1 8 = .ok x → t.mem = x.mem ∧ t.l2 = x.l2 := by
  intro u hg hretired hdead hover hheld hblocks
  obtain rfl : g.gid = gid := gridAt_gid hg
  have harm : exec .gridRetirement s = execGridRetirement s := rfl
  have hexec : exec .gridRetirement s = .next (parentLooked g (packetOver g (withoutGrid g.gid (signalled g u)))) := by
    rw [harm, execGridRetirement, harg]
    exact congrArg Host.Outcome.next (retireGrid_eq hg hretired hdead hover hheld hblocks)
  clear_value u
  have hkept := packetOver_unitsKept hdead (withoutGrid g.gid (signalled g u))
  obtain ⟨hb, hmem, hl2⟩ := parentLooked_keeps g (packetOver g (withoutGrid g.gid (signalled g u)))
  refine ⟨_, hexec, gridAt_parentLooked (hkept.gridAt_none (gridAt_withoutGrid ..)), ?_, fun p hp => ?_, ?_⟩
  · rw [hb, hkept.blocks, withoutGrid_blocks, signalled_blocks]
  · unfold parentLooked
    rw [hp]
    exact List.mem_append_right _ (List.mem_singleton.mpr rfl)
  · intro x va hva hne hqueue hgraph hmap hwrite
    subst hva
    rw [hmem, hl2, packetOver_of_alive hdead, hgraph, hqueue, signalled_of_write hne hdead hmap hwrite]
    exact ⟨rfl, rfl⟩

/-- Settles O57, an event at a time. -/
theorem blocksStartAndEnd : Obligations.BlocksStartAndEnd := by
  unfold Obligations.BlocksStartAndEnd
  refine ⟨fun s gid g r cl cs harg => exec_blockStart harg, exec_cadenceStep, fun s uid b g harg => exec_blockEnd harg,
    fun s gid g harg => exec_gridRetirement harg, fun s uid b harg => exec_quantumExpiry harg,
    fun s uid b g harg => exec_blockRestore_leaving harg, ?_, fun s g n c nd harg => exec_nodeTimerExpiry harg,
    fun s c m g cl cs harg => exec_messageHandlerStart harg, fun s q harg => exec_launchAcceptance harg⟩
  intro s uid b g cl cs harg u hb hg hst hwakes hplace
  obtain rfl : b.uid = uid := block_uid hb
  exact ⟨_, exec_blockRestore_saved harg hb hg hst hwakes hplace, rfl, fun _ hidle =>
    ⟨_, restoreAt_runs hb hidle, rfl, rfl, rfl, rfl, rfl, rfl, rfl⟩⟩

end Sys2Proof.Proofs

/-!
SUPPORT. Launches and messages: what the acceptance of a record leaves of the state, and where a message goes.
-/
namespace Sys2Proof.Machine

/-! ### Accepted launches (06 R172 to R177) -/

theorem writeDepth_home (s : State) (q : LaunchReq) : HomeStep s (writeDepth s q) := by
  unfold writeDepth
  split
  · exact .refl s
  · exact .ite (.refl s) (.ite (homeWrite_home ..) (homeStore_home ..))

/-- A record that fails is not accepted. -/
theorem checkRecord_error {s t : State} {q : LaunchReq} {gid : Nat} : checkRecord s q ≠ .error (.ok t gid) := by
  unfold checkRecord
  split
  · nofun
  · split
    · nofun
    · split
      · nofun
      · nofun
      · split <;> nofun

/-- The grid of an accepted record has been added, and its first block's start is due. -/
structure Accepts (s t : State) (q : LaunchReq) (gid : Nat) : Prop where
  f : t.f = s.f
  gid : gid = s.uid
  grid : ∃ n ∈ t.grids, n.gid = s.uid ∧ n.recVa = q.va ∧ n.parent = q.parent ∧ n.depth = q.depth ∧ n.next = 0 ∧ n.accepted = true
  due : (.blockStart, .unit s.uid) ∈ t.agenda

theorem acceptLaunch_accepts {s t : State} {q : LaunchReq} {gid : Nat} (h : acceptLaunch s q = .ok t gid) : Accepts s t q gid := by
  unfold acceptLaunch at h
  split at h
  · next hbad =>
    cases h
    exact absurd hbad checkRecord_error
  · next r hdr _ =>
    split at h
    · cases h
    · obtain ⟨rfl, rfl⟩ := Accepted.ok.inj h
      have hhome := writeDepth_home { s with grids := s.grids ++ [newGrid s q r hdr] } q
      cases hp : q.parent with
      | none =>
        dsimp only
        rw [hhome.frame]
        exact ⟨rfl, rfl, ⟨newGrid s q r hdr, by simp, rfl, rfl, rfl, rfl, rfl, rfl⟩, by simp [newGrid]⟩
      | some p =>
        dsimp only
        rw [hhome.frame]
        refine ⟨rfl, rfl, ⟨if (newGrid s q r hdr).gid == p then { newGrid s q r hdr with children := 1 } else newGrid s q r hdr,
          ?_, ?_⟩, by simp [newGrid]⟩
        · exact List.mem_map.mpr ⟨newGrid s q r hdr, by simp, rfl⟩
        · split <;> exact ⟨rfl, rfl, rfl, rfl, rfl, rfl⟩

/-! ### Records and handler tables under another hold -/

theorem homeValueOf_unheld (s : State) (p : Piece) : homeValueOf (unheld s) p = homeValueOf s p := by
  unfold homeValueOf
  rw [devRead_unheld]
  rfl

theorem recordBytes_unheld (s : State) (asid : Nat) (user hub : Bool) (va : W64) (n : Nat) :
    recordBytes (unheld s) asid user hub va n = recordBytes s asid user hub va n := by
  induction n generalizing va with
  | zero => rfl
  | succ n ih =>
    have hplace : translate (unheld s) asid user .read va 1 1 hub = translate s asid user .read va 1 1 hub := rfl
    unfold recordBytes
    rw [hplace]
    simp only [ih, homeValueOf_unheld]

theorem agentBytes_unheld (s : State) (asid : Nat) (va : W64) (n : Nat) : agentBytes (unheld s) asid va n = agentBytes s asid va n := by
  induction n generalizing va with
  | zero => rfl
  | succ n ih =>
    have hplace : agentPlace (unheld s) asid .read va 1 = agentPlace s asid .read va 1 := rfl
    unfold agentBytes agentRead
    rw [hplace]
    simp only [ih, homeValueOf_unheld]

theorem recordHeld_unheld (s : State) (asid : Nat) (va : W64) : recordHeld (unheld s) asid va = recordHeld s asid va := by
  unfold recordHeld
  rw [agentBytes_unheld]
  rfl

theorem handlerEntry_unheld (s : State) (g : Grid) (user : Bool) (idx : Nat) :
    handlerEntry (unheld s) g user idx = handlerEntry s g user idx := by
  unfold handlerEntry
  dsimp only
  rw [recordBytes_unheld]

end Sys2Proof.Machine

namespace Sys2Proof.Proofs
open Sys2Proof.Machine hiding Ready
open Sys2Proof.Claims

theorem asidOf_of_grid {s : State} {gr : Grid} (h : gridOf s = some gr) : asidOf s = gr.asid := by
  rw [asidOf, h]
  rfl

/-- What a `launch` asks for. -/
def lanesRequest (s : State) (gr : Grid) (va : W64) : LaunchReq :=
  { asid := gr.asid, user := !s.f.sup, va := va, depth := gr.depth + 1, parent := some s.blk.gid, queue := none, cls := 0
    root := some false, graph := gr.graph, die := clusterOf s.w.core / 32 }

/-- A `launch` of an aligned record in global memory that nothing holds asks for it after a release. -/
theorem exec_launch_asks {s : State} {sa : BitVec 6} {gr : Grid} (h : Ready (.launch sa) s)
    (halign : (readS s sa.toNat).toNat % 256 = 0) (hglobal : isGlobal (readS s sa.toNat) = true) (hcol : collected s = true)
    (hgrid : gridOf s = some gr) (hheld : recordHeld s gr.asid (readS s sa.toNat) = false) :
    let a := acceptLaunch (releaseAt 2 (unheld s)) (lanesRequest s gr (readS s sa.toNat))
    (∀ u gid, a = .ok u gid → exec (.launch sa) s = .next (retire (.launch sa) u)) ∧
    ∀ o, a = .bad o → exec (.launch sa) s = .next (precise 0x0E s.f.mask 0 (BitVec.ofNat 64 (o * 256)) (unheld s)) := by
  intro a
  have harm : exec (.launch sa) s = execLaunch sa s := rfl
  have hread : readS (unheld s) sa.toNat = readS s sa.toNat := rfl
  have hheld' : ¬recordHeld (unheld s) (asidOf (unheld s)) (readS s sa.toNat) = true := by
    rw [asidOf_of_grid (s := unheld s) hgrid, recordHeld_unheld]
    exact ne_true_of_eq_false hheld
  have hcol' : collected (unheld s) = true := hcol
  have hgrid' : gridOf (releaseAt 2 (unheld s)) = some gr := by
    rw [(releaseAt_home 2 (unheld s)).frame]
    exact hgrid
  have hasks : acceptLaunch (releaseAt 2 (unheld s))
      { asid := asidOf (releaseAt 2 (unheld s)), user := isUser (releaseAt 2 (unheld s)), va := readS s sa.toNat
        depth := ((gridOf (releaseAt 2 (unheld s))).map Grid.depth).getD 0 + 1, parent := some (releaseAt 2 (unheld s)).blk.gid
        queue := none, cls := 0, root := some false, graph := (gridOf (releaseAt 2 (unheld s))).bind Grid.graph
        die := clusterOf (releaseAt 2 (unheld s)).w.core / 32 } = a := by
    rw [asidOf_of_grid hgrid', hgrid']
    refine congrArg (acceptLaunch (releaseAt 2 (unheld s))) ?_
    rw [(releaseAt_home 2 (unheld s)).frame]
    rfl
  rw [harm, execLaunch, issue_of_ready h]
  dsimp only
  rw [hread, if_neg (by simp [halign]), if_neg (by simp [hglobal]), if_neg hheld', afterWork, if_pos hcol', hasks]
  exact ⟨fun u gid ha => by rw [ha], fun o ha => by rw [ha]; rfl⟩

/-! ### `amsd` (14 R396) -/

/-- An `amsd` to a destination that takes its message, with room in the queue, sends it after a release. -/
theorem exec_amsd_sends {s : State} {a : BitVec 8} {sb sc : BitVec 6} {gr : Grid} {entry : W64} {dest peer cluster idx : Nat}
    (hdest : (readS s sb.toNat).toNat = dest) (hpeer : dest / 2 ^ 16 % 2 ^ 16 = peer) (hcluster : dest % 2 ^ 7 = cluster)
    (hidx : (readS s sc.toNat).toNat % 2 ^ 16 = idx) (h : Ready (.amsd a sb sc) s) (hmid : dest / 2 ^ 7 % 2 ^ 9 = 0)
    (hhigh : dest < 2 ^ 32) (hknown : peer ≠ 0 → ∃ p, peerAt s peer = some p ∧ p.v = true) (hgrid : gridOf s = some gr)
    (hentry : handlerEntry s gr (isUser s) idx = .ok (some entry)) (hheld : handlerHeld s gr idx = false)
    (hlost : peer = 0 → messageLost s cluster = none) (hcol : collected s = true)
    (hroom : messageRoom s (messageQueue s peer cluster) = true) :
    exec (.amsd a sb sc) s = .next (sendMessage (.amsd a sb sc)
      (newMessage (unheld s) (.amsd a sb sc) a.toNat peer cluster idx entry) (releaseAt 2 (unheld s))) := by
  have harm : exec (.amsd a sb sc) s = execAmsd a sb sc s := rfl
  have hb : readS (unheld s) sb.toNat = readS s sb.toNat := rfl
  have hc : readS (unheld s) sc.toNat = readS s sc.toNat := rfl
  have hbits : bits dest 16 16 = peer ∧ bits dest 0 7 = cluster ∧ bits dest 7 9 = 0 ∧ bits dest 32 32 = 0 := by
    unfold bits
    omega
  obtain ⟨hb16, hb0, hb7, hb32⟩ := hbits
  have hgood : ¬(bits dest 7 9 != 0 || bits dest 32 32 != 0 || (peer != 0 && !((peerAt (unheld s) peer).any (fun p => p.v)))) = true := by
    rw [hb7, hb32]
    by_cases h0 : peer = 0
    · simp [h0]
    · obtain ⟨p, hp, hv⟩ := hknown h0
      have hp' : peerAt (unheld s) peer = some p := hp
      simp [hp', hv]
  have hgrid' : gridOf (unheld s) = some gr := hgrid
  have hheld' : ¬handlerHeld (unheld s) gr idx = true := ne_true_of_eq_false hheld
  have hentry' : handlerEntry (unheld s) gr (isUser (unheld s)) idx = .ok (some entry) := (handlerEntry_unheld ..).trans hentry
  have hlost' : (if peer = 0 then messageLost (unheld s) cluster else none) = none := by
    split
    · next h0 => exact hlost h0
    · rfl
  have hcol' : collected (unheld s) = true := hcol
  have hroom' : ¬(!messageRoom (unheld s) (messageQueue (unheld s) peer cluster)) = true := by
    rw [show messageRoom (unheld s) (messageQueue (unheld s) peer cluster) = true from hroom]
    simp
  rw [harm, execAmsd, issue_of_ready h]
  dsimp only
  rw [hb, hc, hdest, hidx, hb16, hb0, if_neg hgood, hgrid']
  dsimp only
  rw [if_neg hheld', hentry']
  dsimp only
  rw [hlost']
  dsimp only
  rw [afterWork, if_pos hcol', if_neg hroom']

/-- The payload of a message: lanes outside the active set supply zero. -/
theorem payloadOf_unheld {s : State} (hr : s.f.replay = none) (a : Nat) : payloadOf (unheld s) a =
    (List.range 32).map (fun l => if (activeLanesOf s).getLsbD l then readLane s a l else 0) := by
  unfold payloadOf
  rw [actSet_unheld hr]
  rfl

/-- What a message says of its sender and its receiver. -/
def MessageFrom (s : State) (a peer cluster idx : Nat) (entry : W64) (m : Msg) : Prop :=
  m.src = s.blk.gid ∧ m.entry = entry ∧ m.cluster = cluster ∧ m.peer = peer ∧ m.handler = idx ∧
  m.payload = (List.range 32).map (fun l => if (activeLanesOf s).getLsbD l then readLane s a l else 0) ∧
  m.s1 = BitVec.ofNat 64 (clusterOf s.w.core) ∧ m.s2 = BitVec.ofNat 64 (blockLin s) ∧ m.s3 = BitVec.ofNat 64 s.w.idx

theorem newMessage_from {s : State} (hr : s.f.replay = none) (i : Instr) (a peer cluster idx : Nat) (entry : W64)
    (pend : Option (Nat × Nat × Nat)) :
    MessageFrom s a peer cluster idx entry { newMessage (unheld s) i a peer cluster idx entry with pend := pend } :=
  ⟨rfl, rfl, rfl, rfl, rfl, payloadOf_unheld hr a, rfl, rfl, rfl⟩

/-- A message to this module enters its cluster's receive queue; one to a peer enters the port's send queue and holds flag B. -/
theorem sendMessage_enters {s u : State} {i : Instr} {a peer cluster idx : Nat} {entry : W64} (h : Ready i s)
    (hu : HomeStep (started s) u) :
    ∃ m, MessageFrom s a peer cluster idx entry m ∧
      (let t := sendMessage i (newMessage (unheld s) i a peer cluster idx entry) u
       Past s t ∧
       if peer = 0 then
        t = { u with f := t.f, w := { u.w with lastRead := t.w.lastRead }, recvq := s.recvq ++ [m],
                     agenda := u.agenda ++ [(.activeMessageHandlerStart, .unit cluster)] }
       else t = { u with
        f := t.f, uid := s.uid + 1, sendq := s.sendq ++ [m]
        w := { u.w with lastRead := t.w.lastRead,
                        pend := s.w.pend ++ [operation s (setB s.f) true .other s.f.mask []] } }) := by
  have hr := replay_of_ready h
  have hframe := hu.frame
  have hf : u.f = (started s).f := by rw [hframe]
  by_cases h0 : peer = 0
  · refine ⟨_, newMessage_from hr i a peer cluster idx entry (some (u.blk.uid, u.w.idx, 0)), ?_⟩
    have hrecv : u.recvq = s.recvq := by rw [hframe]; rfl
    dsimp only
    rw [if_pos h0, sendMessage, if_pos (show (newMessage (unheld s) i a peer cluster idx entry).peer = 0 from h0)]
    refine ⟨past_retire h hf, ?_⟩
    rw [← hrecv]
    exact retire_frame i _ (by show u.f.replay = none; rw [hf]; exact hr)
  · refine ⟨_, newMessage_from hr i a peer cluster idx entry (some (u.blk.uid, u.w.idx, u.uid)), ?_⟩
    have hfields : u.sendq = s.sendq ∧ u.uid = s.uid ∧ u.w.pend = s.w.pend ∧
        newPend u (setB u.f) (some u.f.mask) .other u.f.mask [] = operation s (setB s.f) true .other s.f.mask [] := by
      rw [newPend_eq_operation (Option.getD_some ..), hframe]
      exact ⟨rfl, rfl, rfl, rfl⟩
    obtain ⟨hsend, huid, hpend, hop⟩ := hfields
    dsimp only
    rw [if_neg h0, sendMessage, if_neg (show ¬(newMessage (unheld s) i a peer cluster idx entry).peer = 0 from h0)]
    refine ⟨past_retire h hf, ?_⟩
    rw [← hsend, ← hpend, ← hop]
    refine (retire_frame i _ (by show u.f.replay = none; rw [hf]; exact hr)).trans ?_
    rw [← huid]
    rfl

/-- Settles O51: a `launch` asks for its record after a release, and goes on behind an accepted one; `amsd` sends its message
after a release. -/
theorem launchesAndMessages : Obligations.LaunchesAndMessages := by
  unfold Obligations.LaunchesAndMessages
  refine ⟨?launch, ?message⟩
  case launch =>
    intro s u sa gr g q h halign hglobal hcol hgrid hheld
    obtain ⟨hok, hbad⟩ := exec_launch_asks h halign hglobal hcol hgrid hheld
    refine ⟨fun gid ha => ?_, fun o ha hs =>
      ⟨_, hbad o ha, precise_delivered (replay_of_ready h) (by omega) (by omega) (by omega) hs⟩⟩
    have hacc := acceptLaunch_accepts ha
    have hhome := (releaseAt_home 2 (started s)).frame
    have huid : (releaseAt 2 (started s)).uid = s.uid := by rw [hhome]; rfl
    have hf : u.f = (started s).f := by rw [hacc.f, hhome]
    obtain ⟨-, hgid, hnew, hdue⟩ := hacc
    rw [huid] at hgid hnew hdue
    obtain ⟨f, hret, hpast⟩ := retire_moves (i := .launch sa) h hf rfl rfl
    exact ⟨_, (hok u gid ha).trans (congrArg _ hret), hpast, rfl, hgid, hnew, hdue⟩
  case message =>
    intro s u a sb sc gr entry dest peer cluster h hmid hhigh hknown hgrid hentry hheld hlost hcol hroom hu
    subst hu
    have hhome := releaseAt_home 2 (started s)
    obtain ⟨m, ⟨hsrc, hent, hcl, hpeer, hidx, hpay, hs1, hs2, hs3⟩, hpast, hsent⟩ := sendMessage_enters (a := a.toNat) (peer := peer)
      (cluster := cluster) (idx := (readS s sc.toNat).toNat % 2 ^ 16) (entry := entry) h hhome
    exact ⟨onlyMemory_of_homeStep hhome, _, m,
      exec_amsd_sends rfl rfl rfl rfl h hmid hhigh hknown hgrid hentry hheld hlost hcol hroom, hpast, hsrc, hent, hcl, hpeer,
      hidx, hpay, hs1, hs2, hs3, hsent⟩

end Sys2Proof.Proofs

/-!
SUPPORT. Records and counters: stores at the home beside another fragment, what one pushed record changes, and registers and
predicates that records are handed to.
-/
namespace Sys2Proof.Machine

/-! ### Steps that do not look at the fragment -/

/-- The state with another fragment at the front. -/
def withFrag (f : Frag) (s : State) : State := { s with f := f }

theorem foldl_withFrag {α : Type} {h : State → α → State} {f : Frag} (hh : ∀ s a, h (withFrag f s) a = withFrag f (h s a))
    (l : List α) (s : State) : l.foldl h (withFrag f s) = withFrag f (l.foldl h s) :=
  List.foldl_hom (withFrag f) hh

theorem setGran_withFrag (f : Frag) (s : State) (pa v : Nat) :
    setGran (withFrag f s) pa v = withFrag f (setGran s pa v) := by
  have haddr : granAddr (withFrag f s) pa = granAddr s pa := rfl
  unfold setGran
  rw [haddr]
  cases granAddr s pa <;> rfl

theorem setTag_withFrag (f : Frag) (s : State) (pa : Nat) (b : Bool) :
    setTag (withFrag f s) pa b = withFrag f (setTag s pa b) := by
  have hgran : gran (withFrag f s) pa = gran s pa := rfl
  unfold setTag
  dsimp only
  rw [hgran, setGran_withFrag, apply_ite (withFrag f)]

theorem clearTags_withFrag (f : Frag) (s : State) (p : Piece) :
    clearTags (withFrag f s) p = withFrag f (clearTags s p) := by
  unfold clearTags
  rw [apply_ite (withFrag f), foldl_withFrag fun s i => setTag_withFrag ..]

theorem l2Write_withFrag (f : Frag) (s : State) (x : L2Line) (m : BitVec 128) :
    l2Write (withFrag f s) x m = withFrag f (l2Write s x m) :=
  foldl_withFrag (fun _ _ => rfl) _ s

theorem l2Drop_withFrag (f : Frag) (s : State) (a la : Nat) :
    l2Drop (withFrag f s) a la = withFrag f (l2Drop s a la) := rfl

theorem l2Put_withFrag (f : Frag) (s : State) (x : L2Line) :
    l2Put (withFrag f s) x = withFrag f (l2Put s x) := by
  have hlines : ∀ l, ({ withFrag f s with l2 := l } : State) = withFrag f { s with l2 := l } := fun _ => rfl
  have hl2 : (withFrag f s).l2 = s.l2 := rfl
  unfold l2Put
  dsimp only
  rw [hl2, hlines]
  cases l2Victim ((s.l2.filter (fun y => !(y.asid == x.asid && y.la == x.la))).filter (l2Mates x)) with
  | none => simp only [ite_self]
  | some v =>
    dsimp only
    rw [l2Write_withFrag, l2Drop_withFrag, ← apply_ite (withFrag f), ← apply_ite (withFrag f)]

theorem homeWrite_withFrag (f : Frag) (s : State) (lvl : Nat) (p : Piece) (v : Nat) :
    homeWrite (withFrag f s) lvl p v = withFrag f (homeWrite s lvl p v) := by
  unfold homeWrite
  dsimp only
  rw [clearTags_withFrag, apply_ite (withFrag f), ← l2Put_withFrag]
  rfl

theorem l1Write_withFrag (f : Frag) (s : State) (x : L1Line) (m : BitVec 128) :
    l1Write (withFrag f s) x m = withFrag f (l1Write s x m) := by
  unfold l1Write
  dsimp only
  rw [foldl_withFrag fun s o => homeWrite_withFrag .., apply_ite (withFrag f), foldl_withFrag fun s k => ?_]
  rw [setTag_withFrag, apply_ite (withFrag f)]

theorem writeBack_withFrag (f : Frag) (s : State) (x : L1Line) (keep : Bool) :
    writeBack (withFrag f s) x keep = withFrag f (writeBack s x keep) := by
  unfold writeBack
  dsimp only
  rw [l1Write_withFrag]
  rfl

theorem beforeHome_withFrag (f : Frag) (s : State) (asid : Nat) (va : W64) :
    beforeHome (withFrag f s) asid va = withFrag f (beforeHome s asid va) := by
  have hfind : l1Find (withFrag f s) (halfOf (withFrag f s) (lineOf va)) asid (lineOf va) =
    l1Find s (halfOf s (lineOf va)) asid (lineOf va) := rfl
  unfold beforeHome
  dsimp only
  rw [hfind]
  cases l1Find s (halfOf s (lineOf va)) asid (lineOf va) with
  | none => rfl
  | some x =>
    dsimp only
    rw [apply_ite (withFrag f), writeBack_withFrag]

theorem updateCopy_withFrag (f : Frag) (s : State) (p : Piece) (v : Nat) :
    updateCopy (withFrag f s) p v = withFrag f (updateCopy s p v) := by
  have hfind : l1Find (withFrag f s) (halfOf (withFrag f s) (lineOf p.va)) p.asid (lineOf p.va) =
    l1Find s (halfOf s (lineOf p.va)) p.asid (lineOf p.va) := rfl
  unfold updateCopy
  dsimp only
  rw [hfind]
  cases l1Find s (halfOf s (lineOf p.va)) p.asid (lineOf p.va) <;> rfl

theorem homeStore_withFrag (f : Frag) (s : State) (lvl : Nat) (p : Piece) (v : Nat) :
    homeStore (withFrag f s) lvl p v = withFrag f (homeStore s lvl p v) := by
  unfold homeStore
  rw [beforeHome_withFrag, homeWrite_withFrag, updateCopy_withFrag]

theorem dropCopies_withFrag (f : Frag) (s : State) (ps : List Piece) :
    dropCopies (withFrag f s) ps = withFrag f (dropCopies s ps) := by
  unfold dropCopies
  rw [foldl_withFrag fun s q => beforeHome_withFrag .., foldl_withFrag fun _ _ => rfl]

theorem putBytes_withFrag (f : Frag) (s : State) (ps : List Piece) (b : List Byte) :
    putBytes ps b (withFrag f s) = withFrag f (putBytes ps b s) := by
  induction ps generalizing b s with
  | nil => rfl
  | cons p r ih =>
    cases b with
    | nil => rfl
    | cons x b =>
      unfold putBytes
      rw [homeStore_withFrag, ih]

theorem setCounter_withFrag (f : Frag) (s : State) (ps : List Piece) (off v n : Nat) :
    setCounter ps off v n (withFrag f s) = withFrag f (setCounter ps off v n s) := by
  unfold setCounter
  dsimp only
  rw [dropCopies_withFrag, putBytes_withFrag]

/-! ### What does not depend on the fragment -/

theorem devRead_withFrag (f : Frag) (s : State) (o n : Nat) : devRead (withFrag f s) o n = devRead s o n := by
  induction n generalizing o with
  | zero => rfl
  | succ n ih =>
    unfold devRead
    rw [ih]
    rfl

theorem homeValueOf_withFrag (f : Frag) (s : State) (p : Piece) : homeValueOf (withFrag f s) p = homeValueOf s p := by
  unfold homeValueOf
  rw [devRead_withFrag]
  rfl

theorem counterAt_withFrag (f : Frag) (s : State) (ps : List Piece) : counterAt (withFrag f s) ps = counterAt s ps := by
  unfold counterAt homeBytes
  simp only [homeValueOf_withFrag]

theorem bytePieces_withFrag (f : Frag) (s : State) (asid : Nat) (user hdr : Bool) (k : Access) (va : W64) (n : Nat) :
    bytePieces (withFrag f s) asid user hdr k va n = bytePieces s asid user hdr k va n := by
  induction n generalizing va with
  | zero => rfl
  | succ n ih =>
    have hplace : translate (withFrag f s) asid user k va 1 = translate s asid user k va 1 := rfl
    have hhead : ∀ p, headerHit (withFrag f s) p = headerHit s p := fun _ => rfl
    unfold bytePieces
    rw [hplace]
    simp only [ih, hhead]

/-! ### Home operations on the bytes of records and counters -/

theorem putBytes_home (ps : List Piece) (b : List Byte) (s : State) : HomeStep s (putBytes ps b s) := by
  induction ps generalizing b s with
  | nil => exact .refl s
  | cons p r ih =>
    cases b with
    | nil => exact .refl s
    | cons x b => exact (homeStore_home ..).trans (ih ..)

theorem cleanPieces_home (s : State) (ps : List Piece) : HomeStep s (cleanPieces s ps) :=
  .foldl (fun s _ => beforeHome_home s _ _) ps s

theorem setCounter_home (ps : List Piece) (off v n : Nat) (s : State) : HomeStep s (setCounter ps off v n s) :=
  (dropCopies_home s _).trans (putBytes_home ..)

/-! ### Node queues (06 R199) -/

theorem graphAt_updNode (s : State) (g n : Nat) (u : Node → Node) :
    graphAt (updNode g n u s) g = (graphAt s g).map (fun x => { x with nodes := x.nodes.modify n u }) := by
  unfold graphAt updNode
  dsimp only
  rw [List.find?_map]
  have hsame : ((fun x : Graph => x.id == g) ∘ fun x => if x.id == g then { x with nodes := x.nodes.modify n u } else x) =
      fun x => x.id == g := by
    funext x
    rw [Function.comp_apply]
    split <;> rfl
  rw [hsame]
  cases hx : s.graphs.find? (fun x => x.id == g) with
  | none => rfl
  | some x =>
    have hid := List.find?_some hx
    rw [Option.map_some, if_pos hid, Option.map_some]

theorem nodeAt_updNode (s : State) (g n : Nat) (u : Node → Node) : nodeAt (updNode g n u s) g n = (nodeAt s g n).map u := by
  unfold nodeAt
  rw [graphAt_updNode]
  cases graphAt s g with
  | none => rfl
  | some x => simp

theorem graphAt_of_nodeAt {s : State} {g n : Nat} {nd : Node} (h : nodeAt s g n = some nd) : ∃ gr, graphAt s g = some gr := by
  unfold nodeAt at h
  cases hg : graphAt s g with
  | none => simp [hg] at h
  | some gr => exact ⟨gr, rfl⟩

/-- What is due once the start of a node group has been asked for. -/
def wanted (e : Instr × EvArg) (l : List (Instr × EvArg)) : List (Instr × EvArg) := if e ∈ l then l else l ++ [e]

theorem wantGroup_eq (g n c : Nat) (s : State) :
    wantGroup g n c s = { s with agenda := wanted (.nodeTimerExpiry, .triple g n c) s.agenda } := by
  unfold wantGroup wanted
  simp only [List.contains_iff_mem]
  split <;> rfl

theorem wanted_wanted (e : Instr × EvArg) (l : List (Instr × EvArg)) : wanted e (wanted e l) = wanted e l := by
  have hmem : e ∈ wanted e l := by
    unfold wanted
    split
    · assumption
    · simp
  exact if_pos hmem

/-- Records have been put away: only memory, the lines of L1 and L2, the graphs and what is due may have changed. -/
def OnlyRecords (s t : State) : Prop := t = { s with mem := t.mem, l1 := t.l1, l2 := t.l2, graphs := t.graphs, agenda := t.agenda }

theorem OnlyRecords.trans {s t u : State} (h : OnlyRecords s t) (k : OnlyRecords t u) : OnlyRecords s u := by
  unfold OnlyRecords at *
  rw [k, h]

theorem onlyRecords_of_homeStep {s t : State} (h : HomeStep s t) : OnlyRecords s t := by
  unfold OnlyRecords
  rw [h.frame]

/-- A node changes, and the start of a group of it is due. -/
theorem onlyRecords_enters (g n m c : Nat) (u : Node → Node) (s : State) : OnlyRecords s (wantGroup g n c (updNode g m u s)) := by
  rw [wantGroup_eq]
  rfl

theorem enqueueRec_onlyRecords {s t : State} {g n c : Nat} {user force : Bool} {ws : List W32}
    (h : enqueueRec g n c user force ws s = .done t) : OnlyRecords s t := by
  unfold enqueueRec at h
  split at h
  · dsimp only at h
    split at h
    · obtain rfl := Pushed.done.inj h
      exact onlyRecords_enters ..
    · split at h
      · split at h
        · cases h
        · split at h
          · cases h
          · obtain rfl := Pushed.done.inj h
            exact (onlyRecords_of_homeStep (putBytes_home ..)).trans (onlyRecords_enters ..)
      · cases h
  · obtain rfl := Pushed.done.inj h
    rfl

theorem holdRec_onlyRecords {s t : State} {va : W64} {ps : List Piece} {c : Counter} {nd : Node} {ws : List W32}
    (h : holdRec va ps c nd ws s = .done t) : OnlyRecords s t := by
  unfold holdRec at h
  split at h
  · cases h
  · split at h
    · cases h
    · split at h
      · cases h
      · obtain rfl := Pushed.done.inj h
        exact onlyRecords_of_homeStep ((putBytes_home ..).trans (setCounter_home ..))

theorem pushOne_onlyRecords {s t : State} {ctr : Option (W64 × List Piece)} {g n : Nat} {nd : Node} {ws : List W32}
    (h : pushOne ctr g n nd ws s = .done t) : OnlyRecords s t := by
  unfold pushOne at h
  cases ctr with
  | none => exact enqueueRec_onlyRecords h
  | some c =>
    dsimp only at h
    split at h
    · exact enqueueRec_onlyRecords h
    · exact holdRec_onlyRecords h

theorem releaseHeld_onlyRecords {s t : State} {g n : Nat} {rs : List (List W32)} (h : releaseHeld g n rs s = .done t) :
    OnlyRecords s t := by
  induction rs generalizing s with
  | nil =>
    obtain rfl := Pushed.done.inj h
    rfl
  | cons r rs ih =>
    unfold releaseHeld at h
    split at h
    · next x hx => exact (enqueueRec_onlyRecords hx).trans (ih h)
    · next hne => exact absurd h (hne t)

/-- A record has entered a cluster's queue. -/
def queueRec (g n c : Nat) (ws : List W32) (s : State) : State :=
  wantGroup g n c (updNode g n (fun x => { x with queue := x.queue ++ [{ cluster := c, since := s.cycles, words := ws }] }) s)

theorem queueRec_frame (g n c : Nat) (ws : List W32) (s : State) : queueRec g n c ws s =
    { s with graphs := (queueRec g n c ws s).graphs, agenda := wanted (.nodeTimerExpiry, .triple g n c) s.agenda } := by
  unfold queueRec
  rw [wantGroup_eq]
  rfl

theorem nodeAt_queueRec (g n c : Nat) (ws : List W32) (s : State) : nodeAt (queueRec g n c ws s) g n =
    (nodeAt s g n).map (fun x => { x with queue := x.queue ++ [{ cluster := c, since := s.cycles, words := ws }] }) := by
  unfold queueRec
  rw [wantGroup_eq, ← nodeAt_updNode]
  rfl

/-- A record enters a cluster's queue where that has room. -/
theorem enqueueRec_of_room {s : State} {g n c : Nat} {nd : Node} (user force : Bool) (ws : List W32) (hn : nodeAt s g n = some nd)
    (hroom : nd.held c < 64) : enqueueRec g n c user force ws s = .done (queueRec g n c ws s) := by
  obtain ⟨gr, hg⟩ := graphAt_of_nodeAt hn
  unfold enqueueRec
  rw [hg, hn]
  dsimp only
  rw [if_pos (by simp [hroom])]
  rfl

/-- No group of a node starts now where the queue holds fewer records than a group has. -/
theorem groupsNow_of_few {s : State} {g n c : Nat} (h : ∀ x, nodeAt s g n = some x → x.held c < x.group) :
    groupsNow g n c s = s := by
  unfold groupsNow
  cases hn : nodeAt s g n with
  | none => rfl
  | some nd =>
    dsimp only
    rw [if_pos (h nd hn)]

/-! ### A record pushed beside another fragment -/

/-- What became of a record, in a state with another fragment at the front. -/
def Pushed.withFrag (f : Frag) : Pushed → Pushed
  | .done s => .done (Machine.withFrag f s)
  | r => r

theorem enqueueRec_withFrag (f : Frag) (s : State) (g n c : Nat) (user force : Bool) (ws : List W32) :
    enqueueRec g n c user force ws (withFrag f s) = (enqueueRec g n c user force ws s).withFrag f := by
  have hgraph : graphAt (withFrag f s) g = graphAt s g := rfl
  have hnode : nodeAt (withFrag f s) g n = nodeAt s g n := rfl
  have hheld : ∀ ps, piecesHeld (withFrag f s) ps = piecesHeld s ps := fun _ => rfl
  have hwant : ∀ m u x, wantGroup g n m (updNode g n u (withFrag f x)) = withFrag f (wantGroup g n m (updNode g n u x)) :=
    fun m u x => by
      rw [wantGroup_eq, wantGroup_eq]
      rfl
  unfold enqueueRec
  rw [hgraph, hnode]
  split
  · simp only [bytePieces_withFrag, hheld, putBytes_withFrag, hwant]
    split
    · rfl
    · split
      · split
        · rfl
        · split <;> rfl
      · rfl
  · rfl

theorem holdRec_withFrag {f : Frag} {s : State} (hsup : f.sup = s.f.sup) (va : W64) (ps : List Piece) (c : Counter) (nd : Node)
    (ws : List W32) : holdRec va ps c nd ws (withFrag f s) = (holdRec va ps c nd ws s).withFrag f := by
  have hasid : asidOf (withFrag f s) = asidOf s := rfl
  have huser : isUser (withFrag f s) = isUser s := congrArg not hsup
  have hheld : ∀ ps, piecesHeld (withFrag f s) ps = piecesHeld s ps := fun _ => rfl
  unfold holdRec
  simp only [bytePieces_withFrag, hasid, huser, hheld, putBytes_withFrag, setCounter_withFrag]
  split
  · rfl
  · split
    · rfl
    · split <;> rfl

theorem pushOne_withFrag {f : Frag} {s : State} (hsup : f.sup = s.f.sup) (ctr : Option (W64 × List Piece)) (g n : Nat) (nd : Node)
    (ws : List W32) : pushOne ctr g n nd ws (withFrag f s) = (pushOne ctr g n nd ws s).withFrag f := by
  have huser : isUser (withFrag f s) = isUser s := congrArg not hsup
  unfold pushOne
  simp only [enqueueRec_withFrag, counterAt_withFrag, holdRec_withFrag hsup, huser]
  cases ctr with
  | none => rfl
  | some c =>
    dsimp only
    split <;> rfl

/-- The state with other lanes of the fragment at the front done. -/
def withDone (m : Lanes) (s : State) : State := withFrag { s.f with done := m } s

/-- A push to a node of the graph, its registers in place and its lanes' earlier work done, pushes its lanes behind a release. -/
theorem pushTo_pushes {x : State} {g n : Nat} {nd : Node} (i : Instr) (d : BitVec 8) (ctr : Option (W64 × List Piece))
    (hgraph : (gridOf x).bind Grid.graph = some g) (hnode : nodeAt x g n = some nd) (hfault : groupFault d nd.words x = none)
    (hexp : x.f.exp = none) (hcol : collected x = true) :
    pushTo i d ctr n x = pushLanes i d ctr g n nd (lanesOf (actSet x &&& ~~~x.f.done)) (releaseAt 2 x) := by
  have hhome : exportOf x = none := by rw [exportOf, hexp]
  unfold pushTo
  dsimp only
  rw [hgraph, Option.getD_some, hnode]
  dsimp only
  rw [hfault]
  dsimp only
  rw [withRegs, hhome]
  dsimp only
  rw [afterWork, if_pos hcol]

/-! ### The handler's address beside exports (05 R162) -/

theorem spillTo_tvec (q : Place) (s : State) : (spillTo q s).w.tvec = s.w.tvec := by
  unfold spillTo
  dsimp only
  cases s.w.jst[spilledEntries s]? with
  | none => rfl
  | some e =>
    have hframe : Claims.OnlyMemory s (keepLeaves (storeAt s q e.word 32) q) := Proofs.onlyMemory_trans
      (Proofs.onlyMemory_of_placeStep (storeAt_place ..)) (Proofs.keepLeaves_onlyMemory ..)
    dsimp only
    rw [hframe]

theorem spillExcess_tvec (n : Nat) (s : State) : (spillExcess n s).w.tvec = s.w.tvec := by
  induction n generalizing s with
  | zero => rfl
  | succ n ih =>
    unfold spillExcess
    split
    · rfl
    · split
      · rfl
      · exact (ih _).trans (spillTo_tvec ..)

theorem repatriateFront_tvec (s : State) : (repatriateFront s).w.tvec = s.w.tvec := by
  unfold repatriateFront
  split
  · unfold repatriate
    split
    · rfl
    · exact spillExcess_tvec _ _
  · rfl

theorem unheld_of_started {s x : State} (hf : x.f = (unheld s).f) : unheld x = x := by
  have hfrag : ({ x.f with hold := .free, st := .ready } : Frag) = x.f := by rw [hf]; rfl
  unfold unheld
  rw [hfrag]

/-! ### Register lanes written in any file -/

/-- A fragment's exported part after it has written a register lane: it keeps the value, above the old one where that is
taken. -/
def keptLane (s : State) (k : Nat) (v : W32) (ns : Export → List Nat) (ds : Export → List Nat) (e : Export) : Export :=
  { e with held := keep (viewKey s.f.nw k) v (holdOld k (Cells.get s.w.v k) (ns e) e.held), dirty := ds e }

/-- The parent's file after a register lane is written: the lane is written there where no exported part holds it. -/
theorem exportOf_writeLane (s : State) (r l : Nat) (v : W32) :
    ((writeLane s r l v).w.v = s.w.v ∧ exportOf s ≠ none ∨ (writeLane s r l v).w.v = Cells.set s.w.v (regKey r l) v) ∧
    ∃ ns ds, exportOf (writeLane s r l v) = (exportOf s).map (keptLane s (regKey r l) v ns ds) := by
  have hmark : exportOf (unmark (regKey r l) s) = exportOf s := rfl
  have hexps : (unmark (regKey r l) s).w.exps = s.w.exps := rfl
  unfold writeLane putLane
  dsimp only
  rw [hexps]
  split
  · next hempty =>
    refine ⟨.inr rfl, fun _ => [], Export.dirty, ?_⟩
    rw [List.isEmpty_iff] at hempty
    unfold exportOf
    dsimp only [unmark]
    rw [hempty]
    split <;> rfl
  · unfold Frag.seat
    cases hx : s.f.exp with
    | none =>
      refine ⟨.inr rfl, fun _ => [], Export.dirty, ?_⟩
      unfold exportOf
      simp only [unmark, hx, Option.map_none]
    | some x =>
      dsimp only [Option.map_some]
      split
      · next hold =>
        obtain ⟨e, he⟩ := exportOf_of_seatHolds (s := s) (l := regKey r l % 32) (by rw [Frag.seat, hx]; exact hold)
        refine ⟨.inl ⟨rfl, by simp [he]⟩, fun _ => [], fun e => addOnce (regKey r l) e.dirty, ?_⟩
        rw [exportOf_updExport _ _ _ (by intro e; rfl), hmark, he]
        have hid : e.id = x := Option.some.inj ((exportOf_id he).symm.trans hx)
        simp [hid, keptLane, holdOld]
      · refine ⟨.inr rfl, fun e => e.keepers (some (x, s.f.nw)) (regKey r l % 32), Export.dirty, ?_⟩
        rw [exportOf_updExport _ _ _ (by intro e; rfl),
          exportOf_map (s := s) (fun e : Export =>
            { e with held := holdOld (regKey r l) (Cells.get s.w.v (regKey r l))
                               (e.keepers (some (x, s.f.nw)) (regKey r l % 32)) e.held })
            (by rfl) (by rfl) (by intro e; rfl)]
        cases he : exportOf s with
        | none => rfl
        | some e =>
          have hid : e.id = x := Option.some.inj ((exportOf_id he).symm.trans hx)
          simp [hid, keptLane]

theorem viewKey_ne {j k : Nat} (hj : j < 8192) (hk : k < 8192) (h : j ≠ k) (n m : Nat) : viewKey n j ≠ viewKey m k := by
  unfold viewKey
  omega

/-- What a fragment finds of a register lane after it has written one, whichever file holds it. -/
theorem fileLane_writeLane (s : State) {r l k : Nat} (v : W32) (hw : regKey r l < 8192) (hk : k < 8192) :
    fileLane (writeLane s r l v) k = if k = regKey r l then v else fileLane s k := by
  obtain ⟨hfile, ns, ds, hexp⟩ := exportOf_writeLane s r l v
  have hnw : (writeLane s r l v).f.nw = s.f.nw := by rw [writeLane_frame]
  have hother : k ≠ regKey r l → Cells.get (writeLane s r l v).w.v k = Cells.get s.w.v k := fun hne => by
    rcases hfile with ⟨h, -⟩ | h
    · rw [h]
    · rw [h, Cells.get_set, if_neg (Ne.symm hne)]
  unfold fileLane
  rw [hexp]
  cases he : exportOf s with
  | none =>
    dsimp only [Option.map_none]
    split
    · next heq =>
      have h := hfile.resolve_left fun h => h.2 he
      rw [h, heq, Cells.get_set, if_pos rfl]
    · next hne => exact hother hne
  | some e =>
    dsimp only [Option.map_some, keptLane]
    rw [hnw, lookup_keep]
    by_cases heq : k = regKey r l
    · rw [if_pos (by rw [heq]), if_pos heq]
      rfl
    · rw [if_neg (viewKey_ne hk hw heq _ _), if_neg heq, lookup_holdOld_of_ne (fun m => viewKey_ne hk hw heq _ m), hother heq]

/-- A written register lane changes no predicate. -/
theorem filePred_writeLane (s : State) (r l : Nat) (v : W32) (p j : Nat) : filePred (writeLane s r l v) p j = filePred s p j := by
  obtain ⟨-, ns, ds, hexp⟩ := exportOf_writeLane s r l v
  have hnw : (writeLane s r l v).f.nw = s.f.nw := by rw [writeLane_frame]
  have hfile : (writeLane s r l v).w.p = s.w.p := by rw [writeLane_frame]
  unfold filePred
  rw [hexp, hnw, hfile]
  cases exportOf s <;> rfl

/-- A written predicate bit changes no register lane. -/
theorem fileLane_writePBit (s : State) (p l : Nat) (b : Bool) (k : Nat) : fileLane (writePBit s p l b) k = fileLane s k := by
  by_cases hp : p = 0
  · rw [hp, writePBit_zero]
  · obtain ⟨-, ns, pd, hexp⟩ := exportOf_writePBit s (l := l) b hp
    have hnw : (writePBit s p l b).f.nw = s.f.nw := by rw [writePBit_frame]
    have hfile : (writePBit s p l b).w.v = s.w.v := by rw [writePBit_frame]
    unfold fileLane
    rw [hexp, hnw, hfile]
    cases exportOf s <;> rfl

/-- A written predicate bit changes no bit of another predicate. -/
theorem filePred_writePBit_other (s : State) {p l q j : Nat} (b : Bool) (hp : p < 8) (hq : q < 8) (hl : l < 32) (hj : j < 32)
    (hne : q ≠ p) : filePred (writePBit s p l b) q j = filePred s q j := by
  by_cases hp0 : p = 0
  · rw [hp0, writePBit_zero]
  · obtain ⟨hfile, ns, pd, hexp⟩ := exportOf_writePBit s (l := l) b hp0
    have hnw : (writePBit s p l b).f.nw = s.f.nw := by rw [writePBit_frame]
    have hother : Cells.get (writePBit s p l b).w.p q = Cells.get s.w.p q := by
      rcases hfile with ⟨h, -⟩ | h
      · rw [h]
      · rw [h, Cells.get_set, if_neg (Ne.symm hne)]
    have hkeys : regKey q j < 8192 ∧ regKey p l < 8192 ∧ regKey q j ≠ regKey p l := by
      unfold regKey
      omega
    obtain ⟨hqk, hpk, hk⟩ := hkeys
    unfold filePred
    rw [hexp]
    cases he : exportOf s with
    | none => exact congrArg (·.getLsbD j) hother
    | some e =>
      dsimp only [Option.map_some, keptBit]
      rw [hnw, lookup_keep, if_neg (viewKey_ne hqk hpk hk _ _), lookup_holdOld_of_ne (fun m => viewKey_ne hqk hpk hk _ m), hother]

/-- A written register lane changes nothing of the exports but the values that they hold. -/
theorem sameExports_writeLane (s : State) (r l : Nat) (v : W32) : Claims.SameExports s (writeLane s r l v) := by
  unfold Claims.SameExports writeLane putLane
  dsimp only
  split
  · rfl
  · split
    · split
      · exact map_exps_updExport (by intro e; rfl) _ _
      · refine (map_exps_updExport (by intro e; rfl) _ _).trans ?_
        exact List.map_map
    · exact List.map_map

theorem sameExports_writePBit (s : State) (p l : Nat) (b : Bool) : Claims.SameExports s (writePBit s p l b) := by
  unfold writePBit
  split
  · rfl
  · exact sameExports_putBit ..

/-! ### Records handed to lanes (14 R393) -/

/-- The words of a record written to a lane, from a register upward. -/
def writeWords (r l : Nat) : List W32 → State → State
  | [], s => s
  | x :: xs, s => writeWords (r + 1) l xs (writeLane s r l x)

theorem foldl_writeLane (d : BitVec 8) (l : Nat) (ws : List W32) (a : Nat) (s : State) :
    ((List.range' a ws.length).zip ws).foldl (fun s q => writeLane s (d.toNat + q.1) l q.2) s = writeWords (d.toNat + a) l ws s := by
  induction ws generalizing a s with
  | nil => rfl
  | cons x xs ih =>
    rw [List.length_cons, List.range'_succ, List.zip_cons_cons, List.foldl_cons, ih]
    rfl

theorem fileLane_writeWords {r l j m : Nat} {ws : List W32} (s : State) (hr : r + ws.length ≤ 256) (hl : l < 32) (hj : j < 256)
    (hm : m < 32) : fileLane (writeWords r l ws s) (regKey j m) =
      if m = l ∧ r ≤ j ∧ j < r + ws.length then ws.getD (j - r) 0 else fileLane s (regKey j m) := by
  induction ws generalizing r s with
  | nil =>
    rw [List.length_nil, if_neg (by omega)]
    rfl
  | cons x xs ih =>
    rw [List.length_cons] at hr ⊢
    have hkeys : regKey r l < 8192 ∧ regKey j m < 8192 := by
      unfold regKey
      omega
    obtain ⟨hrk, hjk⟩ := hkeys
    rw [writeWords, ih (writeLane s r l x) (by omega), fileLane_writeLane s x hrk hjk]
    by_cases hhead : m = l ∧ j = r
    · obtain ⟨rfl, rfl⟩ := hhead
      rw [if_neg (by omega), if_pos rfl, if_pos (by omega), Nat.sub_self]
      rfl
    · rw [if_neg (fun h => hhead ((regKey_inj hm hl).mp h).symm)]
      by_cases hrest : m = l ∧ r + 1 ≤ j ∧ j < r + 1 + xs.length
      · obtain ⟨rfl, hlo, hhi⟩ := hrest
        rw [if_pos ⟨rfl, hlo, hhi⟩, if_pos (by omega), show j - r = j - (r + 1) + 1 by omega]
        rfl
      · rw [if_neg hrest, if_neg (by omega)]

/-- Registers, predicates, marks and exports of the warp at the front may have changed, of the exports only what they hold. -/
def OnlyRegisters (s t : State) : Prop :=
  t = { s with w := { s.w with v := t.w.v, p := t.w.p, lastRead := t.w.lastRead, exps := t.w.exps } } ∧ Claims.SameExports s t

theorem OnlyRegisters.refl (s : State) : OnlyRegisters s s := ⟨rfl, rfl⟩

theorem OnlyRegisters.trans {s t u : State} (h : OnlyRegisters s t) (k : OnlyRegisters t u) : OnlyRegisters s u :=
  ⟨k.1.trans (by rw [h.1]), sameExports_trans h.2 k.2⟩

theorem writeLane_onlyRegisters (s : State) (r l : Nat) (v : W32) : OnlyRegisters s (writeLane s r l v) :=
  ⟨by rw [writeLane_frame], sameExports_writeLane ..⟩

theorem writePBit_onlyRegisters (s : State) (p l : Nat) (b : Bool) : OnlyRegisters s (writePBit s p l b) :=
  ⟨by rw [writePBit_frame], sameExports_writePBit ..⟩

theorem writeWords_onlyRegisters (r l : Nat) (ws : List W32) (s : State) : OnlyRegisters s (writeWords r l ws s) := by
  induction ws generalizing r s with
  | nil => exact .refl s
  | cons x xs ih => exact (writeLane_onlyRegisters ..).trans (ih ..)

theorem filePred_writeWords (r l : Nat) (ws : List W32) (s : State) (p j : Nat) :
    filePred (writeWords r l ws s) p j = filePred s p j := by
  induction ws generalizing r s with
  | nil => rfl
  | cons x xs ih => exact (ih ..).trans (filePred_writeLane ..)

/-- The words that a lane receives: none where no record is left. -/
def handed (o : Option QRec) : List W32 := (o.map QRec.words).getD []

@[simp] theorem handed_some (r : QRec) : handed (some r) = r.words := rfl

/-- What one lane of an `rpop` receives. -/
def handLane (d : BitVec 8) (p l : Nat) (o : Option QRec) (s : State) : State :=
  writePBit (writeWords d.toNat l (handed o) s) p l o.isSome

theorem giveRecs_cons (d : BitVec 8) (p l : Nat) (r : List Nat) (rs : List QRec) (s : State) :
    giveRecs d p (l :: r) rs s = giveRecs d p r rs.tail (handLane d p l rs.head? s) := by
  cases rs with
  | nil => rfl
  | cons x xs =>
    have hwords := foldl_writeLane d l x.words 0 s
    rw [← List.range_eq_range', Nat.add_zero] at hwords
    conv_lhs => unfold giveRecs
    dsimp only
    rw [hwords]
    rfl

theorem giveRecs_onlyRegisters (d : BitVec 8) (p : Nat) (act : List Nat) (rs : List QRec) (s : State) :
    OnlyRegisters s (giveRecs d p act rs s) := by
  induction act generalizing rs s with
  | nil => exact .refl s
  | cons l r ih =>
    rw [giveRecs_cons]
    exact ((writeWords_onlyRegisters ..).trans (writePBit_onlyRegisters ..)).trans (ih ..)

/-- A lane that receives no word in a register keeps it. -/
theorem fileLane_giveRecs_kept {d : BitVec 8} {act : List Nat} {rs : List QRec} {j m : Nat} (p : Nat) (s : State)
    (hact : ∀ l ∈ act, l < 32) (hrs : ∀ r ∈ rs, d.toNat + r.words.length ≤ 256) (hj : j < 256) (hm : m < 32)
    (h : ∀ (k : Nat) (r : QRec), act[k]? = some m → rs[k]? = some r → j < d.toNat ∨ d.toNat + r.words.length ≤ j) :
    fileLane (giveRecs d p act rs s) (regKey j m) = fileLane s (regKey j m) := by
  induction act generalizing rs s with
  | nil => rfl
  | cons l act ih =>
    rw [giveRecs_cons, ih (handLane d p l rs.head? s) (fun l hl => hact l (by simp [hl]))
      (fun r hr => hrs r (List.mem_of_mem_tail hr))
      (fun k r hk hr => h (k + 1) r hk (List.getElem?_tail ▸ hr)), handLane, fileLane_writePBit]
    cases hhead : rs.head? with
    | none => rfl
    | some x =>
      have hx : rs[0]? = some x := by rw [← List.head?_eq_getElem?]; exact hhead
      rw [handed_some, fileLane_writeWords s (hrs x (List.mem_of_mem_head? hhead)) (hact l (by simp)) hj hm, if_neg]
      rintro ⟨rfl, hlo, hhi⟩
      have := h 0 x rfl hx
      omega

/-- The words that a lane receives. -/
theorem fileLane_giveRecs_handed {d : BitVec 8} {act : List Nat} {rs : List QRec} {k m q : Nat} {r : QRec} {x : W32} (p : Nat)
    (s : State) (hnodup : act.Nodup) (hact : ∀ l ∈ act, l < 32) (hrs : ∀ r ∈ rs, d.toNat + r.words.length ≤ 256)
    (hk : act[k]? = some m) (hr : rs[k]? = some r) (hx : r.words[q]? = some x) :
    fileLane (giveRecs d p act rs s) (regKey (d.toNat + q) m) = x := by
  have hq : q < r.words.length := (List.getElem?_eq_some_iff.mp hx).1
  have hdq : d.toNat + q < 256 := by
    have := hrs r (List.mem_of_getElem? hr)
    omega
  have hm : m < 32 := hact m (List.mem_of_getElem? hk)
  induction act generalizing k rs s with
  | nil => cases hk
  | cons l act ih =>
    obtain ⟨hfresh, hnodup'⟩ := List.nodup_cons.mp hnodup
    have hact' : ∀ l ∈ act, l < 32 := fun l hl => hact l (by simp [hl])
    have hrs' : ∀ r ∈ rs.tail, d.toNat + r.words.length ≤ 256 := fun r hr => hrs r (List.mem_of_mem_tail hr)
    rw [giveRecs_cons]
    cases k with
    | zero =>
      obtain rfl : l = m := Option.some.inj hk
      have hhead : rs.head? = some r := by rw [List.head?_eq_getElem?]; exact hr
      rw [fileLane_giveRecs_kept p _ hact' hrs' hdq hm (fun k _ hk => absurd (List.mem_of_getElem? hk) hfresh), handLane,
        fileLane_writePBit, hhead, handed_some, fileLane_writeWords s (hrs r (List.mem_of_getElem? hr)) hm hdq hm,
        if_pos ⟨rfl, by omega, by omega⟩, Nat.add_sub_cancel_left, List.getD_eq_getElem?_getD]
      exact congrArg (Option.getD · 0) hx
    | succ k => exact ih _ hnodup' hact' hrs' hk (by rw [List.getElem?_tail]; exact hr)

/-- A predicate's bit in a lane that is not handed anything, or of another predicate, is kept. -/
theorem filePred_giveRecs_kept {p q m : Nat} {act : List Nat} (d : BitVec 8) (rs : List QRec) (s : State)
    (hact : ∀ l ∈ act, l < 32) (hp : p < 8) (hq : q < 8) (hm : m < 32) (h : q ≠ p ∨ m ∉ act) :
    filePred (giveRecs d p act rs s) q m = filePred s q m := by
  induction act generalizing rs s with
  | nil => rfl
  | cons l act ih =>
    have hl := hact l (by simp)
    have hone : filePred (handLane d p l rs.head? s) q m = filePred s q m := by
      rw [← filePred_writeWords d.toNat l (handed rs.head?) s q m, handLane]
      by_cases hqp : q = p
      · subst hqp
        by_cases h0 : q = 0
        · rw [h0, writePBit_zero]
        · have hml : m ≠ l := fun e => (h.resolve_left fun h => h rfl) (by simp [e])
          rw [filePred_writePBit _ _ h0 hl hm, if_neg hml]
      · exact filePred_writePBit_other _ _ hp hq hl hm hqp
    rw [giveRecs_cons, ih _ _ (fun l hl => hact l (by simp [hl])) (h.imp_right fun h hmem => h (by simp [hmem])), hone]

/-- The predicate says which lanes have received a record. -/
theorem filePred_giveRecs_handed {p k m : Nat} {act : List Nat} (d : BitVec 8) (rs : List QRec) (s : State) (hnodup : act.Nodup)
    (hact : ∀ l ∈ act, l < 32) (hp : p < 8) (hp0 : p ≠ 0) (hk : act[k]? = some m) :
    filePred (giveRecs d p act rs s) p m = decide (k < rs.length) := by
  have hm : m < 32 := hact m (List.mem_of_getElem? hk)
  induction act generalizing k rs s with
  | nil => cases hk
  | cons l act ih =>
    obtain ⟨hfresh, hnodup'⟩ := List.nodup_cons.mp hnodup
    have hact' : ∀ l ∈ act, l < 32 := fun l hl => hact l (by simp [hl])
    rw [giveRecs_cons]
    cases k with
    | zero =>
      obtain rfl : l = m := Option.some.inj hk
      rw [filePred_giveRecs_kept d _ _ hact' hp hp hm (.inr hfresh), handLane, filePred_writePBit _ _ hp0 hm hm, if_pos rfl]
      cases rs <;> simp
    | succ k =>
      rw [ih _ _ hnodup' hact' hk, decide_eq_decide, List.length_tail]
      omega

end Sys2Proof.Machine

namespace Sys2Proof.Proofs
open Sys2Proof.Machine hiding Ready
open Sys2Proof.Claims

/-! ### Pushed records (14 R392) -/

theorem recordWords_of_onlyRecords {s t : State} (h : OnlyRecords s t) (d : BitVec 8) (n l : Nat) :
    recordWords t d n l = recordWords s d n l := by
  rw [h]
  rfl

theorem pushedAll_cons (ctr : Option (W64 × List Piece)) (g n : Nat) (nd : Node) (d : BitVec 8) (l : Nat) (r : List Nat) (s : State) :
    pushedAll ctr g n nd d (l :: r) s = match pushOne ctr g n nd (recordWords s d nd.words l) s with
      | .done v => pushedAll ctr g n nd d r v
      | _ => none := by
  unfold pushedAll
  rw [List.foldl_cons, Option.bind_some]
  cases hpush : pushOne ctr g n nd (recordWords s d nd.words l) s with
  | done v => simp only [recordWords_of_onlyRecords (pushOne_onlyRecords hpush)]
  | wait h => exact List.foldl_fixed' (fun _ => rfl) r
  | held => exact List.foldl_fixed' (fun _ => rfl) r
  | fault m => exact List.foldl_fixed' (fun _ => rfl) r

/-- Records that all find room are pushed one after another, and the instruction retires. -/
theorem pushLanes_pushes {ctr : Option (W64 × List Piece)} {g n : Nat} {nd : Node} {d : BitVec 8} {lanes : List Nat} {s v : State}
    (h : pushedAll ctr g n nd d lanes s = some v) (i : Instr) (m : Lanes) :
    OnlyRecords s v ∧
    ∃ m', pushLanes i d ctr g n nd lanes (withDone m s) = groupsNow g n (clusterOf v.w.core) (retire i (withDone m' v)) := by
  induction lanes generalizing s m with
  | nil =>
    obtain rfl := Option.some.inj h
    exact ⟨rfl, m, rfl⟩
  | cons l r ih =>
    rw [pushedAll_cons] at h
    split at h
    · next u hpush =>
      have hone := pushOne_onlyRecords hpush
      have hlanes : pushLanes i d ctr g n nd (l :: r) (withDone m s) =
          pushLanes i d ctr g n nd r (withDone (m ||| maskOf [l]) u) := by
        have hf : u.f = s.f := by rw [hone]
        have hpush' : pushOne ctr g n nd (recordWords (withDone m s) d nd.words l) (withDone m s) =
            .done (withFrag { s.f with done := m } u) :=
          (pushOne_withFrag (f := { s.f with done := m }) rfl ctr g n nd _).trans (congrArg (Pushed.withFrag _) hpush)
        conv_lhs => unfold pushLanes
        rw [hpush']
        dsimp only
        rw [withDone, hf]
        rfl
      rw [hlanes]
      obtain ⟨hrest, hret⟩ := ih h (m ||| maskOf [l])
      exact ⟨hone.trans hrest, hret⟩
    · cases h

/-- An `rpush` whose records all find room: they are put away, and only its marks and its position have changed besides. -/
theorem rpush_pushes {i : Instr} {s x v : State} {d : BitVec 8} {ctr : Option (W64 × List Piece)} {g n : Nat} {nd : Node}
    (h : Ready i s) (hx : OnlyMemory (started s) x) (hgraph : (gridOf s).bind Grid.graph = some g)
    (hnode : nodeAt s g n = some nd) (hfault : groupFault d nd.words s = none) (hcol : collected s = true) (hexp : s.f.exp = none)
    (hpush : pushedAll ctr g n nd d (lanesOf (activeLanesOf s &&& ~~~s.f.done)) (releaseAt 2 x) = some v)
    (hfew : ∀ y, nodeAt v g n = some y → y.held (clusterOf s.w.core) < y.group) :
    (let t := pushTo i d ctr n x
     Past s t ∧ t = { v with f := t.f, w := { v.w with lastRead := t.w.lastRead } }) := by
  have hr := replay_of_ready h
  have hact : actSet x = activeLanesOf s := by
    rw [hx, ← actSet_unheld hr]
    rfl
  have hdone : x.f.done = s.f.done := by rw [hx]; rfl
  have hstep : pushTo i d ctr n x =
      pushLanes i d ctr g n nd (lanesOf (activeLanesOf s &&& ~~~s.f.done)) (withDone (releaseAt 2 x).f.done (releaseAt 2 x)) := by
    rw [← hact, ← hdone]
    refine pushTo_pushes i d ctr ?_ ?_ ?_ ?_ ?_
    · rw [hx]; exact hgraph
    · rw [hx]; exact hnode
    · rw [hx]; exact hfault
    · rw [hx]; exact hexp
    · rw [hx]; exact hcol
  obtain ⟨hput, m, hlanes⟩ := pushLanes_pushes hpush i (releaseAt 2 x).f.done
  have hf : v.f = (started s).f := by
    rw [hput, (releaseAt_home 2 x).frame, hx]
  have hw : v.w = s.w := by
    rw [hput, (releaseAt_home 2 x).frame, hx]
    rfl
  have hreplay : (withDone m v).f.replay = none := by
    show v.f.replay = none
    rw [hf]
    exact hr
  have hframe := retire_frame i (withDone m v) hreplay
  have hquiet : groupsNow g n (clusterOf v.w.core) (retire i (withDone m v)) = retire i (withDone m v) := by
    refine groupsNow_of_few fun y hy => ?_
    rw [hw]
    refine hfew y ?_
    rw [hframe] at hy
    exact hy
  dsimp only
  rw [hstep, hlanes, hquiet]
  refine ⟨?_, hframe⟩
  unfold Past
  rw [retire_f i _ hreplay, withDone, withFrag]
  dsimp only
  rw [hf]
  rfl

/-- Records pushed to a queue with room for all of them stand at its end, and the group's start is due. -/
theorem pushedAll_to_queue {g n : Nat} {nd' : Node} {d : BitVec 8} {lanes : List Nat} {s : State} {nd : Node}
    (hn : nodeAt s g n = some nd) (hroom : nd.held (clusterOf s.w.core) + lanes.length ≤ 64) :
    ∃ v, pushedAll none g n nd' d lanes s = some v ∧ v = { s with graphs := v.graphs, agenda := v.agenda } ∧
      nodeAt v g n = some { nd with queue := nd.queue ++ lanes.map (fun l =>
        { cluster := clusterOf s.w.core, since := s.cycles, words := recordWords s d nd'.words l }) } ∧
      v.agenda = if lanes = [] then s.agenda else wanted (.nodeTimerExpiry, .triple g n (clusterOf s.w.core)) s.agenda := by
  induction lanes generalizing s nd with
  | nil => exact ⟨s, rfl, rfl, by rw [hn]; simp, rfl⟩
  | cons l r ih =>
    rw [List.length_cons] at hroom
    have hpush : pushOne none g n nd' (recordWords s d nd'.words l) s =
        .done (queueRec g n (clusterOf s.w.core) (recordWords s d nd'.words l) s) :=
      enqueueRec_of_room (isUser s) false _ hn (by omega)
    have hrecords := pushOne_onlyRecords hpush
    have hqueue := nodeAt_queueRec g n (clusterOf s.w.core) (recordWords s d nd'.words l) s
    have hone := queueRec_frame g n (clusterOf s.w.core) (recordWords s d nd'.words l) s
    rw [pushedAll_cons, hpush]
    generalize queueRec g n (clusterOf s.w.core) (recordWords s d nd'.words l) s = u at hrecords hqueue hone ⊢
    rw [hn] at hqueue
    have hkept : u.w = s.w ∧ u.cycles = s.cycles ∧
        u.agenda = wanted (.nodeTimerExpiry, .triple g n (clusterOf s.w.core)) s.agenda := by
      rw [hone]
      exact ⟨rfl, rfl, rfl⟩
    obtain ⟨hw, hcycles, hdue⟩ := hkept
    obtain ⟨v, hv, hframe, hnode, hagenda⟩ := ih hqueue (by
      rw [hw]
      simp only [Node.held, List.filter_append, List.length_append] at hroom ⊢
      simp
      omega)
    refine ⟨v, hv, hframe.trans (by rw [hone]), ?_, ?_⟩
    · rw [hnode, hw, hcycles]
      simp only [List.map_cons, List.append_assoc, List.singleton_append, recordWords_of_onlyRecords hrecords]
    · rw [hagenda, hw, hdue, if_neg (List.cons_ne_nil l r), wanted_wanted, ite_self]

/-! ### Counters (14 R394) -/

theorem bytePieces_unheld (s : State) (asid : Nat) (user hdr : Bool) (k : Access) (va : W64) (n : Nat) :
    bytePieces (unheld s) asid user hdr k va n = bytePieces s asid user hdr k va n := bytePieces_withFrag _ s ..

/-- The operation on a counter that it reaches, and that nothing holds, begins. -/
theorem counterOp_passes {s : State} {va : W64} {ps : List Piece} (h : CounterBytes s va ps) (i : Instr)
    (k : List Piece → State → State) : counterOp i s.f.mask va k (unheld s) = k ps (atCounter s ps) := by
  obtain ⟨halign, hbytes, hheld, hcoll, horder⟩ := h
  have hbytes' : bytePieces (unheld s) (asidOf (unheld s)) (isUser (unheld s)) false .rmw va 32 = .ok ps :=
    (bytePieces_unheld ..).trans hbytes
  have hheld' : ¬piecesHeld (unheld s) ps = true := ne_true_of_eq_false hheld
  have hwait : ¬(collHeld (unheld s) ((lanesOf s.f.mask).map (fun l => (l, va))) 32 ||
      orderHeld (unheld s) ((lanesOf s.f.mask).map (fun l => (l, va))) 32) = true := by
    rw [Bool.or_eq_true, not_or]
    exact ⟨ne_true_of_eq_false hcoll, ne_true_of_eq_false horder⟩
  unfold counterOp
  dsimp only
  rw [if_neg (by simp [halign]), hbytes']
  dsimp only
  rw [if_neg hheld', if_neg hwait]
  rfl

theorem onlyMemory_atCounter (s : State) (ps : List Piece) : OnlyMemory (started s) (atCounter s ps) :=
  onlyMemory_trans (keepLeaves_onlyMemory ..) (onlyMemory_of_homeStep (cleanPieces_home ..))

theorem onlyMemory_releaseAt {s x : State} (h : OnlyMemory s x) : OnlyMemory s (releaseAt 2 x) :=
  onlyMemory_trans h (onlyMemory_of_homeStep (releaseAt_home ..))

/-! ### `rpush` -/

theorem exec_rpush_direct {s : State} {d : BitVec 8} {sa : BitVec 6} (h : Ready (.rpush d sa 0) s) (h2 : groupFault d 2 s = none) :
    exec (.rpush d sa 0) s = .next (pushTo (.rpush d sa 0) d none ((readS s sa.toNat).toNat % 256) (started s)) := by
  have harm : exec (.rpush d sa 0) s = execRpush d sa 0 s := rfl
  have h2' : groupFault d 2 (unheld s) = none := h2
  rw [harm, execRpush, issue_of_ready h, groupDecoded, h2']
  dsimp only
  rw [if_pos rfl]
  rfl

theorem exec_rpush_counter {s : State} {d : BitVec 8} {sa sb : BitVec 6} {ps : List Piece} (h : Ready (.rpush d sa sb) s)
    (hb : sb ≠ 0) (h2 : groupFault d 2 s = none) (hps : CounterBytes s (readS s sb.toNat) ps) :
    exec (.rpush d sa sb) s = .next (pushTo (.rpush d sa sb) d (some (readS s sb.toNat, ps))
      (counterAt (atCounter s ps) ps).node (atCounter s ps)) := by
  have harm : exec (.rpush d sa sb) s = execRpush d sa sb s := rfl
  have h2' : groupFault d 2 (unheld s) = none := h2
  have hread : readS (unheld s) sb.toNat = readS s sb.toNat := rfl
  rw [harm, execRpush, issue_of_ready h, groupDecoded, h2']
  dsimp only
  rw [if_neg hb, hread]
  exact congrArg Host.Outcome.next (counterOp_passes hps _ _)

/-- `rpush` without a counter puts the records of its lanes into the node's queue. -/
theorem exec_rpush_queues {s u : State} {d : BitVec 8} {sa : BitVec 6} {g n c : Nat} {nd : Node} {lanes : List Nat}
    (hidx : (readS s sa.toNat).toNat % 256 = n) (hc : clusterOf s.w.core = c)
    (hlanes : lanesOf (activeLanesOf s &&& ~~~s.f.done) = lanes) (h : Ready (.rpush d sa 0) s)
    (hgraph : (gridOf s).bind Grid.graph = some g) (hnode : nodeAt s g n = some nd)
    (h2 : groupFault d 2 s = none) (hfault : groupFault d nd.words s = none) (hcol : collected s = true) (hexp : s.f.exp = none)
    (hroom : nd.held c + lanes.length ≤ 64) (hfew : nd.held c + lanes.length < nd.group) (hu : u = releaseAt 2 (started s)) :
    ∃ t, exec (.rpush d sa 0) s = .next t ∧ Past s t ∧
      t = { u with f := t.f, w := { u.w with lastRead := t.w.lastRead }, graphs := t.graphs, agenda := t.agenda } ∧
      nodeAt t g n = some { nd with queue := nd.queue ++ lanes.map (fun l =>
        { cluster := c, since := s.cycles, words := recordWords s d nd.words l }) } ∧
      t.agenda = if lanes = [] ∨ (.nodeTimerExpiry, .triple g n c) ∈ u.agenda then u.agenda
        else u.agenda ++ [(.nodeTimerExpiry, .triple g n c)] := by
  have hhome := releaseAt_home 2 (started s)
  rw [← hu] at hhome
  have hkept : nodeAt u g n = some nd ∧ clusterOf u.w.core = c ∧ u.cycles = s.cycles ∧
      recordWords u d nd.words = recordWords s d nd.words := by
    rw [hhome.frame]
    exact ⟨hnode, hc, rfl, rfl⟩
  obtain ⟨hnode', hc', hcycles, hwords⟩ := hkept
  obtain ⟨v, hv, hframe, hqueue, hdue⟩ := pushedAll_to_queue (nd' := nd) (d := d) (lanes := lanes) hnode'
    (by rw [hc']; exact hroom)
  rw [hc', hcycles, hwords] at hqueue
  rw [hc'] at hdue
  obtain ⟨hpast, ht⟩ := rpush_pushes (i := .rpush d sa 0) (x := started s) h rfl hgraph hnode hfault hcol hexp
    (by rw [hlanes, ← hu]; exact hv) (by
      intro y hy
      rw [hqueue] at hy
      obtain rfl := Option.some.inj hy
      rw [hc]
      simpa [Node.held, List.filter_map, Function.comp_def] using hfew)
  have hexec := exec_rpush_direct h h2
  rw [hidx] at hexec
  refine ⟨_, hexec, hpast, ?_⟩
  generalize pushTo (.rpush d sa 0) d none n (started s) = t at ht ⊢
  refine ⟨by rw [ht, hframe], by rw [ht]; exact hqueue, ?_⟩
  rw [ht]
  refine hdue.trans ?_
  unfold wanted
  by_cases hnil : lanes = []
  · simp [hnil]
  · simp [hnil]

/-- `rpush` with a counter pushes by it, behind the counter's write-back and a release. -/
theorem exec_rpush_counts {s u v : State} {d : BitVec 8} {sa sb : BitVec 6} {ps : List Piece} {g n : Nat} {nd : Node}
    (hn : (counterAt (atCounter s ps) ps).node = n) (h : Ready (.rpush d sa sb) s) (hb : sb ≠ 0)
    (hps : CounterBytes s (readS s sb.toNat) ps) (hgraph : (gridOf s).bind Grid.graph = some g) (hnode : nodeAt s g n = some nd)
    (h2 : groupFault d 2 s = none) (hfault : groupFault d nd.words s = none) (hcol : collected s = true) (hexp : s.f.exp = none)
    (hu : u = releaseAt 2 (atCounter s ps))
    (hv : pushedAll (some (readS s sb.toNat, ps)) g n nd d (lanesOf (activeLanesOf s &&& ~~~s.f.done)) u = some v)
    (hfew : ∀ x, nodeAt v g n = some x → x.held (clusterOf s.w.core) < x.group) :
    OnlyMemory (started s) u ∧ ∃ t, exec (.rpush d sa sb) s = .next t ∧ Past s t ∧
      t = { v with f := t.f, w := { v.w with lastRead := t.w.lastRead } } := by
  subst hn hu
  exact ⟨onlyMemory_releaseAt (onlyMemory_atCounter s ps), _, exec_rpush_counter h hb h2 hps,
    rpush_pushes h (onlyMemory_atCounter s ps) hgraph hnode hfault hcol hexp hv hfew⟩

/-- A counter that would leave its range raises SCHED with cause 0x05, precisely. -/
theorem schedFault_range {i : Instr} {s x : State} (h : Ready i s) (hx : OnlyMemory (started s) x) (hs : TakesFaults s) :
    (let t := schedFault 0x05 x
     t.w.trappc = s.f.pc ∧ t.w.trapcode = 0x0F ∧ t.w.trapaux = 0x500 ∧ t.f.pc = s.w.tvec ∧ t.f.sup = true) := by
  have hparts : x.f = (started s).f ∧ x.w = s.w := by rw [hx]; exact ⟨rfl, rfl⟩
  obtain ⟨hf, hw⟩ := hparts
  have hx' : TakesFaults x := by
    unfold TakesFaults
    rw [hf, hw]
    exact hs
  have hat : (atDelivery x).w.tvec = s.w.tvec := (repatriateFront_tvec _).trans (congrArg Warp.tvec hw)
  have hr : x.f.replay = none := by rw [hf]; exact replay_of_ready h
  obtain ⟨hpc, hdel, -⟩ := precise_delivered (code := 0x0F) (m := x.f.mask) (va := 0) (aux := BitVec.ofNat 64 (0x05 * 256)) hr
    (by omega) (by omega) (by omega) hx'
  rw [unheld_of_started hf] at hpc hdel
  have hpc' : (schedFault 0x05 x).w.trappc = s.f.pc := by
    rw [schedFault, hpc, hf]
    rfl
  refine ⟨hpc', ?_⟩
  rw [schedFault, hdel]
  exact ⟨rfl, rfl, hat, rfl⟩

/-! ### `dadd` and `ddec` -/

theorem exec_dadd_counts {s : State} {sa sb : BitVec 6} {ps : List Piece} (h : Ready (.dadd sa sb) s)
    (hps : CounterBytes s (readS s sa.toNat) ps) :
    (let x := atCounter s ps
     let n := (readS s sb.toNat).toNat % 2 ^ 32
     let c := counterAt x ps
     exec (.dadd sa sb) s = .next (if 2 ^ 32 ≤ c.count + n then schedFault 0x05 x
      else if n = 0 then retire (.dadd sa sb) x
      else countStep (.dadd sa sb) ps (readS s sa.toNat) (fun u => retire (.dadd sa sb) (setCounter ps 0 (c.count + n) 4 u)) x)) := by
  have harm : exec (.dadd sa sb) s = execDadd sa sb s := rfl
  have ha : readS (unheld s) sa.toNat = readS s sa.toNat := rfl
  have hb : readS (unheld s) sb.toNat = readS s sb.toNat := rfl
  rw [harm, execDadd, issue_of_ready h]
  dsimp only
  rw [ha, hb]
  exact congrArg Host.Outcome.next (counterOp_passes hps _ _)

theorem exec_ddec_counts {s : State} {sa sb : BitVec 6} {ps : List Piece} (h : Ready (.ddec sa sb) s)
    (hps : CounterBytes s (readS s sa.toNat) ps) (hcol : collected s = true) :
    (let x := atCounter s ps
     let u := releaseAt 2 x
     let n := (readS s sb.toNat).toNat % 2 ^ 32
     let c := counterAt u ps
     exec (.ddec sa sb) s = .next (if c.count = 0 || c.count < n then schedFault 0x05 x
      else if n = 0 then retire (.ddec sa sb) u
      else countStep (.ddec sa sb) ps (readS s sa.toNat) (fun t =>
        if n < c.count then retire (.ddec sa sb) (setCounter ps 0 (c.count - n) 4 t)
        else match nodeAt t (((gridOf t).bind Grid.graph).getD 0) c.node with
          | none => schedFault 0x06 x
          | some nd => zeroStep (.ddec sa sb) (((gridOf t).bind Grid.graph).getD 0) ps c nd t) u)) := by
  have harm : exec (.ddec sa sb) s = execDdec sa sb s := rfl
  have ha : readS (unheld s) sa.toNat = readS s sa.toNat := rfl
  have hb : readS (unheld s) sb.toNat = readS s sb.toNat := rfl
  have hcol' : collected (atCounter s ps) = true := by
    rw [onlyMemory_atCounter s ps]
    exact hcol
  rw [harm, execDdec, issue_of_ready h]
  dsimp only
  rw [ha, hb]
  refine congrArg Host.Outcome.next ((counterOp_passes hps _ _).trans ?_)
  rw [afterWork, if_pos hcol'] <;> rfl

/-- A change of a counter that no header word holds. -/
theorem countStep_counts {i : Instr} {ps : List Piece} {va : W64} {k : State → State} {u : State}
    (h : (ps.take 4).any (headerHit u) = false) : countStep i ps va k u = k u := by
  rw [countStep, if_neg (ne_true_of_eq_false h)]

/-- An instruction with scalar operands that ends by retiring from `u`. -/
theorem retires_from {i : Instr} {s u : State} (h : Ready i s) (hf : u.f = (started s).f) (ha : (operands u i).va = [])
    (hb : (operands u i).vb = []) (hexec : exec i s = .next (retire i u)) :
    ∃ t, exec i s = .next t ∧ Past s t ∧ OnlyPosition u t :=
  ⟨_, hexec, past_retire h hf, onlyPosition_retire h hf ha hb⟩

theorem frag_of_onlyMemory {s u : State} (h : OnlyMemory s u) : u.f = s.f := by rw [h]

/-- `dadd` raises the count of a counter that stays in its range. -/
theorem exec_dadd_raises {s : State} {sa sb : BitVec 6} {ps : List Piece} {n : Nat} (hn : (readS s sb.toNat).toNat % 2 ^ 32 = n)
    (h : Ready (.dadd sa sb) s) (hps : CounterBytes s (readS s sa.toNat) ps)
    (hheader : (ps.take 4).any (headerHit (atCounter s ps)) = false) (hrange : (counterAt (atCounter s ps) ps).count + n < 2 ^ 32) :
    ∃ t, exec (.dadd sa sb) s = .next t ∧ Past s t ∧ OnlyPosition (if n = 0 then atCounter s ps
      else setCounter ps 0 ((counterAt (atCounter s ps) ps).count + n) 4 (atCounter s ps)) t := by
  have hexec := exec_dadd_counts h hps
  have hf := frag_of_onlyMemory (onlyMemory_atCounter s ps)
  dsimp only at hexec
  rw [hn, if_neg (by omega), countStep_counts hheader] at hexec
  split at hexec
  · next h0 =>
    rw [if_pos h0]
    exact retires_from h hf rfl rfl hexec
  · next h0 =>
    rw [if_neg h0]
    exact retires_from h (by rw [(setCounter_home ..).frame]; exact hf) rfl rfl hexec

/-- `ddec` lowers the count of a counter that it does not bring to 0. -/
theorem exec_ddec_lowers {s u : State} {sa sb : BitVec 6} {ps : List Piece} {n : Nat} (hn : (readS s sb.toNat).toNat % 2 ^ 32 = n)
    (hu : u = releaseAt 2 (atCounter s ps)) (h : Ready (.ddec sa sb) s) (hps : CounterBytes s (readS s sa.toNat) ps)
    (hcol : collected s = true) (hheader : (ps.take 4).any (headerHit u) = false) (hrange : n < (counterAt u ps).count) :
    ∃ t, exec (.ddec sa sb) s = .next t ∧ Past s t ∧
      OnlyPosition (if n = 0 then u else setCounter ps 0 ((counterAt u ps).count - n) 4 u) t := by
  have hexec := exec_ddec_counts h hps hcol
  have hf : u.f = (started s).f := frag_of_onlyMemory (hu ▸ onlyMemory_releaseAt (onlyMemory_atCounter s ps))
  dsimp only at hexec
  rw [← hu, hn, if_neg (by simp; omega), countStep_counts hheader, if_pos hrange] at hexec
  split at hexec
  · next h0 =>
    rw [if_pos h0]
    exact retires_from h hf rfl rfl hexec
  · next h0 =>
    rw [if_neg h0]
    exact retires_from h (by rw [(setCounter_home ..).frame]; exact hf) rfl rfl hexec

/-- Where the held records all find room, the step to 0 moves them and retires. -/
theorem zeroStep_moves {i : Instr} {g : Nat} {ps hs : List Piece} {c : Counter} {nd : Node} {u v : State}
    (hhs : heldRecords u c nd = .ok hs) (hheld : piecesHeld u hs = false)
    (hv : releaseHeld g c.node ((List.range c.held).map (fun j =>
        bytesWords (((homeBytes (cleanPieces u hs) hs).drop (j * nd.recBytes)).take nd.recBytes)))
      (setCounter ps 0x14 0 4 (setCounter ps 0 0 4 (cleanPieces u hs))) = .done v) :
    zeroStep i g ps c nd u = groupsNow g c.node (clusterOf v.w.core) (retire i v) := by
  unfold zeroStep
  dsimp only
  rw [hhs]
  dsimp only
  rw [if_neg (ne_true_of_eq_false hheld), hv]

/-- The `ddec` that brings a counter to 0 moves every held record. -/
theorem exec_ddec_releases {s u v : State} {sa sb : BitVec 6} {ps hs : List Piece} {c : Counter} {g : Nat} {nd : Node}
    (hn : (readS s sb.toNat).toNat % 2 ^ 32 = c.count) (hu : u = releaseAt 2 (atCounter s ps)) (hc : c = counterAt u ps)
    (h : Ready (.ddec sa sb) s) (hps : CounterBytes s (readS s sa.toNat) ps) (hcol : collected s = true)
    (hheader : (ps.take 4).any (headerHit u) = false) (h0 : c.count ≠ 0) (hgraph : (gridOf s).bind Grid.graph = some g)
    (hnode : nodeAt s g c.node = some nd) (hhs : heldRecords u c nd = .ok hs) (hheld : piecesHeld u hs = false)
    (hv : releaseHeld g c.node ((List.range c.held).map (fun j =>
        bytesWords (((homeBytes (cleanPieces u hs) hs).drop (j * nd.recBytes)).take nd.recBytes)))
      (setCounter ps 0x14 0 4 (setCounter ps 0 0 4 (cleanPieces u hs))) = .done v)
    (hfew : ∀ x, nodeAt v g c.node = some x → x.held (clusterOf s.w.core) < x.group) :
    ∃ t, exec (.ddec sa sb) s = .next t ∧ Past s t ∧ OnlyPosition v t := by
  have hexec := exec_ddec_counts h hps hcol
  have hmem : OnlyMemory (started s) u := hu ▸ onlyMemory_releaseAt (onlyMemory_atCounter s ps)
  have hkept : (gridOf u).bind Grid.graph = some g ∧ nodeAt u g c.node = some nd := by
    rw [hmem]
    exact ⟨hgraph, hnode⟩
  obtain ⟨hgraph', hnode'⟩ := hkept
  have hstores : HomeStep u (setCounter ps 0x14 0 4 (setCounter ps 0 0 4 (cleanPieces u hs))) :=
    ((cleanPieces_home ..).trans (setCounter_home ..)).trans (setCounter_home ..)
  have hrecords := (onlyRecords_of_homeStep hstores).trans (releaseHeld_onlyRecords hv)
  have hparts : v.f = (started s).f ∧ v.w = s.w := by
    rw [hrecords, hmem]
    exact ⟨rfl, rfl⟩
  obtain ⟨hf, hw⟩ := hparts
  have hquiet : groupsNow g c.node (clusterOf v.w.core) (retire (.ddec sa sb) v) = retire (.ddec sa sb) v := by
    refine groupsNow_of_few fun y hy => ?_
    rw [hw]
    refine hfew y ?_
    rw [retire_frame _ _ (by rw [hf]; exact replay_of_ready h)] at hy
    exact hy
  dsimp only at hexec
  rw [← hu, ← hc, hn, if_neg (by simp [h0]), if_neg h0, countStep_counts hheader, if_neg (lt_irrefl _), hgraph', Option.getD_some,
    hnode'] at hexec
  dsimp only at hexec
  rw [zeroStep_moves hhs hheld hv, hquiet] at hexec
  exact retires_from h hf rfl rfl hexec

/-- A counter that `dadd` or `ddec` would bring out of its range is not changed: the fault is delivered. -/
theorem exec_dadd_faults {s : State} {sa sb : BitVec 6} {ps : List Piece} {n : Nat} (hn : (readS s sb.toNat).toNat % 2 ^ 32 = n)
    (h : Ready (.dadd sa sb) s) (hps : CounterBytes s (readS s sa.toNat) ps)
    (hrange : 2 ^ 32 ≤ (counterAt (atCounter s ps) ps).count + n) :
    exec (.dadd sa sb) s = .next (schedFault 0x05 (atCounter s ps)) := by
  have hexec := exec_dadd_counts h hps
  dsimp only at hexec
  rw [hexec, hn, if_pos hrange]

theorem exec_ddec_faults {s u : State} {sa sb : BitVec 6} {ps : List Piece} {n : Nat} (hn : (readS s sb.toNat).toNat % 2 ^ 32 = n)
    (hu : u = releaseAt 2 (atCounter s ps)) (h : Ready (.ddec sa sb) s) (hps : CounterBytes s (readS s sa.toNat) ps)
    (hcol : collected s = true) (hrange : (counterAt u ps).count = 0 ∨ (counterAt u ps).count < n) :
    exec (.ddec sa sb) s = .next (schedFault 0x05 (atCounter s ps)) := by
  have hexec := exec_ddec_counts h hps hcol
  dsimp only at hexec
  rw [hexec, ← hu, hn, if_pos (by simpa using hrange)]

/-! ### `rpop` (14 R393) -/

theorem room_of_groupFault {d : BitVec 8} {n : Nat} {s : State} (h : groupFault d n s = none) : d.toNat + n ≤ 224 := by
  unfold groupFault at h
  dsimp only at h
  split at h
  · cases h
  · next hc =>
    simp only [Bool.or_eq_true, decide_eq_true_eq, not_or] at hc
    omega

/-- The state from which an `rpop` hands its records out: the node without them, behind an acquire. -/
def taken (s : State) (g n : Nat) (nd' : Node) : State := acquireAt 2 (updNode g n (fun _ => nd') (unheld s))

theorem taken_frame (s : State) (g n : Nat) (nd' : Node) : taken s g n nd' =
    { unheld s with l1 := (acquireAt 2 (unheld s)).l1, graphs := (updNode g n (fun _ => nd') s).graphs } := by
  unfold taken
  rw [acquireAt_frame]
  rfl

/-- An `rpop` that need not wait hands the records that it takes to its lanes, behind an acquire. -/
theorem exec_rpop_hands {s : State} {d : BitVec 8} {p : BitVec 3} {w : BitVec 1} {g n : Nat} {nd nd' : Node} {rs : List QRec}
    (h : Ready (.rpop d p w) s) (hblk : s.blk.node = some (g, n)) (hnode : nodeAt s g n = some nd) (h2 : groupFault d 2 s = none)
    (hfault : groupFault d nd.words s = none) (hbusy : groupBusy d nd.words s = false)
    (htake : takeRecs nd (s.blk.clusters.headD 0) (lanesOf (activeLanesOf s)).length = (rs, nd')) (hwait : w = 1 → rs ≠ []) :
    exec (.rpop d p w) s =
      .next (retire (.rpop d p w) (giveRecs d p.toNat (lanesOf (activeLanesOf s)) rs (taken s g n nd'))) := by
  have harm : exec (.rpop d p w) s = execRpop d p w s := rfl
  have h2' : groupFault d 2 (unheld s) = none := h2
  have hblk' : (unheld s).blk.node = some (g, n) := hblk
  have hnode' : nodeAt (unheld s) g n = some nd := hnode
  have hfault' : groupFault d nd.words (unheld s) = none := hfault
  have htake' : takeRecs nd ((unheld s).blk.clusters.headD 0) (lanesOf (activeLanesOf s)).length = (rs, nd') := htake
  have hbusy' : ¬groupBusy d nd.words (unheld s) = true := ne_true_of_eq_false hbusy
  have hwait' : ¬(decide (w = 1) && rs.isEmpty) = true := by
    simp only [Bool.and_eq_true, decide_eq_true_eq, List.isEmpty_iff, not_and]
    exact hwait
  rw [harm, execRpop, issue_of_ready h, groupDecoded, h2']
  dsimp only
  rw [hblk']
  dsimp only
  rw [hnode']
  dsimp only
  rw [hfault']
  dsimp only
  rw [actSet_unheld (replay_of_ready h), htake']
  dsimp only
  rw [if_neg hwait', if_neg hbusy']
  rfl

/-- What a fragment finds of its registers and predicates after its instruction retires. -/
theorem fileLane_retire {i : Instr} {u : State} (hr : u.f.replay = none) (k : Nat) : fileLane (retire i u) k = fileLane u k := by
  obtain ⟨a, l, hret⟩ := retire_shape (i := i) hr
  rw [hret]
  rfl

theorem filePred_retire {i : Instr} {u : State} (hr : u.f.replay = none) (p l : Nat) :
    filePred (retire i u) p l = filePred u p l := by
  obtain ⟨a, m, hret⟩ := retire_shape (i := i) hr
  rw [hret]
  rfl

/-- What an `rpop` leaves that hands records to its lanes. -/
theorem rpop_hands {i : Instr} {s : State} {d : BitVec 8} {p g n : Nat} {nd nd' : Node} {rs : List QRec} (h : Ready i s)
    (hnode : nodeAt s g n = some nd) (hroom : d.toNat + nd.words ≤ 224) (hlen : ∀ r ∈ rs, r.words.length ≤ nd.words)
    (hp : p < 8) :
    (let act := lanesOf (activeLanesOf s)
     let t := retire i (giveRecs d p act rs (taken s g n nd'))
     Past s t ∧ nodeAt t g n = some nd' ∧ SameExports s t ∧
      t = { s with f := t.f, l1 := (acquireAt 2 (started s)).l1, graphs := t.graphs,
                   w := { s.w with v := t.w.v, p := t.w.p, lastRead := t.w.lastRead, exps := t.w.exps } } ∧
      (∀ j l, act[j]? = some l → p ≠ 0 → filePred t p l = decide (j < rs.length)) ∧
      (∀ (j l : Nat) (r : QRec) (q : Nat) (x : W32), act[j]? = some l → rs[j]? = some r → r.words[q]? = some x →
        fileLane t (regKey (d.toNat + q) l) = x) ∧
      (∀ q l, q < 8 → l < 32 → (q ≠ p ∨ l ∉ act) → filePred t q l = filePred s q l) ∧
      ∀ j l, j < 224 → l < 32 →
        (∀ (k : Nat) (r : QRec), act[k]? = some l → rs[k]? = some r → j < d.toNat ∨ d.toNat + r.words.length ≤ j) →
        fileLane t (regKey j l) = fileLane s (regKey j l)) := by
  intro act t
  obtain ⟨hregs, hexps⟩ := giveRecs_onlyRegisters d p act rs (taken s g n nd')
  have htaken := taken_frame s g n nd'
  have hnodup : act.Nodup := lanesOf_nodup _
  have hact : ∀ l ∈ act, l < 32 := fun l hl => lt_of_mem_lanesOf hl
  have hwords : ∀ r ∈ rs, d.toNat + r.words.length ≤ 256 := fun r hr => by
    have := hlen r hr
    omega
  have hfile : ∀ k, fileLane (taken s g n nd') k = fileLane s k := fun k => by rw [htaken]; rfl
  have hbits : ∀ q l, filePred (taken s g n nd') q l = filePred s q l := fun q l => by rw [htaken]; rfl
  have hf : (giveRecs d p act rs (taken s g n nd')).f = (started s).f := by rw [hregs, htaken]; rfl
  have hr : (giveRecs d p act rs (taken s g n nd')).f.replay = none := by rw [hf]; exact replay_of_ready h
  have hret : t = _ := retire_frame i _ hr
  refine ⟨past_retire h hf, ?_, ?_, ?_, fun j l hj hp0 => ?_, fun j l r q x hj hr' hx => ?_, fun q l hq hl hne => ?_,
    fun j l hj hl hkeep => ?_⟩
  · have hgraphs : nodeAt t g n = nodeAt (updNode g n (fun _ => nd') s) g n := by
      rw [hret, hregs, htaken]
      rfl
    rw [hgraphs, nodeAt_updNode, hnode]
    rfl
  · have hsame : SameExports s (giveRecs d p act rs (taken s g n nd')) := by
      have hw : (taken s g n nd').w = s.w := by rw [htaken]; rfl
      exact hexps.trans (by rw [hw])
    unfold SameExports
    rw [hret]
    exact hsame
  · rw [hret, hregs, htaken]
    rfl
  · exact (filePred_retire hr ..).trans (filePred_giveRecs_handed d rs _ hnodup hact hp hp0 hj)
  · exact (fileLane_retire hr _).trans (fileLane_giveRecs_handed p _ hnodup hact hwords hj hr' hx)
  · exact ((filePred_retire hr ..).trans (filePred_giveRecs_kept d rs _ hact hp hq hl hne)).trans (hbits q l)
  · exact ((fileLane_retire hr _).trans (fileLane_giveRecs_kept p _ hact hwords (by omega) hl hkeep)).trans (hfile _)

/-- Settles O50: records that find room are put away one after another, and a popped record's words reach its lane's file; a
counter that stays in its range is written at its home, and the fault of any other is delivered. -/
theorem recordsAndCounters : Obligations.RecordsAndCounters := by
  unfold Obligations.RecordsAndCounters
  refine ⟨?direct, ?counted, ?popped, ?counter⟩
  case direct =>
    intro s u d sa g nd n c lanes h hgraph hnode _ h2 hfault hcol hexp hroom hfew hu
    exact ⟨hu ▸ onlyMemory_releaseAt rfl, exec_rpush_queues rfl rfl rfl h hgraph hnode h2 hfault hcol hexp hroom hfew hu⟩
  case counted =>
    intro s u v d sa sb ps g nd va n h hb hps hgraph hnode h2 hfault hcol hexp hu hv hfew
    exact exec_rpush_counts rfl h hb hps hgraph hnode h2 hfault hcol hexp hu hv hfew
  case popped =>
    intro s d p w g n nd nd' rs act h hblk hnode h2 hfault hbusy htake hwait hlen
    obtain ⟨hpast, hnode', hexps, hframe, hpred, hword, hpreds, hlanes⟩ := rpop_hands (nd' := nd') (p := p.toNat) h hnode
      (room_of_groupFault hfault) hlen p.isLt
    exact ⟨_, exec_rpop_hands h hblk hnode h2 hfault hbusy htake hwait, hpast, hnode', hexps, hframe,
      fun j l hj hp => hpred j l hj (fun h0 => hp (BitVec.eq_of_toNat_eq h0)), hword, hpreds, hlanes⟩
  case counter =>
    intro s u sa sb ps c dec va n i h hps hcol hu hc
    subst hc
    cases dec with
    | false =>
      subst hu
      refine ⟨fun hheader hrange _ => exec_dadd_raises rfl h hps hheader hrange, fun _ _ _ hd => absurd hd Bool.false_ne_true,
        fun _ _ _ _ _ _ _ hd => absurd hd Bool.false_ne_true, fun hrange hs => ?_⟩
      exact ⟨_, exec_dadd_faults rfl h hps hrange, schedFault_range h (onlyMemory_atCounter s ps) hs⟩
    | true =>
      refine ⟨fun _ _ hd => absurd hd.symm Bool.false_ne_true,
        fun hheader _ hrange _ => exec_ddec_lowers rfl hu h hps (hcol rfl) hheader hrange,
        fun g nd hs v hheader h0 hn _ hgraph hnode hhs hheld hv hfew =>
          exec_ddec_releases hn hu rfl h hps (hcol rfl) hheader h0 hgraph hnode hhs hheld hv hfew, fun hrange hs => ?_⟩
      exact ⟨_, exec_ddec_faults rfl hu h hps (hcol rfl) hrange, schedFault_range h (onlyMemory_atCounter s ps) hs⟩

end Sys2Proof.Proofs

/-!
SUPPORT. The gear set: what steps on the coverage map leave of a warp, scalars written in a row, and what O49 turns on.
-/
namespace Sys2Proof.Machine

/-! ### Steps on the coverage map (06 R186) -/

/-- Only memory, cached lines, kept translations, grids and firmware's records may have changed. -/
def MapStep (s t : State) : Prop :=
  t = { s with mem := t.mem, l1 := t.l1, l2 := t.l2, tlb := t.tlb, wcache := t.wcache, homes := t.homes, grids := t.grids, fw := t.fw }

namespace MapStep
variable {s t u : State}

theorem refl (s : State) : MapStep s s := rfl

theorem trans (h : MapStep s t) (k : MapStep t u) : MapStep s u := by
  unfold MapStep at *
  rw [k, h]

theorem foldl {α : Type} {f : State → α → State} (hf : ∀ s a, MapStep s (f s a)) (l : List α) (s : State) :
    MapStep s (l.foldl f s) :=
  List.foldlRecOn (motive := fun t => MapStep s t) _ _ (refl s) fun _ h a _ => h.trans (hf _ a)

end MapStep

theorem HomeStep.mapStep {s t : State} (h : HomeStep s t) : MapStep s t := by
  unfold MapStep
  rw [h.frame]

theorem updGear_mapStep (gid : Nat) (u : Gear → Gear) (s : State) : MapStep s (updGear gid u s) := rfl

theorem mapStart_mapStep {s t : State} {m : MapRef} {vas : List Nat} (h : mapStart s m vas = .ok t) : MapStep s t := by
  unfold mapStart at h
  split at h
  · cases h
  · next ps _ =>
    split at h
    · cases h
    · split at h
      · obtain rfl := MapStart.ok.inj h
        have hleaves : MapStep s (keepLeaves s (.mem 1 ps)) := by
          unfold MapStep
          rw [Proofs.keepLeaves_onlyCaches s 1 ps]
        exact hleaves.trans (cleanPieces_home (keepLeaves s (.mem 1 ps)) ps).mapStep
      · obtain rfl := MapStart.ok.inj h
        exact .refl _

theorem mapPut_mapStep (s : State) (m : MapRef) (va v : Nat) : MapStep s (mapPut s m va v) := by
  unfold mapPut
  split
  · exact (HomeStep.trans (.ite (dropCopy_home ..) (.refl s)) (homeWrite_home ..)).mapStep
  · exact .refl s

theorem mapPutN_mapStep (s : State) (m : MapRef) (va v n : Nat) : MapStep s (mapPutN s m va v n) := by
  induction n generalizing s va v with
  | zero => exact .refl s
  | succ n ih => exact (mapPut_mapStep ..).trans (ih ..)

theorem moveGrains_mapStep (m : MapRef) (old dest : Nat) (gs : List Nat) (s : State) : MapStep s (moveGrains m old dest gs s).1 := by
  induction gs generalizing s with
  | nil => exact .refl s
  | cons g r ih =>
    unfold moveGrains
    split
    · exact (mapPut_mapStep ..).trans (ih _)
    · exact ih s

theorem setSummary_mapStep (m : MapRef) (lines : List Nat) (s : State) : MapStep s (setSummary m lines s) :=
  .foldl (fun s k => by
    dsimp only
    split
    · exact .refl s
    · exact mapPut_mapStep ..) lines s

theorem writeEntry_mapStep (m : MapRef) (e : Nat) (t : Tile) (buf prog : W64) (cluster : Nat) (s : State) :
    MapStep s (writeEntry m e t buf prog cluster s) := by
  have hrow := fun (at' v : Nat → Nat) s => MapStep.foldl (fun s i => mapPutN_mapStep s m (at' i) (v i) 4) (List.range 4) s
  exact (((((((mapPutN_mapStep ..).trans (mapPutN_mapStep ..)).trans (hrow ..)).trans (hrow ..)).trans (mapPutN_mapStep ..)).trans
    (mapPutN_mapStep ..)).trans (mapPut_mapStep ..)).trans (mapPutN_mapStep ..)

/-! ### Handovers (06 R187, R191) -/

theorem handOver_mapStep {gid cluster : Nat} {m : MapRef} {t : Tile} {buf prog : W64} {s u : State}
    (h : handOver gid m t buf prog cluster s = .ok u) : MapStep s u := by
  unfold handOver at h
  split at h
  · cases h
  · cases h
  · next v hv =>
    split at h
    · cases h
    · dsimp only at h
      split at h
      · cases h
      · cases h
      · next w hw =>
        obtain rfl := HandEnd.ok.inj h
        exact ((((mapStart_mapStep hv).trans (mapStart_mapStep hw)).trans (writeEntry_mapStep ..)).trans
          (moveGrains_mapStep ..)).trans (updGear_mapStep ..)

theorem handPieces_mapStep (gid : Nat) (m : MapRef) (cluster : Nat) (l : List Tile) (s : State) :
    MapStep s (handPieces gid m cluster l s).s := by
  induction l generalizing s with
  | nil => exact .refl s
  | cons t r ih =>
    unfold handPieces
    split
    · next h => exact (handOver_mapStep h).trans (ih _)
    · exact .refl s

theorem flushCluster_mapStep (gid cluster : Nat) (s : State) : MapStep s (flushCluster gid cluster s) := by
  unfold flushCluster
  split
  · exact .refl s
  · next gr _ =>
    split
    · exact .refl s
    · next g _ =>
      have hpieces := handPieces_mapStep gid (gr.map false false) cluster
        ((g.queues.filter (fun q => q.1 == cluster)).map Prod.snd) s
      dsimp only
      split
      · exact .refl s
      · split
        · exact hpieces.trans rfl
        · exact hpieces.trans (updGear_mapStep ..)

theorem flushIdle_mapStep (gid : Nat) (s : State) : MapStep s (flushIdle gid s) :=
  .foldl (fun s c => flushCluster_mapStep gid c s) _ s

/-! ### Serving a `schn` (06 R190, R195) -/

theorem claimBox_mapStep {m : MapRef} {g : Gear} {box : List (Nat × Nat)} {s u : State} {ps : List Tile}
    (h : claimBox m g box s = .ok u ps) : MapStep s u := by
  unfold claimBox at h
  dsimp only at h
  split at h
  · cases h
  · cases h
  · next v hv =>
    split at h
    · obtain ⟨rfl, -⟩ := ClaimEnd.ok.inj h
      exact mapStart_mapStep hv
    · split at h
      · cases h
      · cases h
      · next w hw =>
        obtain ⟨rfl, -⟩ := ClaimEnd.ok.inj h
        exact (((mapStart_mapStep hv).trans (mapStart_mapStep hw)).trans (moveGrains_mapStep ..)).trans (setSummary_mapStep ..)

theorem pickUp_mapStep {gid : Nat} {m : MapRef} {g : Gear} {s u : State} {v : Served} (h : pickUp gid m g s = some (u, v)) :
    MapStep s u := by
  unfold pickUp at h
  split at h
  · cases h
    exact .refl _
  · cases h
    exact .refl _
  · next w hw =>
    split at h
    · cases h
    · dsimp only at h
      split at h
      · cases h
        exact mapStart_mapStep hw
      · cases h
        exact mapStart_mapStep hw
      · next x hx =>
        cases h
        exact ((((mapStart_mapStep hw).trans (mapStart_mapStep hx)).trans (moveGrains_mapStep ..)).trans (mapPut_mapStep ..)).trans
          (updGear_mapStep ..)

theorem takeBox_mapStep (gid : Nat) (m : MapRef) (g : Gear) (ps : List Nat) (c n : Nat) (s : State) :
    MapStep s (takeBox gid m g ps c n s).1 := by
  induction n generalizing s with
  | zero => exact .refl s
  | succ n ih =>
    unfold takeBox
    dsimp only
    split
    · exact updGear_mapStep ..
    · split
      · exact .refl s
      · exact .refl s
      · next h => exact ((claimBox_mapStep h).trans (updGear_mapStep ..)).trans (ih _)
      · next h => exact (claimBox_mapStep h).trans (updGear_mapStep ..)

theorem takeFrom_mapStep (gid : Nat) (m : MapRef) (g : Gear) (ps cs : List Nat) (s : State) :
    MapStep s (takeFrom gid m g ps cs s).1 := by
  induction cs generalizing s with
  | nil => exact .refl s
  | cons c r ih =>
    have hbox := takeBox_mapStep gid m g ps c (boxCount m g + 1) s
    unfold takeFrom
    split
    · next h => rw [h] at hbox; exact hbox
    · next h => rw [h] at hbox; exact hbox.trans (ih _)

theorem serve_mapStep {gid : Nat} {m : MapRef} {g : Gear} {ps : List Nat} {c : Nat} {s u : State} {v : Served}
    (h : serve gid m g ps c s = (u, v)) : MapStep s u := by
  unfold serve at h
  split at h
  · cases h
    exact updGear_mapStep ..
  · split at h
    · next w hw =>
      subst h
      split at hw
      · cases hw
      · exact pickUp_mapStep hw
    · have hfrom := takeFrom_mapStep gid m g ps (if g.steal && g.mode != 0 then c :: stealOrder ps c else [c]) s
      rw [h] at hfrom
      exact hfrom

/-! ### Scalars written in a row (14 R388) -/

/-- Values in scalars from `r` upward, one after the other. -/
def writeRow (r : Nat) : List W64 → State → State
  | [], s => s
  | v :: vs, s => writeRow (r + 1) vs (writeS s r v)

theorem writeGroup_eq (r : Nat) (vs : List W64) (s : State) : writeGroup r vs s = writeRow r vs s := by
  unfold writeGroup
  induction vs generalizing r s with
  | nil => rfl
  | cons v vs ih =>
    rw [writeRow, ← ih, List.length_cons, List.range_succ_eq_map, List.map_cons, List.foldl_cons, List.map_map]
    refine congrArg (fun l => List.foldl (fun s (p : Nat × W64) => writeS s p.1 p.2) (writeS s r v) l)
      (List.map_congr_left fun i _ => ?_)
    simp [Nat.add_assoc, Nat.add_comm 1 i]

theorem writeRow_frame (r : Nat) (vs : List W64) (s : State) :
    writeRow r vs s = { s with w := { s.w with s := (writeRow r vs s).w.s } } := by
  induction vs generalizing r s with
  | nil => rfl
  | cons v vs ih =>
    rw [writeRow, ih, writeS_frame]

/-- A row in one warp is the same row in an equal one. -/
theorem writeRow_w (r : Nat) (vs : List W64) {s t : State} (h : s.w = t.w) : (writeRow r vs s).w = (writeRow r vs t).w := by
  induction vs generalizing r s t with
  | nil => exact h
  | cons v vs ih =>
    refine ih _ ?_
    unfold writeS
    split
    · exact h
    · rw [h]

/-- The cell of a scalar after a row has been written; that of s0 is not. -/
theorem get_writeRow (r : Nat) (vs : List W64) (s : State) {n : Nat} (hn : n ≠ 0) :
    Cells.get (writeRow r vs s).w.s n = if r ≤ n then (vs[n - r]?).getD (Cells.get s.w.s n) else Cells.get s.w.s n := by
  induction vs generalizing r s with
  | nil => simp [writeRow]
  | cons v vs ih =>
    have hone : Cells.get (writeS s r v).w.s n = if n = r then v else Cells.get s.w.s n := by
      unfold writeS
      split
      · next h0 => rw [if_neg (by omega)]
      · rw [Cells.get_set]
        simp only [eq_comm]
    rw [writeRow, ih, hone]
    rcases Nat.lt_trichotomy n r with hlt | rfl | hgt
    · rw [if_neg (by omega), if_neg (by omega), if_neg (by omega)]
    · rw [if_neg (by omega), if_pos rfl, if_pos (le_refl n), Nat.sub_self]
      rfl
    · rw [if_pos (by omega), if_neg (by omega), if_pos (by omega), show n - r = n - (r + 1) + 1 by omega]
      rfl

/-! ### A queued piece with a long origin -/

/-- A tile of the cluster's queue whose origin has `n` coordinates. -/
def longTile (n : Nat) : Tile := { org := List.replicate n 0, ext := [], gen := 0, entry := none }

/-- A gear set with that one piece, queued for cluster 0. -/
def longGear (n : Nat) : Gear :=
  { tile := [], order := 0, place := 0, stTile := [], stOrder := 0, stPlace := 0, gen := 0, recalls := 0, cursors := []
    queues := [(0, longTile n)], held := [], tt := [], handed := [], claims := [] }

/-- A result of 1 in flight for scalar `n`. -/
def resultDue (n : Nat) : Pend :=
  { id := 0, flag := 0, perLane := false, sup := false, unit := .long, lanes := 1, all := 1, lands := [.scalar n 1], owes := []
    own := 1, marks := [], reads := [], losses := 0, src := none, left := 0 }

def longGrid (n : Nat) : Grid := { loadedGrid with gear := some (longGear n) }

/-- A fragment at step `k` whose `schn` is served that piece, with a result in flight for scalar `n`. -/
def servedLong (k n : Nat) : State :=
  { State.reset with
    tick := k, f := { Frag.empty with mask := 1 }, w := { Warp.empty with launched := 1, pend := [resultDue n] }
    blk := { Block.empty with gid := 1 }, grids := [longGrid n] }

theorem inflightS_servedLong (k n m : Nat) : inflightS (servedLong k n) m = if n = m then some 1 else none := rfl

theorem serve_servedLong (k n : Nat) : ∃ u, MapStep (Claims.started (servedLong k n)) u ∧
    serve (longGrid n).gid ((longGrid n).map (isUser (servedLong k n))) (longGear n) (placementSet (longGrid n))
      (clusterOf (servedLong k n).w.core) (Claims.started (servedLong k n)) = (u, .tile (longTile n) 0 0 []) := by
  have hcluster : clusterOf (servedLong k n).w.core = 0 := by
    show clusterOf 0 = 0
    rfl
  have hpiece : queuedPiece (longGear n) (clusterOf (servedLong k n).w.core) = some (longTile n) := by
    rw [hcluster]
    rfl
  unfold serve
  rw [hpiece]
  exact ⟨_, updGear_mapStep .., rfl⟩

end Sys2Proof.Machine

namespace Sys2Proof.Proofs
open Sys2Proof.Machine hiding Ready
open Sys2Proof.Claims

/-- A row that no result in flight is for, or that such a result leaves as written, reads as written. -/
theorem scalarsWritten_row {s t : State} {r : Nat} {vs : List W64} (hs : t.w.s = (writeRow r vs s).w.s) (hp : t.w.pend = s.w.pend)
    (ht : t.tick = s.tick)
    (hfree : ∀ n, n ≠ 0 → r ≤ n → n < r + vs.length → inflightS s n = none ∨ Config.inflightNew s.tick (8192 + n) = false) :
    ScalarsWritten r vs s t := by
  have hin : ∀ m, inflightS t m = inflightS s m := fun m => by rw [inflightS, hp]; rfl
  intro n
  by_cases hn : n = 0
  · simp [readS, hn]
  rw [if_neg hn]
  have hcell := get_writeRow r vs s hn
  rw [← hs] at hcell
  by_cases hin' : r ≤ n ∧ n < r + vs.length
  · obtain ⟨hlo, hhi⟩ := hin'
    have hread : readS t n = Cells.get t.w.s n := by
      unfold readS
      rw [if_neg hn, hin, ht]
      rcases hfree n hn hlo hhi with h | h
      · rw [h]
      · rw [h]
        cases inflightS s n <;> rfl
    rw [hread, hcell, if_pos hlo, if_pos hlo, List.getElem?_eq_getElem (by omega), Option.getD_some, Option.getD_some]
  · have hsame : Cells.get t.w.s n = Cells.get s.w.s n := by
      rw [hcell]
      split
      · rw [List.getElem?_eq_none (by omega), Option.getD_none]
      · rfl
    have hread : readS t n = readS s n := by simp only [readS, hin, hsame, ht]
    rw [hread]
    split
    · rw [List.getElem?_eq_none (by omega), Option.getD_none]
    · rfl

/-- An instruction that writes a row of scalars, from a state whose fragment and warp are as at its start. -/
theorem retire_writesRow {i : Instr} {s u : State} {r : Nat} {vs : List W64} (h : Ready i s) (hf : u.f = (started s).f)
    (hw : u.w = s.w) (ht : u.tick = s.tick)
    (hfree : ∀ n, n ≠ 0 → r ≤ n → n < r + vs.length → inflightS s n = none ∨ Config.inflightNew s.tick (8192 + n) = false)
    (ha : ∀ s, (operands s i).va = []) (hb : ∀ s, (operands s i).vb = []) :
    (let t := retire i (writeRow r vs u)
     Past s t ∧ ScalarsWritten r vs s t ∧ OnlyScalars u t) := by
  have hframe := writeRow_frame r vs u
  have hf' : (writeRow r vs u).f = (started s).f := by rw [hframe]; exact hf
  have hpos : OnlyPosition (writeRow r vs u) (retire i (writeRow r vs u)) := onlyPosition_retire h hf' (ha _) (hb _)
  have hwarp : (retire i (writeRow r vs u)).w = (writeRow r vs u).w := by rw [hpos]
  have hpend : (writeRow r vs u).w.pend = u.w.pend := by rw [hframe]
  refine ⟨past_retire h hf', scalarsWritten_row ?_ ?_ ?_ hfree, ?_⟩
  · rw [hwarp, writeRow_w r vs hw]
  · rw [hwarp, hpend, hw]
  · rw [hpos, hframe]
    exact ht
  · unfold OnlyScalars
    rw [hpos, hframe]

/-! ### Gear instructions (14 R388 to R391) -/

theorem withGear_passes {s : State} {gr : Grid} {g : Gear} (h : GearSet s gr g) (k : Grid → Gear → State → State) :
    withGear k (unheld s) = k gr g (unheld s) := by
  obtain ⟨hgrid, hgear⟩ := h
  have hgrid' : gridOf (unheld s) = some gr := hgrid
  unfold withGear
  rw [hgrid']
  dsimp only
  rw [hgear]

theorem wellFormed_of_ready {i : Instr} {s : State} (h : Ready i s) : i.wellFormed = true := by
  obtain ⟨hdec, -⟩ := h
  by_contra hbad
  unfold decodeFault at hdec
  dsimp only at hdec
  rw [if_pos (by simp [hbad])] at hdec
  cases hdec

/-- The ten scalars of a `schn` have no result in flight; the others from them on are s18 and up. -/
theorem row_of_schn {s : State} {sd : BitVec 6} (h : Ready (.schn sd) s) {n : Nat} (hn : n ≠ 0) (hlo : sd.toNat ≤ n) :
    inflightS s n = none ∨ 18 ≤ n := by
  have hgroup : WellFormed.isGroup sd = true := wellFormed_of_ready h
  have h8 : 8 ≤ sd.toNat := by
    unfold WellFormed.isGroup at hgroup
    simp only [Bool.or_eq_true, beq_iff_eq] at hgroup
    rcases hgroup with (((rfl | rfl) | rfl) | rfl) | rfl <;> decide
  obtain ⟨_, hstall, _, _, _⟩ := h
  by_cases hin : n < sd.toNat + 10
  · refine .inl (inflightS_of_not_stalls hstall ?_ hn)
    exact List.mem_map.mpr ⟨n - sd.toNat, List.mem_range.mpr (by omega), by omega⟩
  · exact .inr (by omega)

/-- A `schn` that owes no claim is served. -/
theorem exec_schn_served {s u : State} {sd : BitVec 6} {gr : Grid} {g : Gear} {v : Served} (h : Ready (.schn sd) s)
    (hgear : GearSet s gr g)
    (hclaim : g.claims.find? (fun x => x.blk == s.blk.uid && x.wp == s.w.idx && x.lane == lowLane s.f.mask) = none)
    (hserve : serve gr.gid (gr.map (isUser s)) g (placementSet gr) (clusterOf s.w.core) (started s) = (u, v)) :
    (v = .exhausted → exec (.schn sd) s =
      .next (retire (.schn sd) (writeRow sd.toNat [-1, -1, -1, -1, 0, 0, 0, 0, 0, 0] (acquireAt 2 u)))) ∧
    ∀ tl buf prog, v = .tile tl buf prog [] → exec (.schn sd) s = .next (retire (.schn sd)
      (writeRow sd.toNat (tl.org.map (BitVec.ofNat 64) ++ tl.ext.map (BitVec.ofNat 64) ++ [buf, prog])
        (updGear gr.gid (fun x => { x with held := x.held ++ [(clusterOf s.w.core, tl, (acquireAt 2 u).cycles)] })
          (acquireAt 2 u)))) := by
  have harm : exec (.schn sd) s = execSchn sd s := rfl
  have hclaim' : g.claims.find? (fun x => x.blk == (unheld s).blk.uid && x.wp == (unheld s).w.idx &&
    x.lane == lowLane (unheld s).f.mask) = none := hclaim
  have hserve' : serve gr.gid (gr.map (isUser (unheld s))) g (placementSet gr) (clusterOf (unheld s).w.core) (unheld s) = (u, v) :=
    hserve
  rw [harm, execSchn, issue_of_ready h, withGear_passes hgear]
  dsimp only
  rw [hclaim']
  dsimp only
  rw [hserve']
  refine ⟨?_, ?_⟩
  · rintro rfl
    dsimp only [giveNone]
    rw [writeGroup_eq]
    rfl
  · rintro tl buf prog rfl
    dsimp only [giveTile]
    rw [writeGroup_eq]
    rfl

theorem parts_of_mapStep {s u : State} (h : MapStep (started s) u) :
    u.f = (started s).f ∧ u.w = s.w ∧ u.tick = s.tick ∧ u.cycles = s.cycles := by
  rw [h]
  exact ⟨rfl, rfl, rfl, rfl⟩

/-- A `schn` of an exhausted launch. -/
theorem exec_schn_exhausted {s u : State} {sd : BitVec 6} (h : Ready (.schn sd) s) (hu : MapStep (started s) u)
    (hexec : exec (.schn sd) s =
      .next (retire (.schn sd) (writeRow sd.toNat [-1, -1, -1, -1, 0, 0, 0, 0, 0, 0] (acquireAt 2 u)))) :
    ∃ t, exec (.schn sd) s = .next t ∧ Past s t ∧
      t = { u with f := t.f, l1 := (acquireAt 2 u).l1, w := { u.w with s := t.w.s } } ∧
      ScalarsWritten sd.toNat [-1, -1, -1, -1, 0, 0, 0, 0, 0, 0] s t := by
  have hacq := acquireAt_frame 2 u
  obtain ⟨hf, hw, ht, -⟩ := parts_of_mapStep hu
  obtain ⟨_, hstall, _, _, _⟩ := id h
  obtain ⟨hpast, hrow, honly⟩ := retire_writesRow (u := acquireAt 2 u) (r := sd.toNat) (vs := [-1, -1, -1, -1, 0, 0, 0, 0, 0, 0]) h
    (by rw [hacq]; exact hf) (by rw [hacq]; exact hw) (by rw [hacq]; exact ht)
    (fun n hn hlo hhi => .inl (inflightS_of_not_stalls hstall
      (List.mem_map.mpr ⟨n - sd.toNat, List.mem_range.mpr (by simp at hhi; omega), by omega⟩) hn))
    (fun _ => rfl) (fun _ => rfl)
  refine ⟨_, hexec, hpast, honly.trans ?_, hrow⟩
  rw [hacq]

/-- A `schn` that is served a tile, where no result in flight for s18 and up reads early. -/
theorem exec_schn_tile {s u : State} {sd : BitVec 6} {gid : Nat} {tl : Tile} {vs : List W64} (h : Ready (.schn sd) s)
    (hu : MapStep (started s) u) (hlate : ∀ k n, 18 ≤ n → Config.inflightNew k (8192 + n) = false)
    (hexec : exec (.schn sd) s = .next (retire (.schn sd) (writeRow sd.toNat vs
      (updGear gid (fun x => { x with held := x.held ++ [(clusterOf s.w.core, tl, (acquireAt 2 u).cycles)] }) (acquireAt 2 u))))) :
    ∃ t, exec (.schn sd) s = .next t ∧ Past s t ∧
      t = { updGear gid (fun x => { x with held := x.held ++ [(clusterOf s.w.core, tl, s.cycles)] }) u with
            f := t.f, l1 := (acquireAt 2 u).l1, w := { u.w with s := t.w.s } } ∧
      ScalarsWritten sd.toNat vs s t := by
  obtain ⟨hf, hw, ht, hcycles⟩ := parts_of_mapStep hu
  have hframe : updGear gid (fun x => { x with held := x.held ++ [(clusterOf s.w.core, tl, (acquireAt 2 u).cycles)] }) (acquireAt 2 u) =
      { updGear gid (fun x => { x with held := x.held ++ [(clusterOf s.w.core, tl, s.cycles)] }) u with l1 := (acquireAt 2 u).l1 } := by
    rw [acquireAt_frame 2 u, ← hcycles]
    rfl
  rw [hframe] at hexec
  obtain ⟨hpast, hrow, honly⟩ := retire_writesRow (r := sd.toNat) (vs := vs)
    (u := { updGear gid (fun x => { x with held := x.held ++ [(clusterOf s.w.core, tl, s.cycles)] }) u with
            l1 := (acquireAt 2 u).l1 }) h hf hw ht
    (fun n hn hlo _ => (row_of_schn h hn hlo).imp_right fun h18 => hlate s.tick n h18) (fun _ => rfl) (fun _ => rfl)
  exact ⟨_, hexec, hpast, honly, hrow⟩

/-- `schp` writes its cluster's RECALL bit. -/
theorem exec_schp_reads {s : State} {sd : BitVec 6} {gr : Grid} {g : Gear} (h : Ready (.schp sd) s) (hgear : GearSet s gr g) :
    ∃ t, exec (.schp sd) s = .next t ∧ Past s t ∧ OnlyScalars s t ∧
      ScalarsWritten sd.toNat [if g.recalls.getLsbD (clusterOf s.w.core) then 1 else 0] s t := by
  have harm : exec (.schp sd) s = execSchp sd s := rfl
  obtain ⟨hpast, hrow, honly⟩ := retire_writes (u := unheld s) (n := sd.toNat) (flag64 (g.recalls.getLsbD (clusterOf s.w.core)))
    h rfl rfl rfl (List.mem_singleton_self _) (fun _ => rfl) (fun _ => rfl)
  refine ⟨_, ?_, hpast, honly, hrow⟩
  rw [harm, execSchp, issue_of_ready h, withGear_passes hgear]
  rfl

/-- `schq` of a register that is no count. -/
theorem exec_schq_reads {s : State} {idx : BitVec 8} {sd : BitVec 6} {gr : Grid} {g : Gear} (h : Ready (.schq idx sd) s)
    (hgear : GearSet s gr g) (hidx : idx ≠ 0x20 ∧ idx ≠ 0x21 ∧ idx ≠ 0x22) :
    ∃ t, exec (.schq idx sd) s = .next t ∧ Past s t ∧ OnlyScalars s t ∧
      ScalarsWritten sd.toNat [gearReg (gr.map (isUser s)) g idx.toNat] s t := by
  have harm : exec (.schq idx sd) s = execSchq idx sd s := rfl
  have hcount : ¬(decide (idx.toNat = 0x20) || decide (idx.toNat = 0x21) || decide (idx.toNat = 0x22)) = true := by
    obtain ⟨h0, h1, h2⟩ := hidx
    simp only [ne_eq, ← BitVec.toNat_inj] at h0 h1 h2
    simpa using ⟨⟨h0, h1⟩, h2⟩
  obtain ⟨hpast, hrow, honly⟩ := retire_writes (u := unheld s) (n := sd.toNat) (gearReg (gr.map (isUser s)) g idx.toNat) h rfl
    rfl rfl (List.mem_singleton_self _) (fun _ => rfl) (fun _ => rfl)
  refine ⟨_, ?_, hpast, honly, hrow⟩
  rw [harm, execSchq, issue_of_ready h, withGear_passes hgear]
  dsimp only
  rw [if_neg hcount]
  rfl

/-- The gear registers that O49 names, as `schq` reads them (06 R182). -/
theorem gearReg_values (gr : Grid) (user : Bool) (g : Gear) (idx : BitVec 8) :
    (idx = 0x00 → gearReg (gr.map user) g idx.toNat = BitVec.ofNat 64 (leBytes gr.record 0xC0 1)) ∧
    (0x09 ≤ idx.toNat → idx.toNat ≤ 0x0C → gearReg (gr.map user) g idx.toNat = g.tile.getD (idx.toNat - 9) 0) ∧
    (idx = 0x0D → gearReg (gr.map user) g idx.toNat = g.order) ∧ (idx = 0x0E → gearReg (gr.map user) g idx.toNat = g.place) ∧
    (idx = 0x0F → gearReg (gr.map user) g idx.toNat = g.gen.setWidth 64) ∧
    (idx = 0x10 → gearReg (gr.map user) g idx.toNat = g.recalls.setWidth 64) ∧
    (0x40 ≤ idx.toNat → idx.toNat ≤ 0xBF →
      gearReg (gr.map user) g idx.toNat = BitVec.ofNat 64 ((lookup (idx.toNat - 0x40) g.tt).getD 0)) := by
  refine ⟨?_, fun hlo hhi => ?_, ?_, ?_, ?_, ?_, fun hlo hhi => ?_⟩
  · rintro rfl; rfl
  · unfold gearReg
    dsimp only
    rw [if_neg (by omega), if_neg (by omega), if_neg (by omega), if_pos hhi]
  · rintro rfl; rfl
  · rintro rfl; rfl
  · rintro rfl; rfl
  · rintro rfl; rfl
  · unfold gearReg
    dsimp only
    rw [if_neg (by omega), if_neg (by omega), if_neg (by omega), if_neg (by omega), if_neg (by omega), if_neg (by omega),
      if_neg (by omega), if_neg (by omega), if_neg (by omega), if_pos (by simp [hlo, hhi])]

/-- `schq` of a count of grains. -/
theorem exec_schq_counts {s u : State} {idx : BitVec 8} {sd : BitVec 6} {gr : Grid} {g : Gear} {m : MapRef}
    (h : Ready (.schq idx sd) s) (hgear : GearSet s gr g) (hidx : idx = 0x20 ∨ idx = 0x21 ∨ idx = 0x22) (hm : m = gr.map (isUser s))
    (hstart : mapStart (started s) m (fieldAddrs m (List.range m.total)) = .ok u) :
    ∃ t, exec (.schq idx sd) s = .next t ∧ Past s t ∧ OnlyScalars u t ∧ ScalarsWritten sd.toNat
      [BitVec.ofNat 64 ((List.range m.total).filter (fun x =>
        fieldOf u m x == (if idx = 0x20 then 3 else if idx = 0x21 then 1 else 2))).length] s t := by
  have harm : exec (.schq idx sd) s = execSchq idx sd s := rfl
  have hcount : (decide (idx.toNat = 0x20) || decide (idx.toNat = 0x21) || decide (idx.toNat = 0x22)) = true := by
    rcases hidx with rfl | rfl | rfl <;> rfl
  have hstate : (if idx.toNat = 0x20 then 3 else if idx.toNat = 0x21 then 1 else 2) =
      (if idx = 0x20 then 3 else if idx = 0x21 then 1 else 2) := by
    rcases hidx with rfl | rfl | rfl <;> rfl
  have hm' : gr.map (isUser (unheld s)) = m := hm.symm
  obtain ⟨hf, hw, ht, -⟩ := parts_of_mapStep (mapStart_mapStep hstart)
  obtain ⟨hpast, hrow, honly⟩ := retire_writes (i := .schq idx sd) (n := sd.toNat) (BitVec.ofNat 64 (countState u m
    (if idx = 0x20 then 3 else if idx = 0x21 then 1 else 2))) h hf hw ht (List.mem_singleton_self _) (fun _ => rfl) (fun _ => rfl)
  refine ⟨_, ?_, hpast, honly, hrow⟩
  rw [harm, execSchq, issue_of_ready h, withGear_passes hgear]
  dsimp only
  rw [if_pos hcount, hm', show mapStart (unheld s) m (fieldAddrs m (List.range m.total)) = .ok u from hstart]
  dsimp only
  rw [hstate]

/-! ### The tuner's writes -/

/-- What `schs` stages. -/
structure Staged (g g' : Gear) (idx : BitVec 8) (v : W64) : Prop where
  frame : g' = { g with stTile := g'.stTile, stOrder := if idx = 0x0D then v else g.stOrder,
                        stPlace := if idx = 0x0E then v else g.stPlace, recalls := g'.recalls }
  tile : ∀ k, g'.stTile[k]? = if 0x09 ≤ idx.toNat ∧ idx.toNat ≤ 0x0C ∧ k = idx.toNat - 9 ∧ k < g.stTile.length then some v
    else g.stTile[k]?
  recalls : ∀ b, b < 128 → g'.recalls.getLsbD b =
    if idx = 0x10 ∧ b < 64 then v.getLsbD b else if idx = 0x11 ∧ 64 ≤ b then v.getLsbD (b - 64) else g.recalls.getLsbD b

theorem lowHalf_getLsbD {b : Nat} (hb : b < 128) : (0xFFFFFFFFFFFFFFFF : BitVec 128).getLsbD b = decide (b < 64) := by
  have hall : ∀ b, b < 128 → (0xFFFFFFFFFFFFFFFF : BitVec 128).getLsbD b = decide (b < 64) := by decide
  exact hall b hb

theorem stage_staged (g : Gear) {idx : BitVec 8} (v : W64)
    (h : 0x09 ≤ idx.toNat ∧ idx.toNat ≤ 0x0E ∨ idx = 0x10 ∨ idx = 0x11) :
    ∃ g', stage g idx.toNat v = some g' ∧ Staged g g' idx v := by
  by_cases htile : 0x09 ≤ idx.toNat ∧ idx.toNat ≤ 0x0C
  · obtain ⟨hlo, hhi⟩ := htile
    have hne : ∀ c : BitVec 8, 0x0C < c.toNat → idx ≠ c := fun c hc e => by
      rw [e] at hhi
      omega
    refine ⟨_, if_pos (by simp [hlo, hhi]), ?_, fun k => ?_, fun b _ => ?_⟩
    · rw [if_neg (hne _ (by decide)), if_neg (hne _ (by decide))]
    · rw [List.getElem?_set]
      by_cases hk : idx.toNat - 9 = k
      · subst hk
        by_cases hlen : idx.toNat - 9 < g.stTile.length
        · simp [hlo, hhi, hlen]
        · simp [hlen]
      · rw [if_neg hk, if_neg (by omega)]
    · rw [if_neg fun hc => hne _ (by decide) hc.1, if_neg fun hc => hne _ (by decide) hc.1]
  · have hother : idx = 0x0D ∨ idx = 0x0E ∨ idx = 0x10 ∨ idx = 0x11 := by
      rcases h with h | h | h
      · have hnat : idx.toNat = (0x0D : BitVec 8).toNat ∨ idx.toNat = (0x0E : BitVec 8).toNat := by
          show idx.toNat = 0x0D ∨ idx.toNat = 0x0E
          omega
        rcases hnat with hnat | hnat
        · exact .inl (BitVec.eq_of_toNat_eq hnat)
        · exact .inr (.inl (BitVec.eq_of_toNat_eq hnat))
      · exact .inr (.inr (.inl h))
      · exact .inr (.inr (.inr h))
    rcases hother with rfl | rfl | rfl | rfl
    · exact ⟨_, rfl, rfl, fun _ => rfl, fun _ _ => rfl⟩
    · exact ⟨_, rfl, rfl, fun _ => rfl, fun _ _ => rfl⟩
    · refine ⟨_, rfl, rfl, fun _ => rfl, fun b hb => ?_⟩
      rw [BitVec.getLsbD_or, BitVec.getLsbD_and, BitVec.getLsbD_not, lowHalf_getLsbD hb, BitVec.getLsbD_setWidth]
      by_cases h64 : b < 64
      · simp [h64, hb]
      · simp [h64, hb, BitVec.getLsbD_of_ge v b (by omega)]
    · refine ⟨_, rfl, rfl, fun _ => rfl, fun b hb => ?_⟩
      have hlow : ((0xFFFFFFFFFFFFFFFF : Nat) : BitVec 128) = 0xFFFFFFFFFFFFFFFF := rfl
      rw [BitVec.getLsbD_or, BitVec.getLsbD_and, BitVec.getLsbD_shiftLeft, hlow, lowHalf_getLsbD hb, BitVec.getLsbD_setWidth]
      by_cases h64 : b < 64
      · simp [h64, hb]
      · simp [h64, hb, show b - 64 < 128 by omega, show 64 ≤ b by omega]

/-- `schs` of the tuner stages its value. -/
theorem exec_schs_stages {s : State} {idx : BitVec 8} {sa : BitVec 6} {gr : Grid} {g : Gear} (h : Ready (.schs idx sa) s)
    (hgear : GearSet s gr g) (htuner : isTuner s = true)
    (hidx : 0x09 ≤ idx.toNat ∧ idx.toNat ≤ 0x0E ∨ idx = 0x10 ∨ idx = 0x11) :
    ∃ t g', exec (.schs idx sa) s = .next t ∧ Past s t ∧ OnlyPosition (updGear gr.gid (fun _ => g') s) t ∧
      Staged g g' idx (readS s sa.toNat) := by
  have harm : exec (.schs idx sa) s = execSchs idx sa s := rfl
  obtain ⟨g', hstage, hstaged⟩ := stage_staged g (readS s sa.toNat) hidx
  have htuner' : ¬(!isTuner (unheld s)) = true := by
    rw [show isTuner (unheld s) = true from htuner]
    simp
  obtain ⟨f, hret, hpast⟩ := retire_moves (i := .schs idx sa) (u := updGear gr.gid (fun _ => g') (unheld s)) h rfl rfl rfl
  refine ⟨_, g', ?_, hpast, rfl, hstaged⟩
  rw [harm, execSchs, issue_of_ready h, withGear_passes hgear]
  rw [if_neg htuner', show stage g idx.toNat (readS (unheld s) sa.toNat) = some g' from hstage]
  exact congrArg Host.Outcome.next hret

/-- `schc` of the tuner shifts to checked values, behind a release. -/
theorem exec_schc_shifts {s : State} {gr : Grid} {g : Gear} (h : Ready .schc s) (hgear : GearSet s gr g)
    (htuner : isTuner s = true) (hcol : collected s = true)
    (hgood : firstBad (gearChecks (leBytes gr.record 0xC0 1) (recGrain gr.record) (g.stTile.map BitVec.toNat) g.stOrder.toNat
      g.stPlace.toNat) = none) :
    ∃ t, exec .schc s = .next t ∧ Past s t ∧ OnlyPosition (updGear gr.gid (fun _ => shifted g) (releaseAt 2 (started s))) t := by
  have harm : exec .schc s = execSchc s := rfl
  have htuner' : ¬(!isTuner (unheld s)) = true := by
    rw [show isTuner (unheld s) = true from htuner]
    simp
  have hcol' : collected (unheld s) = true := hcol
  have hgood' : ¬(firstBad (gearChecks (gr.map (isUser (unheld s))).dims (gr.map (isUser (unheld s))).grain
      (g.stTile.map BitVec.toNat) g.stOrder.toNat g.stPlace.toNat)).isSome = true := by
    rw [show firstBad (gearChecks (gr.map (isUser (unheld s))).dims (gr.map (isUser (unheld s))).grain
      (g.stTile.map BitVec.toNat) g.stOrder.toNat g.stPlace.toNat) = none from hgood]
    simp
  refine retires_from h ?_ rfl rfl ?_
  · exact (releaseAt_home 2 (started s)).mapStep ▸ rfl
  rw [harm, execSchc, issue_of_ready h, withGear_passes hgear]
  dsimp only
  rw [if_neg htuner', if_neg hgood', afterWork, if_pos hcol']
  rfl

/-! ### Tiles that come back (06 R188, R194) -/

theorem releaseAt_mapStep (s : State) : MapStep s (releaseAt 2 s) := (releaseAt_home 2 s).mapStep

theorem tileBack_mapStep (gid cluster : Nat) (t : Tile) (timed : Bool) (s : State) : MapStep s (tileBack gid cluster t timed s) :=
  updGear_mapStep ..

/-- A gear instruction that ends by retiring behind steps on the map. -/
theorem retires_behind {i : Instr} {s u : State} (h : Ready i s) (hu : MapStep (started s) u) (ha : (operands u i).va = [])
    (hb : (operands u i).vb = []) (hexec : exec i s = .next (retire i u)) :
    ∃ t, exec i s = .next t ∧ Past s t ∧ OnlyPosition u t :=
  retires_from h (parts_of_mapStep hu).1 ha hb hexec

/-- The entry of a tile that was picked up becomes free where the tile is done. -/
def entryFreed (gid : Nat) (m : MapRef) (u : State) : Option Nat → State
  | some e => flushIdle gid (mapPut u m (entryVa m e + 0x36) 0)
  | none => u

theorem entryFreed_mapStep (gid : Nat) (m : MapRef) (u : State) (o : Option Nat) : MapStep u (entryFreed gid m u o) := by
  cases o with
  | none => exact .refl u
  | some e => exact (mapPut_mapStep ..).trans (flushIdle_mapStep ..)

/-- `schd` marks the grains of its tile done, behind a release. -/
theorem exec_schd_marks {s v u : State} {gr : Grid} {g : Gear} {sa : BitVec 6} {m : MapRef} {tl : Tile} (h : Ready (.schd sa) s)
    (hgear : GearSet s gr g) (hcol : collected s = true) (hm : m = gr.map (isUser s)) (htl : tl = groupTile s sa)
    (hstart : mapStart (releaseAt 2 (started s)) m (fieldAddrs m (tileGrains m tl) ++ tableAddrs m) = .ok v)
    (hu : u = (moveGrains m 1 3 (tileGrains m tl) v).1) :
    ∃ t, exec (.schd sa) s = .next t ∧ Past s t ∧
      OnlyPosition (tileBack gr.gid (clusterOf s.w.core) tl true (entryFreed gr.gid m u (pickedEntry u m tl))) t := by
  have harm : exec (.schd sa) s = execSchd sa s := rfl
  have hcol' : collected (unheld s) = true := hcol
  have hm' : gr.map (isUser (unheld s)) = m := hm.symm
  have htl' : groupTile (unheld s) sa = tl := htl.symm
  have hmoved : MapStep (started s) u := hu ▸ ((releaseAt_mapStep _).trans (mapStart_mapStep hstart)).trans (moveGrains_mapStep ..)
  have hfreed := hmoved.trans (entryFreed_mapStep gr.gid m u (pickedEntry u m tl))
  obtain ⟨-, hw, -, -⟩ := parts_of_mapStep hfreed
  refine retires_behind h (hfreed.trans (tileBack_mapStep ..)) rfl rfl ?_
  rw [harm, execSchd, issue_of_ready h, withGear_passes hgear]
  dsimp only
  rw [afterWork, if_pos hcol', hm', htl', show mapStart (releaseAt 2 (unheld s)) m _ = .ok v from hstart]
  dsimp only
  rw [← hu, ← hw]
  cases pickedEntry u m tl <;> rfl

/-- A tile handed over carries the generation of the claim that is out, or the present one. -/
def handedTile (s : State) (g : Gear) (sa : BitVec 6) : Tile :=
  { groupTile s sa with gen := ((g.held.find? (fun x => sameShape x.2.1 (groupTile s sa))).map (fun x => x.2.1.gen)).getD g.gen }

/-- What `schh` does with its tile once the handover table is reached, before which `s` stood. -/
def handBack (i : Instr) (gid : Nat) (m : MapRef) (t : Tile) (buf prog : W64) (cl : Nat) (s u : State) : State :=
  match pickedEntry u m t with
  | some e => (match mapStart u m (fieldAddrs m (tileGrains m t)) with
    | .fault f => gearFault i f s
    | .held => holdAt .fill s
    | .ok v => retire i (tileBack gid cl t false (updGear gid (fun x => { x with handed := x.handed.filter (· != e) ++ [e] })
        (moveGrains m 1 2 (tileGrains m t) (writeEntry m e { entryTile v m e with entry := none } buf prog cl v)).1)))
  | none => match handOver gid m t buf prog cl u with
    | .fault e => gearFault i e s
    | .held => holdAt .fill s
    | .full => sleepAt .entry u
    | .ok v => retire i (tileBack gid cl t false v)

/-- `schh` hands its tile back behind a release. -/
theorem exec_schh_hands {s u : State} {gr : Grid} {g : Gear} {sa sb sc : BitVec 6} {m : MapRef} {tl : Tile}
    (h : Ready (.schh sa sb sc) s) (hgear : GearSet s gr g) (hcol : collected s = true) (hm : m = gr.map (isUser s))
    (htl : tl = handedTile s g sa) (hstart : mapStart (releaseAt 2 (started s)) m (tableAddrs m) = .ok u) :
    exec (.schh sa sb sc) s = .next (handBack (.schh sa sb sc) gr.gid m tl (readS s sb.toNat) (readS s sc.toNat)
      (clusterOf s.w.core) (unheld s) u) := by
  have harm : exec (.schh sa sb sc) s = execSchh sa sb sc s := rfl
  have hcol' : collected (unheld s) = true := hcol
  have hm' : gr.map (isUser (unheld s)) = m := hm.symm
  have hpart : groupTile (unheld s) sa = groupTile s sa := rfl
  unfold handedTile at htl
  rw [harm, execSchh, issue_of_ready h, withGear_passes hgear]
  dsimp only
  rw [afterWork, if_pos hcol', hm', hpart, show mapStart (releaseAt 2 (unheld s)) m _ = .ok u from hstart, htl]
  cases g.held.find? (fun x => sameShape x.2.1 (groupTile s sa)) <;> rfl

/-- A tile that was not picked up is handed over into a free entry. -/
theorem handBack_fresh {i : Instr} {s u v : State} {gid cl : Nat} {m : MapRef} {tl : Tile} {buf prog : W64}
    (hpick : pickedEntry u m tl = none) (hhand : handOver gid m tl buf prog cl u = .ok v) :
    handBack i gid m tl buf prog cl s u = retire i (tileBack gid cl tl false v) := by
  unfold handBack
  rw [hpick]
  dsimp only
  rw [hhand]

theorem handBack_full {i : Instr} {s u : State} {gid cl : Nat} {m : MapRef} {tl : Tile} {buf prog : W64}
    (hpick : pickedEntry u m tl = none) (hhand : handOver gid m tl buf prog cl u = .full) :
    handBack i gid m tl buf prog cl s u = sleepAt .entry u := by
  unfold handBack
  rw [hpick]
  dsimp only
  rw [hhand]

/-- A tile that was picked up goes back into its entry. -/
theorem handBack_reused {i : Instr} {s u v : State} {gid cl e : Nat} {m : MapRef} {tl : Tile} {buf prog : W64}
    (hpick : pickedEntry u m tl = some e) (hstart : mapStart u m (fieldAddrs m (tileGrains m tl)) = .ok v) :
    handBack i gid m tl buf prog cl s u = retire i (tileBack gid cl tl false
      (updGear gid (fun x => { x with handed := x.handed.filter (· != e) ++ [e] })
        (moveGrains m 1 2 (tileGrains m tl) (writeEntry m e { entryTile v m e with entry := none } buf prog cl v)).1)) := by
  unfold handBack
  rw [hpick]
  dsimp only
  rw [hstart]

/-- The piece's `schn` has its own effect where the result in flight is for none of its ten scalars. -/
theorem ready_servedLong (k : Nat) {n : Nat} (hn : 18 ≤ n) : Ready (.schn 8) (servedLong k n) := by
  refine ⟨rfl, ?_, rfl, rfl, rfl⟩
  have hfree : ∀ m, m < 18 → inflightS (servedLong k n) m = none := fun m hm => by
    rw [inflightS_servedLong, if_neg (by omega)]
  have hrow : (operands (servedLong k n) (.schn 8)).sw.any (fun m => m != 0 && (inflightS (servedLong k n) m).isSome) = false := by
    refine List.any_eq_false.mpr fun m hm => ?_
    obtain ⟨j, hj, rfl⟩ := List.mem_map.mp hm
    have := List.mem_range.mp hj
    rw [hfree _ (by show 8 + j < 18; omega)]
    simp
  unfold stalls
  dsimp only
  rw [hrow]
  rfl

/-- What O49 says of that `schn` fails where scalar `n` reads its result early: the tile's value is not what it then reads. -/
theorem early_of_gearInstructions (h : Obligations.GearInstructions) (k : Nat) {n : Nat} (hn : 18 ≤ n) :
    Config.inflightNew k (8192 + n) = false := by
  unfold Obligations.GearInstructions at h
  obtain ⟨hschn, -⟩ := h
  by_contra hearly
  rw [Bool.not_eq_false] at hearly
  obtain ⟨u, hu, hserve⟩ := serve_servedLong k n
  obtain ⟨-, htile⟩ := hschn (servedLong k n) u 8 (longGrid n) (longGear n) _ (ready_servedLong k hn) ⟨rfl, rfl⟩ rfl hserve
  obtain ⟨t, -, -, ht, hrow⟩ := htile (longTile n) 0 0 rfl
  obtain ⟨-, huw, hutick, -⟩ := parts_of_mapStep hu
  have hin : inflightS t n = some 1 := by
    have hpend : t.w.pend = [resultDue n] := by
      rw [ht]
      exact congrArg Warp.pend huw
    rw [inflightS, hpend]
    exact if_pos rfl
  have htick : t.tick = k := by
    rw [ht]
    exact hutick
  have hread : readS t n = 1 := by
    unfold readS
    rw [if_neg (by omega), hin, htick]
    dsimp only
    rw [if_pos hearly]
  have hclaim := hrow n
  rw [hread, if_neg (by omega), if_pos (show (8 : BitVec 6).toNat ≤ n by show 8 ≤ n; omega)] at hclaim
  have hzero : ((longTile n).org.map (BitVec.ofNat 64) ++ (longTile n).ext.map (BitVec.ofNat 64) ++ [0, 0] :
      List W64)[n - (8 : BitVec 6).toNat]? = some 0 := by
    have hlt : n - 8 < n := by omega
    show ((List.replicate n 0).map (BitVec.ofNat 64) ++ [] ++ [0, 0] : List W64)[n - 8]? = some 0
    rw [List.append_nil, List.map_replicate, List.getElem?_append_left (by simpa using hlt), List.getElem?_replicate, if_pos hlt]
    rfl
  rw [hzero] at hclaim
  cases hclaim

/-- O49 holds exactly where the free value of log 11 lets no result in flight for a scalar from s18 on be read before it lands.
Its `schn` speaks of every queued tile, and a tile whose origin or extents have more than four coordinates writes scalars beyond
the ten that the instruction waits for; one of those with a result in flight reads as the free value says (`servedLong`). The rest
of O49 holds whatever the value is. As `Config.inflightNew` has no body, neither O49 nor its negation can be proved. -/
theorem gearInstructions_iff : Obligations.GearInstructions ↔ ∀ k n, 18 ≤ n → Config.inflightNew k (8192 + n) = false := by
  refine ⟨fun h k n hn => early_of_gearInstructions h k hn, fun hlate => ?_⟩
  unfold Obligations.GearInstructions
  refine ⟨?served, ?read, ?staged, ?shifted, ?done, ?handed⟩
  case served =>
    intro s u sd gr g v c h hgear hclaim hserve
    obtain ⟨hnone, htile⟩ := exec_schn_served h hgear hclaim hserve
    have hu := serve_mapStep hserve
    exact ⟨fun hv => exec_schn_exhausted h hu (hnone hv), fun tl buf prog hv => exec_schn_tile h hu hlate (htile tl buf prog hv)⟩
  case read =>
    intro s gr g sd hgear
    refine ⟨fun h => exec_schp_reads h hgear, fun idx h => ⟨fun hidx => ?_, fun hidx m u hm hstart =>
      exec_schq_counts h hgear hidx hm hstart⟩⟩
    obtain ⟨t, hexec, hpast, honly, hrow⟩ := exec_schq_reads h hgear hidx
    exact ⟨t, _, hexec, hpast, honly, hrow, gearReg_values gr (isUser s) g idx⟩
  case staged =>
    intro s gr g idx sa hgear h htuner hidx
    obtain ⟨t, g', hexec, hpast, honly, hframe, htile, hrecalls⟩ := exec_schs_stages h hgear htuner hidx
    exact ⟨t, g', hexec, hpast, honly, hframe, htile, hrecalls⟩
  case shifted =>
    intro s gr g hgear h htuner hcol hgood
    exact exec_schc_shifts h hgear htuner hcol hgood
  case done =>
    intro s v u gr g sa m tl hgear h hcol hm htl hstart hu
    obtain ⟨t, hexec, hpast, honly⟩ := exec_schd_marks h hgear hcol hm htl hstart hu
    refine ⟨t, hexec, hpast, fun hpick => ?_, fun e hpick => ?_⟩
    · rw [hpick] at honly
      exact honly
    · rw [hpick] at honly
      exact honly
  case handed =>
    intro s u v gr g sa sb sc m tl i cl hgear h hcol hm htl hstart
    have hexec := exec_schh_hands h hgear hcol hm htl hstart
    have hreached := (releaseAt_mapStep (started s)).trans (mapStart_mapStep hstart)
    refine ⟨fun hpick hhand => ?_, fun hpick hhand => ?_, fun e hpick hfields => ?_⟩
    · rw [handBack_fresh hpick hhand] at hexec
      exact retires_behind h ((hreached.trans (handOver_mapStep hhand)).trans (tileBack_mapStep ..)) rfl rfl hexec
    · rw [handBack_full hpick hhand] at hexec
      exact ⟨_, hexec, rfl⟩
    · rw [handBack_reused hpick hfields] at hexec
      exact retires_behind h (((((hreached.trans (mapStart_mapStep hfields)).trans (writeEntry_mapStep ..)).trans
        (moveGrains_mapStep ..)).trans (updGear_mapStep ..)).trans (tileBack_mapStep ..)) rfl rfl hexec

end Sys2Proof.Proofs
